-- ==== Sys2Proof/Word.lean ====
section
/-! DEFINITION. Word types of KRA-1 (spec/00 R2, spec/09 R233). -/

namespace Sys2Proof

/-- A byte of memory. -/
abbrev Byte := BitVec 8
/-- An instruction word, an accumulator word, a tile handle (R235, R100). -/
abbrev Word32 := BitVec 32
/-- A g register, a control register, an address (R233). -/
abbrev Word := BitVec 64
/-- A vector register (R210, R233). -/
abbrev VWord := BitVec 512

end Sys2Proof
end

