-- ==== Sys2Proof/Machine/Map.lean ====
section
/-! DEFINITION. Sparse maps by number in one canonical form: keys strictly rising, no entry equal to what an unlisted
key reads as. Memory is such a map of bytes (`Host.Cell`); registers, tiles, cores and clusters are kept the same way,
so that equal states are equal data. -/

namespace Sys2Proof.Machine

/-- A sparse map: keys strictly rising, default values not listed. -/
abbrev SMap (α : Type) := List (Nat × α)

/-- The value at key `k`; `dflt` where none is listed. -/
def mapGet {α : Type} (dflt : α) : SMap α → Nat → α
  | [], _ => dflt
  | (j, v) :: rest, k => if j = k then v else mapGet dflt rest k

/-- The map with `v` at key `k`; writing the default removes the entry. -/
def mapPut {α : Type} [DecidableEq α] (dflt : α) (m : SMap α) (k : Nat) (v : α) : SMap α :=
  match m with
  | [] => if v = dflt then [] else [(k, v)]
  | (j, w) :: rest =>
    if j < k then (j, w) :: mapPut dflt rest k v
    else if j = k then (if v = dflt then rest else (k, v) :: rest)
    else (if v = dflt then (j, w) :: rest else (k, v) :: (j, w) :: rest)

/-- Removes the entries of keys in [lo, lo + len): they read as the default. -/
def mapClear {α : Type} (m : SMap α) (lo len : Nat) : SMap α :=
  m.filter fun e => e.1 < lo || lo + len ≤ e.1

/-- The canonical form: keys rise from `lo`, and no entry is the default. -/
def mapWfFrom {α : Type} [DecidableEq α] (dflt : α) (lo : Nat) : SMap α → Bool
  | [] => true
  | (j, v) :: rest => decide (lo ≤ j) && decide (v ≠ dflt) && mapWfFrom dflt (j + 1) rest

/-- The canonical form of a sparse map. -/
def mapWf {α : Type} [DecidableEq α] (dflt : α) (m : SMap α) : Bool := mapWfFrom dflt 0 m

/-- Memory: bytes by unified address (see State.mem); an unlisted byte reads as zero (log 1). -/
abbrev Memory := List Host.Cell

/-- The canonical form of memory. -/
def Memory.wf (m : Memory) : Bool := mapWf (0 : Byte) m

/-- One byte of memory. -/
def readByte (m : Memory) (a : Nat) : Byte := mapGet 0 m a

/-- Memory with one byte replaced. -/
def writeByte (m : Memory) (a : Nat) (b : Byte) : Memory := mapPut 0 m a b

/-- `n` bytes from `a`, lowest address first. -/
def readList (m : Memory) (a : Nat) : Nat → List Byte
  | 0 => []
  | n + 1 => readByte m a :: readList m (a + 1) n

/-- Memory with the bytes `bs` written from `a` upward. -/
def writeList (m : Memory) (a : Nat) : List Byte → Memory
  | [] => m
  | b :: bs => writeList (writeByte m a b) (a + 1) bs

/-- The number whose little-endian bytes are `bs` (R2). -/
def leNat : List Byte → Nat
  | [] => 0
  | b :: bs => b.toNat + 256 * leNat bs

/-- The `n` little-endian bytes of `x` (R2). -/
def natLe (x : Nat) : Nat → List Byte
  | 0 => []
  | n + 1 => BitVec.ofNat 8 x :: natLe (x / 256) n

/-- The little-endian number of `n` bytes at `a`. -/
def readLe (m : Memory) (a n : Nat) : Nat := leNat (readList m a n)

/-- Memory with the low `n` bytes of `x` written little-endian at `a`. -/
def writeLe (m : Memory) (a n x : Nat) : Memory := writeList m a (natLe x n)

/-- Bits hi..lo of a number (R2). -/
def bits (x hi lo : Nat) : Nat := x / 2 ^ lo % 2 ^ (hi + 1 - lo)

/-- Bit n of a number (R2). -/
def bit (x n : Nat) : Bool := x / 2 ^ n % 2 == 1

/-- A Bool as 0 or 1. -/
def b2n (b : Bool) : Nat := if b then 1 else 0

end Sys2Proof.Machine
end

