-- ==== Sys2Proof/Config.lean ====
section
/-! DEFINITION. What an implementation fixes and the free values: opaque constants without a body, so that no
proof can see a value (notes/assumptions/7.md names each). -/

namespace Sys2Proof

/-- Cycles from the sending of transaction `id` to the event that ends it; the manual gives typical figures only
and guarantees none (spec/03, "Latency and bandwidth"). Log 3. -/
opaque Config.latency : Nat → Nat
/-- SLH-DSA-SHA2-192s signature of a byte string under the device identity key of R461. Log 6. -/
opaque Config.sign : List Byte → List Byte
/-- The identity public key of R461, from the fused secret and the digest of stage 1. Log 6. -/
opaque Config.identityKey : List Byte → List Byte
/-- The module serial number of R461. Log 6. -/
opaque Config.serial : List Byte
/-- The predictor's hash of the argument bytes, which R399 calls not architectural. Log 8. -/
opaque Config.argHash : List Byte → Nat
/-- The choice among outcomes a rule leaves open (R67 old or new entry, R152 old or new word): fresh at each draw
from State.free. Log 7. -/
opaque Config.choose : Nat → Nat
/-- A word whose value the manual leaves open, fresh at each draw from State.free. Log 7. -/
opaque Config.freeWord : Nat → Word
/-- The remote key that MRREG returns for the n-th registered region (R428). Log 6. -/
opaque Config.remoteKey : Nat → Nat

end Sys2Proof
end

