-- ==== Sys2Proof/Syntax.lean ====
section
/-! DEFINITION. The syntax: every row of spec/opcode_table.json is one constructor of `Instr`. The rows with an
encoding carry their fields (spec/09 R235-R245); the rows without one are the module's events, packets, requests
and link packets, with the operands the outside or the machine's own bookkeeping gives them (log 5). -/

namespace Sys2Proof

/-- Element types of R210, codes 0-7 in this order. -/
inductive ElemTy | i8 | i16 | i32 | i64 | bf16 | f16 | f32 | s8
  deriving DecidableEq, Repr

/-- Scopes of R128, R245, codes 0-5. -/
inductive Scope | thread | core | cluster | die | module | system
  deriving DecidableEq, Repr

/-- The sub codes 0-6 of LD (R240, R284). -/
inductive LdSize | b | h | w | d | bu | hu | wu
  deriving DecidableEq, Repr

/-- The sub codes 0-3 of ST and the SZ codes of LDX and STX (R240, R242). -/
inductive Size | b | h | w | d
  deriving DecidableEq, Repr

/-- Fence kinds 1-3 (R293). -/
inductive FenceKind | rel | acq | ar
  deriving DecidableEq, Repr

/-- Conditions of VFCMP (R320), codes 0-6. -/
inductive FCond | eq | ne | lt | le | gt | ge | un
  deriving DecidableEq, Repr

/-- Conditions of VCMP (R320), codes 0-5. -/
inductive ICond | eq | ne | lt | ge | ltu | geu
  deriving DecidableEq, Repr

/-- RR format with two sources. -/
structure Rrr where
  d : Fin 32
  a : Fin 32
  b : Fin 32
  qa : Bool
  qb : Bool
  deriving DecidableEq, Repr

/-- RR format with one source. -/
structure Rr where
  d : Fin 32
  a : Fin 32
  qa : Bool
  deriving DecidableEq, Repr

/-- RR format: sources only. -/
structure Rab where
  a : Fin 32
  b : Fin 32
  qa : Bool
  qb : Bool
  deriving DecidableEq, Repr

/-- RR format: one source only. -/
structure Ra where
  a : Fin 32
  qa : Bool
  deriving DecidableEq, Repr

/-- RI format (R261). -/
structure Ri where
  d : Fin 32
  a : Fin 32
  qa : Bool
  imm : BitVec 14
  deriving DecidableEq, Repr

/-- Immediate shifts (R262). -/
structure Rsh where
  d : Fin 32
  a : Fin 32
  qa : Bool
  sh : Fin 64
  deriving DecidableEq, Repr

/-- U format (R263-R268). -/
structure Ud where
  d : Fin 32
  imm : BitVec 20
  deriving DecidableEq, Repr

/-- B2 format (R266). -/
structure Br2 where
  a : Fin 32
  b : Fin 32
  qa : Bool
  qb : Bool
  disp : BitVec 10
  deriving DecidableEq, Repr

/-- BZ format (R267). -/
structure Brz where
  a : Fin 32
  qa : Bool
  disp : BitVec 16
  deriving DecidableEq, Repr

/-- CRWR, CRSET, CRCLR (R272): `cr` is the control-register number of R247. -/
structure CrW where
  d : Fin 32
  a : Fin 32
  qa : Bool
  cr : Fin 32
  deriving DecidableEq, Repr

/-- FSSET (R274). -/
structure FsW where
  d : Fin 32
  a : Fin 32
  qa : Bool
  fs : Fin 4
  deriving DecidableEq, Repr

/-- The memory operand of M format (R236, R249): segment, base, empty-source action, interleave, immediate. -/
structure MemOp where
  seg : Fin 8
  a : Fin 32
  qa : Bool
  il : Fin 4
  imm : BitVec 5
  deriving DecidableEq, Repr

/-- M-format store: data register and its empty-source action. -/
structure MSt where
  t : Fin 32
  qt : Bool
  mem : MemOp
  deriving DecidableEq, Repr

/-- M-format load: destination register. -/
structure MLd where
  t : Fin 32
  mem : MemOp
  deriving DecidableEq, Repr

/-- X-format memory operand (R242). -/
structure Xop where
  d : Fin 32
  a : Fin 32
  b : Fin 32
  seg : Fin 8
  il : Fin 4
  sc : Bool
  size : Size
  deriving DecidableEq, Repr

/-- VLDI and VSTI (R289). -/
structure Vix where
  d : Fin 32
  a : Fin 32
  m : Fin 8
  ty : ElemTy
  seg : Fin 8
  deriving DecidableEq, Repr

/-- A format (R241, R290). -/
structure Amo where
  d : Fin 32
  a : Fin 32
  b : Fin 32
  seg : Fin 8
  wd : Bool
  acq : Bool
  rel : Bool
  deriving DecidableEq, Repr

/-- Segment writes from two g registers (R297). -/
structure Sgw where
  sd : Fin 8
  a : Fin 32
  b : Fin 32
  qa : Bool
  qb : Bool
  deriving DecidableEq, Repr

/-- V format with two sources (R307). -/
structure V3 where
  d : Fin 32
  a : Fin 32
  b : Fin 32
  m : Fin 8
  ty : ElemTy
  deriving DecidableEq, Repr

/-- V format with one source. -/
structure V2 where
  d : Fin 32
  a : Fin 32
  m : Fin 8
  ty : ElemTy
  deriving DecidableEq, Repr

/-- VCVT (R321). -/
structure Vcvt where
  d : Fin 32
  a : Fin 32
  s : Fin 32
  m : Fin 8
  fs : Fin 4
  deriving DecidableEq, Repr

/-- VCVTI, VCVTF (R322): `u` selects the unsigned integer. -/
structure Vci where
  d : Fin 32
  a : Fin 32
  m : Fin 8
  ty : ElemTy
  u : Bool
  deriving DecidableEq, Repr

/-- MX format of MMA and MMAS (R352). -/
structure Mma where
  acc : Fin 4
  ringA : Fin 8
  ringB : Fin 8
  kc : Fin 32
  ty : ElemTy
  keepA : Bool
  keepB : Bool
  zi : Bool
  relc : Bool
  deriving DecidableEq, Repr

/-- MX format of MMAR and MMASR: the count is read from g29. -/
structure Mmar where
  acc : Fin 4
  ringA : Fin 8
  ringB : Fin 8
  ty : ElemTy
  keepA : Bool
  keepB : Bool
  zi : Bool
  relc : Bool
  deriving DecidableEq, Repr

/-- ACCOUT and ACCIN (R363). -/
structure AccV where
  acc : Fin 4
  g : Fin 32
  v : Fin 32
  ty : ElemTy
  deriving DecidableEq, Repr

/-- ACCLD and ACCST (R364). -/
structure AccM where
  acc : Fin 4
  seg : Fin 8
  g : Fin 32
  ty : ElemTy
  relc : Bool
  deriving DecidableEq, Repr

/-! Operands of the events. -/

/-- A translation miss key (R50, R51): ASID and VA[63:16]. -/
structure WalkKey where
  asid : Nat
  vpn : Nat
  deriving DecidableEq, Repr

/-- Who writes through a window (R28): a thread, the engines of a cluster on a thread's behalf, the collective
engine of a die for a partition, or the system. -/
inductive Writer
  | thread (thr : Nat)
  | engine (thr : Nat)
  | collective (die part : Nat)
  | system
  deriving DecidableEq, Repr

/-- A write that arrives at an on-chip address (R24): little-endian bytes from `addr`. -/
structure WinWrite where
  addr : Nat
  data : List Byte
  writer : Writer
  deriving DecidableEq, Repr

/-- The structures of R95, in the order of its table. -/
inductive EccStruct | hbm | memCache | clusterSide | sramSide | regFile | control | flit
  deriving DecidableEq, Repr

/-- Where an uncorrectable error falls (R95). -/
inductive EccLoc
  | hbmWord (pa : Nat)
  | memCacheClean (pa : Nat)
  | memCacheDirty (pa : Nat)
  | clusterCacheLine (cl pa : Nat)
  | icacheLine (core key : Nat)
  | clusterTlb (cl : Nat) (k : WalkKey)
  | dieTlb (die : Nat) (k : WalkKey)
  | walkCache (die : Nat)
  | onChipWord (addr : Nat)
  | shadow (addr : Nat)
  | gReg (thr : Nat) (n : Fin 32)
  | vReg (thr : Nat) (n : Fin 32)
  | mReg (thr : Nat) (n : Fin 8)
  | deque (core : Nat)
  | tileState (cl tile : Nat)
  | ring (core ring : Nat)
  | mailbox (thr : Nat)
  | joinCounter (cl n : Nat)
  deriving DecidableEq, Repr

/-- A partition record as PARTDEF carries it (R397). -/
structure PartRec where
  cmask : BitVec 256
  sasid : BitVec 12
  asids : List (BitVec 12)
  syscode0 : Word
  syscode1 : Word
  sysdata0 : Word
  sysdata1 : Word
  tvec : Word
  imgbase : Word
  ftime : Word32
  hwBase : Word
  hwLen : Word
  hwKey : Word
  hwQp : Word
  frbase : Word
  frlog2 : BitVec 8
  frprod : Word
  reserved : Bool
  deriving DecidableEq, Repr

/-- The addressing part of a management request (R426): the source and its SEQ. -/
structure Mgmt where
  src : Nat
  seq : Word
  deriving DecidableEq, Repr

/-- A checkpoint destination or source (R428): a host region or a gateway module and link. -/
inductive Stream
  | host (off key : Word)
  | gateway (modid : BitVec 16) (link : Fin 8)
  deriving DecidableEq, Repr

/-- An Azrum packet (R432): the link it arrives on, its two header words and the bytes of its data flits. -/
structure AzPkt where
  link : Fin 8
  w0 : Word
  w1 : Word
  data : List Byte
  deriving DecidableEq, Repr

/-- What one die's boot ROM and stage 1 find (R457): the images in flash and the outcome of each verification and
of training. -/
structure BootIn where
  die : Fin 4
  stage1 : List Byte
  images : List (List Byte)
  okStage1 : Bool
  okImages : List Bool
  okTrain : Bool
  controllers : List Nat
  deriving DecidableEq, Repr

/-- The instructions and events of the machine: one constructor per row of spec/opcode_table.json, in the table's
order. -/
inductive Instr where
  /-- ADD (R260): Writes g[a] + g[b] to g[d]. -/
  | add (o : Rrr)
  /-- SUB (R260): Writes g[a] - g[b] to g[d]. -/
  | sub (o : Rrr)
  /-- AND (R260): Writes the bitwise AND of g[a] and g[b] to g[d]. -/
  | and (o : Rrr)
  /-- OR (R260): Writes the bitwise OR of g[a] and g[b] to g[d]. -/
  | or (o : Rrr)
  /-- XOR (R260): Writes the bitwise XOR of g[a] and g[b] to g[d]. -/
  | xor (o : Rrr)
  /-- ANDN (R260): Writes g[a] AND NOT g[b] to g[d]. -/
  | andn (o : Rrr)
  /-- ORN (R260): Writes g[a] OR NOT g[b] to g[d]. -/
  | orn (o : Rrr)
  /-- SLL (R260): Shifts g[a] left by b[5:0]. -/
  | sll (o : Rrr)
  /-- SRL (R260): Shifts g[a] right logically by b[5:0]. -/
  | srl (o : Rrr)
  /-- SRA (R260): Shifts g[a] right arithmetically by b[5:0]. -/
  | sra (o : Rrr)
  /-- ROL (R260): Rotates g[a] left by b[5:0]. -/
  | rol (o : Rrr)
  /-- ROR (R260): Rotates g[a] right by b[5:0]. -/
  | ror (o : Rrr)
  /-- SLT (R260): Writes 1 if g[a] is less than g[b] as signed values, else 0. -/
  | slt (o : Rrr)
  /-- SLTU (R260): Writes 1 if g[a] is less than g[b] as unsigned values, else 0. -/
  | sltu (o : Rrr)
  /-- MIN (R260): Writes the signed minimum of g[a] and g[b]. -/
  | min (o : Rrr)
  /-- MAX (R260): Writes the signed maximum of g[a] and g[b]. -/
  | max (o : Rrr)
  /-- MINU (R260): Writes the unsigned minimum of g[a] and g[b]. -/
  | minu (o : Rrr)
  /-- MAXU (R260): Writes the unsigned maximum of g[a] and g[b]. -/
  | maxu (o : Rrr)
  /-- MUL (R260): Writes the low 64 bits of the product of g[a] and g[b]. -/
  | mul (o : Rrr)
  /-- MULH (R260): Writes the high 64 bits of the signed-by-signed product. -/
  | mulh (o : Rrr)
  /-- MULHU (R260): Writes the high 64 bits of the unsigned-by-unsigned product. -/
  | mulhu (o : Rrr)
  /-- MULHMX (R260): Writes the high 64 bits of the signed-by-unsigned product. -/
  | mulhmx (o : Rrr)
  /-- DIV (R212): Signed division truncated towards zero, with the fixed corner cases. -/
  | div (o : Rrr)
  /-- DIVU (R212): Unsigned division; a divisor of 0 gives all ones. -/
  | divu (o : Rrr)
  /-- REM (R212): Signed remainder, taking the sign of the dividend. -/
  | rem (o : Rrr)
  /-- REMU (R212): Unsigned remainder; a divisor of 0 gives the dividend. -/
  | remu (o : Rrr)
  /-- CLZ (R260): Counts the leading zero bits of g[a]. -/
  | clz (o : Rr)
  /-- CTZ (R260): Counts the trailing zero bits of g[a]. -/
  | ctz (o : Rr)
  /-- POPC (R260): Counts the one bits of g[a]. -/
  | popc (o : Rr)
  /-- BSWAP (R260): Reverses the byte order of g[a]. -/
  | bswap (o : Rr)
  /-- SEXTB (R260): Sign-extends the low byte of g[a]. -/
  | sextb (o : Rr)
  /-- SEXTH (R260): Sign-extends the low 16 bits of g[a]. -/
  | sexth (o : Rr)
  /-- SEXTW (R260): Sign-extends the low 32 bits of g[a]. -/
  | sextw (o : Rr)
  /-- ZEXTW (R260): Zero-extends the low 32 bits of g[a]. -/
  | zextw (o : Rr)
  /-- ADDW (R260): 32-bit add, with the result sign-extended to 64 bits. -/
  | addw (o : Rrr)
  /-- SUBW (R260): 32-bit subtract, with the result sign-extended to 64 bits. -/
  | subw (o : Rrr)
  /-- ADDI (R261): Adds the sign-extended 14-bit immediate to g[a]. -/
  | addi (o : Ri)
  /-- ANDI (R261): ANDs g[a] with the sign-extended immediate. -/
  | andi (o : Ri)
  /-- ORI (R261): ORs g[a] with the sign-extended immediate. -/
  | ori (o : Ri)
  /-- XORI (R261): XORs g[a] with the sign-extended immediate. -/
  | xori (o : Ri)
  /-- SLTI (R261): Signed compare of g[a] with the immediate. -/
  | slti (o : Ri)
  /-- SLTIU (R261): Unsigned compare of g[a] with the sign-extended immediate. -/
  | sltiu (o : Ri)
  /-- ADDIW (R261): 32-bit add of the immediate, with the result sign-extended. -/
  | addiw (o : Ri)
  /-- SLLI (R262): Shifts g[a] left by an immediate amount. -/
  | slli (o : Rsh)
  /-- SRLI (R262): Shifts g[a] right logically by an immediate amount. -/
  | srli (o : Rsh)
  /-- SRAI (R262): Shifts g[a] right arithmetically by an immediate amount. -/
  | srai (o : Rsh)
  /-- RORI (R262): Rotates g[a] right by an immediate amount. -/
  | rori (o : Rsh)
  /-- LIH (R263): Loads the sign-extended imm20 times 4096. -/
  | lih (o : Ud)
  /-- PCBLK (R264): Computes an sg0 offset in whole 8 KiB blocks from the PC's block. -/
  | pcblk (o : Ud)
  /-- LDPC (R265): Long-latency read of an 8-byte literal through sg0 (SYSCODE in system mode). -/
  | ldpc (o : Ud)
  /-- BEQ (R266): Branches if g[a] == g[b]. -/
  | beq (o : Br2)
  /-- BNE (R266): Branches if g[a] != g[b]. -/
  | bne (o : Br2)
  /-- BLT (R266): Branches on signed less-than. -/
  | blt (o : Br2)
  /-- BGE (R266): Branches on signed greater-or-equal. -/
  | bge (o : Br2)
  /-- BLTU (R266): Branches on unsigned less-than. -/
  | bltu (o : Br2)
  /-- BGEU (R266): Branches on unsigned greater-or-equal. -/
  | bgeu (o : Br2)
  /-- BEQZ (R267): Branches if g[a] == 0. -/
  | beqz (o : Brz)
  /-- BNEZ (R267): Branches if g[a] != 0. -/
  | bnez (o : Brz)
  /-- BLTZ (R267): Branches if g[a] < 0. -/
  | bltz (o : Brz)
  /-- BGEZ (R267): Branches if g[a] >= 0. -/
  | bgez (o : Brz)
  /-- BGTZ (R267): Branches if g[a] > 0. -/
  | bgtz (o : Brz)
  /-- BLEZ (R267): Branches if g[a] <= 0. -/
  | blez (o : Brz)
  /-- JAL (R268): Links PC + 4 into g[d] and jumps by a word displacement. -/
  | jal (o : Ud)
  /-- JALR (R269): Jumps to g[a] + imm, trapping on a misaligned target, and links into g[d]. -/
  | jalr (o : Ri)
  /-- SKIP (R270): Continues execution n + 1 words ahead. -/
  | skip (n : BitVec 20)
  /-- NOP (R279): The canonical no-op word. -/
  | nop
  /-- HINT (R246): Any other word of major 0x7F executes as a no-op. -/
  | hint (bits : BitVec 25)
  /-- CRRD (R272): Reads a control register into g[d]. -/
  | crrd (d : Fin 32) (cr : Fin 32)
  /-- CRWR (R272): Writes g[a] to a control register and returns the old value. -/
  | crwr (o : CrW)
  /-- CRSET (R272): ORs g[a] into a control register and returns the old value. -/
  | crset (o : CrW)
  /-- CRCLR (R272): Clears the bits of g[a] in a control register and returns the old value. -/
  | crclr (o : CrW)
  /-- FSSET (R274): Checks g[a] and writes it as a format descriptor, returning the old one. -/
  | fsset (o : FsW)
  /-- FSRD (R274): Reads a format descriptor into g[d]. -/
  | fsrd (d : Fin 32) (fs : Fin 4)
  /-- TRAP (R275): Takes an exact software trap with tval = g[a]. -/
  | trap (o : Ra)
  /-- TRET (R276): Returns from a handler to tpc in the saved mode and clears INH. -/
  | tret
  /-- HALT (R277): Puts the slot in HALTED and sends a halted-slot event. -/
  | halt
  /-- BREAK (R278): Records a breakpoint trap state and halts the slot without entering a handler. -/
  | break (o : Ra)
  /-- DEFERRED_TRAP (R60): At the slot's next phase, takes the held deferred trap, abandoning any waiting instruction. -/
  | deferredTrap (thr : Nat)
  /-- LD (R284): Scalar load of 1, 2, 4 or 8 bytes, sign- or zero-extended, in the pipeline or long-latency. -/
  | ld (size : LdSize) (o : MLd)
  /-- ST (R285): Scalar store of 1, 2, 4 or 8 bytes through the pipeline port or the store buffer. -/
  | st (size : Size) (o : MSt)
  /-- LDX (R286): Indexed load with offset g[a] + g[b], optionally scaled. -/
  | ldx (u : Bool) (o : Xop)
  /-- STX (R286): Indexed store with offset g[a] + g[b], optionally scaled. -/
  | stx (o : Xop)
  /-- LDF (R287): Waits for the granule to be FULL, then reads 8 bytes and acquires. -/
  | ldf (o : MLd)
  /-- LDE (R287): Waits for FULL, reads 8 bytes and sets the granule EMPTY. -/
  | lde (o : MLd)
  /-- STF (R287): Writes 8 bytes and sets the granule FULL, with a release. -/
  | stf (o : MSt)
  /-- SETE (R287): Sets a granule EMPTY. -/
  | sete (o : MemOp)
  /-- SETF (R287): Sets a granule FULL without changing its data, with a release. -/
  | setf (o : MemOp)
  /-- TSTF (R287): Returns the granule's FULL state without waiting. -/
  | tstf (o : MLd)
  /-- VLD (R288): Loads 64 bytes into a vector register. -/
  | vld (o : MLd)
  /-- VST (R288): Stores a vector register's 64 bytes. -/
  | vst (o : MSt)
  /-- VLDF (R288): Vector load after all four granules are FULL. -/
  | vldf (o : MLd)
  /-- VLDE (R288): Vector load after all four granules are FULL, then sets them EMPTY. -/
  | vlde (o : MLd)
  /-- VSTF (R288): Vector store that sets all four granules FULL, with a release. -/
  | vstf (o : MSt)
  /-- VLDB (R288): Loads 8 bytes into every 64-bit lane. -/
  | vldb (o : MLd)
  /-- VLDI (R289): Indexed vector gather of masked lanes, checked wholly before any access. -/
  | vldi (o : Vix)
  /-- VSTI (R289): Indexed vector scatter of masked lanes in ascending lane order. -/
  | vsti (o : Vix)
  /-- AMOADD (R290): Atomic add at the location's home. -/
  | amoadd (o : Amo)
  /-- AMOAND (R290): Atomic AND at the home. -/
  | amoand (o : Amo)
  /-- AMOOR (R290): Atomic OR at the home. -/
  | amoor (o : Amo)
  /-- AMOXOR (R290): Atomic XOR at the home. -/
  | amoxor (o : Amo)
  /-- AMOMIN (R290): Atomic signed minimum at the home. -/
  | amomin (o : Amo)
  /-- AMOMAX (R290): Atomic signed maximum at the home. -/
  | amomax (o : Amo)
  /-- AMOMINU (R290): Atomic unsigned minimum at the home. -/
  | amominu (o : Amo)
  /-- AMOMAXU (R290): Atomic unsigned maximum at the home. -/
  | amomaxu (o : Amo)
  /-- AMOSWP (R290): Atomic swap at the home. -/
  | amoswp (o : Amo)
  /-- AMOCAS (R290): Atomic compare-and-swap against g[d] at the home. -/
  | amocas (o : Amo)
  /-- FENCE (R141): Release, acquire or both at the named scope. -/
  | fence (kind : FenceKind) (scope : Scope)
  /-- FENCER (R294): Acquire at die scope or wider over one global range, invalidating its cluster-cache lines. -/
  | fencer (scope : Scope) (o : Rab)
  /-- ISYNC (R295): Invalidates the core's whole instruction cache. -/
  | isync
  /-- DRAIN (R143): Waits until every earlier load, store and atomic of the thread is complete. -/
  | drain
  /-- SGSET (R298): System-mode load of a segment register from two g registers. -/
  | sgset (o : Sgw)
  /-- SGNARROW (R299): Derives a narrowed descriptor with SEL = 0xFF, or faults. -/
  | sgnarrow (o : Sgw)
  /-- SGRD (R300): Reads one word of a segment descriptor into g[d]. -/
  | sgrd (d : Fin 32) (sg : Fin 8) (w : Bool)
  /-- SGCPY (R300): Copies a whole segment descriptor, SEL included. -/
  | sgcpy (sd : Fin 8) (sg : Fin 8)
  /-- MSEND (R302): Releases at the pair scope and sends a message to a slot's mailbox. -/
  | msend (o : Rab)
  /-- MSENDT (R302): Sends a tagged message. -/
  | msendt (o : Rab)
  /-- MRECV (R303): Takes the oldest matching message with an acquire, or leaves a receive pending. -/
  | mrecv (d : Fin 32)
  /-- MRECVT (R303): Receives the oldest message that matches a tag. -/
  | mrecvt (o : Rr)
  /-- WAITM (R304): Long-latency wait until at least n matching messages stand in the mailbox. -/
  | waitm (o : Rr)
  /-- MCNT (R304): Returns the number of matching messages at once. -/
  | mcnt (d : Fin 32)
  /-- VADD (R314): Lane-wise integer add. -/
  | vadd (o : V3)
  /-- VSUB (R314): Lane-wise integer subtract. -/
  | vsub (o : V3)
  /-- VMUL (R314): Lane-wise integer multiply, low half. -/
  | vmul (o : V3)
  /-- VMULH (R314): Lane-wise signed multiply, high half. -/
  | vmulh (o : V3)
  /-- VMIN (R314): Lane-wise signed minimum. -/
  | vmin (o : V3)
  /-- VMAX (R314): Lane-wise signed maximum. -/
  | vmax (o : V3)
  /-- VMINU (R314): Lane-wise unsigned minimum. -/
  | vminu (o : V3)
  /-- VMAXU (R314): Lane-wise unsigned maximum. -/
  | vmaxu (o : V3)
  /-- VABS (R314): Lane-wise absolute value. -/
  | vabs (o : V2)
  /-- VNEG (R314): Lane-wise negation. -/
  | vneg (o : V2)
  /-- VADDS (R314): Lane-wise saturating signed add. -/
  | vadds (o : V3)
  /-- VSUBS (R314): Lane-wise saturating signed subtract. -/
  | vsubs (o : V3)
  /-- VAND (R315): Lane-wise AND. -/
  | vand (o : V3)
  /-- VOR (R315): Lane-wise OR. -/
  | vor (o : V3)
  /-- VXOR (R315): Lane-wise XOR. -/
  | vxor (o : V3)
  /-- VANDN (R315): Lane-wise AND-NOT. -/
  | vandn (o : V3)
  /-- VSLL (R315): Lane-wise left shift. -/
  | vsll (o : V3)
  /-- VSRL (R315): Lane-wise logical right shift. -/
  | vsrl (o : V3)
  /-- VSRA (R315): Lane-wise arithmetic right shift. -/
  | vsra (o : V3)
  /-- VFADD (R316): Lane-wise correctly rounded float add. -/
  | vfadd (o : V3)
  /-- VFSUB (R316): Lane-wise float subtract. -/
  | vfsub (o : V3)
  /-- VFMUL (R316): Lane-wise float multiply. -/
  | vfmul (o : V3)
  /-- VFDIV (R316): Lane-wise float divide. -/
  | vfdiv (o : V3)
  /-- VFMIN (R317): Lane-wise float minimum, with -0 ordered below +0. -/
  | vfmin (o : V3)
  /-- VFMAX (R317): Lane-wise float maximum. -/
  | vfmax (o : V3)
  /-- VFABS (R316): Clears the sign bit of each lane. -/
  | vfabs (o : V2)
  /-- VFNEG (R316): Flips the sign bit of each lane. -/
  | vfneg (o : V2)
  /-- VFSQRT (R316): Lane-wise correctly rounded square root. -/
  | vfsqrt (o : V2)
  /-- VRCP (R316): Lane-wise correctly rounded reciprocal. -/
  | vrcp (o : V2)
  /-- VRSQ (R316): Lane-wise correctly rounded reciprocal square root. -/
  | vrsq (o : V2)
  /-- VEXP2 (R316): Lane-wise correctly rounded 2^a. -/
  | vexp2 (o : V2)
  /-- VFMA (R318): Fused a*b + d per lane. -/
  | vfma (o : V3)
  /-- VFMS (R318): Fused a*b - d per lane. -/
  | vfms (o : V3)
  /-- VFNMA (R318): Fused d - a*b per lane. -/
  | vfnma (o : V3)
  /-- VDOT (R319): Exact dot product of narrow elements accumulated into 32-bit lanes. -/
  | vdot (o : V3)
  /-- VCMP (R320): Integer lane compare into a mask register. -/
  | vcmp (c : ICond) (o : V3)
  /-- VFCMP (R320): Float lane compare into a mask register. -/
  | vfcmp (c : FCond) (o : V3)
  /-- VCVT (R321): Converts lanes as a format descriptor directs, with scales and stochastic rounding. -/
  | vcvt (o : Vcvt)
  /-- VCVTI (R322): Float to integer of the same width. -/
  | vcvti (o : Vci)
  /-- VCVTF (R322): Integer to float of the same width. -/
  | vcvtf (o : Vci)
  /-- VPACK (R323): Narrows two registers into one. -/
  | vpack (d : Fin 32) (a : Fin 32) (b : Fin 32) (ty : ElemTy) (u : Bool)
  /-- VUNPK (R323): Widens half of a register. -/
  | vunpk (d : Fin 32) (a : Fin 32) (ty : ElemTy) (hi : Bool)
  /-- VREDADD (R325): Tree sum of the active integer lanes into lane 0. -/
  | vredadd (o : V2)
  /-- VFREDADD (R325): Tree float sum of the active lanes in f32. -/
  | vfredadd (o : V2)
  /-- VREDMIN (R325): Tree signed minimum of the active lanes. -/
  | vredmin (o : V2)
  /-- VREDMAX (R325): Tree signed maximum of the active lanes. -/
  | vredmax (o : V2)
  /-- VFREDMAX (R325): Tree float maximum of the active lanes. -/
  | vfredmax (o : V2)
  /-- VBCST (R326): Broadcasts g[a] into the active lanes. -/
  | vbcst (o : V2)
  /-- VSHUF (R326): Permutes lanes by indices taken from vb. -/
  | vshuf (o : V3)
  /-- VSLIDE (R326): Slides lanes by a signed amount held in g[b]. -/
  | vslide (o : V3)
  /-- VZIP (R326): Interleaves the lanes of two registers. -/
  | vzip (o : V3)
  /-- VUNZIP (R326): De-interleaves the even lanes of two registers. -/
  | vunzip (o : V3)
  /-- VEXT (R326): Extracts one lane into g[d]. -/
  | vext (d : Fin 32) (a : Fin 32) (b : Fin 32) (ty : ElemTy)
  /-- VINS (R326): Inserts g[a] into one lane. -/
  | vins (d : Fin 32) (a : Fin 32) (b : Fin 32) (ty : ElemTy)
  /-- MAND (R327): ANDs two mask registers. -/
  | mand (d : Fin 8) (a : Fin 8) (b : Fin 8)
  /-- MOR (R327): ORs two mask registers. -/
  | mor (d : Fin 8) (a : Fin 8) (b : Fin 8)
  /-- MXOR (R327): XORs two mask registers. -/
  | mxor (d : Fin 8) (a : Fin 8) (b : Fin 8)
  /-- MNOT (R327): Inverts a mask register. -/
  | mnot (d : Fin 8) (a : Fin 8)
  /-- MPOPC (R327): Counts the set mask bits below L. -/
  | mpopc (d : Fin 32) (a : Fin 8) (m : Fin 8) (ty : ElemTy)
  /-- MFFS (R327): Finds the lowest set mask bit below L. -/
  | mffs (d : Fin 32) (a : Fin 8) (m : Fin 8) (ty : ElemTy)
  /-- MSET (R327): Moves g[a] into a mask register. -/
  | mset (d : Fin 8) (a : Fin 32)
  /-- MGET (R327): Moves a mask register into g[d]. -/
  | mget (d : Fin 32) (a : Fin 8)
  /-- VSEL (R327): Selects each lane from va or vb by mask. -/
  | vsel (o : V3)
  /-- VMOV (R327): Copies the active lanes. -/
  | vmov (o : V2)
  /-- JNEW (R333): Allocates the lowest free join counter of the cluster. -/
  | jnew (d : Fin 32)
  /-- JFREE (R333): Frees a join counter, or ends the launch with a join-state error. -/
  | jfree (o : Ra)
  /-- SPAWN (R335): Releases, increments the counter, writes the header, pushes the continuation and jumps to the child. -/
  | spawn (o : Rr)
  /-- SPAWNR (R336): Pushes a range entry of ordinals for a per-id routine. -/
  | spawnr (o : Rrr)
  /-- RETJ (R337): Reclaims the continuation in place, or releases, decrements and goes IDLE, or retires the root. -/
  | retj (o : Ra)
  /-- SYNC (R338): Tests the frame's counter and continues with an acquire, or parks the frame. -/
  | sync
  /-- PUBLISH (R334): Binds a frame and a counter to the task record and writes the header JCA. -/
  | publish (o : Rab)
  /-- RTAKE (R341): Takes up to n ordinals from the youngest range entry of the task's frame. -/
  | rtake (o : Rr)
  /-- YIELD (R339): Pushes the continuation at the deque head and goes IDLE. -/
  | yield
  /-- IDLE (R340): Ends the task without a release or a counter change. -/
  | idle
  /-- WIDF (R342): Computes the work id of an ordinal. -/
  | widf (o : Rr)
  /-- TALLOC (R343): Allocates a tile with a read count, queueing if not granted at once. -/
  | talloc (o : Rr)
  /-- TALLOCN (R343): Allocates a tile without queueing, returning 0 if not granted at once. -/
  | tallocn (o : Rr)
  /-- TINC (R344): Raises a tile's read count by k at its cluster. -/
  | tinc (o : Rab)
  /-- TDROP (R344): Issues one consuming drop, held until earlier loads return and a release completes. -/
  | tdrop (o : Ra)
  /-- TFREE (R344): Frees a PERSISTENT tile. -/
  | tfree (o : Ra)
  /-- TCNT (R345): Long-latency read of a tile's COUNT. -/
  | tcnt (o : Rr)
  /-- TADDR (R345): Long-latency read of a tile's on-chip data address. -/
  | taddr (o : Rr)
  /-- RPUSH (R347): Releases at cluster scope and pushes a handle onto a ring of the core. -/
  | rpush (ring : Fin 8) (o : Ra)
  /-- RPOP (R347): Pops a ring head with a cluster-scope acquire. -/
  | rpop (d : Fin 32) (ring : Fin 8)
  /-- RPEEK (R347): Reads a ring head without removing it. -/
  | rpeek (d : Fin 32) (ring : Fin 8)
  /-- RCNT (R347): Reads the number of handles in a ring. -/
  | rcnt (d : Fin 32) (ring : Fin 8)
  /-- MMA (R355): Queues a matrix multiply-accumulate over kc K-tiles taken from two rings. -/
  | mma (o : Mma)
  /-- MMAR (R353): MMA with the K-tile count read from g29. -/
  | mmar (o : Mmar)
  /-- MMAS (R355): Scaled MMA using the tile sideband scales. -/
  | mmas (o : Mma)
  /-- MMASR (R353): Scaled MMA with the count read from g29. -/
  | mmasr (o : Mmar)
  /-- ACCZ (R362): Queues zeroing of an accumulator. -/
  | accz (acc : Fin 4) (relc : Bool)
  /-- ACCOUT (R363): Long-latency move of an accumulator row piece to a vector register. -/
  | accout (o : AccV)
  /-- ACCIN (R363): Writes a vector register into an accumulator row piece. -/
  | accin (o : AccV)
  /-- ACCLD (R364): Queues a load of a whole accumulator from memory. -/
  | accld (o : AccM)
  /-- ACCST (R364): Queues a store of a whole accumulator to memory. -/
  | accst (o : AccM)
  /-- MQWAIT (R365): Waits until the slot's incomplete relc commands number at most n. -/
  | mqwait (d : Fin 32) (n : Fin 16)
  /-- MQCNT (R365): Reads the slot's and the queue's command counts. -/
  | mqcnt (d : Fin 32)
  /-- COPYQ (R370): Enqueues a block copy or fill request, reissuing while the FIFO is full. -/
  | copyq (o : Ra)
  /-- COPYQT (R366): Tries to enqueue a block copy request, writing 1 or 0. -/
  | copyqt (o : Rr)
  /-- GATHQ (R371): Enqueues an indirect gather, scatter, scatter-add or code-table load. -/
  | gathq (o : Ra)
  /-- GATHQT (R366): Tries to enqueue an indirect request, writing 1 or 0. -/
  | gathqt (o : Rr)
  /-- COLLQ (R374): Pushes a collective plan command to the die's collective engine. -/
  | collq (o : Rab)
  /-- DONATE (R441): Pushes a donation record to the collective engine. -/
  | donate (o : Rab)
  /-- BBWAIT (R375): Waits for a byte barrier to reach zero, then acquires at module scope. -/
  | bbwait (o : Rr)
  /-- LOAD_COMPLETION (R26): A long-latency result arrives and fills its register, waking the slot. -/
  | loadCompletion (id : Nat)
  /-- STORE_BUFFER_DRAIN (R77): A store-buffer entry drains to the cluster when full, after 64 idle cycles, for room, or for a release. -/
  | storeBufferDrain (core : Nat) (entry : Nat)
  /-- STORE_ACKNOWLEDGEMENT (R78): The home acknowledges a store or atomic and sbcnt falls. -/
  | storeAcknowledgement (id : Nat)
  /-- WINDOW_WRITE (R24): A write reaches a register window, sets the register FULL and wakes a waiting slot. -/
  | windowWrite (w : WinWrite)
  /-- ADMIT_WRITE (R32): A system store to ADMIT takes effect for later-arriving writes. -/
  | admitWrite (core : Nat) (value : Word)
  /-- SEGMENT_TABLE_READ (R10): The read of a segment-table entry for a dispatched slot completes and loads the register. -/
  | segmentTableRead (id : Nat)
  /-- REMOTE_WAIT_RETRY (R74): A refused remote waiting read is resent after 64 cycles. -/
  | remoteWaitRetry (id : Nat)
  /-- CLUSTER_CACHE_FILL (R81): A line fill arrives at the cluster cache and is installed unless invalidated meanwhile. -/
  | clusterCacheFill (cl : Nat) (line : Nat)
  /-- ICACHE_FILL (R90): An instruction-cache fill arrives and the fetching slot returns to rotation. -/
  | icacheFill (core : Nat) (key : Nat)
  /-- RELEASE_COMPLETION (R136): A waiting release completes once its acknowledgements are in and the slot continues. -/
  | releaseCompletion (thr : Nat)
  /-- WALK_START (R51): The die starts a walk for an open miss entry when a walker frees. -/
  | walkStart (die : Nat) (k : WalkKey)
  /-- WALK_COMPLETION (R49): A walk ends, installing a leaf with A/D set, or recording a fault for its attached accesses. -/
  | walkCompletion (die : Nat) (k : WalkKey)
  /-- FAULT_RECORD_APPEND (R57): A held record is appended to the fault ring by RDMA and PROD is written. -/
  | faultRecordAppend (die : Nat) (part : Nat)
  /-- FAULT_RESOLUTION_WRITE (R56): The host writes a resolution word, replaying or rejecting every attached access. -/
  | faultResolutionWrite (die : Nat) (word : Word)
  /-- FAULT_CONS_WRITE (R57): The host writes its consumer count for a partition's sub-ring. -/
  | faultConsWrite (die : Nat) (part : Nat) (value : Word)
  /-- FAULT_TIMEOUT (R58): An unresolved record whose timeout expires is rejected. -/
  | faultTimeout (die : Nat) (seq : Nat)
  /-- POISON_COMPLETION (R60): An access completes with poison, zeroing its destination and arming a deferred trap. -/
  | poisonCompletion (id : Nat)
  /-- JOIN_COUNTER_INCREMENT (R84): An increment of COUNT is performed atomically at the counter's home. -/
  | joinCounterIncrement (id : Nat)
  /-- JOIN_COUNTER_DECREMENT (R84): A decrement is performed at the home; at zero with PARKED it pushes the resume entry. -/
  | joinCounterDecrement (id : Nat)
  /-- SYNC_TEST (R195): The counter's home answers a SYNC test, and the slot acquires and continues or parks. -/
  | syncTest (id : Nat)
  /-- BYTE_BARRIER_SUBTRACT (R86): Subtracts an amount from PEND, setting UNDER on excess and releasing waiters at zero. -/
  | byteBarrierSubtract (addr : Nat) (amount : Nat)
  /-- BBWAIT_RETRY (R375): A BBWAIT refused by a full wait table is resent after 64 cycles. -/
  | bbwaitRetry (id : Nat)
  /-- ECC_CORRECTABLE_ERROR (R95): A correctable error is corrected and counted. -/
  | eccCorrectableError (die : Nat) (st : EccStruct)
  /-- ECC_UNCORRECTABLE_ERROR (R95): An uncorrectable error poisons a word, invalidates an entry, traps or ends the owning launches. -/
  | eccUncorrectableError (die : Nat) (loc : EccLoc)
  /-- PATROL_SCRUB (R95): Patrol scrub rewrites every populated HBM word every 24 hours. -/
  | patrolScrub (die : Nat)
  /-- FLIT_CRC_ERROR (R95): A mesh or die-to-die flit with a CRC error is resent. -/
  | flitCrcError (die : Nat) (net : Fin 4) (link : Nat)
  /-- NETWORK_STARVATION_GRANT (R98): A network refused for 64 consecutive cycles at a link is granted next. -/
  | networkStarvationGrant (die : Nat) (net : Fin 4) (link : Nat)
  /-- ALLOCATION_GRANT (R106): A free or a pool write causes a scan of the allocation queue that grants eligible requests. -/
  | allocationGrant (cl : Nat)
  /-- ZERO_FILL_DONE (R109): A tile's zero-fill finishes and its handle is delivered. -/
  | zeroFillDone (id : Nat)
  /-- TILE_DROP_ARRIVAL (R103): A drop reaches the tile's cluster and lowers COUNT, freeing the tile or faulting. -/
  | tileDropArrival (id : Nat)
  /-- TILE_INC_ARRIVAL (R103): A TINC reaches the tile's cluster. -/
  | tileIncArrival (id : Nat)
  /-- TILE_FREE_ARRIVAL (R103): A TFREE reaches the tile's cluster. -/
  | tileFreeArrival (id : Nat)
  /-- TDROP_SEND (R344): A held TDROP is sent once earlier loads have returned and its release has completed. -/
  | tdropSend (id : Nat)
  /-- DEFERRED_TILE_FREE (R111): A tile held at COUNT 0 is freed when USE reaches zero. -/
  | deferredTileFree (cl : Nat) (tile : Nat)
  /-- POOLP_WRITE (R104): A system store to POOLP sets SET, CAP and RES, clamping RES, and rescans the queue. -/
  | poolpWrite (cl : Nat) (p : Fin 8) (value : Word)
  /-- POOLSTALL_WRITE (R126): Sets the pool-stall interval, or disables it with 0. -/
  | poolstallWrite (cl : Nat) (value : Word)
  /-- POOL_STALL_EVENT (R126): After POOLSTALL cycles without a grant or free, the cluster reports a pool stall. -/
  | poolStallEvent (cl : Nat) (p : Fin 8)
  /-- SPECULATION_START (R400): The predictor starts a speculation, writing the root frame to dry-fit lines and arming the watchers. -/
  | speculationStart (q : Nat)
  /-- WATCHED_WRITE (R169): A foreign write that overlaps a speculation's extents discards it with cause 1. -/
  | watchedWrite (pa : Nat) (len : Nat)
  /-- SPECULATION_DISCARD (R174): Stops the speculation's slots, drops its work, restores undo records and updates the counters. -/
  | speculationDiscard (sid : Fin 4) (cause : Nat)
  /-- CLAIM_REPLY (R176): A watcher closes its extents and replies clean or conflict to a claim request. -/
  | claimReply (sid : Fin 4) (die : Fin 4)
  /-- SPECULATION_MERGE (R178): A claimed speculation's dry-fit lines are merged into memory, line by line. -/
  | speculationMerge (sid : Fin 4)
  /-- DISPATCH (R192): An IDLE slot takes the youngest permitted deque entry and enters DISPATCHING. -/
  | dispatch (core : Nat)
  /-- HEADER_ARRIVAL (R205): The frame header arrives, the slot state is set up, and the slot becomes READY. -/
  | headerArrival (thr : Nat)
  /-- STEAL_PROBE (R201): The steal engine sends its next probe of the ladder. -/
  | stealProbe (core : Nat)
  /-- STEAL_GRANT (R202): A probed core grants its oldest stealable entry, splitting a range or marking a continuation in steal. -/
  | stealGrant (victim : Nat) (thief : Nat)
  /-- STEAL_RELEASE_DONE (R148): The victim-side release completes, and the header is read with REMOTE and STOLEN set. -/
  | stealReleaseDone (id : Nat)
  /-- STEAL_DELIVERY (R203): A stolen entry reaches the thief, which acquires and then dispatches or pushes it. -/
  | stealDelivery (id : Nat)
  /-- PROBE_PAUSE_EXPIRY (R204): The backoff after a failed round ends and a new round begins. -/
  | probePauseExpiry (core : Nat)
  /-- QUIESCENCE_WAVE (R208): A privet-tree wave gathers the quiescent flags and packet counts. -/
  | quiescenceWave (lid : Nat)
  /-- LAUNCH_COMPLETION (R389): After quiescence, reclaims, releases, writes the completion record and performs the signal. -/
  | launchCompletion (lid : Nat)
  /-- MESSAGE_ARRIVAL (R302): A message reaches a mailbox: it is accepted, retried, diverted, or completes a pending receive. -/
  | messageArrival (id : Nat)
  /-- MESSAGE_RETRY (R302): A message answered with a retry is resent after 64 cycles. -/
  | messageRetry (id : Nat)
  /-- MATRIX_SELECT (R357): Arbitration grants a core's eligible head command, which takes and validates its handles. -/
  | matrixSelect (cl : Nat)
  /-- MATRIX_WRITEBACK (R355): A command's working copy is written to the accumulator and its taken handles are dropped. -/
  | matrixWriteback (cl : Nat)
  /-- SELF_TEST (R359): After STINT commands, a self-test runs and may fence sub-arrays and restart the command. -/
  | selfTest (cl : Nat) (failed : BitVec 4)
  /-- MXCTL_WRITE (R361): A system write to MXCTL sets STINT or fences and unfences sub-arrays. -/
  | mxctlWrite (cl : Nat) (value : Word)
  /-- COPY_COMPLETION (R370): A block copy finishes its writes and performs its drop and its completion action. -/
  | copyCompletion (cl : Nat) (req : Nat)
  /-- INDIRECT_COMPLETION (R372): An indirect request finishes its list and performs its completion action. -/
  | indirectCompletion (cl : Nat) (req : Nat)
  /-- ENGINE_STATE_WRITE (R376): A system store to the engine-state window, such as a code-table entry. -/
  | engineStateWrite (cl : Nat) (off : Nat) (value : Word)
  /-- SYSTEM_REGISTER_WRITE (R21): A system write to a cluster-control register that has no row of its own, such as SYSCODE or SYSDATA. -/
  | systemRegisterWrite (cl : Nat) (off : Nat) (value : Word)
  /-- WRIDX (R381): A write to the notify page's WRIDX admits packets or halts the queue on overflow. -/
  | wridx (q : Nat) (value : Word)
  /-- PREDICTION_COUNTER_WRITE (R380): A host write to the prediction counters in the notify page. -/
  | predictionCounterWrite (q : Nat) (word : Fin 4) (value : Word)
  /-- SLOT_REREAD (R382): An admitted slot whose VALID byte mismatches is reread every 256 cycles. -/
  | slotReread (q : Nat)
  /-- STALE_SLOT_TIMEOUT (R382): After 2^20 cycles without a VALID match, the queue halts with the stale-slot error. -/
  | staleSlotTimeout (q : Nat)
  /-- LAUNCH (R398): A LAUNCH packet is validated and started: root frame, pool settings, spread pieces, acquire, root push. -/
  | launch (q : Nat) (index : Nat)
  /-- WAIT_ALL (R393): A packet that completes when every signal comparison holds. -/
  | waitAll (q : Nat) (index : Nat)
  /-- WAIT_ANY (R393): A packet that completes when any signal comparison holds. -/
  | waitAny (q : Nat) (index : Nat)
  /-- WAIT_EVALUATION (R393): A WAIT's signal words are read and compared again on a home write or on its period. -/
  | waitEvaluation (q : Nat) (index : Nat)
  /-- WAIT_FAULT_TIMEOUT (R394): A queue in fault-wait for 1 ms is descheduled. -/
  | waitFaultTimeout (q : Nat)
  /-- SIGNAL (R390): A packet that releases at FSCOPE and performs a signal operation. -/
  | signal (q : Nat) (index : Nat)
  /-- COPY (R390): A packet that runs a block copy on a cluster of the partition. -/
  | copy (q : Nat) (index : Nat)
  /-- TLBINV (R53): A packet that removes TLB and walk-cache entries everywhere. -/
  | tlbinv (q : Nat) (index : Nat)
  /-- TLBINV_COMPLETION (R54): The invalidation completes when the previous epoch's in-flight accesses reach zero. -/
  | tlbinvCompletion (q : Nat) (index : Nat)
  /-- FENCE_PACKET (R390): After earlier packets complete and quiescence, a release at FSCOPE. -/
  | fencePacket (q : Nat) (index : Nat)
  /-- NOP_PACKET (R390): A packet that completes at once. -/
  | nopPacket (q : Nat) (index : Nat)
  /-- SEGTAB (R390): A packet that registers an ASID's segment table and its count. -/
  | segtab (q : Nat) (index : Nat)
  /-- QUEUE_RESIDENCY (R395): A queue with admitted packets is given a hardware slot, evicting the longest-idle queue. -/
  | queueResidency (q : Nat)
  /-- WATCHDOG_PREEMPT (R402): At T1 the launch's slots are pre-empted and a watchdog event is sent. -/
  | watchdogPreempt (lid : Nat)
  /-- WATCHDOG_KILL (R402): At T2 the launch is killed and its record written with status 1. -/
  | watchdogKill (lid : Nat)
  /-- WATCHDOG_FENCE (R402): At T3 cores still holding the launch are fenced. -/
  | watchdogFence (lid : Nat)
  /-- PREEMPTION (R409): Slots park at their next instruction boundary, system mode deferring to TRET or HALT. -/
  | preemption (thr : Nat)
  /-- PARTITION_CONTEXT_SWITCH (R410): Switches a cluster from one partition to another through the shadow store and HBM images. -/
  | partitionContextSwitch (cl : Nat) (toPart : Nat)
  /-- CONTEXT_SWAP (R411): Once the cluster is halted for P, swaps the live state with the shadow store and writes the image. -/
  | contextSwap (cl : Nat)
  /-- THREAD_MIGRATION (R418): Moves one thread with sbcnt zero to an IDLE slot of another core, leaving a forwarding entry. -/
  | threadMigration (thr : Nat) (toThr : Nat)
  /-- CORE_MIGRATION (R419): Streams a whole core's context to a free core, leaving forwarding entries. -/
  | coreMigration (core : Nat) (toCore : Nat)
  /-- RDMA_WRITE (R423): A host RDMA WRITE into a registered region. -/
  | rdmaWrite (qp : Nat) (key : Nat) (addr : Nat) (data : List Byte)
  /-- RDMA_READ (R423): A host RDMA READ of a registered region. -/
  | rdmaRead (qp : Nat) (key : Nat) (addr : Nat) (len : Nat)
  /-- HOST_SEND (R424): A SEND on a bound connection writes k slots at WR and advances WR. -/
  | hostSend (qp : Nat) (data : List Byte)
  /-- STATUS (R428): Management request returning leader, term, module id, partitions and recovery status. -/
  | status (r : Mgmt)
  /-- ATTEST (R461): Returns a signed report of the measurement registers for a nonce. -/
  | attest (r : Mgmt) (nonce : List Byte)
  /-- FWLOAD (R428): Writes firmware image bytes to flash for the next reset. -/
  | fwload (r : Mgmt) (image : Fin 4) (off : Nat) (data : List Byte)
  /-- ASIDSET (R40): Writes an ASID root-table entry. -/
  | asidset (r : Mgmt) (asid : BitVec 12) (entry : Word)
  /-- DFSET (R162): Writes DFAREA while no speculation runs. -/
  | dfset (r : Mgmt) (w0 : Word) (w1 : Word)
  /-- POOL7 (R107): Writes POOLP 7 on every cluster of a partition. -/
  | pool7 (r : Mgmt) (part : Fin 16) (value : Word)
  /-- PARTDEF (R397): Defines or changes a partition record, assigning or removing clusters and ASIDs. -/
  | partdef (r : Mgmt) (part : Fin 16) (rec : PartRec)
  /-- PARTDEL (R397): Removes a partition with no clusters and no users. -/
  | partdel (r : Mgmt) (part : Fin 16)
  /-- QSET (R379): Creates or changes a queue descriptor. -/
  | qset (r : Mgmt) (q : BitVec 16) (w0 : Word) (w1 : Word) (w2 : Word) (w3 : Word) (w4 : Word)
  /-- QRESTART (R391): Restarts a halted queue at a slot index. -/
  | qrestart (r : Mgmt) (q : BitVec 16) (index : Word)
  /-- QDEL (R428): Deletes an idle or halted queue. -/
  | qdel (r : Mgmt) (q : BitVec 16)
  /-- DONMAP (R441): Maps or unmaps a donation queue to a queue. -/
  | donmap (r : Mgmt) (dq : BitVec 8) (q : BitVec 16) (unmap : Bool)
  /-- MRREG (R423): Registers a host-port memory region and returns its key. -/
  | mrreg (r : Mgmt) (kind : Fin 4) (base : Word) (len : Word) (rd : Bool) (wr : Bool)
  /-- QPBIND (R424): Binds or unbinds a queue pair to a queue. -/
  | qpbind (r : Mgmt) (qp : BitVec 24) (q : BitVec 16) (unbind : Bool)
  /-- RESUME (R402): Resumes a launch stopped by watchdog step 1. -/
  | resume (r : Mgmt) (lid : BitVec 12)
  /-- KILL (R428): Kills a launch with record status 7. -/
  | kill (r : Mgmt) (lid : BitVec 12)
  /-- SLOTGO (R409): Restarts a HALTED slot at a PC and mode. -/
  | slotgo (r : Mgmt) (thr : BitVec 15) (pc : Word) (sys : Bool)
  /-- COREBACK (R420): Returns a fenced core to service. -/
  | coreback (r : Mgmt) (core : BitVec 11)
  /-- CHECKPOINT (R442): Streams all populated HBM in 64 KiB stripes to the named destinations. -/
  | checkpoint (r : Mgmt) (streams : List Stream)
  /-- RESTORE (R428): Streams a saved image back into HBM. -/
  | restore (r : Mgmt) (streams : List Stream)
  /-- MODSET (R431): Sets the module id. -/
  | modset (r : Mgmt) (modid : BitVec 16)
  /-- ERRREAD (R428): Returns a die's error counts. -/
  | errread (r : Mgmt) (die : Fin 4)
  /-- EVTREG (R426): Registers the endpoint that receives events. -/
  | evtreg (r : Mgmt) (v6 : Bool) (addr : List Byte) (port : BitVec 16)
  /-- EVENT_ACKNOWLEDGEMENT (R430): An acknowledgement releases a held event. -/
  | eventAcknowledgement (n : Nat)
  /-- EVENT_RESEND (R430): An unacknowledged event is resent every 1 ms. -/
  | eventResend (n : Nat)
  /-- WORKDONE (R427): A long request's work ends and a WORKDONE event is sent. -/
  | workdone (op : BitVec 16) (seq : Word) (status : BitVec 16)
  /-- COLLECTIVE_DATA (R432): A TYPE 0 data piece arrives and is landed, stored or reduced by its receiving step. -/
  | collectiveData (p : AzPkt)
  /-- COLLECTIVE_ACKNOWLEDGEMENT (R439): A TYPE 1 acknowledgement adds its COUNT towards completing a piece. -/
  | collectiveAcknowledgement (p : AzPkt)
  /-- DONATION (R441): A TYPE 2 donation writes a LAUNCH image into the mapped queue, or is refused. -/
  | donation (p : AzPkt)
  /-- GROUP_WRITE (R439): A TYPE 3 replicated piece is handled as the member's receiving step. -/
  | groupWrite (p : AzPkt)
  /-- REDUCE_READ_REQUEST (R440): A TYPE 4 request is answered with the piece at the matching step's SRC. -/
  | reduceReadRequest (p : AzPkt)
  /-- REDUCE_READ_REPLY (R440): A TYPE 5 reduced result is stored at DST. -/
  | reduceReadReply (p : AzPkt)
  /-- CREDIT (R433): A TYPE 6 credit returns room for one piece to a step context. -/
  | credit (p : AzPkt)
  /-- COLLECTIVE_STEP (R435): A plan step starts once the step named in AFTER has completed. -/
  | collectiveStep (die : Nat) (cmd : Nat) (step : Nat)
  /-- COLLECTIVE_STEP_COMPLETION (R435): When its writes are acknowledged, the step releases and decrements RELEASE. -/
  | collectiveStepCompletion (die : Nat) (cmd : Nat) (step : Nat)
  /-- LINK_FRAME_CRC_ERROR (R431): A receiver finds a frame CRC error and requests a resend. -/
  | linkFrameCrcError (link : Fin 8)
  /-- LINK_DOWN_TIMEOUT (R436): A link down for 2^20 cycles fails the step. -/
  | linkDownTimeout (link : Fin 8)
  /-- POWER_ON_RESET (R457): Each die controller runs measured boot, or enters recovery on a failure. -/
  | powerOnReset (b : BootIn)
  /-- LEASE_RENEWAL (R459): Every 2.5 ms the leader sends a renewal, and followers restart their timers. -/
  | leaseRenewal (die : Fin 4) (term : Nat)
  /-- LEASE_TIMEOUT (R459): A follower's 10 ms timer lapses and it claims TERM + 1. -/
  | leaseTimeout (die : Fin 4)
  /-- LEASE_CLAIM (R459): A die receives a claim and grants it if the claim's TERM is the highest it has seen. -/
  | leaseClaim (die : Fin 4) (claimant : Fin 4) (term : Nat)
  /-- CLUSTER_POWER_UP (R462): A group of eight clusters is powered up on its 2 µs schedule. -/
  | clusterPowerUp (group : Fin 32)
  /-- MATRIX_RATE_RAMP (R462): A newly powered matrix unit moves to half and then to full rate after 8 µs each. -/
  | matrixRateRamp (cl : Nat)
  /-- CLUSTER_POWER_GATE (R463): A cluster of no partition, with an empty shadow store, is power-gated. -/
  | clusterPowerGate (cl : Nat)
  /-- ILLEGAL_INSTRUCTION (R246): A fetched word of an unassigned major or selector, or with a reserved bit or field out of limits, takes the illegal-instruction trap with tval = the word. -/
  | illegalInstruction (w : Word32)
  /-- FETCH_TRAP (R15): A fetch that fails the sg0 EXEC or limit check, or returns poison, traps at once with tpc = the fetched PC. -/
  | fetchTrap (poisoned : Bool) (at_ : Word)
  /-- AZRUM_LINK_DOWN (R436): An Azrum link goes down and starts the 2^20-cycle count after which the steps using it fail. -/
  | azrumLinkDown (link : Fin 8)
  /-- AZRUM_LINK_UP (R436): A downed Azrum link comes back before the count expires, stopping the count and letting flits flow again. -/
  | azrumLinkUp (link : Fin 8)
  /-- ECN_CONGESTION_NOTIFICATION (R422): The host port receives an ECN congestion notification packet and responds to it. -/
  | ecnCongestionNotification (qp : Nat)
  /-- WAIT_HOST_READ_RESPONSE (R425): The reply, or the host's refusal, of the RDMA READ for a WAIT entry with LOC = 1 arrives; it is compared, or the queue halts with the signal-fault error. -/
  | waitHostReadResponse (q : Nat) (index : Nat) (entry : Nat) (value : Option Word)
  deriving DecidableEq, Repr

/-- The rows without an encoding, as entries of the machine's agenda (log 3): the same names and operands as the
constructors of `Instr`. (Compiled Lean cannot build a constructor beyond number 244 of one type, so the agenda has its
own type; runEvent gives each entry the meaning that exec gives the constructor.) -/
inductive Ev where
  | deferredTrap (thr : Nat)
  | loadCompletion (id : Nat)
  | storeBufferDrain (core : Nat) (entry : Nat)
  | storeAcknowledgement (id : Nat)
  | windowWrite (w : WinWrite)
  | admitWrite (core : Nat) (value : Word)
  | segmentTableRead (id : Nat)
  | remoteWaitRetry (id : Nat)
  | clusterCacheFill (cl : Nat) (line : Nat)
  | icacheFill (core : Nat) (key : Nat)
  | releaseCompletion (thr : Nat)
  | walkStart (die : Nat) (k : WalkKey)
  | walkCompletion (die : Nat) (k : WalkKey)
  | faultRecordAppend (die : Nat) (part : Nat)
  | faultResolutionWrite (die : Nat) (word : Word)
  | faultConsWrite (die : Nat) (part : Nat) (value : Word)
  | faultTimeout (die : Nat) (seq : Nat)
  | poisonCompletion (id : Nat)
  | joinCounterIncrement (id : Nat)
  | joinCounterDecrement (id : Nat)
  | syncTest (id : Nat)
  | byteBarrierSubtract (addr : Nat) (amount : Nat)
  | bbwaitRetry (id : Nat)
  | eccCorrectableError (die : Nat) (st : EccStruct)
  | eccUncorrectableError (die : Nat) (loc : EccLoc)
  | patrolScrub (die : Nat)
  | flitCrcError (die : Nat) (net : Fin 4) (link : Nat)
  | networkStarvationGrant (die : Nat) (net : Fin 4) (link : Nat)
  | allocationGrant (cl : Nat)
  | zeroFillDone (id : Nat)
  | tileDropArrival (id : Nat)
  | tileIncArrival (id : Nat)
  | tileFreeArrival (id : Nat)
  | tdropSend (id : Nat)
  | deferredTileFree (cl : Nat) (tile : Nat)
  | poolpWrite (cl : Nat) (p : Fin 8) (value : Word)
  | poolstallWrite (cl : Nat) (value : Word)
  | poolStallEvent (cl : Nat) (p : Fin 8)
  | speculationStart (q : Nat)
  | watchedWrite (pa : Nat) (len : Nat)
  | speculationDiscard (sid : Fin 4) (cause : Nat)
  | claimReply (sid : Fin 4) (die : Fin 4)
  | speculationMerge (sid : Fin 4)
  | dispatch (core : Nat)
  | headerArrival (thr : Nat)
  | stealProbe (core : Nat)
  | stealGrant (victim : Nat) (thief : Nat)
  | stealReleaseDone (id : Nat)
  | stealDelivery (id : Nat)
  | probePauseExpiry (core : Nat)
  | quiescenceWave (lid : Nat)
  | launchCompletion (lid : Nat)
  | messageArrival (id : Nat)
  | messageRetry (id : Nat)
  | matrixSelect (cl : Nat)
  | matrixWriteback (cl : Nat)
  | selfTest (cl : Nat) (failed : BitVec 4)
  | mxctlWrite (cl : Nat) (value : Word)
  | copyCompletion (cl : Nat) (req : Nat)
  | indirectCompletion (cl : Nat) (req : Nat)
  | engineStateWrite (cl : Nat) (off : Nat) (value : Word)
  | systemRegisterWrite (cl : Nat) (off : Nat) (value : Word)
  | wridx (q : Nat) (value : Word)
  | predictionCounterWrite (q : Nat) (word : Fin 4) (value : Word)
  | slotReread (q : Nat)
  | staleSlotTimeout (q : Nat)
  | launch (q : Nat) (index : Nat)
  | waitAll (q : Nat) (index : Nat)
  | waitAny (q : Nat) (index : Nat)
  | waitEvaluation (q : Nat) (index : Nat)
  | waitFaultTimeout (q : Nat)
  | signal (q : Nat) (index : Nat)
  | copy (q : Nat) (index : Nat)
  | tlbinv (q : Nat) (index : Nat)
  | tlbinvCompletion (q : Nat) (index : Nat)
  | fencePacket (q : Nat) (index : Nat)
  | nopPacket (q : Nat) (index : Nat)
  | segtab (q : Nat) (index : Nat)
  | queueResidency (q : Nat)
  | watchdogPreempt (lid : Nat)
  | watchdogKill (lid : Nat)
  | watchdogFence (lid : Nat)
  | preemption (thr : Nat)
  | partitionContextSwitch (cl : Nat) (toPart : Nat)
  | contextSwap (cl : Nat)
  | threadMigration (thr : Nat) (toThr : Nat)
  | coreMigration (core : Nat) (toCore : Nat)
  | rdmaWrite (qp : Nat) (key : Nat) (addr : Nat) (data : List Byte)
  | rdmaRead (qp : Nat) (key : Nat) (addr : Nat) (len : Nat)
  | hostSend (qp : Nat) (data : List Byte)
  | status (r : Mgmt)
  | attest (r : Mgmt) (nonce : List Byte)
  | fwload (r : Mgmt) (image : Fin 4) (off : Nat) (data : List Byte)
  | asidset (r : Mgmt) (asid : BitVec 12) (entry : Word)
  | dfset (r : Mgmt) (w0 : Word) (w1 : Word)
  | pool7 (r : Mgmt) (part : Fin 16) (value : Word)
  | partdef (r : Mgmt) (part : Fin 16) (rec : PartRec)
  | partdel (r : Mgmt) (part : Fin 16)
  | qset (r : Mgmt) (q : BitVec 16) (w0 : Word) (w1 : Word) (w2 : Word) (w3 : Word) (w4 : Word)
  | qrestart (r : Mgmt) (q : BitVec 16) (index : Word)
  | qdel (r : Mgmt) (q : BitVec 16)
  | donmap (r : Mgmt) (dq : BitVec 8) (q : BitVec 16) (unmap : Bool)
  | mrreg (r : Mgmt) (kind : Fin 4) (base : Word) (len : Word) (rd : Bool) (wr : Bool)
  | qpbind (r : Mgmt) (qp : BitVec 24) (q : BitVec 16) (unbind : Bool)
  | resume (r : Mgmt) (lid : BitVec 12)
  | kill (r : Mgmt) (lid : BitVec 12)
  | slotgo (r : Mgmt) (thr : BitVec 15) (pc : Word) (sys : Bool)
  | coreback (r : Mgmt) (core : BitVec 11)
  | checkpoint (r : Mgmt) (streams : List Stream)
  | restore (r : Mgmt) (streams : List Stream)
  | modset (r : Mgmt) (modid : BitVec 16)
  | errread (r : Mgmt) (die : Fin 4)
  | evtreg (r : Mgmt) (v6 : Bool) (addr : List Byte) (port : BitVec 16)
  | eventAcknowledgement (n : Nat)
  | eventResend (n : Nat)
  | workdone (op : BitVec 16) (seq : Word) (status : BitVec 16)
  | collectiveData (p : AzPkt)
  | collectiveAcknowledgement (p : AzPkt)
  | donation (p : AzPkt)
  | groupWrite (p : AzPkt)
  | reduceReadRequest (p : AzPkt)
  | reduceReadReply (p : AzPkt)
  | credit (p : AzPkt)
  | collectiveStep (die : Nat) (cmd : Nat) (step : Nat)
  | collectiveStepCompletion (die : Nat) (cmd : Nat) (step : Nat)
  | linkFrameCrcError (link : Fin 8)
  | linkDownTimeout (link : Fin 8)
  | powerOnReset (b : BootIn)
  | leaseRenewal (die : Fin 4) (term : Nat)
  | leaseTimeout (die : Fin 4)
  | leaseClaim (die : Fin 4) (claimant : Fin 4) (term : Nat)
  | clusterPowerUp (group : Fin 32)
  | matrixRateRamp (cl : Nat)
  | clusterPowerGate (cl : Nat)
  | illegalInstruction (w : Word32)
  | fetchTrap (poisoned : Bool) (at_ : Word)
  | azrumLinkDown (link : Fin 8)
  | azrumLinkUp (link : Fin 8)
  | ecnCongestionNotification (qp : Nat)
  | waitHostReadResponse (q : Nat) (index : Nat) (entry : Nat) (value : Option Word)
  deriving DecidableEq, Repr

end Sys2Proof
end

