-- ==== Sys2Proof/Machine/State.lean ====
section
/-! DEFINITION. The state of one module: every register, memory, queue and table the spec gives the machine, as plain
data. Per-unit state is kept in sparse maps keyed by global thread id, core id, cluster id and die (R1). -/

namespace Sys2Proof.Machine

/-- The mode of a thread (16 R405). -/
inductive Mode | user | system
  deriving DecidableEq, Repr

/-- A segment descriptor: word 0 is BASE, word 1 holds the fields of 01 R5. -/
structure Desc where
  base : Word := 0
  w1 : Word := 0
  deriving DecidableEq, Repr

/-- A register with its full/empty bit (09 R233). -/
structure Reg where
  val : Word := 0
  empty : Bool := false
  deriving DecidableEq, Repr

/-- A vector register with its full/empty bit (09 R233). -/
structure VReg where
  val : VWord := 0
  empty : Bool := false
  deriving DecidableEq, Repr

/-- The register files that have full/empty bits, coded 0, 1, 2 in tval (16 R404 code 6). -/
inductive RegFile | g | v | m
  deriving DecidableEq, Repr

/-- Why a slot is BLOCKED (07 R182); `granule` names the granules that its instruction touches (03 R73). -/
inductive Block
  | reg (file : RegFile) (n : Nat)
  | segment (n : Nat)
  | record
  | granule (keys : List Nat)
  | release
  | drain
  | allowance
  | alloc
  | ifetch (id : Nat)
  | spill
  | reclaim
  deriving DecidableEq, Repr

/-- The slot states of 07 R182. -/
inductive SlotStatus
  | idle
  | dispatching
  | ready
  | blocked (why : Block)
  | halted
  | parked
  deriving DecidableEq, Repr

/-- A held deferred trap (02 R60). -/
structure HeldTrap where
  cause : Nat
  tpc : Word
  tval : Word
  deriving DecidableEq, Repr

/-- TK of the task record (13 R329). -/
inductive TaskKind | cont | root | id
  deriving DecidableEq, Repr

/-- A mailbox entry, words 0 to 3 (11 R301); words 4 to 7 are zero. -/
structure MailEntry where
  w0 : Word
  payload : Word
  rbase : Word
  rlen : Word
  deriving DecidableEq, Repr

/-- A pending MRECV or MRECVT (11 R303). -/
structure PendingRecv where
  d : Fin 32
  tag : Option Nat
  satinf : Bool
  pc : Word
  deriving DecidableEq, Repr

/-- A pending WAITM (11 R304) or MQWAIT (14 R365): destination and threshold. -/
structure PendingCount where
  d : Fin 32
  n : Nat
  deriving DecidableEq, Repr

/-- A deque entry (07 R189) with the controller's marks (R202, R203) and the writes its producer still has on the
way (R467). `acq` marks an acquire owed at dispatch: a parked frame's at module scope (05 R149), or a stolen range
piece's thief-side acquire (05 R148). -/
structure DqEntry where
  frame : Word
  kind : Nat
  floor : Nat
  spec : Bool
  slot : Nat
  launch : Nat
  seq : Nat
  lo : Nat
  hi : Nat
  acq : Bool
  inSteal : Bool
  refused : List Nat
  place : Option Nat
  waits : List Nat
  deriving DecidableEq, Repr

/-- One thread slot: every register of the thread and its task record. `acqReg` is an atomic that waits for its acquire or a
SYNC that waits for its answer: the destination, the ticket, and 1 if the destination was EMPTY before. `relFrom` and `relWaits` are the ticket and scope at
which a release under way began and the outbound writes it waits for (05 R136). -/
structure Slot where
  status : SlotStatus := .idle
  g : SMap Reg := []
  v : SMap VReg := []
  m : SMap Reg := []
  sg : SMap Desc := []
  sgPend : SMap Bool := []
  fs : SMap Word := []
  pc : Word := 0
  mode : Mode := .user
  tpc : Word := 0
  tcause : Word := 0
  tval : Word := 0
  tstat : Word := 0
  tvec : Word := 0
  fflags : Word := 0
  fmode : Word := 0
  rseed : Word := 0
  wid : Word := 0
  lid : Word := 0
  prio : Word := 0
  sbcnt : Nat := 0
  fr : Word := 0
  jc : Nat := 0
  tk : TaskKind := .cont
  ex : Nat := 0
  frPend : Bool := false
  task : Option Nat := none
  entry : Option DqEntry := none
  hdrWait : Bool := false
  deferred : Option HeldTrap := none
  mail : List MailEntry := []
  recv : Option PendingRecv := none
  waitm : List PendingCount := []
  mqwait : List PendingCount := []
  unaccepted : Nat := 0
  preempt : Bool := false
  dataErr : Option Nat := none
  acqReg : Option (Fin 32 × Nat × Nat) := none
  relFrom : Option (Nat × Nat) := none
  relWaits : List Nat := []
  fetched : Option (Nat × VWord) := none
  deriving DecidableEq, Repr

/-- A ring (04 R116): handles from the head, the first `taken` of them reserved by the matrix unit (14 R354). -/
structure Ring where
  handles : List Word32 := []
  taken : Nat := 0
  head : Nat := 0
  deriving DecidableEq, Repr

/-- What enters a matrix command queue (14 R350). -/
inductive MOp
  | mma (ringA ringB : Fin 8) (count : Nat) (ty : ElemTy) (keepA keepB zi scaled : Bool)
  | accz
  | accld (ty : ElemTy) (desc : Desc) (off : Nat)
  | accst (ty : ElemTy) (desc : Desc) (off : Nat)
  deriving DecidableEq, Repr

/-- A queued matrix command with what it carries (14 R350). `id` is its ticket, `waits` are the writes of the push
release (05 R150); `orphan`: its task has ended. -/
structure MCmd where
  id : Nat
  op : MOp
  acc : Fin 4
  relc : Bool
  thr : Nat
  pc : Word
  lid : Nat
  asid : Nat
  satinf : Bool
  rm : Nat
  waits : List Nat
  sys : Bool := false
  orphan : Bool := false
  deriving DecidableEq, Repr

/-- A command the matrix unit has selected: the handles it uses, taken ones marked (14 R353-R355); `test` is 1 while its
write-back is held for the self-test and 2 after it (R359); `due` is the cycle of its write-back (R358). -/
structure MRun where
  core : Nat
  cmd : MCmd
  ha : List Word32
  hb : List Word32
  takenA : Bool
  takenB : Bool
  test : Nat
  raised : Nat := 0
  due : Nat := 0
  deriving DecidableEq, Repr

/-- An engine address with the descriptor copied at the push (01 R38, 14 R368). -/
inductive EngAddr
  | seg (desc : Desc) (off : Nat)
  | tile (handle : Word32) (off : Nat)
  deriving DecidableEq, Repr

/-- A block copy or indirect request in a copy FIFO or an engine (14 R370, R371), and a front-end COPY (15 R390).
`words` are the request words as pushed; `pos` is the byte or list position reached and `off` the byte of the row (02 R63);
`inUse` are the tiles whose USE it holds, `behind` an on-chip address at which its access waits and the last matrix command
that it waits for (01 R27). -/
structure EngReq where
  id : Nat
  indirect : Bool
  words : List Word
  src : EngAddr
  dst : EngAddr
  list : EngAddr
  thr : Nat
  core : Nat
  lid : Nat
  asid : Nat
  satinf : Bool
  waits : List Nat
  pos : Nat
  off : Nat
  skipped : Nat
  carried : Bool
  started : Bool
  parked : Option (Nat × Nat)
  faultVa : Nat
  sys : Bool
  inUse : List Word32
  packet : Option (Nat × Nat)
  ctx : Option Nat
  behind : Option (Nat × Nat) := none
  deriving DecidableEq, Repr

/-- A store-buffer entry (03 R77, R466): one aligned 64-byte block of one thread, or a piece of 03 R36 that crosses such a
boundary, which stays one write (log 40). `blk` is the first address it covers,
`mask` its bytes, `ids` one ticket per combined store, `fill` the state a filling store, SETE or SETF gives its granules;
with `grans` the bytes are not written and only their granules change (SETE, SETF). -/
structure SbEntry where
  thr : Nat
  chip : Bool
  asid : Nat
  blk : Nat
  data : VWord
  mask : BitVec 64
  fill : Option Bool
  grans : Bool
  pc : Word
  first : Nat
  ids : List Nat
  lastUse : Nat
  lid : Nat
  sys : Bool
  deriving DecidableEq, Repr

/-- An instruction-cache fill in flight (03 R90, 11 R295) with its transaction's ticket. -/
structure IFill where
  key : Nat
  install : Bool
  id : Nat
  deriving DecidableEq, Repr

/-- A forwarding entry of a vacated slot or core (16 R418, R419): by launch, to another core, for one slot or all; of
transactions, those with a ticket below `since`. -/
structure Forward where
  launch : Nat
  since : Nat
  slot : Option Nat
  toCore : Nat
  toSlot : Nat
  deriving DecidableEq, Repr

/-- One core. -/
structure Core where
  deque : List DqEntry := []
  spilled : List DqEntry := []
  parked : SMap (Option DqEntry) := []
  dqHead : Nat := 0
  dqTail : Nat := 0
  push : Nat := 0
  rings : SMap Ring := []
  mq : List MCmd := []
  fifo : List EngReq := []
  fifoHead : Nat := 0
  codes : SMap (BitVec 16) := []
  admission : Word := 0
  cpart : Word := 0
  cmask : BitVec 256 := 0
  sb : List SbEntry := []
  icache : SMap (Option VWord) := []
  ifills : List IFill := []
  remoteWait : List Nat := []
  poolSet : SMap Bool := []
  poolCap : SMap Nat := []
  round : Nat := 0
  failed : Nat := 0
  ladder : Nat := 0
  probing : Bool := false
  pausing : Bool := false
  fenced : Bool := false
  fencing : Bool := false
  forward : List Forward := []
  dirty : SMap Bool := []
  ctxBits : SMap Bool := []
  credit : Nat := 0
  passed : Nat := 0
  deriving DecidableEq, Repr

/-- STATE of a tile (04 R102). -/
inductive TileSt | free | held | persistent | transfer
  deriving DecidableEq, Repr

/-- The tile state word (04 R102), field by field; `wrote` is one more than the cycle of the last write to the tile. -/
structure Tile where
  launch : Nat := 0
  asid : Nat := 0
  ppart : Nat := 0
  st : TileSt := .free
  zf : Bool := true
  dirty : Bool := false
  spec : Bool := false
  count : Nat := 0
  use : Nat := 0
  gen : Nat := 1
  ctxBit : Bool := false
  wrote : Nat := 0
  deriving DecidableEq, Repr

/-- POOLP of one pool partition (04 R104), WAITERS and HELD computed, and the cycle of its last grant (R126). -/
structure Pool where
  set : Bool := false
  cap : Nat := 0
  res : Nat := 0
  granted : Nat := 0
  deriving DecidableEq, Repr

/-- A queued allocation (04 R106, R108): a blocked TALLOC of a thread, or a collective landing of a die's command. -/
inductive AllocWho
  | thread (thr : Nat)
  | landing (die cmd step seq : Nat)
  deriving DecidableEq, Repr

structure AllocReq where
  who : AllocWho
  pool : Nat
  count : Nat
  lid : Nat
  asid : Nat
  spec : Bool
  dest : Fin 32
  deriving DecidableEq, Repr

/-- A leaf held in a TLB (02 R47): tagged unless global; `level` 1, 2 or 3 gives the page size (R43). -/
structure TlbEntry where
  asid : Nat
  level : Nat
  vpn : Nat
  frame : Nat
  glob : Bool
  uncached : Bool
  rd : Bool
  wr : Bool
  ex : Bool
  atom : Bool
  d : Bool
  deriving DecidableEq, Repr

/-- A walk-cache entry (02 R47): the table base that a prefix of the VA leads to at `level`. -/
structure WalkEntry where
  asid : Nat
  level : Nat
  vpre : Nat
  base : Nat
  deriving DecidableEq, Repr

/-- An open die miss entry (02 R51); `who` are the pieces attached to it, in the order they attached (R56). -/
structure Miss where
  key : WalkKey
  walking : Bool
  valid : Bool
  cluster : Nat
  who : List (Nat × Nat) := []
  deriving DecidableEq, Repr

/-- A cluster-cache line fill in flight (03 R81) with its ticket: the bytes stores merged while it was in flight. -/
structure CFill where
  id : Nat
  line : Nat
  install : Bool
  merged : SMap (Option Byte)
  deriving DecidableEq, Repr

/-- State of a partition that is not resident on a cluster (03 R89, 16 R410-R415): the slots and cores as they stood,
with the tile words, pool registers, counter map and queued messages. -/
structure Saved where
  part : Nat
  slots : SMap Slot
  cores : SMap Core
  tiles : SMap Tile
  pools : SMap Pool
  ctrs : SMap Nat
  msgs : List (Nat × MailEntry)
  bytes : Memory
  grans : SMap Bool
  poison : SMap Bool
  deriving DecidableEq, Repr

/-- One cluster. `portQ` are the pieces that wait in the port's request queue (02 R50, R62), `accWrites` the window writes
that wait at the accumulator store, each for the matrix commands up to a ticket (01 R27), `wave` the packet counts of the first
of two waves before a context switch (07 R208, R209). -/
structure Cluster where
  powered : Bool := false
  ramp : Nat := 0
  part : Option Nat := none
  switching : Option Nat := none
  tlb : List TlbEntry := []
  cache : SMap (Option (BitVec 1024)) := []
  fills : List CFill := []
  ctrs : SMap Nat := []
  tiles : SMap Tile := []
  pools : SMap Pool := [(7, { cap := 64 })]
  poolStall : Nat := 0x100000
  allocQ : List AllocReq := []
  lastGrant : Nat := 0
  stint : Nat := 0x1000
  mfenced : BitVec 4 := 0
  mxcnt : Word := 0
  testCount : Nat := 0
  running : List MRun := []
  arbPtr : Nat := 0
  syscode : Desc := {}
  sysdata : Desc := {}
  engines : List EngReq := []
  bbwaits : List Nat := []
  stealPtr : Nat := 0
  sent : SMap Nat := []
  recvd : SMap Nat := []
  shadow : Option Saved := none
  replay : List (Nat × MailEntry) := []
  wave : Option (Nat × Nat) := none
  portQ : List (Nat × Nat) := []
  accWrites : List (WinWrite × Nat) := []
  dirty : SMap Bool := []
  ctxBits : SMap Bool := []
  deriving DecidableEq, Repr

/-- A fault record (02 R55): `key` is what parked accesses name; `made` is false while the hold of R57 has no place for
it, and it then has no SEQ yet; `born` is the cycle of the walk that failed, `ftime` the partition's timeout then (R58, 15
R397), `who` the attached pieces of transactions in the order they attached (R56). -/
structure FRec where
  va : Word
  waiters : Nat
  eng : Bool
  acc : Nat
  kind : Nat
  level : Nat
  cluster : Nat
  launch : Nat
  part : Nat
  asid : Nat
  entry : Nat
  key : Nat
  made : Bool
  seq : Nat
  appended : Bool
  born : Nat
  ftime : Nat := 0
  who : List (Nat × Nat) := []
  deriving DecidableEq, Repr

/-- The states of a collective step (17 R435). -/
inductive StepSt | waiting | running | done
  deriving DecidableEq, Repr

/-- What a step holds of a piece (17 R433, R437, R440): the contribution of rank `rank` (64: the finished result; 65: a
reduce-read request), its number, whether a switch replicated it, the sender's SATINF, the link and module it came from. -/
structure CPiece where
  rank : Nat
  seq : Nat
  group : Bool
  satinf : Bool
  link : Fin 8
  src : Nat
  data : List Byte
  deriving DecidableEq, Repr

/-- A step of a running plan: its eight words (17 R434), `next` the piece to send, ask for or land next, the pieces over,
pieces held, acknowledgement counts and credits (R433, R439), where a write parked the byte reached and the record, the tile that
a landing waited for and was granted (04 R106), and the address at which it waits for matrix commands with the last of them
(01 R27). -/
structure CStep where
  words : List Word
  st : StepSt
  next : Nat := 0
  sentPieces : Nat := 0
  early : List CPiece := []
  acks : SMap Nat := []
  credits : Nat := 8
  failed : Bool := false
  pos : Nat := 0
  parked : Option (Nat × Nat) := none
  tile : Option Word32 := none
  behind : Option (Nat × Nat) := none
  deriving DecidableEq, Repr

/-- A command in a collective engine (14 R374): a plan (COLLQ) or a donation (DONATE); `behind` as of a step, while it is read. -/
structure CCmd where
  id : Nat
  donate : Bool
  desc : Desc
  descs : List Desc
  off : Nat
  first : Nat
  tag : Nat
  dq : Nat
  thr : Nat
  lid : Nat
  asid : Nat
  satinf : Bool
  loaded : Bool
  plan : Nat
  rank : Nat
  ranks : List Word
  steps : SMap (Option CStep)
  failedStep : Option Nat
  waits : List Nat
  sys : Bool := false
  parked : Option (Nat × Nat) := none
  behind : Option (Nat × Nat) := none
  deriving DecidableEq, Repr

/-- One die. -/
structure Die where
  tlb : List TlbEntry := []
  large : List TlbEntry := []
  wcache : List WalkEntry := []
  misses : List Miss := []
  records : List FRec := []
  seq : Nat := 0
  prod : SMap Nat := []
  cons : SMap Nat := []
  corrected : SMap Nat := []
  uncorrected : SMap Nat := []
  scrubs : Nat := 0
  resent : SMap Nat := []
  granted : SMap Nat := []
  term : Nat := 0
  leader : Option (Fin 4) := none
  seen : Nat := 0
  timer : Nat := 0
  votes : List (Fin 4) := []
  pm : SMap (List Byte) := []
  booted : Bool := false
  recovery : Nat := 0
  coll : List CCmd := []
  discarded : Nat := 0
  deriving DecidableEq, Repr

/-- An Azrum link (17 R431, R436). -/
structure Link where
  down : Bool := false
  downSince : Nat := 0
  resends : Nat := 0
  deriving DecidableEq, Repr

/-- A host-port memory region (17 R423). -/
structure MemRegion where
  kind : Fin 4
  base : Word
  len : Word
  rd : Bool
  wr : Bool
  key : Nat
  deriving DecidableEq, Repr

/-- What remains of a packet that only has its completion record and signal to write (15 R388, R389): word 0 of the record,
START, the partition, the record's and the signal's address, operand and operation; `stage` is 0 before the record, 1
before the signal. -/
structure PacketEnd where
  w0 : Nat
  start : Nat
  part : Nat
  crec : Nat
  csig : Nat
  cval : Nat
  csop : Nat
  stage : Nat
  deriving DecidableEq, Repr

/-- A packet the front end has read (15 R381-R384): its slot index, the slots' bytes, its place in the order of admission
and what became of it: the physical signal words it names, and the names, with cluster and ASID, of those that did not translate then (06 R464), a WAIT's host entries compared and asked for (R393),
the accesses a TLBINV waits for (02 R54), a COPY's result, the fault record its access is parked on. -/
structure Packet where
  index : Nat
  slots : List (List Byte)
  order : Nat
  started : Bool := false
  done : Bool := false
  since : Nat := 0
  sigs : List Nat := []
  vsigs : List (Nat × Nat × Nat) := []
  met : List (Nat × Bool) := []
  asked : List Nat := []
  hostAt : Nat := 0
  barrier : List Nat := []
  result : Option Nat := none
  ending : Option PacketEnd := none
  parked : Option (Nat × Nat) := none
  deriving DecidableEq, Repr

/-- A history entry of the predictor (15 R399): for each slot of the LAUNCH that followed, its bytes 0-254, and per
8-byte word of bytes 0-247 the stride and confirm bit. -/
structure History where
  key : Nat
  image : List (List Byte)
  stride : List (List Word)
  confirm : List (List Bool)
  deriving DecidableEq, Repr

/-- A queue: descriptor words 0-4 (15 R379), its state and the packets in it. `held` is whether it holds a hardware slot
(R395), `since` its place among the queues that wait for one, `next` the first slot not yet read, `got` the slots read of
the packet there, `stale` the slot whose VALID byte does not match and since when (R382), `hold` the packet at which it
halts once every earlier one has started, with the error (R391). Then its prediction state (R399-R401): `lastKey` and
`lastEnd` of the LAUNCH admitted last, the speculation and the packet that claims it, and the counters of 06 R180. -/
structure Queue where
  defined : Bool := false
  w0 : Word := 0
  w1 : Word := 0
  w2 : Word := 0
  w3 : Word := 0
  w4 : Word := 0
  rd : Nat := 0
  wr : Nat := 0
  err : Nat := 0
  state : Nat := 0
  next : Nat := 0
  got : List (List Byte) := []
  packets : List Packet := []
  held : Bool := false
  since : Nat := 0
  stale : Option (Nat × Nat) := none
  hold : Option (Nat × Nat) := none
  faultAt : Nat := 0
  idleSince : Nat := 0
  starts : Nat := 0
  claims : Nat := 0
  discards : Nat := 0
  late : Nat := 0
  lastCause : Nat := 0
  history : List History := []
  lastKey : Option Nat := none
  lastEnd : Nat := 0
  spec : Option (Fin 4) := none
  claiming : Option Nat := none
  deriving DecidableEq, Repr

/-- A LAUNCH header as read (15 R385) with its declared ranges (R386). -/
structure Header where
  entry : Word
  idpc : Word
  sel : List Byte
  pool : Nat
  prio : Nat
  part : Nat
  slots : Nat
  bind : Nat
  floor : Nat
  widths : List Nat
  extents : List Nat
  flags : Nat
  cap : Nat
  res : Nat
  rseed : Nat
  fmode : Nat
  fs : List Word
  rootf : Word
  rootsz : Nat
  crec : Word
  csig : Word
  cval : Word
  csop : Nat
  args : List Byte
  reads : List (Nat × Nat)
  writes : List (Nat × Nat)
  reserved : Bool
  nread : Nat
  nwrite : Nat
  nslot : Nat
  deriving DecidableEq, Repr

/-- A launch in flight (07 R207, 15 R396, R398). `phase` is the next part of R398 to do: 2 the root counter, 3 the root
frame, 4 the pools and the range frame, 5 the range pieces, 6 the acquires and the root task; 7 its tasks run; 8 it is
reclaimed and its stores are waited for. `ctr` is the root counter's address, `pieces` the range pieces pushed, `order`
its packet's place in the order of admission, `stage` the watchdog step reached and `stageAt` since when (R402), `since` the cycle in which it was
dispatched (04 R102). -/
structure Launch where
  hdr : Header
  queue : Nat
  index : Nat
  asid : Nat
  part : Nat
  ctr : Option Nat
  phase : Nat
  start : Option Nat
  retired : Bool
  status : Nat
  leak : Nat
  order : Nat
  pieces : Nat
  stage : Nat
  stageAt : Nat
  stopped : Bool
  killed : Bool
  specOf : Option (Fin 4)
  claimed : Bool
  wave : Option (Nat × Nat × Bool)
  parked : Option (Nat × Nat) := none
  since : Nat := 0
  deriving DecidableEq, Repr

/-- What the undo log keeps (06 R170): a slot image, a page of bytes with its granules, an accumulator's bytes; `bad` are
the poisoned words of the bytes (03 R95). -/
inductive Undo
  | slot (thr : Nat) (old : Slot)
  | page (addr : Nat) (old : List Byte) (grans : List Bool) (ctrs : Option (Nat × SMap Nat)) (bad : List Nat)
  | acc (core : Nat) (n : Nat) (old : List Byte) (bad : List Nat)
  deriving DecidableEq, Repr

/-- A speculation (06 R163-R178); `used` are the leaves whose translation it used (02 R66), `busy` the slots that were
not idle when it started (R170), `predicted` bytes 0-254 of each slot of the LAUNCH it expects (15 R401). -/
structure Spec where
  lid : Nat
  queue : Nat
  extents : List (Nat × Nat)
  dry : SMap (Option Byte)
  undo : List Undo
  usage : Nat
  dieUse : SMap Nat
  claimed : Bool
  asked : Bool
  replies : List (Fin 4)
  conflict : Bool
  ended : Bool
  predicted : List (List Byte)
  used : List TlbEntry := []
  busy : List Nat := []
  deriving DecidableEq, Repr

/-- What a trailing identity of an access is (01 R14): a virtual address in an ASID, or an on-chip address. -/
inductive Place
  | glob (asid va : Nat)
  | chip (addr : Nat)
  deriving DecidableEq, Repr

/-- How far a piece of an access has come: at the port untranslated, in the port's request queue (02 R50), waiting for a walk, translated to a physical
address (memory type uncached or not), waiting for the line fill with a ticket, waiting for an instruction-cache fill (10
R265), parked on a fault record (02 R55), waiting in the target core's remote-wait table or answered with a retry (03 R74),
waiting for the matrix commands queued up to a ticket (01 R27), done. -/
inductive Phase
  | new
  | queued
  | walking
  | home (pa : Nat) (uncached : Bool)
  | filling (pa fill : Nat)
  | icache (id : Nat)
  | parked (die seq : Nat)
  | waiting
  | retry
  | behind (cmd : Nat)
  | done
  deriving DecidableEq, Repr

/-- One piece of an access (03 R36, 11 R289): `len` bytes at a place, at byte `pos` of the result or the data. -/
structure Piece where
  place : Place
  len : Nat
  pos : Nat
  phase : Phase
  deriving DecidableEq, Repr

/-- Access kinds of a walk (02 R44), coded as in ACC of 02 R55. -/
inductive Acc | read | write | fetch | atomic
  deriving DecidableEq, Repr

/-- What a completed load does with its bytes. -/
inductive Dest
  | g (n : Fin 32) (size : Nat) (sext : Bool)
  | v (n : Fin 32)
  | vb (n : Fin 32)
  | lanes (n : Fin 32) (ty : ElemTy) (mask : Word)
  | seg (n : Fin 8) (sel : Nat)
  | fetch (key : Nat)
  | header
  deriving DecidableEq, Repr

/-- The ten atomics, by kind code (11 R291). -/
inductive AmoKind | add | and | or | xor | min | max | minu | maxu | swp | cas
  deriving DecidableEq, Repr

/-- The granule operation of an access (03 R71). -/
inductive GranOp | none | wait | consume | test
  deriving DecidableEq, Repr

/-- A message on its way (11 R302, R301): the target, the entry, its sender, whether it counts against the sender's limit. -/
structure Msg where
  target : Nat
  entry : MailEntry
  sender : Nat
  counted : Bool
  deriving DecidableEq, Repr

/-- Kinds of transaction performed away from the issuing pipeline. -/
inductive FlightKind
  | load (dest : Dest) (gop : GranOp) (acc : Acc) (got : VWord)
  | store (data : VWord) (mask : BitVec 64) (fill : Option Bool) (grans : Bool) (ids : List Nat) (first : Nat)
  | atomic (kind : AmoKind) (wd : Bool) (src cmp : Word) (d : Fin 32) (acq : Bool)
  | counterInc (addr : Nat) (amount : Nat)
  | counterDec (addr : Nat) (amount : Nat) (outside : Bool)
  | syncTest (addr : Nat) (place : Nat)
  | jnew (d : Fin 32)
  | jfree (addr : Nat)
  | tileRead (handle : Word32) (d : Fin 32) (addr : Bool)
  | tdropHeld (handle : Word32) (op : Word) (waits : List Nat) (loads : List Nat)
  | tdrop (handle : Word32) (op : Word)
  | tinc (handle : Word32) (k : Nat) (op : Word)
  | tfree (handle : Word32) (op : Word)
  | handle (h : Word32) (d : Fin 32)
  | message (m : Msg)
  | bbwait (addr : Nat) (d : Fin 32)
  | accout (o : AccV) (row part : Nat) (satinf : Bool)
  | accin (o : AccV) (row part : Nat) (v : VWord) (satinf : Bool)
  | accst (cmd : MCmd)
  | steal (entry : DqEntry) (victim thief : Nat) (cross : Bool) (piece : Bool) (hdr : List Byte) (released : Bool)
      (moves : List (Word32 × Word32))
  deriving DecidableEq, Repr

/-- A transaction on its way (the model's own record; log 3). `orphan`: its task has ended, its result and trap go
nowhere. `moved`: the slot its thread has migrated to (16 R418, R419). `arrived`: it has reached its destination; `stamp`: the ticket at which it was
sent behind the port, for the order of packets (03 R98). -/
structure Flight where
  id : Nat
  thr : Nat
  pc : Word
  lid : Nat
  asid : Nat
  born : Nat
  sys : Bool
  pieces : List Piece
  kind : FlightKind
  orphan : Bool := false
  moved : Option Nat := none
  arrived : Bool := false
  stamp : Nat := 0
  deriving DecidableEq, Repr

/-- What the module sends to the outside (15, 17), in order. -/
inductive Out
  | hostWrite (part : Nat) (off : Nat) (data : List Byte)
  | fetchAdd (part : Nat) (off : Nat) (value : Word)
  | hostRead (part : Nat) (off : Nat) (q index entry : Nat)
  | readResponse (qp : Nat) (data : List Byte)
  | nak (qp : Nat)
  | remoteAccessError (qp : Nat)
  | ecnResponse (qp : Nat)
  | response (src : Nat) (op : Nat) (seq : Word) (status : Nat) (body : List Byte)
  | event (n : Nat) (code : Nat) (body : List Byte)
  | azrum (link : Nat) (w0 w1 : Word) (data : List Byte)
  | resend (link : Nat)
  | stream (dest : Stream) (pa : Nat) (data : List Byte)
  deriving DecidableEq, Repr

/-- A held management event (17 R430). -/
structure Event where
  n : Nat
  code : Nat
  body : List Byte
  deriving DecidableEq, Repr

/-- A kept management response (17 R427). -/
structure Kept where
  src : Nat
  op : Nat
  seq : Word
  status : Nat
  body : List Byte
  deriving DecidableEq, Repr

/-- The whole module. `woken` are the slots that an event of the cycle under way has returned to rotation before its issue turns:
they issue from the next cycle on (07 R183; log 3). -/
structure State where
  cycle : Nat := 0
  cur : Nat := 0
  turn : Nat := 0
  agenda : List (Nat × Ev) := []
  woken : List Nat := []
  flights : List Flight := []
  nextId : Nat := 0
  free : Nat := 0
  mem : Memory := []
  poison : SMap Bool := []
  grans : SMap Bool := []
  slots : SMap Slot := []
  cores : SMap Core := []
  clusters : SMap Cluster := []
  dies : SMap Die := []
  asidRoots : SMap Word := []
  asidOld : SMap (List Word) := []
  segtabs : SMap (Option (Word × Nat)) := []
  parts : SMap (Option PartRec) := []
  launches : SMap (Option Launch) := []
  queues : SMap Queue := []
  dfarea0 : Word := 0x0000005E00000000
  dfarea1 : Word := 0x8000000000008000
  specs : SMap (Option Spec) := []
  images : SMap (Option Saved) := []
  regions : List MemRegion := []
  qpBind : SMap (Option Nat) := []
  qpError : SMap Bool := []
  donMap : SMap (Option Nat) := []
  modid : Word := 0
  endpoint : Option (Bool × List Byte × BitVec 16) := none
  events : List Event := []
  eventNo : Nat := 1
  lost : Nat := 0
  kept : List Kept := []
  controllers : List Nat := []
  flash : SMap (List Byte) := []
  idDigest : List Byte := []
  works : List (Nat × Word) := []
  rejected : List Nat := []
  links : SMap Link := []
  outbox : List Out := []
  deriving DecidableEq, Repr

/-- Why the machine can stop with a fault: never. Every wrong use the spec names is a trap, a status, a launch error
or an ignored write of the machine itself, so no meaning raises a fault and the type has no constructor. -/
inductive Fault
  deriving DecidableEq, Repr

/-- Why the model can refuse. -/
inductive Refusal
  /-- The instruction has no meaning yet; raised by Dispatch.lean's refused arms only. Safe. -/
  | notModelled (mnemonic : String)
  deriving DecidableEq, Repr

/-- The module right after power-on reset and before measured boot: cycle 0, every slot IDLE with null segments (R6),
tiles ZF 1 and generation 1 (R102), POOLP 7 CAP 64 (R104), STINT 0x1000 (R361), DFAREA (R162), next event 1 (R430);
what the spec leaves open is zero and FULL (logs 1, 2). -/
def State.reset : State := {}

end Sys2Proof.Machine
end

