-- ==== Sys2Proof/Machine/Ops.lean ====
section
/-! DEFINITION. The named operations every meaning shares: access to the units, the agenda, registers with their
full/empty bits (09 R233, R234), blocking and waking (07 R182, R183), taking a trap and returning from one
(16 R405, R406), deferred traps (02 R60), events to the host (17 R430), tiles becoming free (04 R103), the undo log
(06 R170) and the discard of a speculation (06 R174). -/

namespace Sys2Proof.Machine

/-- The result of a meaning. -/
abbrev Res := Host.Outcome State Fault Refusal

/-! ### Units -/

/-- The slot of global thread `t` (R1). -/
def State.slot (s : State) (t : Nat) : Slot := mapGet {} s.slots t
/-- Replaces a slot. -/
def State.setSlot (s : State) (t : Nat) (x : Slot) : State := { s with slots := mapPut {} s.slots t x }
/-- Applies `f` to a slot. -/
def State.modSlot (s : State) (t : Nat) (f : Slot → Slot) : State := s.setSlot t (f (s.slot t))
/-- The core with id `c` (R1). -/
def State.core (s : State) (c : Nat) : Core := mapGet {} s.cores c
/-- Applies `f` to a core. -/
def State.modCore (s : State) (c : Nat) (f : Core → Core) : State :=
  { s with cores := mapPut {} s.cores c (f (s.core c)) }
/-- The cluster with global id `c` (R1). -/
def State.cluster (s : State) (c : Nat) : Cluster := mapGet {} s.clusters c
/-- Applies `f` to a cluster. -/
def State.modCluster (s : State) (c : Nat) (f : Cluster → Cluster) : State :=
  { s with clusters := mapPut {} s.clusters c (f (s.cluster c)) }
/-- Die `d`. -/
def State.die (s : State) (d : Nat) : Die := mapGet {} s.dies d
/-- Applies `f` to a die. -/
def State.modDie (s : State) (d : Nat) (f : Die → Die) : State := { s with dies := mapPut {} s.dies d (f (s.die d)) }
/-- The queue `q`. -/
def State.queue (s : State) (q : Nat) : Queue := mapGet {} s.queues q
/-- Applies `f` to a queue. -/
def State.modQueue (s : State) (q : Nat) (f : Queue → Queue) : State :=
  { s with queues := mapPut {} s.queues q (f (s.queue q)) }
/-- The launch with id `l`, if in flight. -/
def State.launch (s : State) (l : Nat) : Option Launch := mapGet none s.launches l
/-- Replaces the record of a launch. -/
def State.setLaunch (s : State) (l : Nat) (x : Option Launch) : State :=
  { s with launches := mapPut none s.launches l x }
/-- Applies `f` to a launch in flight. -/
def State.modLaunch (s : State) (l : Nat) (f : Launch → Launch) : State := s.setLaunch l ((s.launch l).map f)

/-- The map with `f` applied to every listed value. -/
def mapEach {α : Type} [DecidableEq α] (dflt : α) (f : α → α) (m : SMap α) : SMap α :=
  (m.map fun e => (e.1, f e.2)).filter fun e => e.2 ≠ dflt

/-- The core of a thread (R1). -/
def coreOf (t : Nat) : Nat := t / 16
/-- The cluster of a thread (R1). -/
def clusterOf (t : Nat) : Nat := t / 128
/-- The die of a cluster (R1). -/
def dieOfCluster (c : Nat) : Nat := c / 64

/-- The launch id a slot's registers name (R247). -/
def Slot.lidN (x : Slot) : Nat := x.lid.toNat % 4096
/-- The ASID of a launch (02 R39). -/
def State.asidOf (s : State) (lid : Nat) : Nat := match s.launch lid with | some l => l.asid | none => 0
/-- The partition a core is assigned to (01 R19, window 8). -/
def State.partOf (s : State) (c : Nat) : Nat := (s.core c).cpart.toNat % 16
/-- The partition on whose behalf a thread of a launch accesses memory: the launch's, or its core's. -/
def State.partFor (s : State) (lid thr : Nat) : Nat := match s.launch lid with | some l => l.part | none => s.partOf (thr / 16)
/-- Whether cluster `cl` is in the partition of core `c` (01 R23). -/
def State.inPart (s : State) (c cl : Nat) : Bool := (s.core c).cmask.getLsbD cl
/-- The speculation a launch runs as, until its merge (06 R177). -/
def State.specOf (s : State) (lid : Nat) : Option (Fin 4) :=
  match s.launch lid with | some l => l.specOf | none => none

/-- Whether a launch runs as a speculation that no packet has claimed: its tiles carry SPEC (04 R115). -/
def State.unclaimed (s : State) (lid : Nat) : Bool :=
  match s.specOf lid with
  | none => false
  | some sid => match mapGet none s.specs sid.val with | some sp => !sp.claimed | none => false

/-! ### Agenda, tickets, output -/

/-- Inserts an event after every event due no later. -/
def insertDue (d : Nat) (i : Ev) : List (Nat × Ev) → List (Nat × Ev)
  | [] => [(d, i)]
  | (e, j) :: rest => if e ≤ d then (e, j) :: insertDue d i rest else (d, i) :: (e, j) :: rest
/-- Puts event `i` on the agenda, due in cycle `d` (log 3). -/
def State.post (s : State) (d : Nat) (i : Ev) : State := { s with agenda := insertDue d i s.agenda }
/-- Puts event `i` on the agenda for this cycle. -/
def State.postNow (s : State) (i : Ev) : State := s.post s.cycle i
/-- Puts event `i` on the agenda after the latency of transaction `id` (log 3). -/
def State.postLat (s : State) (id : Nat) (i : Ev) : State := s.post (s.cycle + Config.latency id) i
/-- Takes the next ticket. -/
def State.fresh (s : State) : Nat × State := (s.nextId, { s with nextId := s.nextId + 1 })
/-- Puts event `i` on the agenda after the latency of transaction `id`, unless it stands there already. -/
def State.poll (s : State) (id : Nat) (i : Ev) : State :=
  if s.agenda.any fun e => e.2 = i then s else s.postLat id i
/-- Puts event `i` on the agenda for this cycle, unless it stands there already as due. -/
def State.pollNow (s : State) (i : Ev) : State :=
  if s.agenda.any fun e => e.2 = i && e.1 ≤ s.cycle then s else s.postNow i
/-- Draws a choice the manual leaves open (log 7). -/
def State.draw (s : State) : Nat × State := (Config.choose s.free, { s with free := s.free + 1 })
/-- Records what the module sends to the outside. -/
def State.emit (s : State) (o : Out) : State := { s with outbox := s.outbox ++ [o] }

/-- Holds one management event and sends it if an endpoint is registered (17 R430). -/
def State.holdEvent (s : State) (code : Nat) (body : List Byte) : State :=
  let e : Event := ⟨s.eventNo, code, body⟩
  let s := { s with events := s.events ++ [e], eventNo := s.eventNo + 1 }
  let s := if s.endpoint.isSome then s.emit (.event e.n code body) else s
  s.post (s.cycle + 1750000) (.eventResend e.n)
/-- Raises a management event; with all 256 places in use it is dropped, and the next one that can be held is
preceded by a LOST event (17 R430). -/
def State.raise (s : State) (code : Nat) (body : List Byte) : State :=
  if s.lost = 0 then
    if s.events.length < 256 then s.holdEvent code body else { s with lost := s.lost + 1 }
  else if s.events.length < 255 then
    let s := s.holdEvent 0x1FF (natLe s.lost 8)
    ({ s with lost := 0 }).holdEvent code body
  else { s with lost := s.lost + 1 }

/-! ### Registers -/

/-- g[n] with its full/empty bit; g0 is zero and FULL (R233). -/
def Slot.gReg (x : Slot) (n : Nat) : Reg := if n = 0 then {} else mapGet {} x.g n
/-- v[n] with its full/empty bit. -/
def Slot.vReg (x : Slot) (n : Nat) : VReg := mapGet {} x.v n
/-- m[n] with its full/empty bit; m0 is all ones and FULL (R233). -/
def Slot.mReg (x : Slot) (n : Nat) : Reg := if n = 0 then ⟨BitVec.allOnes 64, false⟩ else mapGet {} x.m n
/-- The value of g[n]. -/
def Slot.rg (x : Slot) (n : Nat) : Word := (x.gReg n).val
/-- The value of v[n]. -/
def Slot.rv (x : Slot) (n : Nat) : VWord := (x.vReg n).val
/-- The value of m[n]. -/
def Slot.rm (x : Slot) (n : Nat) : Word := (x.mReg n).val
/-- The descriptor in sg[n]. -/
def Slot.rsg (x : Slot) (n : Nat) : Desc := mapGet {} x.sg n
/-- The format descriptor in fs[n]. -/
def Slot.rfs (x : Slot) (n : Nat) : Word := mapGet 0x700 x.fs n
/-- Writes g[n] and sets it FULL; a write to g0 is discarded (R233). -/
def Slot.wg (x : Slot) (n : Nat) (v : Word) : Slot := if n = 0 then x else { x with g := mapPut {} x.g n ⟨v, false⟩ }
/-- Writes v[n] and sets it FULL. -/
def Slot.wv (x : Slot) (n : Nat) (v : VWord) : Slot := { x with v := mapPut {} x.v n ⟨v, false⟩ }
/-- Writes m[n] and sets it FULL; a write to m0 is discarded (R233). -/
def Slot.wm (x : Slot) (n : Nat) (v : Word) : Slot := if n = 0 then x else { x with m := mapPut {} x.m n ⟨v, false⟩ }
/-- Writes sg[n] and clears its pending bit. -/
def Slot.wsg (x : Slot) (n : Nat) (d : Desc) : Slot :=
  { x with sg := mapPut {} x.sg n d, sgPend := mapPut false x.sgPend n false }
/-- Writes fs[n]. -/
def Slot.wfs (x : Slot) (n : Nat) (v : Word) : Slot := { x with fs := mapPut 0x700 x.fs n v }
/-- Sets g[n] EMPTY, its bits kept; g0 stays FULL (R233, R234). -/
def Slot.eg (x : Slot) (n : Nat) : Slot := if n = 0 then x else { x with g := mapPut {} x.g n ⟨x.rg n, true⟩ }
/-- Sets v[n] EMPTY, its bits kept. -/
def Slot.ev (x : Slot) (n : Nat) : Slot := { x with v := mapPut {} x.v n ⟨x.rv n, true⟩ }
/-- The next instruction (R184). -/
def Slot.next (x : Slot) : Slot := { x with pc := x.pc + 4 }

/-- Whether a register of a file is EMPTY. -/
def Slot.isEmpty (x : Slot) : RegFile → Nat → Bool
  | .g, n => (x.gReg n).empty
  | .v, n => (x.vReg n).empty
  | .m, n => (x.mReg n).empty
/-- The number of a register as tval of an empty source holds it (R404 code 6). -/
def RegFile.code : RegFile → Nat → Nat
  | .g, n => n
  | .v, n => n + 32
  | .m, n => n + 64

/-! ### Blocking and waking -/

/-- The slot leaves rotation inside an instruction that has not completed (07 R182, R183). -/
def Slot.block (x : Slot) (why : Block) : Slot := { x with status := .blocked why }
/-- The slot returns to rotation if it was out for `why` (07 R183). -/
def Slot.wake (x : Slot) (why : Block) : Slot := if x.status = .blocked why then { x with status := .ready } else x
/-- Returns every slot of core `c` that waits for `why` to rotation. -/
def State.wakeCore (s : State) (c : Nat) (why : Block) : State :=
  { s with slots := (s.slots.map fun e => if coreOf e.1 = c then (e.1, e.2.wake why) else e).filter fun e => e.2 ≠ {} }
/-- Returns to rotation every slot of core `c` whose instruction touches one of the granules [lo, hi) (03 R73, R75). -/
def State.wakeGrans (s : State) (c lo hi : Nat) : State :=
  let f := fun (x : Slot) => match x.status with
    | .blocked (.granule ks) => if ks.any fun k => lo ≤ k && k < hi then { x with status := .ready } else x
    | _ => x
  { s with slots := (s.slots.map fun e => if coreOf e.1 = c then (e.1, f e.2) else e).filter fun e => e.2 ≠ {} }
/-- Blocks the issuing slot. -/
def State.blockCur (s : State) (why : Block) : State := s.modSlot s.cur (·.block why)

/-- Where the state of a thread of a launch stands: live, in the shadow store, or in the HBM image (16 R415). -/
inductive Where | live | shadow | image (key : Nat)
  deriving DecidableEq, Repr

/-- The key of a partition's image of a cluster in State.images. -/
def imageKey (part cl : Nat) : Nat := part * 256 + cl

/-- Where launch `lid`'s state of cluster `cl` stands (16 R415): live unless its partition's context of the cluster is
switched out. -/
def State.whereIs (s : State) (lid cl : Nat) : Where :=
  match s.launch lid with
  | none => .live
  | some l =>
    let c := s.cluster cl
    if c.part = some l.part then .live
    else if c.shadow.any (fun sv => sv.part = l.part) then .shadow
    else if (mapGet none s.images (imageKey l.part cl)).isSome then .image (imageKey l.part cl)
    else .live

/-- The entries of keys [lo, lo + len). -/
def mapRange {α : Type} (m : SMap α) (lo len : Nat) : SMap α := m.filter fun e => lo ≤ e.1 && e.1 < lo + len
/-- The map with the entries of keys [lo, lo + len) replaced by those of `r`. -/
def mapReplace {α : Type} (m : SMap α) (lo len : Nat) (r : SMap α) : SMap α :=
  (m.filter fun e => e.1 < lo) ++ mapRange r lo len ++ (m.filter fun e => lo + len ≤ e.1)

/-- The key of an on-chip byte in State.mem: 2^52 + its 40-bit address. -/
def chipKey (a : Nat) : Nat := 2 ^ 52 + a

/-- What stands live on a cluster, as a saved context of partition `p` (03 R89, 16 R412). -/
def State.liveOf (s : State) (p cl : Nat) : Saved :=
  { part := p, slots := mapRange s.slots (cl * 128) 128, cores := mapRange s.cores (cl * 8) 8,
    tiles := (s.cluster cl).tiles, pools := (s.cluster cl).pools, ctrs := (s.cluster cl).ctrs, msgs := [],
    bytes := mapRange s.mem (chipKey (cl * 2 ^ 32)) (2 ^ 32),
    grans := mapRange s.grans (chipKey (cl * 2 ^ 32) / 16) (2 ^ 28),
    poison := mapRange s.poison (chipKey (cl * 2 ^ 32) / 8) (2 ^ 29) }
/-- The state with a saved context standing live on a cluster. -/
def State.putLive (s : State) (cl : Nat) (sv : Saved) : State :=
  let s := s.modCluster cl fun c => { c with tiles := sv.tiles, pools := sv.pools, ctrs := sv.ctrs }
  { s with slots := mapReplace s.slots (cl * 128) 128 sv.slots, cores := mapReplace s.cores (cl * 8) 8 sv.cores,
           mem := mapReplace s.mem (chipKey (cl * 2 ^ 32)) (2 ^ 32) sv.bytes,
           grans := mapReplace s.grans (chipKey (cl * 2 ^ 32) / 16) (2 ^ 28) sv.grans,
           poison := mapReplace s.poison (chipKey (cl * 2 ^ 32) / 8) (2 ^ 29) sv.poison }
/-- Applies `f` to a saved context of cluster `cl` as if it stood live (16 R415), the live one set aside as an image. -/
def State.inSaved {α : Type} (s : State) (cl : Nat) (sv : Saved) (f : State → State × α) : State × Saved × α :=
  let part := (s.cluster cl).part
  let key := imageKey (part.getD 16) cl
  let live := s.liveOf (part.getD 16) cl
  let t := (s.putLive cl sv).modCluster cl fun c =>
    { c with part := some sv.part, shadow := c.shadow.filter fun x => x.part ≠ sv.part }
  let r := f { t with images := mapPut none t.images key (some live) }
  let saved := { r.1.liveOf sv.part cl with msgs := sv.msgs }
  let t := (r.1.putLive cl ((mapGet none r.1.images key).getD live)).modCluster cl fun c => { c with part := part }
  ({ t with images := mapPut none t.images key (mapGet none s.images key) }, saved, r.2)
/-- Applies `f` to cluster `cl` as launch `lid` left it: live, or its saved copy wherever that lies (16 R415). -/
def State.atPartR {α : Type} (s : State) (lid cl : Nat) (f : State → State × α) : State × α :=
  match s.whereIs lid cl with
  | .live => f s
  | .shadow =>
    match (s.cluster cl).shadow with
    | none => f s
    | some sv => let r := s.inSaved cl sv f; (r.1.modCluster cl fun c => { c with shadow := some r.2.1 }, r.2.2)
  | .image k =>
    match mapGet none s.images k with
    | none => f s
    | some sv => let r := s.inSaved cl sv f; ({ r.1 with images := mapPut none r.1.images k (some r.2.1) }, r.2.2)
/-- As atPartR, for an operation without an answer. -/
def State.atPart (s : State) (lid cl : Nat) (f : State → State) : State := (s.atPartR lid cl fun s => (f s, ())).1

/-- Applies `f` to the slot of thread `t` of launch `lid` where its state then stands (16 R415). -/
def State.onThread (s : State) (lid t : Nat) (f : Slot → Slot) : State :=
  s.atPart lid (clusterOf t) fun s => s.modSlot t f

/-- The thread to which a transaction belongs: the slot its thread has migrated to, or the one that issued it (16 R418,
R419). -/
def Flight.owner (f : Flight) : Nat := f.moved.getD f.thr
/-- Where what arrives for thread `t` of launch `lid` goes after a migration: the completion of a command with a ticket given
before it, and every message and window access (ticket 0) (16 R418, R419). -/
def State.forwardOnce (s : State) (id lid t : Nat) : Nat :=
  match (s.core (coreOf t)).forward.find? fun f =>
      f.launch = lid && (f.slot = none || f.slot = some (t % 16)) && id < f.since with
  | some f => f.toCore * 16 + (if f.slot.isSome then f.toSlot else t % 16)
  | none => t
/-- The slot at the end of a chain of forwarding entries; `fuel` bounds its length. -/
def State.forwardChain (s : State) (id lid : Nat) : Nat → Nat → Nat
  | 0, t => t
  | fuel + 1, t => let u := s.forwardOnce id lid t; if u = t then t else s.forwardChain id lid fuel u
/-- Where what arrives for thread `t` of launch `lid` goes after migrations. -/
def State.forwarded (s : State) (id lid t : Nat) : Nat := s.forwardChain id lid 2048 t

/-- An arriving result for g[n]: the register becomes FULL and a slot waiting on it wakes (01 R24, R26). -/
def Slot.arriveG (x : Slot) (n : Nat) (v : Word) : Slot := (x.wg n v).wake (.reg .g n)
/-- An arriving result for v[n]. -/
def Slot.arriveV (x : Slot) (n : Nat) (v : VWord) : Slot := (x.wv n v).wake (.reg .v n)
/-- An arriving write of m[n]. -/
def Slot.arriveM (x : Slot) (n : Nat) (v : Word) : Slot := (x.wm n v).wake (.reg .m n)
/-- `n` of the accesses counted in sbcnt are acknowledged: the store allowance clears, and a thread that drains looks
again (03 R78, 02 R59, 05 R143). -/
def Slot.acked (x : Slot) (n : Nat) : Slot := (({ x with sbcnt := x.sbcnt - n }).wake .allowance).wake .drain

/-! ### Taking a trap and returning (16 R405, R406) -/

/-- Bit positions of tstat (R406). -/
def tstatPmode : Word := 0x1
/-- INH. -/
def tstatInh : Word := 0x40
/-- NEST. -/
def tstatNest : Word := 0x80
/-- DEF. -/
def tstatDef : Word := 0x100
/-- DOVF. -/
def tstatDovf : Word := 0x200

/-- Whether the slot is in a handler (tstat.INH). -/
def Slot.inHandler (x : Slot) : Bool := x.tstat &&& tstatInh != 0

/-- tstat after a trap of R405: PMODE, DEF, INH and RPC written, NEST set if INH was 1, DOVF kept. -/
def Slot.trapStat (x : Slot) (rpc : Word) (deferred : Bool) : Word :=
  (((rpc >>> 2) &&& 0x3FFFFFFFFFFF) <<< 18) ||| (x.tstat &&& (tstatDovf ||| tstatNest)) |||
    (if x.inHandler then tstatNest else 0) ||| (if deferred then tstatDef else 0) ||| tstatInh |||
    (if x.mode = .system then tstatPmode else 0)

/-- TakeTrap of R405. -/
def Slot.takeTrap (x : Slot) (cause : Nat) (val fpc rpc : Word) (deferred : Bool) : Slot :=
  { x with tstat := x.trapStat rpc deferred, tpc := fpc &&& ~~~(3 : Word), tcause := BitVec.ofNat 64 cause, tval := val,
           mode := .system, pc := x.tvec, status := .ready, relFrom := none, relWaits := [], fetched := none }

/-- TRET's return (R276, R406): PC = tpc, the mode from PMODE, INH cleared. -/
def Slot.trapReturn (x : Slot) : Slot :=
  { x with pc := x.tpc, mode := if x.tstat &&& tstatPmode != 0 then .system else .user,
           tstat := x.tstat &&& ~~~tstatInh }

/-- tstat as a system write leaves it: reserved bits read as zero (R406). -/
def tstatMask : Word := 0xFFFFFFFFFFFC03C1

/-! ### Tiles becoming free (04 R101, R103) -/

/-- The next generation (R101). -/
def nextGen (g : Nat) : Nat := if g = 0x7FFF then 1 else g + 1
/-- A tile of a cluster. -/
def State.tile (s : State) (cl i : Nat) : Tile := mapGet {} (s.cluster cl).tiles i
/-- Applies `f` to a tile. -/
def State.modTile (s : State) (cl i : Nat) (f : Tile → Tile) : State :=
  s.modCluster cl fun c => { c with tiles := mapPut {} c.tiles i (f (mapGet {} c.tiles i)) }
/-- A core's entries without the refusal marks of a thief's cluster, which has freed a tile (07 R202). -/
def Core.unmark (cl : Nat) (c : Core) : Core :=
  let f := fun (e : DqEntry) => { e with refused := e.refused.filter (· ≠ cl) }
  { c with deque := c.deque.map f, spilled := c.spilled.map f }
/-- A saved context without those marks. -/
def Saved.unmark (cl : Nat) (sv : Saved) : Saved := { sv with cores := mapEach {} (Core.unmark cl) sv.cores }
/-- Every core's entries, live or saved, without the marks of cluster `cl`. -/
def State.unmark (s : State) (cl : Nat) : State :=
  { s with cores := mapEach {} (Core.unmark cl) s.cores
           clusters := mapEach {} (fun c => { c with shadow := c.shadow.map (Saved.unmark cl) }) s.clusters
           images := mapEach none (fun o => o.map (Saved.unmark cl)) s.images }
/-- The tile becomes FREE and is offered to the allocation queue (R103, R106). In the word of a FREE tile SPEC reads 0 and
PPART keeps its value (log 53). -/
def State.freeTile (s : State) (cl i : Nat) (zf : Bool) : State :=
  let s := s.modTile cl i fun t =>
    { t with st := .free, count := 0, gen := nextGen t.gen, zf := t.zf || zf, spec := false }
  let s := (s.modCluster cl fun c => { c with lastGrant := s.cycle }).unmark cl
  if (s.cluster cl).allocQ = [] then s else s.postNow (.allocationGrant cl)

/-- Fields of a handle (04 R100): cluster, tile index, generation. -/
def handleCluster (h : Word32) : Nat := h.toNat / 2 ^ 24
/-- INDEX. -/
def handleIndex (h : Word32) : Nat := h.toNat / 2 ^ 15 % 512
/-- GEN. -/
def handleGen (h : Word32) : Nat := h.toNat % 2 ^ 15
/-- The handle of a tile at generation `g`. -/
def mkHandle (cl i g : Nat) : Word32 := BitVec.ofNat 32 (cl * 2 ^ 24 + i * 2 ^ 15 + g)
/-- Whether a handle is current (R101). -/
def State.handleCurrent (s : State) (h : Word32) : Bool :=
  let t := s.tile (handleCluster h) (handleIndex h)
  decide (t.gen = handleGen h) && (t.st = .held || t.st = .persistent)
/-- A ring with the handles that `p` keeps, their order and the head position kept (log 53). -/
def Ring.keep (p : Word32 → Bool) (r : Ring) : Ring :=
  { r with handles := r.handles.filter p, taken := ((r.handles.take r.taken).filter p).length }
/-- The rings of a cluster's cores with the handles that `p` keeps. -/
def State.keepHandles (s : State) (cl : Nat) (p : Word32 → Bool) : State :=
  (List.range 8).foldl (fun s i => s.modCore (cl * 8 + i) fun k => { k with rings := mapEach {} (Ring.keep p) k.rings }) s
/-- Removes stale handles from every ring of a cluster's cores (R113). -/
def State.purgeRings (s : State) (cl : Nat) : State := s.keepHandles cl s.handleCurrent
/-- A reader of a tile is done with it: USE falls, and at zero a free that waits takes place (R111). -/
def State.lowerUse (s : State) (h : Word32) : State :=
  let cl := handleCluster h
  let t := s.tile cl (handleIndex h)
  let s := s.modTile cl (handleIndex h) fun t => { t with use := t.use - 1 }
  let s := s.postNow (.matrixSelect cl)
  if t.use = 1 && t.st = .held && t.count = 0 then s.postNow (.deferredTileFree cl (handleIndex h)) else s

/-- A packet of the steal or message network for a launch is sent by a cluster (07 R208). -/
def State.countSent (s : State) (lid cl : Nat) : State :=
  s.modCluster cl fun c => { c with sent := mapPut 0 c.sent lid (mapGet 0 c.sent lid + 1) }
/-- A packet of the steal or message network for a launch is received by a cluster (07 R208). -/
def State.countRecvd (s : State) (lid cl : Nat) : State :=
  s.modCluster cl fun c => { c with recvd := mapPut 0 c.recvd lid (mapGet 0 c.recvd lid + 1) }

/-! ### Speculation: the undo log and the discard (06 R164, R170, R174) -/

/-- The address of core `c`'s window `w`, offset 0 (01 R18). -/
def coreWin (c w : Nat) : Nat := (c / 8) * 2 ^ 32 + (c % 8) * 2 ^ 28 + w * 2 ^ 24
/-- The address of cluster `cl`'s shared window `w`, offset 0. -/
def sharedWin (cl w : Nat) : Nat := cl * 2 ^ 32 + 2 ^ 31 + w * 2 ^ 24

/-- The undo log's bytes for an entry (R164). -/
def Undo.cost : Undo → Nat
  | .slot _ _ => 4096
  | .page _ _ _ _ _ => 4096
  | .acc _ _ _ _ => 16384
/-- The die of the state that an undo record names. -/
def Undo.die : Undo → Nat
  | .slot t _ => t / 8192
  | .page a _ _ _ _ => a / 2 ^ 38
  | .acc c _ _ _ => c / 512
/-- The cluster of the state that an undo record names. -/
def Undo.cluster : Undo → Nat
  | .slot t _ => clusterOf t
  | .page a _ _ _ _ => a / 2 ^ 32
  | .acc c _ _ _ => c / 8
/-- A die's data part of the dry-fit area: seven eighths of its quarter (R162). -/
def State.dryShare (s : State) : Nat := s.dfarea1.toNat % 2 ^ 16 * 57344
/-- Whether speculation `sp` may use `n` more bytes on a die: U stays within 1 GiB and the die's data part holds them
(R164). -/
def State.dryRoom (s : State) (sp : Spec) (die n : Nat) : Bool :=
  let used := s.specs.foldl (fun k e => k + (match e.2 with | some x => mapGet 0 x.dieUse die | none => 0)) 0
  sp.usage + n ≤ 2 ^ 30 && used + n ≤ s.dryShare
/-- A speculation uses `n` more bytes on a die. -/
def Spec.use (sp : Spec) (die n : Nat) : Spec :=
  { sp with usage := sp.usage + n, dieUse := mapPut 0 sp.dieUse die (mapGet 0 sp.dieUse die + n) }
/-- Whether two undo records name the same state. -/
def Undo.same : Undo → Undo → Bool
  | .slot a _, .slot b _ => a = b
  | .page a _ _ _ _, .page b _ _ _ _ => a = b
  | .acc c n _ _, .acc d m _ _ => c = d && n = m
  | _, _ => false

/-- Poison of [k, k + n) as an undo record holds it. -/
def State.putPoison (s : State) (k n : Nat) (bad : List Nat) : State :=
  { s with poison := bad.foldl (fun m i => mapPut false m i true) (mapClear s.poison (k / 8) (n / 8)) }
/-- Puts an undo record back (R174 step 4). What a slot counts of accesses and messages still on their way, and the mailbox,
which serves every launch (11 R305), are not part of the image. -/
def State.restore (s : State) : Undo → State
  | .slot t x => s.modSlot t fun y => { x with sbcnt := y.sbcnt, unaccepted := y.unaccepted, mail := y.mail }
  | .page a bs gs ct bad =>
    let s := { s with mem := writeList s.mem (chipKey a) bs }.putPoison (chipKey a) 4096 bad
    let s := { s with grans := (gs.zipIdx).foldl (fun g e => mapPut false g (chipKey a / 16 + e.2) e.1) s.grans }
    let n := a % 2 ^ 24 / 8
    match ct with
    | some (cl, m) => s.modCluster cl fun c => { c with ctrs := mapReplace c.ctrs n 512 (mapRange m n 512) }
    | none => s
  | .acc c n bs bad =>
    let k := chipKey (coreWin c 4 + n * 0x4000)
    { s with mem := writeList s.mem k bs }.putPoison k 0x4000 bad

/-! ### Transactions dropped with their launch -/

/-- The transaction with a ticket. -/
def State.flight (s : State) (id : Nat) : Option Flight := s.flights.find? fun f => f.id = id
/-- Applies `f` to a transaction. -/
def State.modFlight (s : State) (id : Nat) (f : Flight → Flight) : State :=
  { s with flights := s.flights.map fun x => if x.id = id then f x else x }
/-- The transaction is over. -/
def State.dropFlight (s : State) (id : Nat) : State := { s with flights := s.flights.filter fun x => x.id ≠ id }
/-- Whether a transaction writes memory. -/
def Flight.writes (f : Flight) : Bool :=
  match f.kind with | .store _ _ _ _ _ _ | .atomic _ _ _ _ _ _ => true | _ => false
/-- A transaction that has nothing left but accesses parked on faults. -/
def Flight.onlyParked (f : Flight) : Bool :=
  f.pieces ≠ [] && f.pieces.all fun p => match p.phase with | .parked _ _ | .done => true | _ => false
/-- How many of the tickets are held by no store-buffer entry and no other transaction: a store of several pieces is
acknowledged with its last piece (03 R36, R78). -/
def State.settled (s : State) (id : Nat) (ids : List Nat) : Nat :=
  let held := fun (i : Nat) =>
    s.cores.any (fun c => c.2.sb.any fun e => e.ids.contains i) ||
      s.flights.any fun f => f.id ≠ id && (match f.kind with | .store _ _ _ _ is _ => is.contains i | _ => false)
  (ids.filter fun i => !held i).length
/-- `n` accesses of a thread are acknowledged (03 R78); a thread that drains looks again (05 R143). -/
def State.ack (s : State) (lid t n : Nat) : State := s.onThread lid t (·.acked n)

/-- Whether a transaction other than a store counts once in its thread's sbcnt (03 R78, 13 R344). -/
def Flight.counts (f : Flight) : Bool :=
  match f.kind with
  | .atomic _ _ _ _ _ _ | .counterInc _ _ | .jnew _ | .jfree _ | .tdropHeld _ _ _ _ | .tdrop _ _ | .tinc _ _ _ | .tfree _ _ |
    .accin _ _ _ _ _ => true
  | _ => false
/-- Whether a matrix command counts in sbcnt until it is done (14 R361). -/
def MCmd.counts (m : MCmd) : Bool := match m.op with | .accst _ _ _ => true | _ => false
/-- A transaction is dropped, and its thread gets back what it counted for it. -/
def State.forget (s : State) (f : Flight) : State :=
  let s := s.dropFlight f.id
  match f.kind with
  | .store _ _ _ _ ids _ => s.ack f.lid f.owner (s.settled f.id ids)
  | .message m => if m.counted then s.onThread f.lid f.owner fun x => { x with unaccepted := x.unaccepted - 1 } else s
  | _ => if f.counts then s.ack f.lid f.owner 1 else s
/-- The stores of a launch that are still in store buffers are dropped. -/
def State.forgetBuffered (s : State) (lid : Nat) : State :=
  let gone := s.cores.flatMap fun c => (c.2.sb.filter fun b => b.lid = lid).flatMap fun b => b.ids.map fun i => (b.thr, i)
  let s := { s with cores := mapEach {} (fun c => { c with sb := c.sb.filter fun b => b.lid ≠ lid }) s.cores }
  gone.eraseDups.foldl (fun s e => s.ack lid e.1 (s.settled 0 [e.2])) s
/-- The counted matrix commands of a launch give their count back. -/
def State.forgetCommands (s : State) (lid : Nat) : State :=
  let cmds := (s.cores.flatMap fun c => c.2.mq) ++ (s.clusters.flatMap fun c => c.2.running.map (·.cmd))
  (cmds.filter fun m => m.lid = lid && m.counts).foldl (fun s m => s.ack lid (s.forwarded m.id lid m.thr) 1) s
/-- Whether a slot of launch `lid` runs a handler (16 R409). -/
def Slot.handles (x : Slot) (lid : Nat) : Bool :=
  x.task = some lid && x.mode = .system && (match x.status with | .ready | .blocked _ | .dispatching => true | _ => false)

/-- Whether a deque entry belongs to a launch. -/
def DqEntry.of (lid : Nat) (e : DqEntry) : Bool := e.launch = lid

/-- Removes a launch's deque entries, parked frames, queued requests, matrix commands and mailbox messages from a
core and frees its spill places (06 R174, 16 R420). -/
def Core.dropLaunch (lid : Nat) (c : Core) : Core :=
  { c with
    deque := c.deque.filter fun e => !e.of lid
    spilled := c.spilled.filter fun e => !e.of lid
    dqTail := (c.dqTail + 128 - ((c.deque.filter (DqEntry.of lid)).length)) % 128
    parked := c.parked.filter fun e => match e.2 with | some d => !d.of lid | none => false
    fifo := c.fifo.filter fun r => r.lid ≠ lid
    mq := c.mq.filter fun m => m.lid ≠ lid }
/-- A core without the listed instruction fills and waiting requests. -/
def Core.dropFills (ids : List Nat) (c : Core) : Core :=
  { c with ifills := c.ifills.filter (fun f => !ids.contains f.id), remoteWait := c.remoteWait.filter fun i => !ids.contains i }

/-- Removes a launch's mailbox messages and pending receives from a slot (11 R305). -/
def Slot.dropMail (lid : Nat) (x : Slot) : Slot :=
  { x with mail := x.mail.filter fun m => m.w0.toNat / 2 ^ 44 % 4096 ≠ lid }

/-- A slot whose task is gone: IDLE, with nothing pending (07 R182). Its stores and messages on the way still count. -/
def Slot.toIdle (x : Slot) : Slot :=
  { x with status := .idle, preempt := false, task := none, entry := none, hdrWait := false, deferred := none, recv := none,
           waitm := [], mqwait := [], relFrom := none, relWaits := [], acqReg := none, dataErr := none, frPend := false, fetched := none }

/-- The tickets of a launch's instruction fills. -/
def State.fillsOf (s : State) (lid : Nat) : List Nat :=
  s.flights.filterMap fun f => match f.kind with | .load (.fetch _) _ _ _ => if f.lid = lid then some f.id else none | _ => none
/-- A slot that waits for one of the instruction fills fetches again. -/
def Slot.refetch (ids : List Nat) (x : Slot) : Slot :=
  match x.status with | .blocked (.ifetch i) => if ids.contains i then { x with status := .ready } else x | _ => x
/-- A launch's reader of a tile is done with it, where the launch's partition keeps the tile (16 R415). -/
def State.lowerUseOf (s : State) (lid : Nat) (h : Word32) : State := s.atPart lid (handleCluster h) fun s => s.lowerUse h
/-- Readers of tiles that launch `lid` has among running matrix commands and engine requests let them go, and handles
taken return to visibility (14 R377). -/
def State.letTilesGo (s : State) (lid : Nat) : State :=
  s.clusters.foldl (fun s e =>
    let s := (e.2.running.filter fun r => r.cmd.lid = lid).foldl (fun s r =>
      let s := s.modCore r.core fun k => { k with rings := mapEach {} (fun g => { g with taken := 0 }) k.rings }
      ((r.ha ++ r.hb).take r.raised).foldl (fun s h => s.lowerUseOf lid h) s) s
    (e.2.engines.filter fun r => r.lid = lid).foldl (fun s r => r.inUse.foldl (fun s h => s.lowerUseOf lid h) s) s) s
/-- Parked requests that wait in place for a context of their engine take those that are free (02 R63, R64). -/
def Cluster.giveContexts (c : Cluster) : Cluster :=
  c.engines.foldl (fun c r =>
    let used := fun (k : Nat) => c.engines.any fun x => x.indirect = r.indirect && x.ctx = some k
    match (List.range 4).find? fun k => !used k with
    | some k =>
      if r.parked.isSome && r.ctx.isNone then
        { c with engines := c.engines.map fun x => if x.id = r.id then { x with ctx := some k } else x }
      else c
    | none => c) c
/-- What a slot keeps when launch `lid` is dropped: with `all` nothing of it, else a slot of it in system mode (R420). A slot
that waits for one of the fills `ids` fetches again. -/
def Slot.dropLaunch (lid : Nat) (all : Bool) (ids : List Nat) (x : Slot) : Slot :=
  let x := if x.task = some lid && (all || !x.handles lid) then x.toIdle else x
  (((x.dropMail lid).refetch ids).wake .spill).wake .reclaim
/-- The CTX of a mailbox entry (11 R301). -/
def MailEntry.launch (m : MailEntry) : Nat := m.w0.toNat / 2 ^ 44 % 4096
/-- A saved context when launch `lid` is dropped, its diverted messages removed (11 R305). -/
def Saved.dropLaunch (lid : Nat) (all : Bool) (dead ids : List Nat) (sv : Saved) : Saved :=
  { sv with slots := mapEach {} (Slot.dropLaunch lid all ids) sv.slots
            cores := mapEach {} (fun c => (c.dropLaunch lid).dropFills dead) sv.cores
            msgs := sv.msgs.filter fun m => m.2.launch ≠ lid }
/-- A cluster when launch `lid` is dropped. -/
def Cluster.dropLaunch (lid : Nat) (all : Bool) (dead ids : List Nat) (c : Cluster) : Cluster :=
  { c with
    allocQ := c.allocQ.filter fun r => r.lid ≠ lid
    engines := c.engines.filter fun r => r.lid ≠ lid
    bbwaits := c.bbwaits.filter fun i => !dead.contains i
    portQ := c.portQ.filter fun e => !dead.contains e.1
    running := c.running.filter fun r => r.cmd.lid ≠ lid
    shadow := c.shadow.map (Saved.dropLaunch lid all dead ids)
    replay := c.replay.filter fun m => m.2.launch ≠ lid
    sent := mapPut 0 c.sent lid 0, recvd := mapPut 0 c.recvd lid 0 }.giveContexts
/-- A die when launch `lid` is dropped. -/
def Die.dropLaunch (lid : Nat) (dead : List Nat) (d : Die) : Die :=
  { d with
    coll := d.coll.filter fun c => c.lid ≠ lid
    misses := d.misses.map fun m => { m with who := m.who.filter fun e => !dead.contains e.1 }
    records := d.records.map fun r => { r with who := r.who.filter fun e => !dead.contains e.1 } }
/-- Drops what launch `lid` has in flight or queued, its slots made IDLE, live or saved (06 R174, 16 R420, 02 R58): everything
with `all`; else its issued stores and atomics stay, unless they are parked on faults, and its slots in system mode with what
they have in flight (R420). Another launch's slot that waits for one of its instruction fills fetches again. -/
def State.dropLaunchWork (s : State) (lid : Nat) (all : Bool) : State :=
  let s := s.letTilesGo lid
  let stays := fun (f : Flight) => !all && ((f.writes && !f.onlyParked) || (s.slot f.owner).handles lid)
  let gone := s.flights.filter fun f => f.lid = lid && !stays f
  let dead := gone.map (·.id)
  let ids := (s.fillsOf lid).filter dead.contains
  let thieves := s.flights.filterMap fun f =>
    match f.kind with | .steal _ _ thief _ _ _ _ _ => if f.lid = lid then some thief else none | _ => none
  let held := ((s.slots.filter fun e => e.2.task = some lid).map fun e => coreOf e.1).eraseDups
  let s := (gone.foldl State.forget s).forgetCommands lid
  let s := if all then s.forgetBuffered lid else s
  let s := { s with
    slots := mapEach {} (Slot.dropLaunch lid all ids) s.slots
    cores := mapEach {} (fun c => (c.dropLaunch lid).dropFills dead) s.cores
    clusters := mapEach {} (Cluster.dropLaunch lid all dead ids) s.clusters
    images := mapEach none (fun o => o.map (Saved.dropLaunch lid all dead ids)) s.images
    dies := mapEach {} (Die.dropLaunch lid dead) s.dies }
  let s := thieves.foldl (fun s c => s.modCore c fun k => { k with probing := false, ladder := 0 }) s
  let s := (held ++ thieves).foldl (fun s c => s.postNow (.dispatch c)) s
  s.clusters.foldl (fun s e =>
    let s := s.postNow (.matrixSelect e.1)
    let s := if e.2.portQ = [] then s else s.postNow (.walkStart (dieOfCluster e.1) ⟨0, 0⟩)
    if e.2.allocQ = [] then s else s.postNow (.allocationGrant e.1)) s

/-- The handles, as current, of the tiles of a cluster that `p` selects. -/
def State.handlesOf (s : State) (cl : Nat) (p : Tile → Bool) : List Word32 :=
  ((s.cluster cl).tiles.filter fun t => p t.2).map fun t => mkHandle cl t.1 t.2.gen
/-- Frees every tile of a cluster that `p` selects, ZF set, and removes its handles from the rings (04 R115). -/
def State.freeTilesWhere (s : State) (cl : Nat) (p : Tile → Bool) : State :=
  let hs := s.handlesOf cl p
  let s := hs.foldl (fun s h => s.freeTile cl (handleIndex h) true) s
  s.clusters.foldl (fun s e => s.keepHandles e.1 fun h => !hs.contains h) s

/-- Whether a launch of a partition has been started and has not completed (07 R200, 15 R398). -/
def State.launched (s : State) (part : Nat) : Bool := s.launches.any fun e => match e.2 with | some l => l.part = part | none => false
/-- A launch's id is free. With no launch left in its partition no core of it is eligible to steal, and the cores forget their
failed rounds (07 R200, R204). -/
def State.freeLid (s : State) (lid : Nat) : State :=
  let t := s.setLaunch lid none
  match s.launch lid with
  | some l =>
    if t.launched l.part then t
    else { t with cores := mapEach {} (fun (k : Core) => if k.cpart.toNat % 16 = l.part then { k with failed := 0 } else k) t.cores }
  | none => t
/-- Whether a discard with a cause still happens after the claim (06 R177): a claimed speculation is pre-empted and switched
as any launch is, and the causes of the claim rule have passed. -/
def lapses (cause : Nat) : Bool := cause = 1 || cause = 10 || cause = 15 || cause = 16
/-- The discard of speculation `sid` (06 R174) with a cause of R175. A claimed packet then runs afresh. -/
def State.discardNow (s : State) (sid : Fin 4) (cause : Nat) : State :=
  match mapGet none s.specs sid.val with
  | none => s
  | some sp =>
    let s := s.dropLaunchWork sp.lid true
    let mine := fun (t : Tile) => decide (t.launch = sp.lid) &&
      ((t.spec && t.st = .persistent) || ((t.spec || sp.claimed) && (t.st = .held || t.st = .transfer)))
    let s := s.clusters.foldl (fun s e => s.atPart sp.lid e.1 fun s => s.freeTilesWhere e.1 mine) s
    let s := sp.undo.foldl (fun s u => s.atPart sp.lid u.cluster fun s => s.restore u) s
    let s := { s with specs := mapPut none s.specs sid.val none }
    let idx := match s.launch sp.lid with | some l => if sp.claimed then some l.index else none | none => none
    let s := s.modQueue sp.queue fun q =>
      { q with discards := (q.discards + 1) % 2 ^ 32, late := (q.late + b2n sp.claimed) % 2 ^ 32, lastCause := cause,
               spec := none, claiming := none,
               packets := q.packets.map fun p => if idx = some p.index then { p with started := false } else p }
    (s.freeLid sp.lid).postNow (.slotReread sp.queue)
/-- The discard, unless the speculation is claimed and the cause no longer applies (R177). -/
def State.discard (s : State) (sid : Fin 4) (cause : Nat) : State :=
  match mapGet none s.specs sid.val with
  | none => s
  | some sp => if sp.claimed && lapses cause then s else s.discardNow sid cause

/-- Adds an undo record if the state is not yet logged; exceeding 1 GiB discards with cause 4 (R164, R170). -/
def State.logUndo (s : State) (sid : Fin 4) (u : Undo) : State :=
  match mapGet none s.specs sid.val with
  | none => s
  | some sp =>
    if sp.undo.any (Undo.same u) then s
    else if !s.dryRoom sp u.die u.cost then s.discard sid 4
    else
      let sp := sp.use u.die u.cost
      { s with specs := mapPut none s.specs sid.val (some { sp with undo := u :: sp.undo }) }

/-- Whether launch `lid` ran as a speculation in `before` that has been discarded since. -/
def State.gone (s before : State) (lid : Nat) : Bool := (before.specOf lid).isSome && (s.specOf lid).isNone
/-- Goes on with `k` unless a speculation of the launch was discarded since `before`. -/
def State.stillRuns (s : State) (before : State) (lid : Nat) (k : State → State) : State :=
  if s.gone before lid then s else k s

/-! ### Traps of the issuing slot -/

/-- An exact trap of the instruction being issued (R405); in a speculative launch the discard of cause 14 (R175). -/
def State.trapExact (s : State) (cause : Nat) (val : Word) : State :=
  let x := s.slot s.cur
  match s.specOf x.lidN with
  | some sid => s.discard sid 14
  | none => s.setSlot s.cur (x.takeTrap cause val x.pc x.pc false)

/-- Whether a deferred trap that arrives is held: none is, and no handler runs (02 R60, 16 R406, log 15). -/
def Slot.holds (x : Slot) : Bool := !(x.deferred.isSome || x.inHandler)
/-- A deferred trap for a slot (02 R60): held, or DOVF set. A waiting slot returns to rotation. -/
def Slot.holdTrap (x : Slot) (h : HeldTrap) : Slot :=
  if !x.holds then { x with tstat := x.tstat ||| tstatDovf }
  else
    let x := { x with deferred := some h }
    match x.status with
    | .blocked _ => { x with status := .ready, relFrom := none, relWaits := [], fetched := none }
    | _ => x
/-- The instruction that a waiting slot abandons takes back what it has under way (02 R60): a queued TALLOC leaves the
allocation queue (04 R108), an atomic that waits for its acquire (05 R145) or a SYNC that waits for its answer (13 R338) is not
performed, its register is as before and its spill place free; it issues again from its start. -/
def State.abandon (s : State) (t : Nat) : State :=
  let x := s.slot t
  let s := if x.status = .blocked .alloc then
      s.modCluster (clusterOf t) fun c => { c with allocQ := c.allocQ.filter fun r => r.who ≠ .thread t }
    else s
  match x.acqReg.bind fun a => (s.flight a.2.1).map fun f => (a, f) with
  | none => s
  | some (a, f) =>
    let s := (s.dropFlight f.id).modSlot t fun x => { x with acqReg := none, pc := f.pc }
    match f.kind with
    | .syncTest _ i =>
      (s.modCore (coreOf t) fun k => { k with parked := mapPut none k.parked i none }).wakeCore (coreOf t) .spill
    | _ => s.modSlot t fun x =>
      (if a.2.2 = 0 && a.1.val ≠ 0 then { x with g := mapPut {} x.g a.1 ⟨x.rg a.1, false⟩ } else x).acked 1
/-- A deferred trap for the slot `t` where it stands: held with the waiting instruction abandoned, or DOVF set. -/
def State.holdTrap (s : State) (t : Nat) (h : HeldTrap) : State :=
  let s := if (s.slot t).holds then s.abandon t else s
  s.modSlot t (·.holdTrap h)

/-- Delivers a deferred trap to thread `t` of launch `lid`; in a speculative launch it is the discard of cause 14 (13 R348). -/
def State.deferTrap (s : State) (lid t cause : Nat) (tpc tval : Word) : State :=
  match s.specOf lid with
  | some sid => s.discard sid 14
  | none =>
    s.atPart lid (clusterOf t) fun s => s.holdTrap t ⟨cause, tpc, tval⟩

/-! ### Empty sources (09 R238 step 4) and privilege (step 3) -/

/-- A source register with its empty-source action. -/
structure Src where
  file : RegFile
  n : Nat
  q : Bool

/-- A g source. -/
def Src.g (n : Fin 32) (q : Bool) : Src := ⟨.g, n.val, q⟩
/-- A v source, which blocks when EMPTY. -/
def Src.v (n : Fin 32) : Src := ⟨.v, n.val, false⟩
/-- An m source, which blocks when EMPTY. -/
def Src.m (n : Fin 8) : Src := ⟨.m, n.val, false⟩

/-- Step 4 of R238: with every source FULL the instruction goes on; otherwise the empty source of the lowest bit
position with q = 1 traps, and with none the slot is BLOCKED. `srcs` stand in the order of their bit positions. -/
def State.withSrcs (s : State) (srcs : List Src) (k : State → State) : State :=
  let x := s.slot s.cur
  match srcs.find? fun r => x.isEmpty r.file r.n with
  | none => k s
  | some e =>
    match srcs.find? fun r => x.isEmpty r.file r.n && r.q with
    | some r => s.trapExact 6 (BitVec.ofNat 64 (r.file.code r.n))
    | none => s.blockCur (.reg e.file e.n)

/-- Step 3 of R238: a system-only instruction in user mode takes the privileged-instruction trap. -/
def State.privileged (s : State) (word : Nat) (k : State → State) : State :=
  if (s.slot s.cur).mode = .user then s.trapExact 2 (BitVec.ofNat 64 word) else k s

/-- A segment register whose pending bit is set makes the instruction wait (R234). -/
def State.withSeg (s : State) (n : Nat) (k : State → State) : State :=
  if mapGet false (s.slot s.cur).sgPend n then s.blockCur (.segment n) else k s

/-- Applies `f` to the issuing slot and moves it to the next instruction. -/
def State.finish (s : State) (f : Slot → Slot) : State := s.modSlot s.cur fun x => (f x).next

/-- The descriptor a segment number names: in system mode number 7 is the slot's save segment (16 R407). -/
def State.segment (s : State) (t n : Nat) : Desc :=
  let x := s.slot t
  if n = 7 ∧ x.mode = .system then
    ⟨(s.cluster (clusterOf t)).sysdata.base + BitVec.ofNat 64 (t * 256), 0x0003000000000100⟩
  else x.rsg n

/-! ### Descriptor fields (01 R5) -/

/-- KIND = 1: CHIP. -/
def Desc.chip (d : Desc) : Bool := d.w1.getLsbD 53
/-- LIMIT. -/
def Desc.limit (d : Desc) : Nat := d.w1.toNat % 2 ^ 48
/-- The rights bits [52:48]: READ 1, WRITE 2, EXEC 4, ATOM 8, ENG 16. -/
def Desc.rights (d : Desc) : Nat := d.w1.toNat / 2 ^ 48 % 32
/-- SEL. -/
def Desc.sel (d : Desc) : Nat := d.w1.toNat / 2 ^ 56
/-- Whether every right of the mask is present (R11). -/
def Desc.has (d : Desc) (need : Nat) : Bool := d.rights &&& need == need

/-! ### The first issue of a launch (15 R388 START, R402) -/

/-- T1 of a queue. -/
def Queue.t1 (q : Queue) : Nat := q.w3.toNat % 2 ^ 32
/-- A slot issues for launch `lid`: at the first issue START is noted and the watchdog's first limit begins to run; a
speculation's runs from its claim (R402). -/
def State.noteStart (s : State) (lid : Nat) : State :=
  match s.launch lid with
  | none => s
  | some l =>
    if l.start.isSome then s
    else
      let s := s.setLaunch lid (some { l with start := some s.cycle })
      let t := (s.queue l.queue).t1
      if t = 0 || l.specOf.isSome then s else s.post (s.cycle + t * 1024) (.watchdogPreempt lid)

/-! ### Launch errors (15 R388) -/

/-- A launch error: in a speculative launch the discard of cause 17; otherwise the launch ends with `status`, its first
error kept, and completion follows (R388, R389). -/
def State.launchError (s : State) (lid status : Nat) : State :=
  match s.specOf lid with
  | some sid => s.discard sid 17
  | none =>
    match s.launch lid with
    | none => s
    | some l =>
      if l.status ≠ 0 then s else
      let s := s.setLaunch lid (some { l with status := status, killed := true })
      s.postNow (.launchCompletion lid)

end Sys2Proof.Machine
end

