-- ==== Sys2Proof/Machine/Chip.lean ====
section
/-! DEFINITION. The on-chip map (01 R18-R27): which accesses it populates, what a window reads as, and what a write
through a window does. -/

namespace Sys2Proof.Machine

/-! ### Fields of an on-chip address (R18) -/

/-- The global cluster id. -/
def chipCluster (a : Nat) : Nat := a / 2 ^ 32
/-- SH: a cluster-shared window. -/
def chipShared (a : Nat) : Bool := bit a 31
/-- CORE. -/
def chipCoreField (a : Nat) : Nat := a / 2 ^ 28 % 8
/-- The core id of a core window's address. -/
def chipCore (a : Nat) : Nat := chipCluster a * 8 + chipCoreField a
/-- WIN. -/
def chipWin (a : Nat) : Nat := a / 2 ^ 24 % 16
/-- OFF. -/
def chipOff (a : Nat) : Nat := a % 2 ^ 24

/-- What an access does at its place, for the window tables (R19, R21). -/
inductive Use | load | store | atomic
  deriving DecidableEq, Repr

/-- The core windows of R19 for `n` bytes at offset `o` of window `w`. -/
def coreWinOk (w o n : Nat) (u : Use) (sys : Bool) : Bool :=
  match w with
  | 0 => o + n ≤ 0x40000
  | 1 => o + n ≤ 0x1000 && n == 8 && u ≠ .atomic
  | 2 => o + n ≤ 0x8000 && n == 64 && u ≠ .atomic
  | 3 => o + n ≤ 0x1000 && o % 0x100 < 0xE0 && n == 8 &&
      (u = .load || (u = .store && (o % 0x100 < 0x40 || (0xC0 ≤ o % 0x100 && sys))))
  | 4 => o + n ≤ 0x10000 && (n == 4 || n == 8 || n == 64) && u ≠ .atomic
  | 5 => o + n ≤ 0x2000 && u = .load
  | 6 => o + n ≤ 0x818 && (n == 8 || n == 32) && u = .load
  | 7 => o + n ≤ 0x400 && (n == 4 || n == 8) && u = .load
  | 8 => o + n ≤ 0x30 && n == 8 && (u = .load || (u = .store && o == 0 && sys))
  | _ => false

/-- The cluster-shared windows of R21. -/
def sharedWinOk (w o n : Nat) (u : Use) (sys : Bool) : Bool :=
  match w with
  | 0 => o + n ≤ 0x200000 && (u ≠ .atomic || n == 4 || n == 8)
  | 1 => o + n ≤ 0x10000 && (u ≠ .atomic || n == 4 || n == 8)
  | 2 => o + n ≤ 0x80000 && (u ≠ .atomic || n == 4 || n == 8) && (u = .load || sys || o + n ≤ 0x40000)
  | 3 => o + n ≤ 0x1000 && n == 8 && u = .load
  | 4 => o + n ≤ 0x10000 && n == 8 && u ≠ .atomic && sys
  | 5 => o + n ≤ 0x4000 && n == 8 && (u = .load || (u = .store && sys))
  | _ => false

/-- Limits of the data a store puts into a register (R13 order 5: R29, R104, R361). -/
def storeDataOk (a v : Nat) : Bool :=
  if chipShared a then
    if chipWin a = 4 then
      if chipOff a < 0x40 then
        bits v 62 56 == 0 && bits v 47 42 == 0 && bits v 31 26 == 0 && bits v 15 10 == 0 &&
          bits v 25 16 ≤ 512 && bits v 9 0 ≤ 512
      else if chipOff a = 0x100 then bits v 63 32 == 0 && bits v 15 8 == 0 && bits v 1 0 == 0
      else true
    else true
  else if chipWin a = 8 then bits v 63 22 == 0 else true

/-- The chip-map check of R13 order 5 for `n` bytes at `a` by a thread of core `c`: populated, sizes and rights of the
window tables, core field zero with SH, and the partition rules of R23. `v` is a store's data. -/
def State.chipOk (s : State) (c a n : Nat) (u : Use) (sys : Bool) (v : Nat) : Bool :=
  let cl := chipCluster a
  let far := !sys && !s.inPart c cl
  if chipShared a then
    chipCoreField a == 0 && sharedWinOk (chipWin a) (chipOff a) n u sys && !far && (u ≠ .store || storeDataOk a v)
  else
    coreWinOk (chipWin a) (chipOff a) n u sys && (u = .store || !far) && (u ≠ .store || storeDataOk a v)

/-! ### What the windows read as -/

/-- The four words of a deque entry (07 R189). -/
def DqEntry.word (e : DqEntry) : Nat → Nat
  | 0 => e.frame.toNat
  | 1 => e.kind * 2 ^ 60 + e.floor * 2 ^ 57 + b2n e.spec * 2 ^ 56 + e.slot * 2 ^ 52 + e.launch * 2 ^ 40 + e.seq
  | 2 => e.lo
  | _ => e.hi
/-- The state word of a tile (04 R102). -/
def Tile.word (t : Tile) : Nat :=
  t.launch * 2 ^ 52 + t.asid * 2 ^ 40 + t.ppart * 2 ^ 37 +
    (match t.st with | .free => 0 | .held => 1 | .persistent => 2 | .transfer => 3) * 2 ^ 35 +
    b2n t.zf * 2 ^ 34 + b2n t.dirty * 2 ^ 33 + b2n t.spec * 2 ^ 32 + t.count * 2 ^ 24 + t.use * 2 ^ 20 + t.gen
/-- HELD of a pool partition: tiles charged to it that are not FREE (04 R104). -/
def Cluster.held (c : Cluster) (p : Nat) : Nat := (c.tiles.filter fun e => e.2.st ≠ .free && e.2.ppart = p).length
/-- FREE: the number of FREE tiles. -/
def Cluster.freeTiles (c : Cluster) : Nat := 512 - (c.tiles.filter fun e => e.2.st ≠ .free).length
/-- WAITERS of a pool partition. -/
def Cluster.waiters (c : Cluster) (p : Nat) : Nat := (c.allocQ.filter fun r => r.pool = p).length
/-- The settings of pool partition `p`. -/
def Cluster.pool (c : Cluster) (p : Nat) : Pool := mapGet {} c.pools p
/-- POOLP p as it reads (R104). -/
def Cluster.poolWord (c : Cluster) (p : Nat) : Nat :=
  b2n (c.pool p).set * 2 ^ 63 + min (c.waiters p) 255 * 2 ^ 48 + c.held p * 2 ^ 32 + (c.pool p).cap * 2 ^ 16 + (c.pool p).res
/-- The number of fenced sub-arrays. -/
def fencedCount (f : BitVec 4) : Nat := b2n (f.getLsbD 0) + b2n (f.getLsbD 1) + b2n (f.getLsbD 2) + b2n (f.getLsbD 3)
/-- RATE of MXCTL (14 R360). -/
def rateOf (f : BitVec 4) : Nat := match fencedCount f with | 0 => 0 | 1 => 1 | 2 => 1 | 3 => 2 | _ => 3
/-- MXCTL as it reads (14 R361). -/
def Cluster.mxctl (c : Cluster) : Nat := c.stint * 2 ^ 16 + c.mfenced.toNat * 2 ^ 4 + rateOf c.mfenced * 2 ^ 2
/-- Cluster-shared window 4: a register, or zero at an offset that holds none (R21). -/
def Cluster.ctrlWord (c : Cluster) (o : Nat) : Nat :=
  if o < 0x40 then c.poolWord (o / 8)
  else if o = 0x40 then c.freeTiles
  else if o = 0x48 then c.poolStall
  else if o = 0x100 then c.mxctl
  else if o = 0x108 then c.mxcnt.toNat
  else if o = 0x200 then c.syscode.base.toNat
  else if o = 0x208 then c.syscode.w1.toNat
  else if o = 0x210 then c.sysdata.base.toNat
  else if o = 0x218 then c.sysdata.w1.toNat
  else 0
/-- The n-th word of a list, zero beyond it. -/
def nthWord (l : List Word) (n : Nat) : Nat := (l.getD n 0).toNat
/-- The words standing in a copy command FIFO, in order from the head place (14 R366). -/
def Core.fifoWords (c : Core) : List Word := c.fifo.flatMap (·.words)
/-- The state word of a request context (14 R376). -/
def EngReq.ctxWord (r : EngReq) : Nat := 1 + 2 * b2n r.parked.isSome + (r.core % 8) * 4 + (r.thr % 16) * 32
/-- Cluster-shared window 5, the engine state (14 R376). -/
def State.engWord (s : State) (cl o : Nat) : Nat :=
  if o < 0x1000 then
    let c := s.core (cl * 8 + o / 0x200)
    let k := (o % 0x200 / 0x20 + 16 - c.fifoHead) % 16
    nthWord c.fifoWords (k * 4 + o % 0x20 / 8)
  else if o < 0x1040 then
    let c := s.core (cl * 8 + (o - 0x1000) / 8)
    c.fifoHead + (c.fifoWords.length / 4) * 16
  else if 0x1100 ≤ o ∧ o < 0x1900 then
    let ind := decide (0x1500 ≤ o)
    let k := (o - (if ind then 0x1500 else 0x1100)) / 0x100
    let x := o % 0x100
    match (s.cluster cl).engines.find? fun r => r.indirect = ind && r.ctx = some k with
    | none => 0
    | some r =>
      if x < 0x40 then nthWord r.words (x / 8)
      else if ind then
        (if x = 0x40 then r.pos else if x = 0x48 then r.off else if x = 0x50 then r.faultVa else if x = 0x58 then r.ctxWord else 0)
      else (if x = 0x40 then r.pos else if x = 0x48 then r.faultVa else if x = 0x50 then r.ctxWord else 0)
  else if 0x1900 ≤ o ∧ o < 0x1A00 then
    let c := s.core (cl * 8 + (o - 0x1900) / 0x20)
    let e := o % 0x20 / 2
    let g := fun k => (mapGet (0 : BitVec 16) c.codes (e + k)).toNat
    g 0 + g 1 * 2 ^ 16 + g 2 * 2 ^ 32 + g 3 * 2 ^ 48
  else 0

/-- Whether a window's contents are bytes of State.mem: scratchpad, accumulators, tile data, sideband, cluster SRAM. -/
def chipBytes (a : Nat) : Bool :=
  if chipShared a then chipWin a < 3 else chipWin a = 0 || chipWin a = 4

/-- The 8-byte word at an aligned address of a window whose contents are not plain bytes (R19, R21, R25). -/
def State.chipWord (s : State) (a : Nat) : Nat :=
  let o := chipOff a
  if chipShared a then
    let cl := chipCluster a
    match chipWin a with
    | 3 => (s.tile cl (o / 8)).word
    | 4 => (s.cluster cl).ctrlWord o
    | 5 => s.engWord cl o
    | _ => 0
  else
    let c := s.core (chipCore a)
    match chipWin a with
    | 1 => ((s.slot (chipCore a * 16 + o / 0x100)).rg (o % 0x100 / 8)).toNat
    | 2 => ((s.slot (chipCore a * 16 + o / 0x800)).rv (o % 0x800 / 0x40)).toNat / 2 ^ (64 * (o % 0x40 / 8)) % 2 ^ 64
    | 3 =>
      let x := s.slot (chipCore a * 16 + o / 0x100)
      let q := o % 0x100
      if q < 0x40 then (x.rm (q / 8)).toNat
      else if q < 0xC0 then
        let d := x.rsg ((q - 0x40) / 16)
        (if q % 16 < 8 then d.base else d.w1).toNat
      else (x.rfs ((q - 0xC0) / 8)).toNat
    | 5 =>
      match (s.slot (chipCore a * 16 + o / 0x200)).mail[o % 0x200 / 0x40]? with
      | none => 0
      | some m =>
        match o % 0x40 / 8 with
        | 0 => m.w0.toNat
        | 1 => m.payload.toNat
        | 2 => m.rbase.toNat
        | 3 => m.rlen.toNat
        | _ => 0
    | 6 =>
      if o = 0x800 then c.dqHead else if o = 0x808 then c.dqTail else if o = 0x810 then c.spilled.length
      else
        match c.deque[(o / 0x20 + 128 - c.dqHead) % 64]? with
        | none => 0
        | some e => e.word (o % 0x20 / 8)
    | 7 =>
      let r := mapGet {} c.rings (o / 0x80)
      let q := o % 0x80
      if q < 0x40 then (r.handles.getD (q / 4) 0).toNat + (r.handles.getD (q / 4 + 1) 0).toNat * 2 ^ 32
      else if q = 0x40 then r.head + r.handles.length * 16
      else 0
    | 8 =>
      if o = 0 then c.admission.toNat else if o = 8 then c.cpart.toNat
      else c.cmask.toNat / 2 ^ (64 * ((o - 0x10) / 8)) % 2 ^ 64
    | _ => 0

/-- The `n` aligned 8-byte words from `a`, as one number. -/
def State.chipWords (s : State) (a : Nat) : Nat → Nat
  | 0 => 0
  | n + 1 => s.chipWord a + 2 ^ 64 * s.chipWords (a + 8) n

/-- `n` bytes at an on-chip address, as they stand (R25). -/
def State.readChip (s : State) (a n : Nat) : Nat :=
  if chipBytes a then readLe s.mem (chipKey a) n
  else s.chipWords (a - a % 8) ((a % 8 + n + 7) / 8) / 2 ^ (8 * (a % 8)) % 2 ^ (8 * n)

/-! ### Poison (03 R95, R96) -/

/-- Whether any 64-bit word that [k, k + n) touches is poisoned. -/
def State.poisoned (s : State) (k n : Nat) : Bool :=
  n != 0 && s.poison.any fun e => k / 8 ≤ e.1 && e.1 ≤ (k + n - 1) / 8
/-- Whether a store of [k, k + n) covers a poisoned word only in part (R96). -/
def State.poisonedPart (s : State) (k n : Nat) : Bool :=
  n != 0 && s.poison.any fun e => k / 8 ≤ e.1 && e.1 ≤ (k + n - 1) / 8 && (e.1 * 8 < k || k + n < e.1 * 8 + 8)
/-- The poison left by a store of [k, k + n): whole words are cleared (R96). -/
def State.clearPoison (s : State) (k n : Nat) : State :=
  { s with poison := s.poison.filter fun e => e.1 * 8 < k || k + n < e.1 * 8 + 8 }
/-- Marks the word that holds byte `k` as poisoned. -/
def State.setPoison (s : State) (k : Nat) : State := { s with poison := mapPut false s.poison (k / 8) true }

/-! ### Writes through the windows (R22, R24) -/

/-- Notes a write to a byte window: dirty and context bits of its page, accumulator or tile (03 R88, R89, 16 R415). -/
def State.touchPage (s : State) (a : Nat) : State :=
  let o := chipOff a
  if chipShared a then
    let cl := chipCluster a
    match chipWin a with
    | 0 => s.modTile cl (o / 0x1000) fun t => { t with dirty := true, ctxBit := true, wrote := s.cycle + 1 }
    | 1 => s.modTile cl (o / 0x80) fun t => { t with dirty := true, ctxBit := true, wrote := s.cycle + 1 }
    | _ => s.modCluster cl fun c =>
        { c with dirty := mapPut false c.dirty (o / 0x1000) true, ctxBits := mapPut false c.ctxBits (o / 0x1000) true }
  else
    let k := if chipWin a = 0 then o / 0x1000 else 64 + o / 0x4000
    s.modCore (chipCore a) fun c =>
      { c with dirty := mapPut false c.dirty k true, ctxBits := mapPut false c.ctxBits k true }

/-- Writes `n` bytes of the number `v` into a byte window; whole words lose their poison. -/
def State.writeChipBytes (s : State) (a n v : Nat) : State :=
  let s := s.clearPoison (chipKey a) n
  ({ s with mem := writeLe s.mem (chipKey a) n v }).touchPage a

/-- A pool partition that has waiters is watched for a stall, unless it is already (04 R126). -/
def State.watchPool (s : State) (cl : Nat) (p : Fin 8) : State :=
  let c := s.cluster cl
  if c.poolStall = 0 || c.waiters p.val = 0 || s.agenda.any (fun e => e.2 = .poolStallEvent cl p) then s
  else s.post (s.cycle + c.poolStall) (.poolStallEvent cl p)
/-- POOLSTALL after a system write: the interval counts anew for the pool partitions that have waiters (04 R126). -/
def State.setPoolStall (s : State) (cl v : Nat) : State :=
  let s := s.modCluster cl fun c => { c with poolStall := v % 2 ^ 32 }
  if (s.cluster cl).allocQ = [] then s
  else
    let s := { s with agenda := s.agenda.filter fun e => match e.2 with | .poolStallEvent c _ => c ≠ cl | _ => true }
    (List.range 8).foldl (fun s p => s.watchPool cl (Fin.ofNat 8 p)) s
/-- POOLP p after a system write: SET, CAP and RES, RES clamped so that the sum stays within 512; every core's copies
follow and the allocation queue is scanned (04 R104, R106, 13 R343). -/
def State.setPool (s : State) (cl p v : Nat) : State :=
  let c := s.cluster cl
  let others := ((List.range 8).filter (· ≠ p)).foldl (fun n q => n + (c.pool q).res) 0
  let new : Pool := { c.pool p with set := bit v 63, cap := bits v 25 16, res := min (bits v 9 0) (512 - others) }
  let s := s.modCluster cl fun c => { c with pools := mapPut {} c.pools p new }
  let s := (List.range 8).foldl (fun s i => s.modCore (cl * 8 + i) fun k =>
    { k with poolSet := mapPut false k.poolSet p new.set, poolCap := mapPut 0 k.poolCap p new.cap }) s
  s.postNow (.allocationGrant cl)

/-- MXCTL after a system write: STINT and FENCED (14 R361); a fenced sub-array that the write adds or removes changes
RATE, which is computed. -/
def State.setMxctl (s : State) (cl v : Nat) : State :=
  s.modCluster cl fun c => { c with stint := bits v 31 16, mfenced := BitVec.ofNat 4 (bits v 7 4) }

/-- Replaces one word of a request in the engine-state window. -/
def setNth (l : List Word) (n : Nat) (v : Word) : List Word := l.set n v

/-- A system write to the engine-state window: FIFO words, context words and code-table entries take the value; the
offsets a request uses follow its words, its descriptor copies stay (14 R373, R376, log 16). -/
def EngAddr.withWord (a : EngAddr) (w : Word) : EngAddr :=
  match a with
  | .seg d _ => .seg d (w.toNat % 2 ^ 48)
  | .tile _ _ => .tile (BitVec.ofNat 32 w.toNat) (w.toNat / 2 ^ 32 % 2 ^ 13)
/-- A request whose n-th word is replaced. -/
def EngReq.withWord (r : EngReq) (n : Nat) (v : Word) : EngReq :=
  let r := { r with words := r.words.set n v }
  if r.indirect then
    if n = 1 then { r with list := r.list.withWord v } else if n = 2 then { r with src := r.src.withWord v }
    else if n = 3 then { r with dst := r.dst.withWord v } else r
  else if n = 1 then { r with src := r.src.withWord v } else if n = 2 then { r with dst := r.dst.withWord v } else r
/-- The FIFO with its k-th word (from the head place) replaced. -/
def fifoSetWord : List EngReq → Nat → Word → List EngReq
  | [], _, _ => []
  | r :: rs, k, v => if k < r.words.length then EngReq.withWord r k v :: rs else r :: fifoSetWord rs (k - r.words.length) v
/-- A system store to the engine-state window (14 R376). One to a FIFO-state word or to the state word of a request context is
ignored (DESIGN CHOICE, log 16). -/
def State.engineStore (s : State) (cl o v : Nat) : State :=
  if o < 0x1000 then
    let c := cl * 8 + o / 0x200
    let k := (o % 0x200 / 0x20 + 16 - (s.core c).fifoHead) % 16
    s.modCore c fun x => { x with fifo := fifoSetWord x.fifo (k * 4 + o % 0x20 / 8) (BitVec.ofNat 64 v) }
  else if 0x1100 ≤ o ∧ o < 0x1900 then
    let ind := decide (0x1500 ≤ o)
    let k := (o - (if ind then 0x1500 else 0x1100)) / 0x100
    let x := o % 0x100
    let f : EngReq → EngReq := fun r =>
      if r.indirect = ind && r.ctx = some k then
        if x < 0x40 then r.withWord (x / 8) (BitVec.ofNat 64 v)
        else if x = 0x40 then { r with pos := v }
        else if ind && x = 0x48 then { r with off := v }
        else if (ind && x = 0x50) || (!ind && x = 0x48) then { r with faultVa := v }
        else r
      else r
    s.modCluster cl fun c => { c with engines := c.engines.map f }
  else if 0x1900 ≤ o ∧ o < 0x1A00 then
    let c := cl * 8 + (o - 0x1900) / 0x20
    let e := o % 0x20 / 2
    let put := fun (m : SMap (BitVec 16)) (i : Nat) => mapPut 0 m (e + i) (BitVec.ofNat 16 (v / 2 ^ (16 * i)))
    s.modCore c fun x => { x with codes := (List.range 4).foldl put x.codes }
  else s

/-- A system write to cluster-shared window 4 (R21): POOLP, POOLSTALL, MXCTL, SYSCODE and SYSDATA take it; POOLF, MXCNT
and an offset that holds no register ignore it. -/
def State.ctrlStore (s : State) (cl o v : Nat) : State :=
  if o < 0x40 then s.setPool cl (o / 8) v
  else if o = 0x48 then s.setPoolStall cl v
  else if o = 0x100 then s.setMxctl cl v
  else if o = 0x200 then s.modCluster cl fun c => { c with syscode := { c.syscode with base := BitVec.ofNat 64 v } }
  else if o = 0x208 then s.modCluster cl fun c => { c with syscode := { c.syscode with w1 := BitVec.ofNat 64 v } }
  else if o = 0x210 then s.modCluster cl fun c => { c with sysdata := { c.sysdata with base := BitVec.ofNat 64 v } }
  else if o = 0x218 then s.modCluster cl fun c => { c with sysdata := { c.sysdata with w1 := BitVec.ofNat 64 v } }
  else s

/-- A write of `n` bytes of `v` through a window, performed: registers become FULL and wake their slot (R24). -/
def State.writeChip (s : State) (a n v : Nat) : State :=
  let o := chipOff a
  if chipBytes a then s.writeChipBytes a n v
  else if chipShared a then
    match chipWin a with
    | 4 => s.ctrlStore (chipCluster a) o v
    | 5 => s.engineStore (chipCluster a) o v
    | _ => s
  else
    match chipWin a with
    | 1 => s.modSlot (chipCore a * 16 + o / 0x100) (·.arriveG (o % 0x100 / 8) (BitVec.ofNat 64 v))
    | 2 => s.modSlot (chipCore a * 16 + o / 0x800) (·.arriveV (o % 0x800 / 0x40) (BitVec.ofNat 512 v))
    | 3 =>
      let q := o % 0x100
      let t := chipCore a * 16 + o / 0x100
      if q < 0x40 then s.modSlot t (·.arriveM (q / 8) (BitVec.ofNat 64 v))
      else if 0xC0 ≤ q ∧ q < 0xE0 then s.modSlot t (·.wfs ((q - 0xC0) / 8) (BitVec.ofNat 64 v))
      else s
    | 8 => if o = 0 then s.modCore (chipCore a) fun c => { c with admission := BitVec.ofNat 64 v } else s
    | _ => s

/-! ### The admission register and the tile check at the target (R31, R33) -/

/-- Whether a third-party write by a writer of partition `p` in cluster `wcl` into window `w` of core `c` is admitted
(R29, R31). -/
def Core.admits (c : Core) (target p w wcl : Nat) : Bool :=
  let m := c.admission.toNat
  bit m p && (w < 5 && bit m (16 + w)) && (!bit m 21 || wcl = target / 8)

/-- Whether a user access of an ASID to a tile window is refused (R33). -/
def State.tileRefuses (s : State) (a asid : Nat) : Bool :=
  chipShared a && chipWin a < 2 &&
    (let t := s.tile (chipCluster a) (if chipWin a = 0 then chipOff a / 0x1000 else chipOff a / 0x80)
     t.st = .free || t.asid ≠ asid)

/-! ### Undo logging of on-chip state (06 R170, R172) -/

/-- The slot whose registers an address of windows 1 to 3 lies in (R19). -/
def winSlot (a : Nat) : Nat := chipCore a * 16 + chipOff a / (if chipWin a = 2 then 0x800 else 0x100)
/-- The undo record of the on-chip unit that address `a` lies in, if that unit is logged. -/
def State.undoOf (s : State) (a : Nat) : Option Undo :=
  let o := chipOff a
  let bad := fun (k n : Nat) => (mapRange s.poison (k / 8) (n / 8)).map (·.1)
  if chipShared a then
    if chipWin a = 2 then
      let b := a - o % 0x1000
      some (.page b (readList s.mem (chipKey b) 4096) [] (if o < 0x10000 then some (chipCluster a, (s.cluster (chipCluster a)).ctrs) else none)
        (bad (chipKey b) 4096))
    else none
  else
    match chipWin a with
    | 0 =>
      let b := a - o % 0x1000
      some (.page b (readList s.mem (chipKey b) 4096)
        ((List.range 256).map fun i => mapGet false s.grans (chipKey b / 16 + i)) none (bad (chipKey b) 4096))
    | 1 | 2 | 3 => some (.slot (winSlot a) (s.slot (winSlot a)))
    | 4 =>
      let k := chipKey (coreWin (chipCore a) 4 + o / 0x4000 * 0x4000)
      some (.acc (chipCore a) (o / 0x4000) (readList s.mem k 0x4000) (bad k 0x4000))
    | _ => none

/-- Whether an undo record covers address `a`. -/
def Undo.covers (a : Nat) : Undo → Bool
  | .slot t _ => !chipShared a && chipCore a = t / 16 &&
      (((chipWin a = 1 || chipWin a = 3) && chipOff a / 0x100 = t % 16) || (chipWin a = 2 && chipOff a / 0x800 = t % 16))
  | .page b _ _ _ _ => b ≤ a && a < b + 4096
  | .acc c n _ _ => !chipShared a && chipCore a = c && chipWin a = 4 && chipOff a / 0x4000 = n

/-- The partition whose context an agent of a launch, or of none, reaches on cluster `cl`: its launch's, wherever that stands,
or the live one (16 R415). -/
def State.reach (s : State) (lid : Option Nat) (cl : Nat) : Option Nat :=
  let c := s.cluster cl
  match lid.bind s.launch with
  | some l =>
    if c.shadow.any (fun sv => sv.part = l.part) || (mapGet none s.images (imageKey l.part cl)).isSome then some l.part else c.part
  | none => c.part
/-- Another agent's access to state that a running speculation has logged first discards it, cause 11 (R172), if it reaches the
context in which the speculation runs. -/
def State.guardLogged (s : State) (lid : Option Nat) (a : Nat) : State :=
  (List.range 4).foldl (fun s i =>
    match mapGet none s.specs i with
    | some sp =>
      if some sp.lid ≠ lid && sp.undo.any (Undo.covers a) && s.reach lid (chipCluster a) = (s.launch sp.lid).map (·.part) then
        s.discard (Fin.ofNat 4 i) 11
      else s
    | none => s) s
/-- Whether a slot holds a task of a launch other than `lid`. -/
def Slot.foreign (x : Slot) (lid : Nat) : Bool := match x.task with | some l => l ≠ lid | none => false
/-- Before launch `lid` changes on-chip state at `a`: others' logs are guarded, its own log is written (R170, R172). A register
of a slot that runs another launch's task cannot be logged for it: that task's next instruction would be another agent's
access to logged state, which discards the speculation (R172), so it is discarded here. -/
def State.beforeChange (s : State) (lid : Nat) (a : Nat) : State :=
  let s := s.guardLogged (some lid) a
  match s.specOf lid with
  | none => s
  | some sid =>
    match s.undoOf a with
    | none => s
    | some (.slot t x) => if x.foreign lid then s.discard sid 11 else s.logUndo sid (.slot t x)
    | some u => s.logUndo sid u
/-- Goes on with `k` after `beforeChange`, unless that discarded the launch's speculation: the change is then not applied. -/
def State.changing (s : State) (lid a : Nat) (k : State → State) : State :=
  let q := s.beforeChange lid a
  if q.gone s lid then q else k q

end Sys2Proof.Machine
end

