-- ==== Sys2Proof/Machine/Port.lean ====
section
/-! DEFINITION. Global memory behind the cluster port: page walks and TLBs (02 R40-R53), the fault records (R55), home
memory with notify pages, watchers and dry-fit lines (03 R92-R96, 06 R165-R169), and the cluster cache (03 R79-R82). -/

namespace Sys2Proof.Machine

/-- The extent of populated HBM (03 R92). -/
def hbmSize : Nat := 0x6000000000
/-- Whether [pa, pa + n) is populated. -/
def populated (pa n : Nat) : Bool := pa + n ≤ hbmSize
/-- HDIE: the home die (R92). -/
def homeDie (pa : Nat) : Nat := pa / 2 ^ 16 % 4

/-! ### Notify pages (15 R380) -/

/-- The queue whose notify page holds a physical address. -/
def State.notifyOf (s : State) (pa : Nat) : Option Nat :=
  (s.queues.find? fun e => e.2.defined && e.2.w2.toNat / 4096 = pa / 4096).map (·.1)
/-- A word of a queue's notify page (R380, 06 R180). -/
def Queue.notifyWord (q : Queue) (o : Nat) : Nat :=
  match o / 8 with
  | 0 => q.wr
  | 1 => q.rd
  | 2 => q.err * 256 + q.state
  | 4 => q.starts * 2 ^ 32 + q.claims
  | 5 => q.discards * 2 ^ 32 + q.late
  | 6 => q.lastCause
  | _ => 0

/-! ### Reading a home -/

/-- One byte at its home as an access of speculation `sid` sees it: a dry-fit byte, or the normal line (06 R166). -/
def State.homeByte (s : State) (sid : Option (Fin 4)) (pa : Nat) : Byte :=
  let normal := match s.notifyOf pa with
    | some q => BitVec.ofNat 8 ((s.queue q).notifyWord (pa % 4096) / 2 ^ (8 * (pa % 8)))
    | none => readByte s.mem pa
  match sid with
  | none => normal
  | some i =>
    match mapGet none s.specs i.val with
    | none => normal
    | some sp => (mapGet none sp.dry pa).getD normal
/-- `n` bytes at their home. -/
def State.homeBytes (s : State) (sid : Option (Fin 4)) (pa : Nat) : Nat → List Byte
  | 0 => []
  | n + 1 => s.homeByte sid pa :: s.homeBytes sid (pa + 1) n
/-- The little-endian number of `n` bytes at their home. -/
def State.readHome (s : State) (sid : Option (Fin 4)) (pa n : Nat) : Nat := leNat (s.homeBytes sid pa n)

/-! ### Writing a home -/

/-- Whether [pa, pa + n) touches a granule of an extent (06 R169: 256-byte granules). -/
def extentHit (pa n : Nat) (e : Nat × Nat) : Bool :=
  n != 0 && e.2 != 0 && e.1 / 256 ≤ (pa + n - 1) / 256 && pa / 256 ≤ (e.1 + e.2 - 1) / 256
/-- The parts of [pa, pa + n) with one home die each (03 R92). -/
def stripes (pa n : Nat) : List (Nat × Nat) :=
  if n = 0 then [] else
    (List.range ((pa % 65536 + n + 65535) / 65536)).map fun i =>
      let lo := max pa ((pa / 65536 + i) * 65536)
      (lo, min (pa + n) ((pa / 65536 + i + 1) * 65536) - lo)
/-- The watchers see a write applied at its homes that is not speculation `own`'s: discard with cause 1 (R169); the watcher of
a home die that has closed no longer matches (R176). -/
def State.watch (s : State) (own : Option (Fin 4)) (pa n : Nat) : State :=
  (List.range 4).foldl (fun s i =>
    match mapGet none s.specs i with
    | some sp =>
      let seen := fun (r : Nat × Nat) => sp.extents.any (extentHit r.1 r.2) && !(sp.replies.any fun d => d.val = homeDie r.1)
      if own.map (·.val) ≠ some i && !sp.claimed && (stripes pa n).any seen then
        (if sp.asked then { s with specs := mapPut none s.specs i (some { sp with conflict := true }) }
         else s.discard (Fin.ofNat 4 i) 1)
      else s
    | none => s) s

/-- The notify page's reaction to a write: whole aligned words only (15 R380). -/
def State.notifyWrite (s : State) (q o : Nat) (bs : List (Option Byte)) : State :=
  let word := fun (k : Nat) =>
    let l := (List.range 8).map fun i => if k + i < o then none else (bs.getD (k + i - o) none)
    if l.all Option.isSome then some (leNat (l.map (·.getD 0))) else none
  let s := match word 0 with | some v => s.postNow (.wridx q (BitVec.ofNat 64 v)) | none => s
  (List.range 4).foldl (fun s i =>
    match word (0x20 + 8 * i) with
    | some v => s.postNow (.predictionCounterWrite q (Fin.ofNat 4 i) (BitVec.ofNat 64 v))
    | none => s) s

/-- Memory with the present bytes of a list written from `a`. -/
def writeMasked (m : Memory) (a : Nat) : List (Option Byte) → Memory
  | [] => m
  | none :: bs => writeMasked m (a + 1) bs
  | some b :: bs => writeMasked (writeByte m a b) (a + 1) bs

/-- The runs of present bytes of a list from `a`, as (start, length). -/
def runsOf (a : Nat) (start len : Nat) : List (Option Byte) → List (Nat × Nat)
  | [] => if len = 0 then [] else [(start, len)]
  | none :: bs => if len = 0 then runsOf (a + 1) 0 0 bs else (start, len) :: runsOf (a + 1) 0 0 bs
  | some _ :: bs => runsOf (a + 1) (if len = 0 then a else start) (len + 1) bs

/-- TYPE of a packet (15 R382). -/
def Packet.ty (p : Packet) : Nat := ((p.slots.headD []).getD 252 0).toNat
/-- Whether a packet is a WAIT that has started and not completed. -/
def Packet.waits (p : Packet) : Bool := (p.ty = 1 || p.ty = 2) && p.started && !p.done
/-- A write applied at the home of a device signal's line makes the WAIT packets that name it evaluate again (15 R393). -/
def State.wakeWaits (s : State) (pa n : Nat) : State :=
  let hit := fun (a : Nat) => n != 0 && pa / 128 ≤ a / 128 && a / 128 ≤ (pa + n - 1) / 128
  s.queues.foldl (fun s q => q.2.packets.foldl (fun s p =>
    if p.waits && p.sigs.any hit then s.pollNow (.waitEvaluation q.1 p.index) else s) s) s

/-- A normal write at its home: watched, then applied; whole 64-bit words lose their poison (R93, R96, 06 R169). -/
def State.writeHome (s : State) (own : Option (Fin 4)) (pa : Nat) (bs : List (Option Byte)) : State :=
  let runs := runsOf pa 0 0 bs
  let s := runs.foldl (fun s r => s.watch own r.1 r.2) s
  match s.notifyOf pa with
  | some q => s.notifyWrite q (pa % 4096) bs
  | none =>
    let s := runs.foldl (fun s r => s.clearPoison r.1 r.2) s
    let s := { s with mem := writeMasked s.mem pa bs }
    runs.foldl (fun s r => s.wakeWaits r.1 r.2) s
/-- A normal write of `n` bytes of a number at its home. -/
def State.writeHomeNat (s : State) (own : Option (Fin 4)) (pa n v : Nat) : State :=
  s.writeHome own pa ((natLe v n).map some)

/-- The list without repeats. -/
def distinct (l : List Nat) : List Nat := l.foldl (fun r a => if r.contains a then r else a :: r) []
/-! ### Declared ranges (06 R165, R166) -/

/-- Whether the 256-byte granule `g` lies in a declared range, rounded outward. -/
def inRange (g : Nat) (r : Nat × Nat) : Bool := r.2 != 0 && r.1 / 256 ≤ g && g ≤ (r.1 + r.2 - 1) / 256
/-- Whether every granule of [va, va + n) lies in one of the ranges. -/
def inRanges (l : List (Nat × Nat)) (va n : Nat) : Bool :=
  (List.range ((va % 256 + n + 255) / 256)).all fun i => l.any (inRange (va / 256 + i))
/-- The declared read and write ranges of a launch. -/
def State.ranges (s : State) (lid : Nat) : List (Nat × Nat) × List (Nat × Nat) :=
  match s.launch lid with | some l => (l.hdr.reads, l.hdr.writes) | none => ([], [])
/-- Whether a speculative load may read [va, va + n) at pa: inside the ranges, and every byte of a write-only granule
already written by the speculation (R165, R166). -/
def State.specLoadOk (s : State) (lid : Nat) (sid : Fin 4) (va pa n : Nat) : Bool :=
  let r := s.ranges lid
  inRanges (r.1 ++ r.2) va n &&
    (List.range n).all fun i => r.1.any (inRange ((va + i) / 256)) ||
      (match mapGet none s.specs sid.val with | some sp => (mapGet none sp.dry (pa + i)).isSome | none => false)

/-! ### Page tables (02 R40-R46) -/

/-- The lowest VA bit that a table level indexes (R41). -/
def levelShift : Nat → Nat
  | 0 => 55
  | 1 => 42
  | 2 => 29
  | _ => 16
/-- The index of a level (R41). -/
def levelIndex (lv va : Nat) : Nat := va / 2 ^ levelShift lv % (if lv = 0 then 512 else 8192)
/-- FRAME of a table entry. -/
def pteFrame (e : Nat) : Nat := bits e 51 16
/-- Whether a valid entry of a level is malformed (R43). -/
def pteBad (lv e : Nat) : Bool :=
  bit e 63 || bits e 15 11 != 0 ||
    (match lv with
     | 0 => bit e 1
     | 1 => bit e 1 && (pteFrame e % 2 ^ 26 != 0 || bit e 9)
     | 2 => bit e 1 && (pteFrame e % 2 ^ 13 != 0 || bit e 9)
     | _ => !bit e 1 || bit e 9)

/-- The end of a walk. -/
inductive WalkRes
  | leaf (lv ea e : Nat)
  | fault (kind lv ea : Nat)
  deriving DecidableEq, Repr

/-- A walk from the table at `base` of level `lv` (R41-R43, R46); `fuel` bounds the levels. It lists the tables passed. -/
def State.walkFrom (s : State) (va : Nat) : Nat → Nat → Nat → List (Nat × Nat) × WalkRes
  | 0, lv, base => ([], .fault 1 lv base)
  | fuel + 1, lv, base =>
    let ea := base + levelIndex lv va * 8
    if !populated ea 8 then ([], .fault 4 0 0)
    else if s.poisoned ea 8 then ([], .fault 5 lv ea)
    else
      let e := readLe s.mem ea 8
      if !bit e 0 then ([], .fault 0 lv ea)
      else if pteBad lv e then ([], .fault 1 lv ea)
      else if bit e 1 then ([], .leaf lv ea e)
      else
        let r := s.walkFrom va fuel (lv + 1) (pteFrame e * 65536)
        ((lv + 1, pteFrame e * 65536) :: r.1, r.2)

/-- Whether an ASID root-table entry is valid (R40). -/
def rootOk (e : Nat) : Bool := bit e 63 && bits e 62 52 == 0 && bits e 11 0 == 0
/-- The deepest walk-cache entry for an address (R49). -/
def wcFind (l : List WalkEntry) (asid va : Nat) : Option WalkEntry :=
  let hit := fun (lv : Nat) => l.find? fun w => w.asid = asid && w.level = lv && w.vpre = va / 2 ^ levelShift (lv - 1)
  match hit 3 with
  | some w => some w
  | none => match hit 2 with | some w => some w | none => hit 1
/-- The walk for an access: from the walk cache, or from the table that a root entry names (R40, R49). -/
def State.walkRoot (s : State) (die asid va r : Nat) : List (Nat × Nat) × WalkRes :=
  match wcFind (s.die die).wcache asid va with
  | some w => s.walkFrom va 4 w.level w.base
  | none => if rootOk r then s.walkFrom va 4 0 (bits r 51 12 * 4096) else ([], .fault 3 0 0)
/-- The walk with the root entry as last written. -/
def State.walk (s : State) (die asid va : Nat) : List (Nat × Nat) × WalkRes :=
  s.walkRoot die asid va (mapGet 0 s.asidRoots asid).toNat
/-- The root entry a walk uses: until an invalidation brings a change into effect, an old entry or the new one, chosen for
every walk (R40, log 7). -/
def State.pickRoot (s : State) (asid : Nat) : State × Nat :=
  let new := mapGet 0 s.asidRoots asid
  match mapGet [] s.asidOld asid with
  | [] => (s, new.toNat)
  | old => let d := s.draw; (d.2, ((new :: old).getD (d.1 % (old.length + 1)) new).toNat)

/-- Whether a leaf permits an access kind (R44). -/
def ptePermits (e : Nat) : Acc → Bool
  | .read => bit e 2
  | .write => bit e 3
  | .fetch => bit e 4
  | .atomic => bit e 5 && bit e 2 && bit e 3
/-- Whether an access kind needs D. -/
def Acc.dirties : Acc → Bool
  | .write | .atomic => true
  | .read | .fetch => false
/-- The physical address a leaf of a level gives (R43). -/
def leafPa (lv e va : Nat) : Nat := pteFrame e * 65536 + va % 2 ^ levelShift lv

/-! ### TLBs (R47-R49) -/

/-- Whether a TLB entry covers an address. -/
def TlbEntry.covers (t : TlbEntry) (va : Nat) : Bool := t.vpn = va / 2 ^ levelShift t.level
/-- The tagged entry of the ASID, else a global one (R48). -/
def tlbFind (l : List TlbEntry) (asid va : Nat) : Option TlbEntry :=
  match l.find? fun t => !t.glob && t.asid = asid && t.covers va with
  | some t => some t
  | none => l.find? fun t => t.glob && t.covers va
/-- Whether an entry lets an access kind pass without a walk (R44, R45). -/
def TlbEntry.ready (t : TlbEntry) (a : Acc) : Bool :=
  (match a with | .read => t.rd | .write => t.wr | .fetch => t.ex | .atomic => t.atom && t.rd && t.wr) && (t.d || !a.dirties)
/-- The physical address of an entry. -/
def TlbEntry.pa (t : TlbEntry) (va : Nat) : Nat := t.frame * 65536 + va % 2 ^ levelShift t.level
/-- A list of cached entries with room for one more in a set of `ways`: a full set loses an entry, which one the spec leaves
open (log 9). -/
def State.makeRoom {α : Type} [DecidableEq α] (s : State) (l : List α) (inSet : α → Bool) (ways : Nat) : State × List α :=
  let set := l.filter inSet
  if set.length < ways then (s, l)
  else
    let d := s.draw
    (d.2, match set[d.1 % set.length]? with | some v => l.filter fun u => u ≠ v | none => l)
/-- The list without the entry for the same page. -/
def tlbWithout (l : List TlbEntry) (t : TlbEntry) : List TlbEntry :=
  l.filter fun u => !(u.level = t.level && u.vpn = t.vpn && u.glob = t.glob && (t.glob || u.asid = t.asid))
/-- Installs a leaf in a cluster's TLB: 64 sets of 8 ways (R47). -/
def State.installCluster (s : State) (cl : Nat) (t : TlbEntry) : State :=
  let r := s.makeRoom (tlbWithout (s.cluster cl).tlb t) (fun u => u.vpn % 64 = t.vpn % 64) 8
  r.1.modCluster cl fun c => { c with tlb := t :: r.2 }
/-- Installs a leaf in a die's last-level TLB, 256 sets of 16 ways, or a 4 TiB leaf in the large-page array of 16 (R47, R49). -/
def State.installDie (s : State) (die : Nat) (t : TlbEntry) : State :=
  if t.level = 1 then
    let r := s.makeRoom (tlbWithout (s.die die).large t) (fun _ => true) 16
    r.1.modDie die fun d => { d with large := t :: r.2 }
  else
    let r := s.makeRoom (tlbWithout (s.die die).tlb t) (fun u => u.vpn % 256 = t.vpn % 256) 16
    r.1.modDie die fun d => { d with tlb := t :: r.2 }
/-- Keeps a non-leaf entry that a walk for an address passed in the die's walk cache of 256 (R47, R49): `e` is the level it
leads to and the table's base. -/
def State.installWalk (s : State) (die asid va : Nat) (e : Nat × Nat) : State :=
  let w : WalkEntry := ⟨asid, e.1, va / 2 ^ levelShift (e.1 - 1), e.2⟩
  let r := s.makeRoom ((s.die die).wcache.filter fun u => !(u.asid = w.asid && u.level = w.level && u.vpre = w.vpre))
    (fun _ => true) 256
  r.1.modDie die fun d => { d with wcache := w :: r.2 }
/-- The entry of a leaf. -/
def tlbOf (asid lv va e : Nat) (d : Bool) : TlbEntry :=
  { asid := asid, level := lv, vpn := va / 2 ^ levelShift lv, frame := pteFrame e, glob := bit e 10, uncached := bit e 8,
    rd := bit e 2, wr := bit e 3, ex := bit e 4, atom := bit e 5, d := d }

/-- Looks an address up in the cluster TLB and the die's arrays; a die hit is installed in the cluster's (R49). -/
def State.lookup (s : State) (cl asid va : Nat) (a : Acc) : State × Option (Nat × Bool) :=
  match tlbFind (s.cluster cl).tlb asid va with
  | some t => if t.ready a && populated (t.pa va) 1 then (s, some (t.pa va, t.uncached)) else (s, none)
  | none =>
    let d := s.die (dieOfCluster cl)
    match tlbFind (d.tlb ++ d.large) asid va with
    | some t =>
      if t.ready a && populated (t.pa va) 1 then
        (s.installCluster cl t, some (t.pa va, t.uncached))
      else (s, none)
    | none => (s, none)

/-- A failed translation: fault kind, level, physical address of the entry (R46, R55). -/
structure TFault where
  kind : Nat
  level : Nat
  entry : Nat
  deriving DecidableEq, Repr

/-- One walk for one or more accesses of a die: the leaf checked for `a`, A and D set at its home (`dirty`: any
attached access writes), the leaf installed (R44, R45, R49). A leaf that refuses the access kind and also maps outside
populated HBM gives the rights fault (DESIGN CHOICE, log 54). A speculative walk sets nothing and needs A and D (R66). -/
def State.walkInstall (s : State) (cl asid va : Nat) (a : Acc) (dirty spec : Bool) : State × Except TFault (Nat × Bool) :=
  let die := dieOfCluster cl
  let p := s.pickRoot asid
  let s := p.1
  let r := s.walkRoot die asid va p.2
  let s := r.1.foldl (fun s e => s.installWalk die asid va e) s
  match r.2 with
  | .fault k lv ea => (s, .error ⟨k, lv, ea⟩)
  | .leaf lv ea e =>
    if !ptePermits e a then (s, .error ⟨2, lv, ea⟩)
    else if !populated (leafPa lv e va) 1 then (s, .error ⟨4, 0, 0⟩)
    else if spec && (!bit e 7 || (a.dirties && !bit e 6)) then (s, .error ⟨2, lv, ea⟩)
    else
      let new := if spec then e else e ||| 0x80 ||| (if dirty || a.dirties then 0x40 else 0)
      let s := if new = e then s else s.writeHomeNat none ea 8 new
      let t := tlbOf asid lv va new (bit new 6)
      ((s.installDie die t).installCluster cl t, .ok (leafPa lv e va, bit e 8))

/-- Translation in one go, for the units whose request moves as one event (engines, front end; log 11): TLBs, then a
walk. -/
def State.translateNow (s : State) (cl asid va : Nat) (a : Acc) (spec : Bool) : State × Except TFault (Nat × Bool) :=
  match s.lookup cl asid va a with
  | (s, some r) => (s, .ok r)
  | (s, none) => s.walkInstall cl asid va a false spec

/-- A speculation notes the leaf that it has just used for an address, which the cluster's TLB holds (R66). -/
def State.noteUsed (s : State) (sid : Fin 4) (cl asid va : Nat) : State :=
  match mapGet none s.specs sid.val, tlbFind (s.cluster cl).tlb asid va with
  | some sp, some t =>
    if sp.used.contains t then s else { s with specs := mapPut none s.specs sid.val (some { sp with used := t :: sp.used }) }
  | _, _ => s

/-- A probe: the physical address of a page with a permitting read translation, nothing set or installed (11 R294). -/
def State.probe (s : State) (cl asid va : Nat) : Option Nat :=
  match (s.lookup cl asid va .read).2 with
  | some r => some r.1
  | none =>
    match (s.walk (dieOfCluster cl) asid va).2 with
    | .leaf lv _ e => if ptePermits e .read && populated (leafPa lv e va) 1 then some (leafPa lv e va) else none
    | .fault _ _ _ => none

/-! ### Dry-fit lines (06 R164, R167) -/

/-- Whether a physical word is a signal word of an admitted packet that has not completed, one that did not translate at the
admission included (06 R464). -/
def State.signalWord (s : State) (pa : Nat) : Bool :=
  s.queues.any fun e => e.2.packets.any fun p => !p.done &&
    (p.sigs.any (fun a => a / 8 = pa / 8) || p.vsigs.any fun v => (s.probe v.1 v.2.1 v.2.2).any fun a => a / 8 = pa / 8)

/-- A write of a speculation at a home: it goes to the dry-fit line (06 R167); a notify page or signal word discards
with cause 9, more than its room with cause 4 (R164, R175). -/
def State.writeDry (s : State) (sid : Fin 4) (pa : Nat) (bs : List (Option Byte)) : State :=
  match mapGet none s.specs sid.val with
  | none => s
  | some sp =>
    let runs := runsOf pa 0 0 bs
    if (s.notifyOf pa).isSome || runs.any (fun r => (List.range ((r.1 % 8 + r.2 + 7) / 8)).any fun i => s.signalWord (r.1 + 8 * i)) then
      s.discard sid 9
    else
      let put := fun (a : SMap (Option Byte) × Nat) (b : Option Byte) =>
        match b with | some v => (mapPut none a.1 a.2 (some v), a.2 + 1) | none => (a.1, a.2 + 1)
      let lines := distinct (((runs.flatMap fun r => (List.range ((r.1 % 128 + r.2 + 127) / 128)).map fun i => r.1 / 128 + i)).filter
        fun l => !(sp.dry.any fun e => e.1 / 128 = l))
      let full := (List.range 4).any fun d =>
        !s.dryRoom sp d (128 * (lines.filter fun l => homeDie (l * 128) = d).length)
      if full || 2 ^ 30 < sp.usage + 128 * lines.length then s.discard sid 4
      else
        let sp := lines.foldl (fun sp l => sp.use (homeDie (l * 128)) 128) sp
        { s with specs := mapPut none s.specs sid.val (some { sp with dry := (bs.foldl put (sp.dry, pa)).1 }) }

/-! ### Fault records (R55) -/

/-- The records of a die that are held: made and not yet appended (R57). -/
def Die.held (d : Die) : Nat := (d.records.filter fun r => r.made && !r.appended).length
/-- The fault timeout of a partition (R58). -/
def State.ftime (s : State) (part : Nat) : Nat := match mapGet none s.parts part with | some p => p.ftime.toNat | none => 2 ^ 28
/-- A record is made: it takes the next SEQ, is to be appended and, with a timeout set, expires (R55, R57, R58). -/
def State.makeRecord (s : State) (die key : Nat) : State :=
  let d := s.die die
  match d.records.find? fun r => r.key = key with
  | none => s
  | some r =>
    let s := s.modDie die fun d =>
      { d with records := d.records.map fun x => if x.key = key then { x with made := true, seq := d.seq } else x,
               seq := (d.seq + 1) % 2 ^ 32 }
    let s := s.postLat key (.faultRecordAppend die r.part)
    if r.ftime = 0 then s else s.post (max s.cycle (r.born + r.ftime)) (.faultTimeout die d.seq)
/-- ACC of an access kind (R55). -/
def Acc.code : Acc → Nat
  | .read => 0
  | .write => 1
  | .fetch => 2
  | .atomic => 3
/-- Whether a record is for an access kind to the page of an address. -/
def FRec.matches (r : FRec) (asid va : Nat) (a : Acc) : Bool :=
  r.asid = asid && r.va.toNat / 65536 = va / 65536 && r.acc = a.code
/-- An access attaches to a record: a piece of a transaction, or an agent that waits in its own way. -/
def State.attach (s : State) (die key : Nat) (who : Option (Nat × Nat)) : State :=
  s.modDie die fun d => { d with records := d.records.map fun x =>
    if x.key = key then { x with waiters := min (x.waiters + 1) 0xFFFF, who := x.who ++ who.toList } else x }
/-- Adds an access to the open record of its kind, or opens a new one, which is made if the hold has a place (R55-R58).
Answers the record's key. -/
def State.recordFault (s : State) (cl lid part asid va : Nat) (eng : Bool) (a : Acc) (f : TFault) (who : Option (Nat × Nat)) :
    State × Nat :=
  let die := dieOfCluster cl
  let d := s.die die
  match d.records.find? fun r => r.matches asid va a && r.kind = f.kind with
  | some r => (s.attach die r.key who, r.key)
  | none =>
    let k := s.nextId
    let r : FRec :=
      { va := BitVec.ofNat 64 va, waiters := 1, eng := eng, acc := a.code, kind := f.kind, level := f.level, cluster := cl,
        launch := lid, part := part, asid := asid, entry := f.entry, key := k, made := false, seq := 0, appended := false,
        born := s.cycle, ftime := s.ftime part, who := who.toList }
    let s := { s with nextId := k + 1 }.modDie die fun d => { d with records := d.records ++ [r] }
    (if d.held < 256 then s.makeRecord die k else s, k)

/-! ### The cluster cache (03 R79-R82) -/

/-- Bytes of a line replaced where present. -/
def lineMerge (l : BitVec 1024) (o : Nat) (bs : List (Option Byte)) : BitVec 1024 :=
  (bs.zipIdx).foldl (fun l e =>
    match e.1 with
    | some b => (l &&& ~~~((0xFF : BitVec 1024) <<< (8 * (o + e.2)))) ||| ((b.zeroExtend 1024) <<< (8 * (o + e.2)))
    | none => l) l
/-- A store that drains through the port updates the line if present, and a fill in flight (R79, R81). -/
def State.portStore (s : State) (cl pa : Nat) (bs : List (Option Byte)) : State :=
  let line := pa / 128
  let o := pa % 128
  s.modCluster cl fun c =>
    let upd := fun (m : SMap (Option Byte)) (e : Option Byte × Nat) =>
      match e.1 with | some b => mapPut none m (o + e.2) (some b) | none => m
    { c with
      cache := (match mapGet none c.cache line with
        | some l => mapPut none c.cache line (some (lineMerge l o bs))
        | none => c.cache)
      fills := c.fills.map fun f => if f.line = line then { f with merged := bs.zipIdx.foldl upd f.merged } else f }
/-- An atomic invalidates the line of its address as it passes the port, and acts on a fill as an acquire (R79, R81). -/
def State.portAtomic (s : State) (cl pa : Nat) : State :=
  let cut := fun (f : CFill) => if f.line = pa / 128 then { f with install := false } else f
  s.modCluster cl fun c => { c with cache := mapPut none c.cache (pa / 128) none, fills := c.fills.map cut }
/-- Installs a line in a cluster's cache: 512 sets of 16 ways, indexed by PA[15:7] (R79). -/
def State.installLine (s : State) (cl line : Nat) (bytes : BitVec 1024) : State :=
  let r := s.makeRoom (mapPut none (s.cluster cl).cache line none) (fun e => e.1 % 512 = line % 512) 16
  r.1.modCluster cl fun c => { c with cache := mapPut none r.2 line (some bytes) }
/-- The acquire of die, module and system scope: every global line goes, no fill in flight is installed (R80, R81). -/
def State.acquireAll (s : State) (cl : Nat) : State :=
  s.modCluster cl fun c => { c with cache := [], fills := c.fills.map fun f => { f with install := false } }
/-- Invalidates the lines that overlap a physical range (R80). -/
def State.acquirePhys (s : State) (cl pa n : Nat) : State :=
  let clear := fun (l : Nat) => decide (l * 128 + 128 ≤ pa) || decide (pa + n ≤ l * 128)
  let cut := fun (f : CFill) => if clear f.line then f else { f with install := false }
  s.modCluster cl fun c => { c with cache := c.cache.filter (fun e => clear e.1), fills := c.fills.map cut }
/-- The pages that a virtual range touches, each with its part of the range. -/
def pagesOf (va n : Nat) : List (Nat × Nat) :=
  if n = 0 then [] else
    (List.range ((va % 65536 + n + 65535) / 65536)).map fun i =>
      let lo := max va ((va / 65536 + i) * 65536)
      (lo, min (va + n) ((va / 65536 + i + 1) * 65536) - lo)
/-- A range acquire: the lines of the pages that translate, or every line for more than 1 MiB (R80, 11 R294). -/
def State.acquireRange (s : State) (cl asid va n : Nat) : State :=
  if 2 ^ 20 < n then s.acquireAll cl
  else (pagesOf va n).foldl (fun s p =>
    match s.probe cl asid (p.1 % 2 ^ 64) with
    | some pa => s.acquirePhys cl pa p.2
    | none => s) s
/-- The acquire at a scope (R4, 05 R137). -/
def State.acquire (s : State) (cl : Nat) (sc : Scope) : State :=
  match sc with
  | .thread | .core | .cluster => s
  | .die | .module | .system => s.acquireAll cl

/-- The pair scope of a thread and a place in a cluster (05 R129, R144): core if `own`. -/
def pairScope (cl tcl : Nat) (own : Bool) : Scope :=
  if own then .core else if cl = tcl then .cluster else if cl / 64 = tcl / 64 then .die else .module

end Sys2Proof.Machine
end

