-- ==== Sys2Proof/Machine/Access.lean ====
section
/-! DEFINITION. Accesses: the checks at issue (01 R11-R15, 11 R282), the pipeline port and full/empty granules
(03 R68-R75), the store buffer (R76-R78, R466), and accesses performed away from the core: at their targets on chip
(01 R24-R33), behind the cluster port (02 R49-R62, 03 R79-R82) and at their homes. -/

namespace Sys2Proof.Machine

/-! ### The checks at issue -/

/-- What a memory instruction asks for: descriptor, offset, size, alignment, interleave, rights (R11), kind of access,
a store's data, and whether it is one of the instructions bound to core scratchpads (11 R282). -/
structure Req where
  desc : Desc
  off : Nat
  size : Nat
  align : Nat
  il : Nat := 0
  need : Nat
  use : Use
  data : Nat := 0
  scratch : Bool := false

/-- The unit of an interleave code (R34). -/
def ilUnit : Nat → Nat
  | 1 => 16
  | 2 => 64
  | _ => 256
/-- OFF of the scratchpad byte that segment offset `a` maps to (R34). -/
def ilOff (base il a : Nat) : Nat := base % 2 ^ 24 + a / (8 * ilUnit il) * ilUnit il + a % ilUnit il
/-- The on-chip address of that byte. -/
def ilAddr (base il a : Nat) : Nat := chipCluster base * 2 ^ 32 + a / ilUnit il % 8 * 2 ^ 28 + ilOff base il a
/-- The pieces of an interleaved access, one per unit touched (R36). -/
def ilPieces (base il : Nat) : Nat → Nat → Nat → Nat → List Piece
  | 0, _, _, _ => []
  | fuel + 1, a, n, pos =>
    if n = 0 then [] else
      let k := min n (ilUnit il - a % ilUnit il)
      ⟨.chip (ilAddr base il a), k, pos, .new⟩ :: ilPieces base il fuel (a + k) (n - k) (pos + k)

/-- The chip part of the checks (R13 order 5), for a CHIP segment. -/
def State.checkChip (s : State) (t : Nat) (r : Req) : Except (Nat × Nat) (List Piece) :=
  let base := r.desc.base.toNat
  let c := coreOf t
  let sys := decide ((s.slot t).mode = .system)
  if 2 ^ 40 ≤ base then .error (5, base)
  else if r.il ≠ 0 then
    if bit base 31 || chipWin base != 0 then .error (5, base)
    else
      match (List.range r.size).find? fun i => 0x3FFFF < ilOff base r.il (r.off + i) with
      | some i => .error (5, ilAddr base r.il (r.off + i) % 2 ^ 40)
      | none =>
        let ps := ilPieces base r.il r.size r.off r.size 0
        match ps.find? fun p => match p.place with | .chip a => !s.chipOk c a p.len r.use sys 0 | .glob _ _ => false with
        | some p => .error (5, match p.place with | .chip a => a | .glob _ a => a)
        | none => .ok ps
  else
    let a := base + r.off
    if 2 ^ 40 ≤ a then .error (5, a % 2 ^ 64)
    else if r.scratch && (chipShared a || chipWin a != 0) then .error (5, a)
    else if !s.chipOk c a r.size r.use sys r.data then .error (5, a)
    else .ok [⟨.chip a, r.size, 0, .new⟩]

/-- The checks of R13 in their order, with the additions of 11 R282: a cause and tval, or the pieces of the access. -/
def State.check (s : State) (t : Nat) (r : Req) : Except (Nat × Nat) (List Piece) :=
  let va := (r.desc.base.toNat + r.off) % 2 ^ 64
  if va % r.align != 0 then .error (3, r.off)
  else if (r.il != 0 || r.scratch) && !r.desc.chip then .error (4, r.off)
  else if !r.desc.has r.need then .error (4, r.off)
  else if r.desc.limit < r.off + r.size then .error (4, r.off)
  else if r.desc.chip then s.checkChip t r
  else .ok [⟨.glob (s.asidOf (s.slot t).lidN) va, r.size, 0, .new⟩]

/-- Whether a piece is performed in the pipeline of core `c` (03 R69, 11 R283). -/
def ownPipe (c : Nat) (p : Piece) : Bool :=
  match p.place with
  | .chip a => !chipShared a && chipCore a = c && chipWin a ≠ 4
  | .glob _ _ => false

/-- The address of a place, as tval holds it (02 R60). -/
def Place.tval : Place → Word
  | .glob _ va => BitVec.ofNat 64 va
  | .chip a => BitVec.ofNat 64 a

/-- The pair scope of a thread and a place (05 R129, R144): an atomic's home scope, a granule's pair scope. -/
def Place.scope (t : Nat) : Place → Scope
  | .glob _ _ => .module
  | .chip a => pairScope (clusterOf t) (chipCluster a) (!chipShared a && chipCore a = coreOf t)

/-! ### Granules (03 R71) -/

/-- Whether any granule that [a, a + n) touches is EMPTY. -/
def State.anyEmpty (s : State) (a n : Nat) : Bool :=
  s.grans.any fun e => chipKey a / 16 ≤ e.1 && e.1 ≤ (chipKey a + n - 1) / 16
/-- The granules that [a, a + n) touches: the first, and the one after the last. -/
def granRange (a n : Nat) : Nat × Nat := (chipKey a / 16, if n = 0 then chipKey a / 16 else (chipKey a + n - 1) / 16 + 1)
/-- Sets every granule that [a, a + n) touches EMPTY or FULL. -/
def State.setGrans (s : State) (a n : Nat) (empty : Bool) : State :=
  if n = 0 then s else
  let ks := (List.range ((chipKey a % 16 + n + 15) / 16)).map fun i => chipKey a / 16 + i
  let s := { s with grans := ks.foldl (fun g k => mapPut false g k empty) s.grans }
  s.modCore (chipCore a) fun c =>
    { c with dirty := mapPut false c.dirty (chipOff a / 0x1000) true,
             ctxBits := mapPut false c.ctxBits (chipOff a / 0x1000) true }

/-! ### Flights -/

/-- Replaces the phase of piece `i`. -/
def Flight.setPhase (f : Flight) (i : Nat) (ph : Phase) : Flight :=
  { f with pieces := f.pieces.zipIdx.map fun e => if e.2 = i then { e.1 with phase := ph } else e.1 }
/-- Replaces the phase of a transaction's piece. -/
def State.setPhase (s : State) (id i : Nat) (ph : Phase) : State := s.modFlight id (·.setPhase i ph)

/-- `len` bytes of the number `x` put at byte `pos` of a 64-byte result. -/
def putBytes (v : VWord) (pos len x : Nat) : VWord :=
  let m : VWord := BitVec.ofNat 512 (2 ^ (8 * len) - 1) <<< (8 * pos)
  (v &&& ~~~m) ||| (BitVec.ofNat 512 (x % 2 ^ (8 * len)) <<< (8 * pos))
/-- `len` bytes at byte `pos` of a 64-byte value. -/
def getBytes (v : VWord) (pos len : Nat) : Nat := v.toNat / 2 ^ (8 * pos) % 2 ^ (8 * len)
/-- A load's piece has its bytes: they join the result. -/
def State.gotPiece (s : State) (id i pos len x : Nat) : State :=
  s.modFlight id fun f =>
    let f := f.setPhase i .done
    match f.kind with
    | .load d g a v => { f with kind := .load d g a (putBytes v pos len x) }
    | _ => f

/-- The event that moves a transaction on (spec/95). -/
def Flight.event (f : Flight) : Ev :=
  match f.kind with
  | .load (.seg _ _) _ _ _ => .segmentTableRead f.id
  | .load _ _ _ _ | .jnew _ | .tileRead _ _ _ | .accout _ _ _ _ => .loadCompletion f.id
  | .store _ _ _ _ _ _ | .atomic _ _ _ _ _ _ | .jfree _ | .accin _ _ _ _ _ => .storeAcknowledgement f.id
  | .counterInc _ _ => .joinCounterIncrement f.id
  | .counterDec _ _ _ => .joinCounterDecrement f.id
  | .syncTest _ _ => .syncTest f.id
  | .tdropHeld _ _ _ _ => .tdropSend f.id
  | .tdrop _ _ => .tileDropArrival f.id
  | .tinc _ _ _ => .tileIncArrival f.id
  | .tfree _ _ => .tileFreeArrival f.id
  | .handle _ _ => .zeroFillDone f.id
  | .message _ => .messageArrival f.id
  | .bbwait _ _ => .bbwaitRetry f.id
  | .accst _ => .matrixWriteback (clusterOf f.thr)
  | .steal _ _ _ _ _ _ released _ => if released then .stealDelivery f.id else .stealReleaseDone f.id

/-- Sends a transaction of thread `t`: its event follows after its latency. Answers its ticket. -/
def State.send (s : State) (t : Nat) (pc : Word) (pieces : List Piece) (kind : FlightKind) : State × Nat :=
  let x := s.slot t
  let f : Flight :=
    { id := s.nextId, thr := t, pc := pc, lid := x.lidN, asid := s.asidOf x.lidN, born := s.cycle,
      sys := decide (x.mode = .system), pieces := pieces, kind := kind }
  let s := { s with flights := s.flights ++ [f], nextId := s.nextId + 1 }
  (s.postLat f.id f.event, f.id)

/-- The access kind of a transaction behind the port (02 R44). -/
def Flight.acc (f : Flight) : Acc :=
  match f.kind with
  | .load _ _ a _ => a
  | .atomic _ _ _ _ _ _ => .atomic
  | .store _ _ _ _ _ _ => .write
  | _ => .read
/-- Whether a transaction is a load, store or atomic of the thread (05 R143, 02 R59). -/
def Flight.access (f : Flight) : Bool :=
  match f.kind with
  | .load (.seg _ _) _ _ _ | .load (.fetch _) _ _ _ | .load .header _ _ _ => false
  | .load _ _ _ _ | .store _ _ _ _ _ _ | .atomic _ _ _ _ _ _ | .jnew _ | .tileRead _ _ _ => true
  | _ => false

/-! ### Acknowledgements -/

/-- The end of a transaction: an arriving result, and a thread that drains looks again. -/
def State.arrive (s : State) (f : Flight) (g : Slot → Slot) : State :=
  s.onThread f.lid f.owner fun x => (g x).wake .drain

/-- Writes the lanes of `got` that `mask` selects over `old` (11 R289). -/
def mergeLanes (w : Nat) (old got : VWord) (mask : Word) : Nat → VWord
  | 0 => old
  | n + 1 =>
    let r := mergeLanes w old got mask n
    if mask.getLsbD n then putBytes r (n * w) w (getBytes got (n * w) w) else r

/-- Bytes of an element type (R210). -/
def elemBytes : ElemTy → Nat
  | .i8 | .s8 => 1
  | .i16 | .bf16 | .f16 => 2
  | .i32 | .f32 => 4
  | .i64 => 8

/-- The low `8 * size` bits of a number, extended to 64 (R4). -/
def extendTo (size : Nat) (sext : Bool) (x : Nat) : Word :=
  if sext then (BitVec.ofNat (8 * size) x).signExtend 64 else BitVec.ofNat 64 (x % 2 ^ (8 * size))

/-- A segment register resolves; with sg2, a task record that waits for it gets FR, and g1 its value (07 R205, 13 R329). -/
def Slot.segLoaded (x : Slot) (n : Nat) (d : Desc) : Slot :=
  let x := (x.wsg n d).wake (.segment n)
  if n = 2 && x.frPend then
    let fr := x.fr - d.base
    ({ x with frPend := false, fr := fr } : Slot).arriveG 1 fr
  else x
/-- A load's bytes reach its destination. -/
def Slot.deliver (x : Slot) (d : Dest) (v : VWord) : Slot :=
  match d with
  | .g n size sext => x.arriveG n (extendTo size sext v.toNat)
  | .v n => x.arriveV n v
  | .vb n =>
    let w := getBytes v 0 8
    x.arriveV n ((List.range 8).foldl (fun r i => putBytes r (8 * i) 8 w) 0)
  | .lanes n ty m => x.arriveV n (mergeLanes (elemBytes ty) (x.rv n) v m (64 / elemBytes ty))
  | .seg n sel =>
    let w1 := BitVec.ofNat 64 (getBytes v 8 8)
    let d : Desc := if bits w1.toNat 55 54 = 0 then ⟨BitVec.ofNat 64 (getBytes v 0 8), (w1 &&& 0x00FFFFFFFFFFFFFF) ||| BitVec.ofNat 64 (sel * 2 ^ 56)⟩ else {}
    x.segLoaded n d
  | .fetch _ | .header => x
/-- A poisoned load's destination: zero and FULL, or the null descriptor (02 R60). -/
def Slot.deliverPoison (x : Slot) (d : Dest) : Slot :=
  match d with
  | .g n _ _ => x.arriveG n 0
  | .v n | .vb n | .lanes n _ _ => x.arriveV n 0
  | .seg n _ => x.segLoaded n {}
  | .fetch _ | .header => x

/-! ### Poison completion (02 R60, 03 R96) -/

/-- The segment through which a slot fetches: sg0, or SYSCODE in system mode (16 R407). -/
def State.codeSeg (s : State) (t : Nat) : Desc :=
  let x := s.slot t
  if x.mode = .system then (s.cluster (clusterOf t)).syscode else x.rsg 0
/-- The address of the word a slot fetches next. -/
def State.codeVa (s : State) (t : Nat) : Nat := ((s.codeSeg t).base + (s.slot t).pc).toNat

/-- The deferred trap of a transaction, for the thread that made it (02 R60, 13 R346); none once its task has ended. -/
def State.deferFlight (s : State) (f : Flight) (cause : Nat) (tval : Word) : State :=
  if f.orphan && (s.specOf f.lid).isNone then s
  else s.deferTrap f.lid f.owner cause f.pc tval

/-- The cause of discard of a speculation's access that is refused or meets poison: a trap, or poison (06 R175). -/
def refusalCause (cause : Nat) : Nat := if cause = 9 then 12 else 14
/-- An access other than an instruction fill completes with poison: its destination becomes zero and FULL or its stores
are discarded, and a deferred trap of the cause follows; in a speculative launch it discards the speculation instead
(02 R60, R66, 03 R96). A segment-table read reports the address of the table entry (01 R10). -/
def State.poisonAccess (s : State) (f : Flight) (cause : Nat) (tval : Word) : State :=
  let s := s.dropFlight f.id
  match s.specOf f.lid with
  | some sid => s.discard sid (refusalCause cause)
  | none =>
    match f.kind with
    | .load .header _ _ _ | .steal _ _ _ _ _ _ _ _ => s.launchError f.lid 2
    | .load (.seg n sel) _ _ _ =>
      let entry := (f.pieces.headD ⟨.chip 0, 0, 0, .done⟩).place.tval
      (s.arrive f (·.deliverPoison (.seg n sel))).deferFlight f cause entry
    | .load d _ _ _ => (s.arrive f (·.deliverPoison d)).deferFlight f cause tval
    | .atomic _ _ _ _ d _ =>
      let s := s.arrive f fun x =>
        let x := (x.arriveG d 0).acked 1
        if x.acqReg.any (fun a => a.2.1 = f.id) then ({ x with acqReg := none }).wake .release else x
      s.deferFlight f cause tval
    | .store _ _ _ _ ids _ => (s.ack f.lid f.owner (s.settled f.id ids)).deferFlight f cause tval
    | _ => s

/-- Words of an instruction fill that cannot be delivered: the slots that wait for one of the `n` bytes at `lo` take the
fetch trap at once (cause 7), an LDPC of them completes with poison, and the line is not installed (02 R60, 03 R96,
10 R265). -/
def State.rejectWords (s : State) (f : Flight) (lo n cause : Nat) : State :=
  let c := coreOf f.thr
  let s := s.modCore c fun k => { k with ifills := k.ifills.map fun x => if x.id = f.id then { x with install := false } else x }
  let s := (List.range 16).foldl (fun s i =>
    let t := c * 16 + i
    let x := s.slot t
    if x.status = .blocked (.ifetch f.id) && lo ≤ s.codeVa t && s.codeVa t < lo + n then
      match s.specOf x.lidN with
      | some sid => s.discard sid (refusalCause cause)
      | none => s.setSlot t ((x.wake (.ifetch f.id)).takeTrap 7 (BitVec.ofNat 64 (s.codeVa t)) x.pc x.pc false)
    else s) s
  s.flights.foldl (fun s g =>
    if g.pieces.any fun p => p.phase = .icache f.id && lo < p.place.tval.toNat + p.len && p.place.tval.toNat < lo + n then
      s.poisonAccess g cause (g.pieces.headD ⟨.chip 0, 0, 0, .done⟩).place.tval
    else s) s

/-- An access completes with poison (02 R60). -/
def State.poisonFlight (s : State) (id cause : Nat) (tval : Word) : State :=
  match s.flight id with
  | none => s
  | some f =>
    match f.kind with
    | .load (.fetch _) _ _ _ =>
      let s := match f.pieces with
        | p :: _ => s.rejectWords f p.place.tval.toNat p.len cause
        | [] => s
      (s.dropFlight id).modCore (coreOf f.thr) fun k => { k with ifills := k.ifills.filter fun x => x.id ≠ id }
    | _ => s.poisonAccess f cause tval

/-! ### Loads performed at a place on chip -/

/-- Where an address of a core's windows is served after migrations (16 R418, R419): the register, mask and mailbox
windows follow a migrated slot, every core window a migrated core. -/
def State.redirect (s : State) (lid a : Nat) : Nat :=
  if chipShared a then a else
    let o := chipOff a
    let per := fun (stride : Nat) =>
      let t := s.forwarded 0 lid (chipCore a * 16 + o / stride)
      coreWin (coreOf t) (chipWin a) + t % 16 * stride + o % stride
    match chipWin a with
    | 1 | 3 => per 0x100
    | 2 => per 0x800
    | 5 => per 0x200
    | w =>
      match (s.core (chipCore a)).forward.find? fun f => f.launch = lid ∧ f.slot = none with
      | some f => coreWin f.toCore w + o
      | none => a

/-- What became of a piece at its target. -/
inductive Served
  | got (x : Nat)
  | refused (cause : Nat)
  | wait (ph : Phase)
  deriving DecidableEq, Repr

/-- The last queued or running matrix command that targets accumulator `n` of core `c`, up to ticket `upTo` (01 R27). -/
def State.lastMatrix (s : State) (c n : Nat) (upTo : Option Nat) : Option Nat :=
  let cmds := (s.core c).mq ++ ((s.cluster (c / 8)).running.filter fun r => r.core = c).map (·.cmd)
  let ok := cmds.filter fun m => m.acc.val = n && (match upTo with | some u => m.id ≤ u | none => true)
  ok.foldl (fun r m => some (match r with | some k => max k m.id | none => m.id)) none

/-- An access to window 4 waits for the matrix commands that were queued when it arrived (01 R27). -/
def State.accWait (s : State) (a : Nat) (ph : Phase) : Option Phase :=
  if chipShared a || chipWin a ≠ 4 then none else
    match ph with
    | .behind k => if (s.lastMatrix (chipCore a) (chipOff a / 0x4000) (some k)).isSome then some ph else none
    | _ => (s.lastMatrix (chipCore a) (chipOff a / 0x4000) none).map .behind

/-- A read of `n` bytes at an on-chip address on behalf of a launch: tile refusal, poison, granule operation, data
(01 R25, R33, 03 R71, R96). -/
def State.readTarget (s : State) (lid asid a n : Nat) (sys : Bool) (gop : GranOp) (ph : Phase) : State × Served :=
  let s := s.guardLogged (some lid) a
  match s.accWait a ph with
  | some w => (s, .wait w)
  | none =>
    if !sys && s.tileRefuses a asid then (s, .refused 8)
    else
      let e := s.anyEmpty a n
      match gop with
      | .test => (s, .got (b2n !e))
      | _ =>
        if gop ≠ .none && e then (s, .wait .waiting)
        else if chipBytes a && s.poisoned (chipKey a) n then (s, .refused 9)
        else
          let v := s.readChip a n
          if gop = .consume then (s.changing lid a fun s => s.setGrans a n true, .got v) else (s, .got v)

/-- The words of an instruction fill at on-chip code that are poisoned: each is rejected for itself, and the line goes on to the
slots that fetch its other words (03 R90, R96). -/
def State.chipFillWords (s : State) (f : Flight) (i : Nat) (p : Piece) (a : Nat) : State :=
  let r := s.atPartR f.lid (chipCluster a) fun s =>
    (s, ((List.range 8).filter fun k => s.poisoned (chipKey a + 8 * k) 8), s.readChip a p.len)
  let s := r.2.1.foldl (fun s k => s.rejectWords f (p.place.tval.toNat + 8 * k) 8 9) r.1
  s.gotPiece f.id i p.pos p.len r.2.2

/-- Performs piece `i` of load `f` at its target, in the context of the launch's partition (16 R415). A waiting read
enters the target core's remote-wait table, or is sent again when that is full (03 R74). -/
def State.loadTarget (s : State) (f : Flight) (i : Nat) (p : Piece) (a : Nat) (gop : GranOp) : State :=
  let a := s.redirect f.lid a
  let r := s.atPartR f.lid (chipCluster a) fun s => s.readTarget f.lid f.asid a p.len f.sys gop p.phase
  match r.2 with
  | .got x => r.1.gotPiece f.id i p.pos p.len x
  | .refused cause =>
    (match f.kind with
     | .load (.fetch _) _ _ _ => if cause = 9 then r.1.chipFillWords f i p a else r.1.poisonFlight f.id cause p.place.tval
     | _ => r.1.poisonFlight f.id cause p.place.tval)
  | .wait .waiting =>
    let k := r.1.core (chipCore a)
    if k.remoteWait.contains f.id then r.1.setPhase f.id i .waiting
    else if k.remoteWait.length < 32 then
      (r.1.modCore (chipCore a) fun k => { k with remoteWait := k.remoteWait ++ [f.id] }).setPhase f.id i .waiting
    else (r.1.setPhase f.id i .retry).post (r.1.cycle + 64) (.remoteWaitRetry f.id)
  | .wait ph => r.1.setPhase f.id i ph

/-- Serves one waiting request at core `c` if its granules allow it (03 R75 step 1). -/
def State.serveWaiting (s : State) (c id : Nat) : State :=
  match s.flight id with
  | none => s.modCore c fun k => { k with remoteWait := k.remoteWait.filter (· ≠ id) }
  | some f =>
    match f.kind with
    | .load _ gop _ _ =>
      f.pieces.zipIdx.foldl (fun s e =>
        match e.1.place with
        | .chip a =>
          if e.1.phase = .waiting && chipCore a = c && (s.flight id).isSome && !s.anyEmpty a e.1.len then
            let s := s.loadTarget f e.2 e.1 a gop
            let s := s.modCore c fun k => { k with remoteWait := k.remoteWait.filter (· ≠ id) }
            match s.flight id with
            | some g => s.postLat id g.event
            | none => s
          else s
        | .glob _ _ => s) s
    | _ => s

/-- Granules of [a, a + n) become FULL: the remote waiting requests are served in order of arrival, then the core's own
waiting slots look again (03 R75). -/
def State.fillGrans (s : State) (a n : Nat) : State :=
  let s := s.setGrans a n false
  let c := chipCore a
  let g := granRange a n
  ((s.core c).remoteWait.foldl (fun s id => s.serveWaiting c id) s).wakeGrans c g.1 g.2

/-! ### Stores performed at a place on chip -/

/-- The runs of written bytes of a block: (first byte, length). -/
def maskRuns (m : BitVec 64) : List (Nat × Nat) :=
  runsOf 0 0 0 ((List.range 64).map fun i => if m.getLsbD i then some 0 else none)

/-- BBWAIT's answer waits at the barrier's cluster: every wait on a word of the context that stands live whose PEND is 0 is
answered (03 R86, 14 R375). -/
def State.answerBarriers (s : State) (cl : Nat) : State :=
  (s.cluster cl).bbwaits.foldl (fun s id =>
    match s.flight id with
    | none => s.modCluster cl fun c => { c with bbwaits := c.bbwaits.filter (· ≠ id) }
    | some f =>
      match f.kind with
      | .bbwait a d =>
        let w := readLe s.mem (chipKey a) 8
        if s.whereIs f.lid cl = .live && bits w 47 0 = 0 then
          let s := s.modCluster cl fun c => { c with bbwaits := c.bbwaits.filter (· ≠ id) }
          let s := (s.dropFlight id).acquireAll (clusterOf f.owner)
          s.arrive f (·.arriveG d (BitVec.ofNat 64 w))
        else s
      | _ => s) s

/-- A block with the masked bytes of another put over it. -/
def mergeBlock (old data : VWord) (mask : BitVec 64) : VWord :=
  (maskRuns mask).foldl (fun v r => putBytes v r.1 r.2 (getBytes data r.1 r.2)) old
/-- Writes the masked bytes of a 64-byte block at an on-chip address: whole registers through the register windows,
runs of bytes elsewhere. -/
def State.writeBlock (s : State) (a : Nat) (data : VWord) (mask : BitVec 64) : State :=
  if chipBytes a then
    let s := (maskRuns mask).foldl (fun s r => s.writeChipBytes (a + r.1) r.2 (getBytes data r.1 r.2)) s
    if chipShared a && chipWin a = 2 then s.answerBarriers (chipCluster a) else s
  else if chipWin a = 2 then s.writeChip a 64 (mergeBlock (BitVec.ofNat 512 (s.chipWords a 8)) data mask).toNat
  else
    (List.range 8).foldl (fun s i =>
      if mask.getLsbD (8 * i) then s.writeChip (a + 8 * i) 8 (getBytes data (8 * i) 8) else s) s

/-- Whether a third-party write is refused by the target core's ADMIT (01 R28-R31). -/
def State.admitRefuses (s : State) (thr lid a : Nat) (sys : Bool) : Bool :=
  !sys && !chipShared a && chipCore a ≠ coreOf thr &&
    !(s.core (chipCore a)).admits (chipCore a) (s.partFor lid thr) (chipWin a) (clusterOf thr)

/-- The store of a block at its on-chip target: admission register, tile check, poison, bytes, granules (01 R31, R33, 03 R71,
R96). Poison in a word that it covers in part discards the whole entry (R466). -/
def State.storeTarget (s : State) (thr lid asid a : Nat) (sys : Bool) (data : VWord) (mask : BitVec 64)
    (fill : Option Bool) (grans : Bool) (ph : Phase) : State × Served :=
  let s := s.guardLogged (some lid) a
  match s.accWait a ph with
  | some w => (s, .wait w)
  | none =>
    if s.admitRefuses thr lid a sys then (s, .refused 8)
    else if !sys && s.tileRefuses a asid then (s, .refused 8)
    else
      let part := !grans && chipBytes a && (maskRuns mask).any fun r => s.poisonedPart (chipKey a + r.1) r.2
      if part then (s, .refused 9)
      else
        (s.changing lid a fun s =>
          let s := if grans then s else s.writeBlock a data mask
          match fill with
          | none => s
          | some full =>
            (maskRuns mask).foldl (fun s r => if full then s.fillGrans (a + r.1) r.2 else s.setGrans (a + r.1) r.2 true) s,
         .got 0)

/-! ### Atomics (11 R290, R291) -/

/-- The new value of an atomic on `w`-bit operands (R291). -/
def amoOp (k : AmoKind) (w : Nat) (old src cmp : Nat) : Nat :=
  let o := BitVec.ofNat w old
  let b := BitVec.ofNat w src
  (match k with
   | .add => o + b
   | .and => o &&& b
   | .or => o ||| b
   | .xor => o ^^^ b
   | .min => if o.slt b then o else b
   | .max => if o.slt b then b else o
   | .minu => if o.ult b then o else b
   | .maxu => if o.ult b then b else o
   | .swp => b
   | .cas => if o = BitVec.ofNat w cmp then b else o).toNat
/-- Whether an atomic writes its location: AMOCAS only when it compares equal (R291). -/
def amoWrites (k : AmoKind) (w old cmp : Nat) : Bool :=
  match k with | .cas => BitVec.ofNat w old = BitVec.ofNat w cmp | _ => true

/-- An atomic at its on-chip home. -/
def State.atomicTarget (s : State) (thr lid asid a n : Nat) (sys : Bool) (k : AmoKind) (src cmp : Nat) : State × Served :=
  let s := s.guardLogged (some lid) a
  if s.admitRefuses thr lid a sys then (s, .refused 8)
  else if !sys && s.tileRefuses a asid then (s, .refused 8)
  else if s.poisoned (chipKey a) n then (s, .refused 9)
  else
    let old := readLe s.mem (chipKey a) n
    if amoWrites k (8 * n) old cmp then
      (s.changing lid a fun s =>
        let s := s.writeChipBytes a n (amoOp k (8 * n) old src cmp)
        if chipShared a && chipWin a = 2 then s.answerBarriers (chipCluster a) else s, .got old)
    else (s, .got old)

/-- An atomic's result reaches its thread, with the acquire of ORD (05 R145). -/
def State.atomicDone (s : State) (f : Flight) (wd acq : Bool) (d : Fin 32) (old : Nat) (pl : Place) : State :=
  let s := s.dropFlight f.id
  let s := if acq then s.acquire (clusterOf f.owner) (pl.scope f.owner) else s
  s.arrive f fun x =>
    let x := (x.arriveG d (extendTo (if wd then 8 else 4) true old)).acked 1
    if x.acqReg.any (fun a => a.2.1 = f.id) then ({ x with acqReg := none }).wake .release else x

/-! ### Networks (03 R97, R98) -/

/-- The four virtual networks (R97). -/
inductive Net | request | response | message | steal
  deriving DecidableEq, Repr
/-- The network that carries a transaction to its destination (R97). -/
def FlightKind.net : FlightKind → Net
  | .message _ => .message
  | .steal _ _ _ _ _ _ _ _ => .steal
  | .handle _ _ => .response
  | _ => .request
/-- Where a piece is on its way to: the windows of a core or the shared windows of a cluster, or the home of a 128-byte
line. -/
def Piece.heading (p : Piece) : Option Nat :=
  match p.phase, p.place with
  | .new, .chip a => some (a / 2 ^ 28)
  | .home pa _, _ => some (2 ^ 20 + pa / 128)
  | _, _ => none
/-- Where a transaction without pieces is on its way to. -/
def FlightKind.heading : FlightKind → Option Nat
  | .counterInc a _ | .counterDec a _ _ | .jfree a | .syncTest a _ | .bbwait a _ => some (a / 2 ^ 28)
  | .tileRead h _ _ | .tdrop h _ | .tinc h _ _ | .tfree h _ => some (sharedWin (handleCluster h) 0 / 2 ^ 28)
  | .message m => some (coreWin (coreOf m.target) 0 / 2 ^ 28)
  | _ => none
/-- When a transaction was sent on its way. -/
def Flight.sentAt (f : Flight) : Nat := if f.stamp = 0 then f.id else f.stamp
/-- The destinations that a transaction has still to reach. -/
def Flight.headings (f : Flight) : List Nat :=
  f.pieces.filterMap Piece.heading ++ (if f.arrived then [] else f.kind.heading.toList)
/-- Whether a packet of the same cluster to the same destination, sent earlier on the same network, has not arrived: packets of
one source to one destination stay in order (R98). -/
def State.behindPacket (s : State) (f : Flight) (dest : Nat) : Bool :=
  s.flights.any fun g => decide (g.sentAt < f.sentAt) && clusterOf g.thr = clusterOf f.thr && g.kind.net = f.kind.net &&
    g.headings.contains dest
/-- A transaction without pieces reaches its destination: behind earlier packets it is looked at again, else `k` acts. -/
def State.reaches (s : State) (f : Flight) (k : State → State) : State :=
  match f.kind.heading with
  | some d =>
    if !f.arrived && s.behindPacket f d then s.postLat f.id f.event
    else k (s.modFlight f.id fun f => { f with arrived := true })
  | none => k s

/-! ### Accesses behind the cluster port -/

/-- The places of a cluster's fault-pending table in use (02 R62). -/
def State.parkedOf (s : State) (cl : Nat) : Nat :=
  ((s.flights.filter fun f => clusterOf f.thr = cl).flatMap fun f =>
    f.pieces.filter fun p => match p.phase with | .parked _ _ => true | _ => false).length
/-- The miss key of an address (02 R50). -/
def missKey (asid va : Nat) : WalkKey := ⟨asid, va / 65536⟩
/-- The pieces of a cluster's accesses that wait for walks, with their keys (02 R50). -/
def State.walkers (s : State) (cl : Nat) : List ((Nat × Nat) × WalkKey) :=
  (s.flights.filter fun f => clusterOf f.thr = cl).flatMap fun f =>
    f.pieces.zipIdx.filterMap fun e =>
      match e.1.phase, e.1.place with | .walking, .glob asid va => some ((f.id, e.2), missKey asid va) | _, _ => none
/-- The keys that wait for walks at a cluster's port (02 R50). -/
def State.missKeys (s : State) (cl : Nat) : List WalkKey := (s.walkers cl).map (·.2)
/-- The number of different keys. -/
def countKeys : List WalkKey → Nat
  | [] => 0
  | k :: l => (if l.contains k then 0 else 1) + countKeys l
/-- Whether a die has an open miss entry for a key. -/
def State.missOpen (s : State) (die : Nat) (k : WalkKey) : Bool := (s.die die).misses.any fun m => m.key = k
/-- The accesses of a cluster that have faulted and wait at the head of the port for a place in its table (02 R62). -/
def State.portHeads (s : State) (cl : Nat) : List (Nat × Nat) :=
  ((s.walkers cl).filter fun e => !s.missOpen (dieOfCluster cl) e.2).map (·.1)
/-- Whether an access that has faulted waits for a place in the fault-pending table (02 R62). -/
def State.portStalled (s : State) (cl : Nat) : Bool := 512 ≤ s.parkedOf cl && s.portHeads cl ≠ []

/-- An access waits in the port's request queue, in order of arrival (02 R50, R62). -/
def State.enqueue (s : State) (id i cl : Nat) : State :=
  (s.setPhase id i .queued).modCluster cl fun c => { c with portQ := c.portQ ++ [(id, i)] }
/-- A missing access opens or joins miss entries at its port and die (02 R50, R51); with all entries open it waits in the
queue. -/
def State.openMiss (s : State) (id i cl : Nat) (k : WalkKey) : State :=
  let ks := s.missKeys cl
  let die := dieOfCluster cl
  if !ks.contains k && (64 ≤ countKeys ks || (s.cluster cl).portQ ≠ []) then s.enqueue id i cl
  else if s.missOpen die k then
    (s.setPhase id i .walking).modDie die fun d =>
      { d with misses := d.misses.map fun m => if m.key = k then { m with who := m.who ++ [(id, i)] } else m }
  else if 256 ≤ (s.die die).misses.length then s.enqueue id i cl
  else
    let s := (s.setPhase id i .walking).modDie die fun d => { d with misses := d.misses ++ [⟨k, false, true, cl, [(id, i)]⟩] }
    s.postLat id (.walkStart die k)

/-- Whether a piece is pending on a fault, or attached behind an access of its thread that is (02 R61). -/
def State.attached (s : State) (g : Flight) (q : Piece) : Bool :=
  match q.phase, q.place with
  | .parked _ _, _ => true
  | .new, .glob b vb =>
    s.flights.any fun h => h.id < g.id && h.owner = g.owner && h.pieces.any fun r =>
      match r.phase, r.place with | .parked _ _, .glob c vc => b = c && vb / 65536 = vc / 65536 | _, _ => false
  | _, _ => false
/-- Whether an older operation on a join counter among the `len` bytes at `a` must be performed before access `f`: an
increment of the same cluster (07 R193), or a decrement or a release of the counter by the same thread (05 R133). -/
def State.counterHeld (s : State) (f : Flight) (a len : Nat) : Bool :=
  s.flights.any fun g => g.id < f.id &&
    match g.kind with
    | .counterInc b _ => clusterOf g.thr = clusterOf f.thr && decide (a < b + 8) && decide (b < a + len)
    | .counterDec b _ _ | .jfree b => g.owner = f.owner && decide (a < b + 8) && decide (b < a + len)
    | _ => false
/-- Whether an older access of the same thread keeps this piece back: one still untranslated on the page (02 R61), or one
that overlaps it and is not performed (05 R133); a store of the core that an own load must follow; writes to one target
in program order (05 R134). -/
def State.heldBack (s : State) (f : Flight) (p : Piece) : Bool :=
  s.flights.any fun g =>
    g.id < f.id && (g.owner = f.owner || coreOf g.thr = coreOf f.thr) && g.pieces.any fun q =>
      let same := decide (g.owner = f.owner)
      (match p.place, q.place with
       | .glob a va, .glob b vb =>
         let untranslated := same && a = b && va / 65536 = vb / 65536 &&
           (match q.phase with | .new | .queued | .walking => true | _ => false)
         let overlap := (same || g.writes) && q.phase ≠ .done &&
           !s.attached g q &&
           decide (va % 65536 < vb % 65536 + q.len) && decide (vb % 65536 < va % 65536 + p.len)
         (untranslated || overlap) && g.access
       | .chip a, .chip b =>
         let live := match q.phase with | .done | .waiting => false | _ => true
         let overlap := (same || g.writes) && decide (a < b + q.len) && decide (b < a + p.len)
         let order := same && g.writes && f.writes && decide (a / 2 ^ 28 = b / 2 ^ 28)
         live && (overlap || order) && g.access
       | _, _ => false)

/-- The bytes of a store's block that the mask selects. -/
def maskedBytes (data : VWord) (mask : BitVec 64) : List (Option Byte) :=
  (List.range 64).map fun i => if mask.getLsbD i then some (BitVec.ofNat 8 (getBytes data i 1)) else none

/-- A translated access passes the port: a store updates the cluster-cache line it meets, an atomic invalidates it
(03 R79); a speculative access is checked against the declared ranges as it leaves the cluster (06 R165). -/
def State.passPort (s : State) (f : Flight) (i : Nat) (va pa : Nat) (uncached : Bool) : State :=
  let cl := clusterOf f.thr
  let r := s.fresh
  let s := (r.2.setPhase f.id i (.home pa uncached)).modFlight f.id fun f => { f with stamp := r.1 }
  match s.specOf f.lid, f.kind with
  | some sid, .store _ m _ _ _ _ =>
    if (maskRuns m).all fun r => inRanges (s.ranges f.lid).2 (va + r.1) r.2 then s else s.discard sid 3
  | some sid, .atomic _ _ _ _ _ _ => s.discard sid 6
  | none, .store data m _ _ _ _ => s.portStore cl pa (maskedBytes data m)
  | none, .atomic _ _ _ _ _ _ => s.portAtomic cl pa
  | _, _ => s

/-- The fault record that an access at the port attaches to without a walk: the one on which an older access of its thread to
the page is parked (02 R61), or for an access that misses (`miss`) an open one of its kind (R55, R67). -/
def State.recordFor (s : State) (f : Flight) (asid va : Nat) (miss : Bool) : Option (Nat × Nat) :=
  let die := dieOfCluster (clusterOf f.thr)
  let own := s.flights.findSome? fun g =>
    if g.id < f.id && g.owner = f.owner && g.access && f.access && dieOfCluster (clusterOf g.thr) = die then
      g.pieces.findSome? fun q => match q.phase, q.place with
        | .parked d k, .glob b vb => if b = asid && vb / 65536 = va / 65536 then some (d, k) else none
        | _, _ => none
    else none
  match own with
  | some r => some r
  | none => if miss then ((s.die die).records.find? fun r => r.matches asid va f.acc).map fun r => (die, r.key) else none
/-- A piece parks on a record that is open (R55); with the fault-pending table full it waits at the port (R62). -/
def State.park (s : State) (id i cl : Nat) (r : Nat × Nat) : State :=
  if 512 ≤ s.parkedOf cl then s.enqueue id i cl
  else (s.setPhase id i (.parked r.1 r.2)).attach r.1 r.2 (some (id, i))

/-- A piece at the port: attached to a fault record (02 R61, R67), translated from the TLBs, or missing (R49, R50); a
speculative access walks at once, and any fault discards the speculation (R66). -/
def State.portPiece (s : State) (f : Flight) (i : Nat) (asid va : Nat) : State :=
  let cl := clusterOf f.thr
  match s.specOf f.lid with
  | some sid =>
    match s.translateNow cl asid va f.acc true with
    | (s, .ok r) => (s.noteUsed sid cl asid va).passPort f i va r.1 r.2
    | (s, .error _) => s.discard sid 5
  | none =>
    if s.portStalled cl then s.enqueue f.id i cl
    else
      match s.recordFor f asid va false with
      | some r => s.park f.id i cl r
      | none =>
        match s.lookup cl asid va f.acc with
        | (s, some r) => s.passPort f i va r.1 r.2
        | (s, none) =>
          match s.recordFor f asid va true with
          | some r => s.park f.id i cl r
          | none => s.openMiss f.id i cl (missKey asid va)
/-- A piece that waited at the head of the port or in its queue is looked at again. -/
def State.portAgain (s : State) (e : Nat × Nat) : State :=
  match s.flight e.1 with
  | none => s
  | some f =>
    match f.pieces[e.2]? with
    | none => s
    | some p =>
      match p.phase, p.place with
      | .queued, .glob asid va | .walking, .glob asid va => (s.portPiece f e.2 asid va).postLat f.id f.event
      | _, _ => s
/-- A place of a cluster's port has come free: what waits at its head and in its queue goes on, in order (02 R50, R62). -/
def State.servePort (s : State) (cl : Nat) : State :=
  if s.portStalled cl then s
  else
    let l := s.portHeads cl ++ (s.cluster cl).portQ
    l.foldl State.portAgain (s.modCluster cl fun c => { c with portQ := [] })
/-- The ports of a die look again. -/
def State.servePorts (s : State) (die : Nat) : State :=
  s.clusters.foldl (fun s e =>
    if dieOfCluster e.1 = die && (e.2.portQ ≠ [] || s.portHeads e.1 ≠ []) then s.servePort e.1 else s) s

/-- A load's bytes at the home, where a speculation sees its own dry-fit bytes (06 R166). -/
def State.loadHome (s : State) (f : Flight) (i : Nat) (p : Piece) (va pa : Nat) : State :=
  let sid := s.specOf f.lid
  let code := match f.kind with | .load (.seg _ _) _ _ _ | .load (.fetch _) _ _ _ => true | .load _ _ a _ => a = .fetch | _ => false
  match sid with
  | some k =>
    if !code && !s.specLoadOk f.lid k va pa p.len then s.discard k 2
    else if s.poisoned pa p.len then s.discard k 12
    else s.gotPiece f.id i p.pos p.len (s.readHome sid pa p.len)
  | none =>
    if s.poisoned pa p.len then
      match f.kind with
      | .load (.fetch _) _ _ _ =>
        let s := (List.range 8).foldl (fun s k => if s.poisoned (pa + 8 * k) 8 then s.rejectWords f (va + 8 * k) 8 9 else s) s
        s.gotPiece f.id i p.pos p.len (s.readHome none pa p.len)
      | _ => s.poisonFlight f.id 9 p.place.tval
    else s.gotPiece f.id i p.pos p.len (s.readHome none pa p.len)

/-- A normal load beside the cluster cache: a hit, or the fill of the whole line, one sent since the last acquire (03 R79,
R81). -/
def State.loadCached (s : State) (f : Flight) (i : Nat) (p : Piece) (pa : Nat) : State :=
  let cl := clusterOf f.thr
  match mapGet none (s.cluster cl).cache (pa / 128) with
  | some line => s.gotPiece f.id i p.pos p.len (line.toNat / 2 ^ (8 * (pa % 128)) % 2 ^ (8 * p.len))
  | none =>
    match (s.cluster cl).fills.find? fun x => x.line = pa / 128 && x.install with
    | some x => s.setPhase f.id i (.filling pa x.id)
    | none =>
      let r := s.fresh
      let s := (r.2.setPhase f.id i (.filling pa r.1)).modCluster cl fun c => { c with fills := c.fills ++ [⟨r.1, pa / 128, true, []⟩] }
      s.postLat r.1 (.clusterCacheFill cl (pa / 128))

/-- A store's block at its home: into the dry-fit line of a speculation, else into memory (03 R93, R96, 06 R167). Poison in a
word that it covers in part discards the whole entry, and the cluster's copy of the line with it (R466). -/
def State.storeHome (s : State) (f : Flight) (pa : Nat) (data : VWord) (m : BitVec 64) (ids : List Nat) (first : Nat) : State :=
  let bs := maskedBytes data m
  match s.specOf f.lid with
  | some sid =>
    let s := s.writeDry sid pa bs
    if (s.flight f.id).isSome then (s.dropFlight f.id).ack f.lid f.owner (s.settled f.id ids) else s
  | none =>
    if (maskRuns m).any fun r => s.poisonedPart (pa + r.1) r.2 then
      (s.portAtomic (clusterOf f.thr) pa).poisonFlight f.id 9 (BitVec.ofNat 64 first)
    else ((s.writeHome none pa bs).dropFlight f.id).ack f.lid f.owner (s.settled f.id ids)

/-- An atomic at its global home (03 R87). -/
def State.atomicHome (s : State) (f : Flight) (pa : Nat) (k : AmoKind) (wd : Bool) (src cmp : Word) (d : Fin 32) (acq : Bool)
    (pl : Place) : State :=
  let n := if wd then 8 else 4
  if s.poisoned pa n then s.poisonFlight f.id 9 pl.tval
  else
    let old := s.readHome none pa n
    let s := if amoWrites k (8 * n) old cmp.toNat then s.writeHomeNat none pa n (amoOp k (8 * n) old src.toNat cmp.toNat) else s
    s.atomicDone f wd acq d old pl

/-- Performs a piece at its global home, or beside the cluster cache. -/
def State.homePiece (s : State) (f : Flight) (i : Nat) (p : Piece) (va pa : Nat) (uncached : Bool) : State :=
  match f.kind with
  | .load _ _ _ _ =>
    if uncached || (s.specOf f.lid).isSome || (match f.kind with | .load .header _ _ _ => true | _ => false) then
      s.loadHome f i p va pa
    else s.loadCached f i p pa
  | .store data m _ _ ids first => s.storeHome f pa data m ids first
  | .atomic k wd src cmp d acq => s.atomicHome f pa k wd src cmp d acq p.place
  | _ => s

/-- Performs a piece at its on-chip target. -/
def State.chipPiece (s : State) (f : Flight) (i : Nat) (p : Piece) (a : Nat) : State :=
  match f.kind with
  | .load _ gop _ _ => s.loadTarget f i p a gop
  | .store data m fill grans ids first =>
    let a := s.redirect f.lid a
    let r := s.atPartR f.lid (chipCluster a) fun s => s.storeTarget f.owner f.lid f.asid a f.sys data m fill grans p.phase
    match r.2 with
    | .got _ => if (r.1.flight f.id).isSome then (r.1.dropFlight f.id).ack f.lid f.owner (r.1.settled f.id ids) else r.1
    | .refused cause => r.1.poisonFlight f.id cause (BitVec.ofNat 64 first)
    | .wait ph => r.1.setPhase f.id i ph
  | .atomic k wd src cmp d acq =>
    let a := s.redirect f.lid a
    let n := if wd then 8 else 4
    let r := s.atPartR f.lid (chipCluster a) fun s => s.atomicTarget f.owner f.lid f.asid a n f.sys k src.toNat cmp.toNat
    match r.2 with
    | .got old => if (r.1.flight f.id).isSome then r.1.atomicDone f wd acq d old p.place else r.1
    | .refused cause => r.1.poisonFlight f.id cause p.place.tval
    | .wait ph => r.1.setPhase f.id i ph
  | _ => s

/-- One piece of a transaction moves on; what has been sent stays behind earlier packets to its destination (03 R98). -/
def State.stepPiece (s : State) (id i : Nat) : State :=
  match s.flight id with
  | none => s
  | some f =>
    match f.pieces[i]? with
    | none => s
    | some p =>
      let late := match p.heading with | some d => s.behindPacket f d | none => false
      match p.phase, p.place with
      | .new, .chip a => if late || s.heldBack f p || s.counterHeld f a p.len then s else s.chipPiece f i p a
      | .behind _, .chip a => s.chipPiece f i p a
      | .new, .glob asid va => if s.heldBack f p then s else s.portPiece f i asid va
      | .home pa u, .glob _ va => if late || s.heldBack f p then s else s.homePiece f i p va pa u
      | _, _ => s

/-- Whether a transaction has a piece that its own event must drive. -/
def Flight.driven (f : Flight) : Bool :=
  f.pieces.any fun p =>
    match p.phase with
    | .new | .home _ _ | .behind _ => true
    | _ => false

/-- A load whose pieces all have their bytes delivers them; LDF, LDE, VLDF and VLDE acquire at the pair scope (05 R155). -/
def State.finishLoad (s : State) (f : Flight) (d : Dest) (gop : GranOp) (v : VWord) : State :=
  let s := s.dropFlight f.id
  let acq := decide (gop = .wait ∨ gop = .consume)
  let s := if acq then f.pieces.foldl (fun s p => s.acquire (clusterOf f.owner) (p.place.scope f.owner)) s else s
  s.arrive f (·.deliver d v)

/-- After the pieces moved: the transaction ends when all are done, or its event follows again. A load that fills an
instruction line ends in ICACHE_FILL. -/
def State.settle (s : State) (id : Nat) : State :=
  match s.flight id with
  | none => s
  | some f =>
    if f.pieces.all fun p => p.phase = .done then
      match f.kind with
      | .load (.fetch key) _ _ _ => s.postNow (.icacheFill (coreOf f.thr) key)
      | .load .header _ _ _ => s.postNow (.headerArrival f.owner)
      | .load d g _ v => s.finishLoad f d g v
      | _ => s
    else if f.driven then s.postLat id f.event
    else s

/-- A transaction with pieces moves on: at its port, its home or its target. -/
def State.advance (s : State) (id : Nat) : State :=
  match s.flight id with
  | none => s
  | some f => ((List.range f.pieces.length).foldl (fun s i => s.stepPiece id i) s).settle id
/-- A remote waiting request that was answered with a retry is sent again (03 R74). -/
def State.sendAgain (s : State) (id : Nat) : State :=
  (s.modFlight id fun f =>
    { f with pieces := f.pieces.map fun p => if p.phase = .retry then { p with phase := .new } else p }).advance id

/-! ### The store buffer (03 R76, R77) -/

/-- An entry leaves the buffer: one write on its way to its target. -/
def State.drainOne (s : State) (c : Nat) (e : SbEntry) : State :=
  let s := s.modCore c fun k => { k with sb := k.sb.filter fun x => x ≠ e }
  let place := if e.chip then Place.chip e.blk else Place.glob e.asid e.blk
  let f : Flight :=
    { id := s.nextId, thr := e.thr, pc := e.pc, lid := e.lid, asid := e.asid, born := s.cycle, sys := e.sys,
      pieces := [⟨place, 64, 0, .new⟩], kind := .store e.data e.mask e.fill e.grans e.ids e.first }
  let s := { s with flights := s.flights ++ [f], nextId := s.nextId + 1 }
  s.postLat f.id f.event
/-- The entries of one thread drain in the order they were allocated, up to and with the first `n` of them. -/
def State.drainFirst (s : State) (c t : Nat) (n : Nat) : State :=
  (((s.core c).sb.filter fun e => e.thr = t).take n).foldl (fun s e => s.drainOne c e) s
/-- All entries of a core drain, in the order they were allocated (R4). -/
def State.drainCore (s : State) (c : Nat) : State := (s.core c).sb.foldl (fun s e => s.drainOne c e) s
/-- All entries of a thread drain. -/
def State.drainThread (s : State) (t : Nat) : State := s.drainFirst (coreOf t) t 16
/-- The number of a thread's entries up to and with the first one that `p` selects. -/
def entryRank (p : SbEntry → Bool) (t : Nat) (l : List SbEntry) : Nat :=
  let own := l.filter fun e => e.thr = t
  (own.findIdx p) + 1
/-- The entry that `p` selects drains, its thread's older entries before it. -/
def State.drainEntry (s : State) (c : Nat) (p : SbEntry → Bool) : State :=
  match (s.core c).sb.find? p with
  | none => s
  | some e => s.drainFirst c e.thr (entryRank p e.thr (s.core c).sb)

/-- The entry that a store combines into: the newest of its block, plain as the store is, of the same thread in the same launch
and segment kind, with no full/empty store between (R77). -/
def canCombine (l : List SbEntry) (n : SbEntry) : Option SbEntry :=
  match (l.reverse.find? fun e => e.thr = n.thr && e.chip = n.chip && (e.chip || e.asid = n.asid) && e.blk = n.blk) with
  | some e => if e.fill.isNone && n.fill.isNone && e.lid = n.lid then some e else none
  | none => none

/-- A buffered store enters the store buffer (R77). An entry that holds a user store is checked as one (log 40). -/
def State.pushStore (s : State) (c : Nat) (n : SbEntry) : State :=
  let k := s.core c
  match canCombine k.sb n with
  | some e =>
    let join := fun (x : SbEntry) =>
      { x with data := mergeBlock x.data n.data n.mask,
               mask := x.mask ||| n.mask, ids := if x.ids.contains (n.ids.headD 0) then x.ids else x.ids ++ n.ids,
               sys := x.sys && n.sys, lastUse := s.cycle }
    let s := s.modCore c fun k => { k with sb := k.sb.map fun x => if x = e then join x else x }
    if e.mask ||| n.mask = BitVec.allOnes 64 then s.drainEntry c fun x => x.ids.head? = e.ids.head? && x.blk = e.blk
    else s.post (s.cycle + 64) (.storeBufferDrain c (e.ids.headD 0))
  | none =>
    let s := if 16 ≤ k.sb.length then (match k.sb with | e :: _ => s.drainOne c e | [] => s) else s
    let s := s.modCore c fun k => { k with sb := k.sb ++ [n] }
    if n.mask = BitVec.allOnes 64 then s.drainEntry c fun x => x.ids.head? = n.ids.head? && x.blk = n.blk
    else s.post (s.cycle + 64) (.storeBufferDrain c (n.ids.headD 0))

/-- STORE_BUFFER_DRAIN: the entries of a store that have been idle for 64 cycles drain; one used since waits for its later
timer (R77). -/
def State.idleDrain (s : State) (c id : Nat) : State :=
  ((s.core c).sb.filter fun e => e.ids.head? = some id && e.lastUse + 64 ≤ s.cycle).foldl
    (fun s e => s.drainEntry c fun x => x = e) s

/-- The entry of a store's piece: its aligned block, or a window that starts at the piece where it crosses the end of one. -/
def State.entryOf (s : State) (t : Nat) (p : Piece) (data : VWord) (fill : Option Bool) (grans : Bool) (ticket : Nat) : SbEntry :=
  let x := s.slot t
  let a := match p.place with | .chip a => a | .glob _ va => va
  let o := if a % 64 + p.len ≤ 64 then a % 64 else 0
  { thr := t, chip := (match p.place with | .chip _ => true | .glob _ _ => false), asid := s.asidOf x.lidN, blk := a - o,
    data := putBytes 0 o p.len (getBytes data p.pos p.len), mask := BitVec.ofNat 64 ((2 ^ p.len - 1) * 2 ^ o),
    fill := fill, grans := grans, pc := x.pc, first := a, ids := [ticket], lastUse := s.cycle, lid := x.lidN,
    sys := decide (x.mode = .system) }

/-! ### Releases and draining at the issuing slot -/

/-- Numbers of the scopes (R245). -/
def scopeCode : Scope → Nat
  | .thread => 0
  | .core => 1
  | .cluster => 2
  | .die => 3
  | .module => 4
  | .system => 5
/-- The scope with a number. -/
def scopeOfCode : Nat → Scope
  | 0 => .thread
  | 1 => .core
  | 2 => .cluster
  | 3 => .die
  | 4 => .module
  | _ => .system

/-- Whether a store or atomic has left its cluster and is not acknowledged (05 R136). -/
def Flight.outbound (f : Flight) : Bool :=
  f.writes && f.pieces.any fun p =>
    match p.phase, p.place with
    | .home _ _, _ => true
    | .done, _ => false
    | _, .chip a => chipCluster a ≠ clusterOf f.thr
    | _, _ => false
/-- The tickets of a cluster's outbound stores and atomics (05 R136). -/
def State.outbound (s : State) (cl : Nat) : List Nat :=
  (s.flights.filter fun f => f.outbound && clusterOf f.thr = cl).map (·.id)
/-- Whether a piece waits for something other than its way: a fault's resolution or a matrix command. -/
def Piece.stuck (p : Piece) : Bool := match p.phase with | .parked _ _ | .behind _ => true | _ => false
/-- Whether a release of thread `t` that began at ticket `start` is complete (R4, 05 R136). The stores that its core had
drained are performed in the cluster, or have passed the port or left it; at die scope and wider the thread's own, its
core's and the cluster's outbound ones of that time are acknowledged. Another thread's access that waits on a fault or behind a
matrix command is not waited for (log 55). -/
def State.releaseReady (s : State) (t start : Nat) (sc : Scope) : Bool :=
  let cl := clusterOf t
  let noEntry := (s.core (coreOf t)).sb.all fun e => !(e.ids.any (· < start))
  let older := s.flights.filter fun f => coreOf f.owner = coreOf t && f.writes && f.id < start
  let free := fun (f : Flight) (p : Piece) => f.owner ≠ t && p.stuck
  let passed := older.all fun f => f.pieces.all fun p => free f p ||
    match p.place, p.phase with
    | _, .done => true
    | .chip a, _ => chipCluster a ≠ cl
    | .glob _ _, .home _ _ => true
    | .glob _ _, _ => false
  match sc with
  | .thread | .core => true
  | .cluster => noEntry && passed
  | .die | .module | .system =>
    noEntry && (s.slot t).sbcnt = 0 && (older.all fun f => f.pieces.all fun p => free f p) &&
      s.flights.all fun f => !(s.slot t).relWaits.contains f.id

/-- Release(scope) of R4 in an instruction: the core's store buffer drains, and until the release is complete the slot is
BLOCKED and the instruction issues again. -/
def State.withRelease (s : State) (sc : Scope) (k : State → State) : State :=
  match sc with
  | .thread | .core => k s
  | _ =>
    let t := s.cur
    let s := if (s.slot t).relFrom.isSome then s
      else
        let s := s.drainCore (coreOf t)
        s.modSlot t fun x => { x with relFrom := some (s.nextId, scopeCode sc), relWaits := s.outbound (clusterOf t) }
    let start := match (s.slot t).relFrom with | some r => r.1 | none => 0
    if s.releaseReady t start sc then k (s.modSlot t fun x => { x with relFrom := none, relWaits := [] })
    else (s.blockCur .release).postLat start (.releaseCompletion t)

/-- RELEASE_COMPLETION: the slot whose release is complete returns to rotation, else it is looked at again; one whose access in
the pipeline waits for stores of its core issues it again (05 R133, R134). -/
def State.releaseEvent (s : State) (t : Nat) : State :=
  let x := s.slot t
  match x.relFrom with
  | none => if x.acqReg.isNone then s.setSlot t (x.wake .release) else s
  | some r =>
    if x.status = .blocked .release then
      if s.releaseReady t r.1 (scopeOfCode r.2) then s.setSlot t (x.wake .release)
      else s.postLat r.1 (.releaseCompletion t)
    else s

/-- Whether every earlier access of a thread is complete (05 R143). -/
def State.drained (s : State) (t : Nat) : Bool :=
  (s.slot t).sbcnt = 0 && (s.core (coreOf t)).sb.all (fun e => e.thr ≠ t) &&
    s.flights.all fun f => !(f.owner = t && f.access)

/-- What a push release waits for (05 R136, R150): the thread's stores and atomics, its core's stores on their way to global
memory, and its cluster's outbound ones, so far. The core's buffered stores are sent first (R4). -/
def State.pushWaits (s : State) (t : Nat) : State × List Nat :=
  let s := s.drainCore (coreOf t)
  let global := fun (f : Flight) => f.pieces.all fun p => match p.place with | .glob _ _ => !p.stuck | .chip _ => false
  (s, (s.flights.filter fun f => f.writes &&
    (f.owner = t || f.outbound && clusterOf f.thr = clusterOf t || coreOf f.owner = coreOf t && global f)).map (·.id))
/-- Whether none of the awaited writes is on its way any more. -/
def State.waitsOver (s : State) (l : List Nat) : Bool := s.flights.all fun f => !(l.contains f.id)

end Sys2Proof.Machine
end

