-- ==== Sys2Proof/WellFormed.lean ====
section
/-! DEFINITION. The limits of 09 R238 step 2 that the shape of an instruction does not already give: element types
accepted (12 R313, 14 R352, 11 R289), register pairs and groups (11 R303, 13 R332, 14 R367), control-register numbers
(09 R247), counts and rings of matrix commands (09 R244, 14 R352), scopes (11 R294). -/

namespace Sys2Proof

/-- Integer element types. -/
def ElemTy.isInt : ElemTy → Bool
  | .i8 | .i16 | .i32 | .i64 => true
  | .bf16 | .f16 | .f32 | .s8 => false

/-- Binary floating-point element types. -/
def ElemTy.isFloat : ElemTy → Bool
  | .bf16 | .f16 | .f32 => true
  | .i8 | .i16 | .i32 | .i64 | .s8 => false

/-- Types of VDOT (12 R313). -/
def ElemTy.dotOk : ElemTy → Bool
  | .i8 | .i16 | .bf16 | .f16 | .s8 => true
  | .i32 | .i64 | .f32 => false

/-- Types of VPACK (12 R313). -/
def ElemTy.packOk : ElemTy → Bool
  | .i16 | .i32 | .i64 | .f32 => true
  | .i8 | .bf16 | .f16 | .s8 => false

/-- Types of VUNPK (12 R313). -/
def ElemTy.unpkOk : ElemTy → Bool
  | .i8 | .i16 | .i32 | .bf16 | .f16 | .s8 => true
  | .i64 | .f32 => false

/-- Types of VLDI and VSTI (11 R289). -/
def ElemTy.idxOk : ElemTy → Bool
  | .i32 | .i64 | .f32 => true
  | .i8 | .i16 | .bf16 | .f16 | .s8 => false

/-- Types of MMA (14 R352). -/
def ElemTy.mmaOk : ElemTy → Bool
  | .i8 | .bf16 | .f16 | .s8 => true
  | .i16 | .i32 | .i64 | .f32 => false

/-- Types of ACCOUT, ACCIN, ACCLD and ACCST (14 R352). -/
def ElemTy.accOk : ElemTy → Bool
  | .i8 | .i32 | .bf16 | .f16 | .f32 | .s8 => true
  | .i16 | .i64 => false

/-- Scopes FENCER accepts (11 R294). -/
def Scope.rangeOk : Scope → Bool
  | .die | .module | .system => true
  | .thread | .core | .cluster => false

/-- An even register number (11 R303, 13 R332). -/
def evenReg (d : Fin 32) : Bool := d.val % 2 == 0

/-- The limits of an encodable instruction; the events have no encoding and no limit here. -/
def Instr.wf : Instr → Bool
  | .hint bits => bits != 0
  | .crrd _ cr => cr.val < 15
  | .crwr o | .crset o | .crclr o => o.cr.val < 8
  | .ldx u o => !(u && o.size == .d)
  | .fencer sc _ => sc.rangeOk
  | .vldi o | .vsti o => o.ty.idxOk
  | .mrecv d => evenReg d
  | .mrecvt o | .rtake o => evenReg o.d
  | .vadd o | .vsub o | .vmul o | .vmulh o | .vmin o | .vmax o | .vminu o | .vmaxu o | .vadds o | .vsubs o => o.ty.isInt
  | .vabs o | .vneg o => o.ty.isInt
  | .vsll o | .vsrl o | .vsra o => o.ty.isInt
  | .vfadd o | .vfsub o | .vfmul o | .vfdiv o | .vfmin o | .vfmax o => o.ty.isFloat
  | .vfabs o | .vfneg o | .vfsqrt o | .vrcp o | .vrsq o | .vexp2 o => o.ty.isFloat
  | .vfma o | .vfms o | .vfnma o => o.ty.isFloat
  | .vdot o => o.ty.dotOk
  | .vcmp _ o => o.ty.isInt && o.d.val < 8
  | .vfcmp _ o => o.ty.isFloat && o.d.val < 8
  | .vcvti o | .vcvtf o => o.ty.isFloat
  | .vpack _ _ _ ty _ => ty.packOk
  | .vunpk _ _ ty _ => ty.unpkOk
  | .vredadd o | .vredmin o | .vredmax o => o.ty.isInt
  | .vfredadd o | .vfredmax o => o.ty.isFloat
  | .mma o | .mmas o => o.ty.mmaOk && o.kc.val ≤ 16 && o.ringA != o.ringB
  | .mmar o | .mmasr o => o.ty.mmaOk && o.ringA != o.ringB
  | .accout o | .accin o => o.ty.accOk
  | .accld o | .accst o => o.ty.accOk
  | .mqwait _ n => n.val ≤ 8
  | .copyq o => o.a.val % 4 == 0 && o.a.val ≥ 4
  | .copyqt o => o.a.val % 4 == 0 && o.a.val ≥ 4
  | .gathq o => o.a.val % 8 == 0 && o.a.val ≥ 8
  | .gathqt o => o.a.val % 8 == 0 && o.a.val ≥ 8
  | _ => true

end Sys2Proof
end

