-- ==== Sys2Proof/Machine/Flags.lean ====
section
/-! DEFINITION. Flags and modes of arithmetic: fflags (08 R226), fmode (R227), rounding modes (R219), the random draws of
stochastic rounding (R222) and format descriptors (R228). -/

namespace Sys2Proof.Machine

/-- NV of fflags (R226). -/
def flagNV : Nat := 16
/-- DZ. -/
def flagDZ : Nat := 8
/-- OF. -/
def flagOF : Nat := 4
/-- UF. -/
def flagUF : Nat := 2
/-- NX. -/
def flagNX : Nat := 1

/-- The union of two sets of flags. -/
def orFlags (a b : Nat) : Nat := a ||| b
/-- A flag if a condition holds. -/
def flagIf (c : Bool) (f : Nat) : Nat := if c then f else 0
/-- Sticky flags (R226): the instruction's are ORed in, none is cleared. -/
def Slot.addFlags (x : Slot) (f : Nat) : Slot := { x with fflags := x.fflags ||| BitVec.ofNat 64 (f % 32) }

/-- Rounding modes (R219). -/
inductive RMode | rne | rz | rd | ru | sr
  deriving DecidableEq, Repr

/-- The mode with a code; DYN and reserved codes do not come here. -/
def rmodeOf : Nat → RMode
  | 1 => .rz
  | 2 => .rd
  | 3 => .ru
  | 4 => .sr
  | _ => .rne
/-- fmode.RM (R227). -/
def Slot.rmode (x : Slot) : RMode := rmodeOf (x.fmode.toNat % 8)
/-- The mode of an arithmetic instruction: SR rounds as RNE (R219). -/
def RMode.arith : RMode → RMode
  | .sr => .rne
  | m => m
/-- fmode.SATINF (R227). -/
def Slot.satinf (x : Slot) : Bool := x.fmode.getLsbD 3
/-- Whether a value may be written to fmode (R227). -/
def fmodeOk (v : Nat) : Bool := v / 16 == 0 && v % 8 < 5

/-- The random word of lane `i` under seed `s` (R222). -/
def srWord (s i : Nat) : Nat :=
  (((s % 2 ^ 32) ^^^ (i * 0x9E3779B1 % 2 ^ 32)) * 0x85EBCA6B % 2 ^ 32) / 2 ^ 16
/-- The next seed (R222). -/
def srNext (s : Nat) : Nat :=
  let a := (s % 2 ^ 32) ^^^ (s % 2 ^ 32 * 2 ^ 13 % 2 ^ 32)
  let b := a ^^^ (a / 2 ^ 17)
  b ^^^ (b * 2 ^ 5 % 2 ^ 32)
/-- The advance of rseed after a conversion that rounds under SR (R222, 12 R324). -/
def Slot.advanceSeed (x : Slot) (m : RMode) : Slot :=
  match m with | .sr => { x with rseed := BitVec.ofNat 64 (srNext x.rseed.toNat) } | _ => x

/-- The element type with a code (R210). -/
def elemOf : Nat → ElemTy
  | 0 => .i8
  | 1 => .i16
  | 2 => .i32
  | 3 => .i64
  | 4 => .bf16
  | 5 => .f16
  | 6 => .f32
  | _ => .s8
/-- The code of an element type (R210). -/
def elemCode : ElemTy → Nat
  | .i8 => 0
  | .i16 => 1
  | .i32 => 2
  | .i64 => 3
  | .bf16 => 4
  | .f16 => 5
  | .f32 => 6
  | .s8 => 7
/-- STY of a format descriptor (R228). -/
def fsSty (d : Nat) : ElemTy := elemOf (d % 8)
/-- DTY. -/
def fsDty (d : Nat) : ElemTy := elemOf (d / 8 % 8)
/-- SCL. -/
def fsScl (d : Nat) : Nat := d / 2 ^ 11 % 4
/-- The rounding mode of a descriptor, DYN meaning fmode.RM (R321). -/
def fsMode (d : Nat) (fm : RMode) : RMode := if d / 256 % 8 = 7 then fm else rmodeOf (d / 256 % 8)
/-- SAT. -/
def fsSat (d : Nat) : Bool := bit d 13
/-- Whether R224 gives a conversion between two types: every pair but an integer to a wider integer (log 13). -/
def convExists (a b : ElemTy) : Bool := !(a.isInt && b.isInt && elemBytes a < elemBytes b)
/-- Whether a format descriptor is valid (R228). -/
def fsValid (d : Nat) : Bool :=
  d / 2 ^ 14 == 0 && bits d 7 6 == 0 && (d / 256 % 8 < 5 || d / 256 % 8 == 7) &&
    convExists (fsSty d) (fsDty d) && (fsScl d == 0 || ((fsSty d == .s8) != (fsDty d == .s8)))

end Sys2Proof.Machine
end

