-- ==== Sys2Proof/Machine/Float.lean ====
section
/-! DEFINITION. Number formats (08 R214-R218), rounding (R219-R223), exact arithmetic on decoded values and conversions
(R224, R225). A finite value is an integer times a power of two, kept exactly. -/

namespace Sys2Proof.Machine

/-- A decoded value: `fin neg m e` is ±m·2^e with m > 0. -/
inductive FVal
  | nan (signalling : Bool)
  | inf (neg : Bool)
  | zero (neg : Bool)
  | fin (neg : Bool) (m : Nat) (e : Int)
  deriving DecidableEq, Repr

/-- An exact result before rounding: `num neg m e sticky` lies in [m·2^e, (m+1)·2^e), and is m·2^e if not sticky. Where
sticky, m has enough bits that every rounding boundary is a multiple of 2^e. -/
inductive XVal
  | nan
  | inf (neg : Bool)
  | zero (neg : Bool)
  | num (neg : Bool) (m : Nat) (e : Int) (sticky : Bool)
  deriving DecidableEq, Repr

/-- Fraction bits of a binary format (R214). -/
def fracBits : ElemTy → Nat
  | .f32 => 23
  | .f16 => 10
  | _ => 7
/-- Exponent bits. -/
def expBits : ElemTy → Nat
  | .f16 => 5
  | _ => 8
/-- Exponent bias. -/
def expBias (t : ElemTy) : Nat := 2 ^ (expBits t - 1) - 1

/-! ### Decoding -/

/-- A binary floating-point code (R214). -/
def decodeIeee (t : ElemTy) (c : Nat) : FVal :=
  let f := fracBits t
  let neg := bit c (f + expBits t)
  let ex := c / 2 ^ f % 2 ^ expBits t
  let fr := c % 2 ^ f
  if ex = 2 ^ expBits t - 1 then (if fr = 0 then .inf neg else .nan (!bit fr (f - 1)))
  else if ex = 0 then (if fr = 0 then .zero neg else .fin neg fr (1 - (expBias t : Int) - f))
  else .fin neg (2 ^ f + fr) ((ex : Int) - expBias t - f)

/-- The magnitude of a SCARF8 code with magnitude bits 2 to 0x7F, as (significand, exponent, fraction bits) (R217). -/
def scarfMag (c : Nat) : Nat × Int × Nat :=
  let b5 := (bits c 5 4 : Int)
  if c ≥ 0x40 then (16 + c % 16, b5 - 2 - 4, 4)
  else if c ≥ 0x30 then (4 + c % 4, -3 - (bits c 3 2 : Int) - 2, 2)
  else if c ≥ 0x20 then (4 + c % 4, 2 + (bits c 3 2 : Int) - 2, 2)
  else if c ≥ 0x18 then (2 + c % 2, -7 - (bits c 2 1 : Int) - 1, 1)
  else if c ≥ 0x10 then (2 + c % 2, 6 + (bits c 2 1 : Int) - 1, 1)
  else if c ≥ 0x0C then (1, -11 - (c % 4 : Nat), 0)
  else if c ≥ 0x08 then (1, 10 + (c % 4 : Nat), 0)
  else if c ≥ 0x06 then (1, -15 - (c % 2 : Nat), 0)
  else if c ≥ 0x04 then (1, 14 + (c % 2 : Nat), 0)
  else if c = 0x03 then (1, -17, 0)
  else (1, 16, 0)
/-- A SCARF8 code under SATINF (R217, R218). -/
def decodeScarf (satinf : Bool) (c : Nat) : FVal :=
  let neg := bit c 7
  let m := c % 128
  if m = 0 then (if neg then .nan false else .zero false)
  else if m = 1 then (if satinf then .inf neg else .fin neg 1 17)
  else .fin neg (scarfMag m).1 (scarfMag m).2.1
/-- A floating-point code of a type. -/
def decodeF (t : ElemTy) (satinf : Bool) (c : Nat) : FVal :=
  match t with | .s8 => decodeScarf satinf c | _ => decodeIeee t c

/-- The exact value as it stands. -/
def FVal.x : FVal → XVal
  | .nan _ => .nan
  | .inf n => .inf n
  | .zero n => .zero n
  | .fin n m e => .num n m e false
/-- NV for a signalling NaN (R215). -/
def FVal.snan : FVal → Nat
  | .nan true => flagNV
  | _ => 0
/-- The value with its sign changed. -/
def FVal.neg : FVal → FVal
  | .nan s => .nan s
  | .inf n => .inf (!n)
  | .zero n => .zero (!n)
  | .fin n m e => .fin (!n) m e
/-- Whether a value is a NaN. -/
def FVal.isNan : FVal → Bool
  | .nan _ => true
  | _ => false

/-! ### Rounding -/

/-- The multiple of 2^u that the mode chooses for the magnitude, as a count of 2^u, with whether it is inexact
(R220-R222). `rnd` is the random word of SR. -/
def roundAt (mode : RMode) (rnd : Nat) (neg : Bool) (m : Nat) (e : Int) (sticky : Bool) (u : Int) : Nat × Bool :=
  if u ≤ e then (m * 2 ^ (e - u).toNat, sticky)
  else
    let sh := (u - e).toNat
    let q := m / 2 ^ sh
    let r := m % 2 ^ sh
    if r = 0 && !sticky then (q, false)
    else
      let up := match mode with
        | .rne => if 2 * r = 2 ^ sh && !sticky then q % 2 == 1 else 2 ^ sh ≤ 2 * r
        | .rz => false
        | .rd => neg
        | .ru => !neg
        | .sr => 2 ^ 16 ≤ r * 2 ^ 16 / 2 ^ sh + rnd
      (if up then q + 1 else q, true)

/-- Rounding into f32, f16 or bf16: code and flags (R220, R226). -/
def roundIeee (t : ElemTy) (mode : RMode) (rnd : Nat) (neg : Bool) (m : Nat) (e : Int) (sticky : Bool) : Nat × Nat :=
  let f := fracBits t
  let sign := b2n neg * 2 ^ (f + expBits t)
  let infc := (2 ^ expBits t - 1) * 2 ^ f
  let emin : Int := 1 - expBias t
  let top : Int := (Nat.log2 m : Int) + e
  if top > expBias t then
    let trunc := match mode with | .rz => true | .rd => !neg | .ru => neg | .rne | .sr => false
    (sign + (if trunc then infc - 1 else infc), flagOF + flagNX)
  else
    let u := max (top - f) (emin - f)
    let r := roundAt mode rnd neg m e sticky u
    let c := (u - (emin - f)).toNat * 2 ^ f + r.1
    if infc ≤ c then (sign + infc, flagOF + flagNX)
    else
      let v := roundAt mode rnd neg m e sticky (top - f)
      let tiny := decide (top < emin) && decide (v.1 < 2 ^ (emin - (top - f)).toNat)
      (sign + c, flagIf r.2 flagNX + flagIf (r.2 && tiny) flagUF)

/-- The finite magnitudes of SCARF8 in units of 2^-17, each with its code, last fraction bit and exponent, rising; the
top code comes last with 2^34. -/
def scarfTable : List (Nat × Nat × Nat × Int) :=
  let row := fun (c : Nat) =>
    let g := scarfMag c
    (g.1 * 2 ^ (g.2.1 + 17).toNat, c, (if g.2.2 = 0 then 0 else g.1 % 2), g.2.1 + g.2.2)
  let up := fun (lo n : Nat) => (List.range n).map fun i => row (lo + i)
  let blocks := fun (lo n k : Nat) => (List.range k).flatMap fun i => up (lo + (k - 1 - i) * n) n
  up 0x03 1 ++ blocks 0x06 1 2 ++ blocks 0x0C 1 4 ++ blocks 0x18 2 4 ++ blocks 0x30 4 4 ++ up 0x40 64 ++ up 0x20 16 ++
    up 0x10 8 ++ up 0x08 4 ++ up 0x04 2 ++ up 0x02 1 ++ [(2 ^ 34, 1, 0, 17)]

/-- Rounding into SCARF8: code and flags (R220, R221, R223). -/
def roundScarf (satinf : Bool) (mode : RMode) (rnd : Nat) (neg : Bool) (m : Nat) (e : Int) (sticky : Bool) : Nat × Nat :=
  let g : Int := e + 57
  let a := if 0 ≤ g then m * 2 ^ g.toNat else m / 2 ^ (-g).toNat
  let st := sticky || (g < 0 && m % 2 ^ (-g).toNat != 0)
  let sign := b2n neg * 128
  let top := 2 ^ 34 * 2 ^ 40
  if !satinf && (top < a || (a = top && st)) then (sign + 1, flagOF + flagNX)
  else
    let cand := if satinf then scarfTable.dropLast else scarfTable
    let lo : Nat × Nat × Nat × Int := cand.foldl (fun r v => if v.1 * 2 ^ 40 ≤ a then v else r) (0, 0, 0, 0)
    let hi : Nat × Nat × Nat × Int := match scarfTable.find? fun v => lo.1 < v.1 with | some v => v | none => lo
    if lo.1 * 2 ^ 40 = a && !st then (if lo.2.1 = 0 then 0 else sign + lo.2.1, 0)
    else
      let r := a - lo.1 * 2 ^ 40
      let d := (hi.1 - lo.1) * 2 ^ 40
      let up := match mode with
        | .rne =>
          if 2 * r = d && !st then
            (if lo.2.2.1 = 1 then true else if hi.2.2.1 = 1 then false else (if lo.1 = 0 then false else lo.2.2.2 % 2 != 0))
          else d ≤ 2 * r
        | .rz => false
        | .rd => neg
        | .ru => !neg
        | .sr => 2 ^ 16 ≤ r * 2 ^ 16 / d + rnd
      let c := if up then hi.2.1 else lo.2.1
      let sat := satinf && ((up && hi.2.1 = 1) || top < a || (a = top && st))
      let tiny := lo.1 = 0
      (if c = 0 then 0 else sign + c, flagNX + flagIf sat flagOF + flagIf tiny flagUF)

/-- The canonical NaN (R215). -/
def canonNan : ElemTy → Nat
  | .f32 => 0x7FC00000
  | .f16 => 0x7E00
  | .s8 => 0x80
  | _ => 0x7FC0

/-- RoundF of R4: an exact value into a floating-point type under a mode: code and flags. -/
def roundF (t : ElemTy) (satinf : Bool) (mode : RMode) (rnd : Nat) (v : XVal) : Nat × Nat :=
  match t, v with
  | t, .nan => (canonNan t, 0)
  | .s8, .inf n => (b2n n * 128 + 1, if satinf then 0 else flagOF + flagNX)
  | .s8, .zero _ => (0, 0)
  | .s8, .num n m e s => roundScarf satinf mode rnd n m e s
  | t, .inf n => (b2n n * 2 ^ (fracBits t + expBits t) + (2 ^ expBits t - 1) * 2 ^ fracBits t, 0)
  | t, .zero n => (b2n n * 2 ^ (fracBits t + expBits t), 0)
  | t, .num n m e s => roundIeee t mode rnd n m e s

/-! ### Exact arithmetic -/

/-- The sign of an exact zero sum (R216). -/
def zeroSign (mode : RMode) : Bool := mode == .rd

/-- A signed integer in units of 2^e, as an exact value; zero takes the sign of a zero sum. -/
def ofInt (mode : RMode) (i e : Int) : XVal :=
  if i = 0 then .zero (zeroSign mode) else .num (i < 0) i.natAbs e false
/-- A finite value in units of 2^e, e not above its own exponent. -/
def FVal.units (e : Int) : FVal → Int
  | .fin n m x => (if n then -1 else 1) * ((m * 2 ^ (x - e).toNat : Nat) : Int)
  | _ => 0
/-- The exponent of a finite value. -/
def FVal.ex : FVal → Int → Int
  | .fin _ _ x, e => min x e
  | _, e => e

/-- The exact sum of a list of addends, with NV for ∞ − ∞ (R216, R230). NaNs' own flags are not counted here. -/
def sumX (mode : RMode) (l : List FVal) : XVal × Nat :=
  if l.any FVal.isNan then (.nan, 0)
  else
    let p := l.contains (.inf false)
    let n := l.contains (.inf true)
    if p && n then (.nan, flagNV)
    else if p || n then (.inf n, 0)
    else
      let e := l.foldl (fun e v => v.ex e) 4096
      let i := l.foldl (fun s v => s + v.units e) 0
      if i = 0 then (.zero (if l.all (fun v => v == .zero true) then true else zeroSign mode), 0)
      else (ofInt mode i e, 0)

/-- The exact product; 0 · ∞ is NaN with NV (R216, R230). -/
def mulF (a b : FVal) : FVal × Nat :=
  match a, b with
  | .nan s, .nan t => (.nan false, flagIf (s || t) flagNV)
  | .nan s, _ | _, .nan s => (.nan false, flagIf s flagNV)
  | .inf _, .zero _ | .zero _, .inf _ => (.nan false, flagNV)
  | .inf n, .inf k | .inf n, .fin k _ _ | .fin n _ _, .inf k => (.inf (n != k), 0)
  | .zero n, .zero k | .zero n, .fin k _ _ | .fin n _ _, .zero k => (.zero (n != k), 0)
  | .fin n m e, .fin k j f => (.fin (n != k) (m * j) (e + f), 0)

/-- a + b. -/
def addF (mode : RMode) (a b : FVal) : XVal × Nat :=
  let r := sumX mode [a, b]
  (r.1, r.2 ||| a.snan ||| b.snan)
/-- a × b + d, the sum exact (R318). -/
def fmaF (mode : RMode) (a b d : FVal) : XVal × Nat :=
  let p := mulF a b
  let r := sumX mode [p.1, d]
  (r.1, p.2 ||| r.2 ||| d.snan)
/-- a × b as a result. -/
def mulX (a b : FVal) : XVal × Nat := let p := mulF a b; (p.1.x, p.2)

/-- The quotient of two positive integers in units: at least 100 bits below the leading one, with sticky. -/
def divMag (neg : Bool) (m : Nat) (e : Int) (k : Nat) (f : Int) : XVal :=
  let n := m * 2 ^ (Nat.log2 k + 128)
  .num neg (n / k) (e - f - (Nat.log2 k + 128 : Nat)) (n % k != 0)
/-- a ÷ b (R316). -/
def divF (a b : FVal) : XVal × Nat :=
  match a, b with
  | .nan _, _ | _, .nan _ => (.nan, a.snan ||| b.snan)
  | .inf _, .inf _ | .zero _, .zero _ => (.nan, flagNV)
  | .inf n, .zero k | .inf n, .fin k _ _ => (.inf (n != k), 0)
  | .zero n, .inf k | .zero n, .fin k _ _ | .fin n _ _, .inf k => (.zero (n != k), 0)
  | .fin n _ _, .zero k => (.inf (n != k), flagDZ)
  | .fin n m e, .fin k j f => (divMag (n != k) m e j f, 0)

/-- The integer square root by binary digits below 2^n. -/
def isqrt (x : Nat) : Nat → Nat
  | 0 => 0
  | n + 1 =>
    let r := isqrt (x / 4) n * 2
    if (r + 1) * (r + 1) ≤ x then r + 1 else r
/-- √a (R316). -/
def sqrtF (a : FVal) : XVal × Nat :=
  match a with
  | .nan _ => (.nan, a.snan)
  | .zero n => (.zero n, 0)
  | .inf false => (.inf false, 0)
  | .inf true | .fin true _ _ => (.nan, flagNV)
  | .fin false m e =>
    let odd := (e % 2).toNat
    let n := m * 2 ^ (128 + odd)
    let r := isqrt n 128
    (.num false r ((e - odd) / 2 - 64) (r * r != n), 0)
/-- 1 ÷ √a (R316). -/
def rsqF (a : FVal) : XVal × Nat :=
  match a with
  | .nan _ => (.nan, a.snan)
  | .zero n => (.inf n, flagDZ)
  | .inf false => (.zero false, 0)
  | .inf true | .fin true _ _ => (.nan, flagNV)
  | .fin false m e =>
    let odd := (e % 2).toNat
    let n := 2 ^ (256 + odd) / m
    let r := isqrt n 160
    (.num false r (-(e + odd) / 2 - 128) (r * r * m != 2 ^ (256 + odd)), 0)

/-- ln 2 in units of 2^-384: 2 Σ 3^-(2k+1) / (2k+1). -/
def ln2Fixed : Nat :=
  ((List.range 130).foldl (fun s k => s + 2 ^ 385 / (3 ^ (2 * k + 1) * (2 * k + 1))) 0)
/-- exp of z·2^-384 in units of 2^-384, for 0 ≤ z < 2^384, by its series. -/
def expFixed (z : Nat) : Nat :=
  ((List.range 100).foldl (fun (s : Nat × Nat) k =>
    let t := s.2 * z / 2 ^ 384 / (k + 1)
    (s.1 + t, t)) (2 ^ 384, 2 ^ 384)).1
/-- 2^a (R316): exact for an integer a; otherwise 2^⌊a⌋ times the series value of 2^(a − ⌊a⌋), never representable. The
exponent is cut at ±4000, beyond which every format overflows or is tiny. -/
def exp2F (a : FVal) : XVal × Nat :=
  match a with
  | .nan _ => (.nan, a.snan)
  | .zero _ => (.num false 1 0 false, 0)
  | .inf n => (if n then .zero false else .inf false, 0)
  | .fin n m e =>
    if 12 < (Nat.log2 m : Int) + e then (.num false 1 (if n then -4000 else 4000) false, 0)
    else
      let v : Int := (if n then -1 else 1) * (m : Int)
      let fl := if 0 ≤ e then v * 2 ^ e.toNat else v / 2 ^ (-e).toNat
      let fr : Nat := if 0 ≤ e then 0 else ((v % 2 ^ (-e).toNat).toNat) * 2 ^ 384 / 2 ^ (-e).toNat
      if fr = 0 then (.num false 1 fl false, 0)
      else (.num false (expFixed (fr * ln2Fixed / 2 ^ 384) / 2 ^ 30) (fl - 354) true, 0)

/-! ### Order (R317, R320) -/

/-- Whether a < b, for values that are no NaN; −0 equals +0. -/
def ltF (a b : FVal) : Bool :=
  match a, b with
  | .nan _, _ | _, .nan _ => false
  | .inf n, .inf k => n && !k
  | .inf n, _ => n
  | _, .inf k => !k
  | a, b => let e := a.ex (b.ex 4096); a.units e < b.units e
/-- Whether a is below b with −0 below +0 (R317). -/
def ltZ (a b : FVal) : Bool :=
  match a, b with
  | .zero n, .zero k => n && !k
  | a, b => ltF a b
/-- VFMIN or VFMAX of two codes (R317). -/
def minmaxF (t : ElemTy) (wantMax : Bool) (x y : Nat) : Nat × Nat :=
  let a := decodeIeee t x
  let b := decodeIeee t y
  let fl := a.snan ||| b.snan
  if a.isNan && b.isNan then (canonNan t, fl)
  else if a.isNan then (y, fl)
  else if b.isNan then (x, fl)
  else if wantMax then (if ltZ a b then y else x, fl) else (if ltZ b a then y else x, fl)
/-- VFCMP on one lane: the bit and its flags (R320). -/
def cmpF (c : FCond) (a b : FVal) : Bool × Nat :=
  let nan := a.isNan || b.isNan
  let quiet := a.snan ||| b.snan
  match c with
  | .eq => (!nan && !ltF a b && !ltF b a, quiet)
  | .ne => (nan || ltF a b || ltF b a, quiet)
  | .lt => (ltF a b, flagIf nan flagNV)
  | .le => (!nan && !ltF b a, flagIf nan flagNV)
  | .gt => (ltF b a, flagIf nan flagNV)
  | .ge => (!nan && !ltF a b, flagIf nan flagNV)
  | .un => (nan, quiet)

/-! ### Integers and conversions (R213, R224, R225) -/

/-- The lowest and highest value of an integer width. -/
def intRange (w : Nat) (unsigned : Bool) : Int × Int :=
  if unsigned then (0, 2 ^ w - 1) else (-(2 ^ (w - 1)), 2 ^ (w - 1) - 1)
/-- A value clamped to a range (R213). -/
def clampInt (r : Int × Int) (i : Int) : Int := if i < r.1 then r.1 else if r.2 < i then r.2 else i
/-- A value's low w bits. -/
def toBits (w : Nat) (i : Int) : Nat := (i % 2 ^ w).toNat
/-- The signed or unsigned reading of w bits. -/
def readInt (w : Nat) (unsigned : Bool) (x : Nat) : Int :=
  if unsigned then (x % 2 ^ w : Nat) else (BitVec.ofNat w x).toInt
/-- Float to integer (R224). -/
def floatToInt (w : Nat) (unsigned : Bool) (mode : RMode) (rnd : Nat) (v : XVal) : Nat × Nat :=
  let r := intRange w unsigned
  match v with
  | .nan => (0, flagNV)
  | .inf n => (toBits w (if n then r.1 else r.2), flagNV)
  | .zero _ => (0, 0)
  | .num n m e s =>
    if 70 < (Nat.log2 m : Int) + e then (toBits w (if n then r.1 else r.2), flagNV)
    else
      let q := roundAt mode rnd n m e s 0
      let i : Int := if n then -(q.1 : Int) else q.1
      if i < r.1 || r.2 < i then (toBits w (clampInt r i), flagNV) else (toBits w i, flagIf q.2 flagNX)
/-- Integer to float (R224). -/
def intToFloat (t : ElemTy) (satinf : Bool) (mode : RMode) (rnd : Nat) (i : Int) : Nat × Nat :=
  roundF t satinf mode rnd (if i = 0 then .zero false else .num (i < 0) i.natAbs 0 false)

/-- The exact value x / s of an encode with a scale (R225). -/
def scaleEncode (x s : FVal) : XVal × Nat :=
  match s with
  | .fin _ _ _ => let r := divF x s; (r.1, r.2)
  | _ => (.nan, flagNV)
/-- The exact value s · v of a decode with a scale (R225). -/
def scaleDecode (x s : FVal) : XVal × Nat :=
  let p := mulF x s
  (p.1.x, p.2 ||| flagIf s.isNan flagNV)

/-- Width in bits of an element type. -/
def elemW (t : ElemTy) : Nat := 8 * elemBytes t

/-- One element converted as R224 and R225 give: from the code `x` of STY, with the scale `s` if there is one. -/
def convert (sty dty : ElemTy) (sat satinf : Bool) (mode : RMode) (rnd x : Nat) (s : Option Nat) : Nat × Nat :=
  if sty.isInt then
    let i := readInt (elemW sty) false x
    if dty.isInt then (toBits (elemW dty) (if sat then clampInt (intRange (elemW dty) false) i else i), 0)
    else
      match s with
      | none => intToFloat dty satinf mode rnd i
      | some sc =>
        let v := scaleEncode (if i = 0 then .zero false else .fin (i < 0) i.natAbs 0) (decodeIeee .bf16 sc)
        let r := roundF dty satinf mode rnd v.1
        (r.1, r.2 ||| v.2)
  else
    let v := decodeF sty satinf x
    let e : XVal × Nat := match s with
      | none => (v.x, v.snan)
      | some sc => if dty = .s8 then scaleEncode v (decodeIeee .bf16 sc) else scaleDecode v (decodeIeee .bf16 sc)
    let r := if dty.isInt then floatToInt (elemW dty) false mode rnd e.1 else roundF dty satinf mode rnd e.1
    (r.1, r.2 ||| e.2)

end Sys2Proof.Machine
end

