-- ==== Sys2Proof/Machine/Operands.lean ====
section
/-! DEFINITION. Operand forms: immediates and branch targets (10 R261-R270), memory operands of M, X, A and V format
(09 R242, 11 R282, R289), lanes, masks and merging of vector registers (08 R210, 12 R307-R309). -/

namespace Sys2Proof.Machine

/-- A signed immediate as a 64-bit value. -/
def sext64 {n : Nat} (i : BitVec n) : Word := i.signExtend 64

/-! ### Memory operands -/

/-- The number of bytes of an LD size code (R240). -/
def LdSizeBytes : LdSize → Nat
  | .b | .bu => 1
  | .h | .hu => 2
  | .w | .wu => 4
  | .d => 8
/-- Whether a load size sign-extends (R284). -/
def ldSigned : LdSize → Bool
  | .b | .h | .w | .d => true
  | .bu | .hu | .wu => false
/-- The number of bytes of a store size code. -/
def sizeBytes : Size → Nat
  | .b => 1
  | .h => 2
  | .w => 4
  | .d => 8
/-- The offset of an M-format operand: g[a] + Sext(imm5) × size (R282). -/
def memOffset (m : MemOp) (x : Slot) (size : Nat) : Nat :=
  (x.rg m.a + sext64 m.imm * BitVec.ofNat 64 size).toNat
/-- The offset of an X-format operand: g[a] + g[b], scaled where SC is set (R242). -/
def xOffset (o : Xop) (x : Slot) : Nat :=
  (x.rg o.a + (if o.sc then x.rg o.b * BitVec.ofNat 64 (sizeBytes o.size) else x.rg o.b)).toNat

/-! ### Lanes (R210) -/

/-- Lane i of width w, as a number. -/
def lane (v : VWord) (w i : Nat) : Nat := v.toNat / 2 ^ (w * i) % 2 ^ w
/-- The vector whose lanes 0 to n − 1 of width w are given; the bits above are zero. -/
def ofLanes (w : Nat) (f : Nat → Nat) : Nat → Nat
  | 0 => 0
  | n + 1 => ofLanes w f n + f n % 2 ^ w * 2 ^ (w * n)
/-- The vector of `n` lanes of width w. -/
def mkVec (w n : Nat) (f : Nat → Nat) : VWord := BitVec.ofNat 512 (ofLanes w f n)
/-- The number of lanes of a type. -/
def lanesOf (t : ElemTy) : Nat := 512 / elemW t
/-- Lanes computed where the mask selects them, kept elsewhere (R309). -/
def keepLanes (w n : Nat) (mask : Word) (old : VWord) (f : Nat → Nat) : VWord :=
  mkVec w n fun i => if mask.getLsbD i then f i else lane old w i
/-- The union of the flags of the active lanes (R226). -/
def laneFlags (n : Nat) (mask : Word) (f : Nat → Nat) : Nat :=
  (List.range n).foldl (fun a i => if mask.getLsbD i then a ||| f i else a) 0
/-- Signed reading of w bits. -/
def sInt (w x : Nat) : Int := (BitVec.ofNat w x).toInt

/-- The sources of an instruction that keeps masked lanes: its destination too unless the mask is m0 (R308). -/
def keepSrc (d : Fin 32) (m : Fin 8) : List Src := if m.val = 0 then [] else [.v d]

/-! ### Trees (R231) -/

/-- One level: neighbours combined, a single one passed through. -/
def treeLevel {α : Type} (f : α → α → α) : List (Option α) → List (Option α)
  | a :: b :: rest =>
    (match a, b with
     | some x, some y => some (f x y)
     | some x, none | none, some x => some x
     | none, none => none) :: treeLevel f rest
  | l => l
/-- The fixed pairwise tree over at most 2^n leaves. -/
def treeFold {α : Type} (f : α → α → α) : Nat → List (Option α) → Option α
  | 0, l => (l.head?).join
  | n + 1, l => treeFold f n (treeLevel f l)

end Sys2Proof.Machine
end

