-- ==== Sys2Proof/Machine/Alu.lean ====
section
/-! DEFINITION. Integer instructions of the scalar pipeline: majors 0x01 to 0x0B (10 R258-R264). -/

namespace Sys2Proof.Machine

/-- A two-source instruction: g[d] = f(g[a], g[b]), and the PC advances (R258). -/
def State.rrr (s : State) (o : Rrr) (f : Word → Word → Word) : State :=
  s.withSrcs [.g o.a o.qa, .g o.b o.qb] fun s => s.finish fun x => x.wg o.d (f (x.rg o.a) (x.rg o.b))
/-- A one-source instruction (R259). -/
def State.rr (s : State) (o : Rr) (f : Word → Word) : State :=
  s.withSrcs [.g o.a o.qa] fun s => s.finish fun x => x.wg o.d (f (x.rg o.a))
/-- A register-immediate instruction; the immediate is sign-extended (R261). -/
def State.ri (s : State) (o : Ri) (f : Word → Word → Word) : State :=
  s.withSrcs [.g o.a o.qa] fun s => s.finish fun x => x.wg o.d (f (x.rg o.a) (sext64 o.imm))
/-- An immediate shift (R262). -/
def State.rsh (s : State) (o : Rsh) (f : Word → Nat → Word) : State :=
  s.withSrcs [.g o.a o.qa] fun s => s.finish fun x => x.wg o.d (f (x.rg o.a) o.sh.val)

/-- The shift amount b[5:0] (R260). -/
def shAmt (b : Word) : Nat := b.toNat % 64
/-- A comparison's result. -/
def boolW (b : Bool) : Word := if b then 1 else 0
/-- The high 64 bits of an exact product (R260). -/
def mulHigh (a b : Int) : Word := BitVec.ofInt 64 (a * b / 2 ^ 64)
/-- Signed quotient with the corner cases of R212. -/
def divS (a b : Word) : Word := if b = 0 then BitVec.allOnes 64 else BitVec.ofInt 64 (a.toInt.tdiv b.toInt)
/-- Unsigned quotient (R212). -/
def divU (a b : Word) : Word := if b = 0 then BitVec.allOnes 64 else BitVec.ofNat 64 (a.toNat / b.toNat)
/-- Signed remainder (R212). -/
def remS (a b : Word) : Word := if b = 0 then a else BitVec.ofInt 64 (a.toInt.tmod b.toInt)
/-- Unsigned remainder (R212). -/
def remU (a b : Word) : Word := if b = 0 then a else BitVec.ofNat 64 (a.toNat % b.toNat)
/-- Leading zero bits among the low n bits. -/
def countLeading (a : Word) : Nat → Nat
  | 0 => 0
  | n + 1 => if a.getLsbD n then 0 else countLeading a n + 1
/-- Trailing zero bits from bit i, n bits left. -/
def countTrailing (a : Word) (i : Nat) : Nat → Nat
  | 0 => 0
  | n + 1 => if a.getLsbD i then 0 else countTrailing a (i + 1) n + 1
/-- One bits among the low n bits. -/
def popCount (a : Word) : Nat → Nat
  | 0 => 0
  | n + 1 => popCount a n + (if a.getLsbD n then 1 else 0)
/-- The eight bytes in reverse order. -/
def byteSwap (a : Word) : Word :=
  BitVec.ofNat 64 ((List.range 8).foldl (fun r i => r * 256 + a.toNat / 256 ^ i % 256) 0)
/-- Sext(x[31:0], 32). -/
def sextW (a : Word) : Word := (a.setWidth 32).signExtend 64

/-- ADD (R260). -/
def execAdd (o : Rrr) (s : State) : Res := .next (s.rrr o fun a b => a + b)
/-- SUB (R260). -/
def execSub (o : Rrr) (s : State) : Res := .next (s.rrr o fun a b => a - b)
/-- AND (R260). -/
def execAnd (o : Rrr) (s : State) : Res := .next (s.rrr o fun a b => a &&& b)
/-- OR (R260). -/
def execOr (o : Rrr) (s : State) : Res := .next (s.rrr o fun a b => a ||| b)
/-- XOR (R260). -/
def execXor (o : Rrr) (s : State) : Res := .next (s.rrr o fun a b => a ^^^ b)
/-- ANDN (R260). -/
def execAndn (o : Rrr) (s : State) : Res := .next (s.rrr o fun a b => a &&& ~~~b)
/-- ORN (R260). -/
def execOrn (o : Rrr) (s : State) : Res := .next (s.rrr o fun a b => a ||| ~~~b)
/-- SLL (R260). -/
def execSll (o : Rrr) (s : State) : Res := .next (s.rrr o fun a b => a <<< shAmt b)
/-- SRL (R260). -/
def execSrl (o : Rrr) (s : State) : Res := .next (s.rrr o fun a b => a >>> shAmt b)
/-- SRA (R260). -/
def execSra (o : Rrr) (s : State) : Res := .next (s.rrr o fun a b => a.sshiftRight (shAmt b))
/-- ROL (R260). -/
def execRol (o : Rrr) (s : State) : Res := .next (s.rrr o fun a b => a.rotateLeft (shAmt b))
/-- ROR (R260). -/
def execRor (o : Rrr) (s : State) : Res := .next (s.rrr o fun a b => a.rotateRight (shAmt b))
/-- SLT (R260). -/
def execSlt (o : Rrr) (s : State) : Res := .next (s.rrr o fun a b => boolW (a.slt b))
/-- SLTU (R260). -/
def execSltu (o : Rrr) (s : State) : Res := .next (s.rrr o fun a b => boolW (a.ult b))
/-- MIN (R260). -/
def execMin (o : Rrr) (s : State) : Res := .next (s.rrr o fun a b => if a.slt b then a else b)
/-- MAX (R260). -/
def execMax (o : Rrr) (s : State) : Res := .next (s.rrr o fun a b => if a.slt b then b else a)
/-- MINU (R260). -/
def execMinu (o : Rrr) (s : State) : Res := .next (s.rrr o fun a b => if a.ult b then a else b)
/-- MAXU (R260). -/
def execMaxu (o : Rrr) (s : State) : Res := .next (s.rrr o fun a b => if a.ult b then b else a)
/-- MUL (R260). -/
def execMul (o : Rrr) (s : State) : Res := .next (s.rrr o fun a b => a * b)
/-- MULH (R260). -/
def execMulh (o : Rrr) (s : State) : Res := .next (s.rrr o fun a b => mulHigh a.toInt b.toInt)
/-- MULHU (R260). -/
def execMulhu (o : Rrr) (s : State) : Res := .next (s.rrr o fun a b => mulHigh a.toNat b.toNat)
/-- MULHMX (R260). -/
def execMulhmx (o : Rrr) (s : State) : Res := .next (s.rrr o fun a b => mulHigh a.toInt b.toNat)
/-- DIV (R260). -/
def execDiv (o : Rrr) (s : State) : Res := .next (s.rrr o fun a b => divS a b)
/-- DIVU (R260). -/
def execDivu (o : Rrr) (s : State) : Res := .next (s.rrr o fun a b => divU a b)
/-- REM (R260). -/
def execRem (o : Rrr) (s : State) : Res := .next (s.rrr o fun a b => remS a b)
/-- REMU (R260). -/
def execRemu (o : Rrr) (s : State) : Res := .next (s.rrr o fun a b => remU a b)
/-- ADDW (R260). -/
def execAddw (o : Rrr) (s : State) : Res := .next (s.rrr o fun a b => sextW (a + b))
/-- SUBW (R260). -/
def execSubw (o : Rrr) (s : State) : Res := .next (s.rrr o fun a b => sextW (a - b))
/-- CLZ (R260). -/
def execClz (o : Rr) (s : State) : Res := .next (s.rr o fun a => BitVec.ofNat 64 (countLeading a 64))
/-- CTZ (R260). -/
def execCtz (o : Rr) (s : State) : Res := .next (s.rr o fun a => BitVec.ofNat 64 (countTrailing a 0 64))
/-- POPC (R260). -/
def execPopc (o : Rr) (s : State) : Res := .next (s.rr o fun a => BitVec.ofNat 64 (popCount a 64))
/-- BSWAP (R260). -/
def execBswap (o : Rr) (s : State) : Res := .next (s.rr o fun a => byteSwap a)
/-- SEXTB (R260). -/
def execSextb (o : Rr) (s : State) : Res := .next (s.rr o fun a => (a.setWidth 8).signExtend 64)
/-- SEXTH (R260). -/
def execSexth (o : Rr) (s : State) : Res := .next (s.rr o fun a => (a.setWidth 16).signExtend 64)
/-- SEXTW (R260). -/
def execSextw (o : Rr) (s : State) : Res := .next (s.rr o fun a => sextW a)
/-- ZEXTW (R260). -/
def execZextw (o : Rr) (s : State) : Res := .next (s.rr o fun a => (a.setWidth 32).setWidth 64)
/-- ADDI (R261). -/
def execAddi (o : Ri) (s : State) : Res := .next (s.ri o fun a i => a + i)
/-- ANDI (R261). -/
def execAndi (o : Ri) (s : State) : Res := .next (s.ri o fun a i => a &&& i)
/-- ORI (R261). -/
def execOri (o : Ri) (s : State) : Res := .next (s.ri o fun a i => a ||| i)
/-- XORI (R261). -/
def execXori (o : Ri) (s : State) : Res := .next (s.ri o fun a i => a ^^^ i)
/-- SLTI (R261). -/
def execSlti (o : Ri) (s : State) : Res := .next (s.ri o fun a i => boolW (a.slt i))
/-- SLTIU (R261). -/
def execSltiu (o : Ri) (s : State) : Res := .next (s.ri o fun a i => boolW (a.ult i))
/-- ADDIW (R261). -/
def execAddiw (o : Ri) (s : State) : Res := .next (s.ri o fun a i => sextW (a + i))
/-- SLLI (R262). -/
def execSlli (o : Rsh) (s : State) : Res := .next (s.rsh o fun a k => a <<< k)
/-- SRLI (R262). -/
def execSrli (o : Rsh) (s : State) : Res := .next (s.rsh o fun a k => a >>> k)
/-- SRAI (R262). -/
def execSrai (o : Rsh) (s : State) : Res := .next (s.rsh o fun a k => a.sshiftRight k)
/-- RORI (R262). -/
def execRori (o : Rsh) (s : State) : Res := .next (s.rsh o fun a k => a.rotateRight k)
/-- LIH (R263). -/
def execLih (o : Ud) (s : State) : Res := .next (s.finish fun x => x.wg o.d (sext64 o.imm <<< 12))
/-- PCBLK (R264): the 8 KiB block of the instruction, moved by whole blocks. -/
def execPcblk (o : Ud) (s : State) : Res :=
  .next (s.finish fun x => x.wg o.d ((x.pc &&& ~~~(0x1FFF : Word)) + (sext64 o.imm <<< 13)))

end Sys2Proof.Machine
end

