-- ==== Sys2Proof/Decode.lean ====
section
/-! DEFINITION. The decoder of 32-bit instruction words (09 R235-R246), total and rejecting by name, and the encoder
written from the same tables. Fields are read once, here. -/

namespace Sys2Proof

/-- Why a word is no instruction (09 R246): unassigned major, unassigned selector code, a non-zero reserved bit, a
field beyond its limits. -/
inductive DecodeError | major | selector | reserved | limit
  deriving DecidableEq, Repr

/-- The field of `n` bits from bit `lo` of a word. -/
def fld (w lo n : Nat) : Nat := w / 2 ^ lo % 2 ^ n

/-- A 5-bit register field. -/
def r5 (w lo : Nat) : Fin 32 := Fin.ofNat 32 (w / 2 ^ lo)

/-- A 3-bit field. -/
def r3 (w lo : Nat) : Fin 8 := Fin.ofNat 8 (w / 2 ^ lo)

/-- A 1-bit field. -/
def b1 (w lo : Nat) : Bool := w / 2 ^ lo % 2 == 1

/-- A Bool as a bit. -/
def qv (b : Bool) : Nat := if b then 1 else 0

/-- The type code of R210. -/
def ElemTy.code : ElemTy → Nat
  | .i8 => 0 | .i16 => 1 | .i32 => 2 | .i64 => 3 | .bf16 => 4 | .f16 => 5 | .f32 => 6 | .s8 => 7

/-- The element type of a 3-bit code (R210). -/
def tyOf : Nat → ElemTy
  | 0 => .i8 | 1 => .i16 | 2 => .i32 | 3 => .i64 | 4 => .bf16 | 5 => .f16 | 6 => .f32 | _ => .s8

/-- The scope code of R245. -/
def Scope.code : Scope → Nat
  | .thread => 0 | .core => 1 | .cluster => 2 | .die => 3 | .module => 4 | .system => 5

/-- The scope of a code; 6 and 7 name none (R245). -/
def scopeOf : Nat → Option Scope
  | 0 => some .thread | 1 => some .core | 2 => some .cluster | 3 => some .die | 4 => some .module | 5 => some .system
  | _ => none

/-- The size code of R240 and R242. -/
def Size.code : Size → Nat
  | .b => 0 | .h => 1 | .w => 2 | .d => 3

/-- The size of a 2-bit code. -/
def sizeOf2 : Nat → Size
  | 0 => .b | 1 => .h | 2 => .w | _ => .d

/-- The sub code of LD (R240). -/
def LdSize.code : LdSize → Nat
  | .b => 0 | .h => 1 | .w => 2 | .d => 3 | .bu => 4 | .hu => 5 | .wu => 6

/-- The LD form of a sub code; 7 is unassigned. -/
def ldSizeOf : Nat → Option LdSize
  | 0 => some .b | 1 => some .h | 2 => some .w | 3 => some .d | 4 => some .bu | 5 => some .hu | 6 => some .wu
  | _ => none

/-- The kind code of FENCE (R293). -/
def FenceKind.code : FenceKind → Nat
  | .rel => 1 | .acq => 2 | .ar => 3

/-- The fence kind of a code; 0 fails step 2 (R293). -/
def fenceKindOf : Nat → Option FenceKind
  | 1 => some .rel | 2 => some .acq | 3 => some .ar | _ => none

/-- The condition code of VCMP (R320). -/
def ICond.code : ICond → Nat
  | .eq => 0 | .ne => 1 | .lt => 2 | .ge => 3 | .ltu => 4 | .geu => 5

/-- The VCMP condition of a code. -/
def icondOf : Nat → Option ICond
  | 0 => some .eq | 1 => some .ne | 2 => some .lt | 3 => some .ge | 4 => some .ltu | 5 => some .geu | _ => none

/-- The condition code of VFCMP (R320). -/
def FCond.code : FCond → Nat
  | .eq => 0 | .ne => 1 | .lt => 2 | .le => 3 | .gt => 4 | .ge => 5 | .un => 6

/-- The VFCMP condition of a code. -/
def fcondOf : Nat → Option FCond
  | 0 => some .eq | 1 => some .ne | 2 => some .lt | 3 => some .le | 4 => some .gt | 5 => some .ge | 6 => some .un
  | _ => none

/-- The memory operand of an M-format word. -/
def rdMem (w : Nat) : MemOp := ⟨r3 w 19, r5 w 12, b1 w 17, Fin.ofNat 4 (w / 4194304), BitVec.ofNat 5 (w / 134217728)⟩

/-- The fields of an M-format memory operand. -/
def enMem (o : MemOp) : Nat :=
  o.a.val * 4096 + qv o.qa * 131072 + o.seg.val * 524288 + o.il.val * 4194304 + o.imm.toNat * 134217728

/-- The instruction if the fixed bits are as the table has them. -/
def need (p : Prop) [Decidable p] (i : Instr) : Except DecodeError Instr :=
  if p then .ok i else .error .reserved

/-- Major 0x01: ADD, SUB, AND, OR, XOR, ANDN, ORN, SLL, SRL, SRA, ROL, ROR, SLT, SLTU, MIN, MAX, MINU, MAXU, MUL, MULH, MULHU, MULHMX, DIV, DIVU, REM, REMU, CLZ, CTZ, POPC, BSWAP, SEXTB, SEXTH, SEXTW, ZEXTW, ADDW, SUBW. -/
def decMajor01 (w : Nat) : Except DecodeError Instr :=
  match fld w 24 8 with
  | 0 => .ok (.add ⟨r5 w 7, r5 w 12, r5 w 17, b1 w 22, b1 w 23⟩)
  | 1 => .ok (.sub ⟨r5 w 7, r5 w 12, r5 w 17, b1 w 22, b1 w 23⟩)
  | 2 => .ok (.and ⟨r5 w 7, r5 w 12, r5 w 17, b1 w 22, b1 w 23⟩)
  | 3 => .ok (.or ⟨r5 w 7, r5 w 12, r5 w 17, b1 w 22, b1 w 23⟩)
  | 4 => .ok (.xor ⟨r5 w 7, r5 w 12, r5 w 17, b1 w 22, b1 w 23⟩)
  | 5 => .ok (.andn ⟨r5 w 7, r5 w 12, r5 w 17, b1 w 22, b1 w 23⟩)
  | 6 => .ok (.orn ⟨r5 w 7, r5 w 12, r5 w 17, b1 w 22, b1 w 23⟩)
  | 7 => .ok (.sll ⟨r5 w 7, r5 w 12, r5 w 17, b1 w 22, b1 w 23⟩)
  | 8 => .ok (.srl ⟨r5 w 7, r5 w 12, r5 w 17, b1 w 22, b1 w 23⟩)
  | 9 => .ok (.sra ⟨r5 w 7, r5 w 12, r5 w 17, b1 w 22, b1 w 23⟩)
  | 10 => .ok (.rol ⟨r5 w 7, r5 w 12, r5 w 17, b1 w 22, b1 w 23⟩)
  | 11 => .ok (.ror ⟨r5 w 7, r5 w 12, r5 w 17, b1 w 22, b1 w 23⟩)
  | 12 => .ok (.slt ⟨r5 w 7, r5 w 12, r5 w 17, b1 w 22, b1 w 23⟩)
  | 13 => .ok (.sltu ⟨r5 w 7, r5 w 12, r5 w 17, b1 w 22, b1 w 23⟩)
  | 14 => .ok (.min ⟨r5 w 7, r5 w 12, r5 w 17, b1 w 22, b1 w 23⟩)
  | 15 => .ok (.max ⟨r5 w 7, r5 w 12, r5 w 17, b1 w 22, b1 w 23⟩)
  | 16 => .ok (.minu ⟨r5 w 7, r5 w 12, r5 w 17, b1 w 22, b1 w 23⟩)
  | 17 => .ok (.maxu ⟨r5 w 7, r5 w 12, r5 w 17, b1 w 22, b1 w 23⟩)
  | 18 => .ok (.mul ⟨r5 w 7, r5 w 12, r5 w 17, b1 w 22, b1 w 23⟩)
  | 19 => .ok (.mulh ⟨r5 w 7, r5 w 12, r5 w 17, b1 w 22, b1 w 23⟩)
  | 20 => .ok (.mulhu ⟨r5 w 7, r5 w 12, r5 w 17, b1 w 22, b1 w 23⟩)
  | 21 => .ok (.mulhmx ⟨r5 w 7, r5 w 12, r5 w 17, b1 w 22, b1 w 23⟩)
  | 22 => .ok (.div ⟨r5 w 7, r5 w 12, r5 w 17, b1 w 22, b1 w 23⟩)
  | 23 => .ok (.divu ⟨r5 w 7, r5 w 12, r5 w 17, b1 w 22, b1 w 23⟩)
  | 24 => .ok (.rem ⟨r5 w 7, r5 w 12, r5 w 17, b1 w 22, b1 w 23⟩)
  | 25 => .ok (.remu ⟨r5 w 7, r5 w 12, r5 w 17, b1 w 22, b1 w 23⟩)
  | 26 => need (fld w 17 5 = 0 ∧ fld w 23 1 = 0) (.clz ⟨r5 w 7, r5 w 12, b1 w 22⟩)
  | 27 => need (fld w 17 5 = 0 ∧ fld w 23 1 = 0) (.ctz ⟨r5 w 7, r5 w 12, b1 w 22⟩)
  | 28 => need (fld w 17 5 = 0 ∧ fld w 23 1 = 0) (.popc ⟨r5 w 7, r5 w 12, b1 w 22⟩)
  | 29 => need (fld w 17 5 = 0 ∧ fld w 23 1 = 0) (.bswap ⟨r5 w 7, r5 w 12, b1 w 22⟩)
  | 30 => need (fld w 17 5 = 0 ∧ fld w 23 1 = 0) (.sextb ⟨r5 w 7, r5 w 12, b1 w 22⟩)
  | 31 => need (fld w 17 5 = 0 ∧ fld w 23 1 = 0) (.sexth ⟨r5 w 7, r5 w 12, b1 w 22⟩)
  | 32 => need (fld w 17 5 = 0 ∧ fld w 23 1 = 0) (.sextw ⟨r5 w 7, r5 w 12, b1 w 22⟩)
  | 33 => need (fld w 17 5 = 0 ∧ fld w 23 1 = 0) (.zextw ⟨r5 w 7, r5 w 12, b1 w 22⟩)
  | 34 => .ok (.addw ⟨r5 w 7, r5 w 12, r5 w 17, b1 w 22, b1 w 23⟩)
  | 35 => .ok (.subw ⟨r5 w 7, r5 w 12, r5 w 17, b1 w 22, b1 w 23⟩)
  | _ => .error .selector

/-- Major 0x02: ADDI. -/
def decMajor02 (w : Nat) : Except DecodeError Instr :=
  .ok (.addi ⟨r5 w 7, r5 w 12, b1 w 17, BitVec.ofNat 14 (w / 262144)⟩)

/-- Major 0x03: ANDI. -/
def decMajor03 (w : Nat) : Except DecodeError Instr :=
  .ok (.andi ⟨r5 w 7, r5 w 12, b1 w 17, BitVec.ofNat 14 (w / 262144)⟩)

/-- Major 0x04: ORI. -/
def decMajor04 (w : Nat) : Except DecodeError Instr :=
  .ok (.ori ⟨r5 w 7, r5 w 12, b1 w 17, BitVec.ofNat 14 (w / 262144)⟩)

/-- Major 0x05: XORI. -/
def decMajor05 (w : Nat) : Except DecodeError Instr :=
  .ok (.xori ⟨r5 w 7, r5 w 12, b1 w 17, BitVec.ofNat 14 (w / 262144)⟩)

/-- Major 0x06: SLLI, SRLI, SRAI, RORI. -/
def decMajor06 (w : Nat) : Except DecodeError Instr :=
  match fld w 24 2 with
  | 0 => need (fld w 26 6 = 0) (.slli ⟨r5 w 7, r5 w 12, b1 w 17, Fin.ofNat 64 (w / 262144)⟩)
  | 1 => need (fld w 26 6 = 0) (.srli ⟨r5 w 7, r5 w 12, b1 w 17, Fin.ofNat 64 (w / 262144)⟩)
  | 2 => need (fld w 26 6 = 0) (.srai ⟨r5 w 7, r5 w 12, b1 w 17, Fin.ofNat 64 (w / 262144)⟩)
  | 3 => need (fld w 26 6 = 0) (.rori ⟨r5 w 7, r5 w 12, b1 w 17, Fin.ofNat 64 (w / 262144)⟩)
  | _ => .error .selector

/-- Major 0x07: SLTI. -/
def decMajor07 (w : Nat) : Except DecodeError Instr :=
  .ok (.slti ⟨r5 w 7, r5 w 12, b1 w 17, BitVec.ofNat 14 (w / 262144)⟩)

/-- Major 0x08: SLTIU. -/
def decMajor08 (w : Nat) : Except DecodeError Instr :=
  .ok (.sltiu ⟨r5 w 7, r5 w 12, b1 w 17, BitVec.ofNat 14 (w / 262144)⟩)

/-- Major 0x09: ADDIW. -/
def decMajor09 (w : Nat) : Except DecodeError Instr :=
  .ok (.addiw ⟨r5 w 7, r5 w 12, b1 w 17, BitVec.ofNat 14 (w / 262144)⟩)

/-- Major 0x0A: LIH. -/
def decMajor0A (w : Nat) : Except DecodeError Instr :=
  .ok (.lih ⟨r5 w 7, BitVec.ofNat 20 (w / 4096)⟩)

/-- Major 0x0B: PCBLK. -/
def decMajor0B (w : Nat) : Except DecodeError Instr :=
  .ok (.pcblk ⟨r5 w 7, BitVec.ofNat 20 (w / 4096)⟩)

/-- Major 0x0C: LDPC. -/
def decMajor0C (w : Nat) : Except DecodeError Instr :=
  .ok (.ldpc ⟨r5 w 7, BitVec.ofNat 20 (w / 4096)⟩)

/-- Major 0x10: LD. -/
def decMajor10 (w : Nat) : Except DecodeError Instr :=
  match ldSizeOf (fld w 24 3) with
  | none => .error .selector
  | some z => need (fld w 18 1 = 0) (.ld z ⟨r5 w 7, rdMem w⟩)

/-- Major 0x11: ST. -/
def decMajor11 (w : Nat) : Except DecodeError Instr :=
  if fld w 26 1 = 1 then .error .selector else .ok (.st (sizeOf2 (fld w 24 2)) ⟨r5 w 7, b1 w 18, rdMem w⟩)

/-- Major 0x12: LDX. -/
def decMajor12 (w : Nat) : Except DecodeError Instr :=
  need (fld w 26 1 = 0) (.ldx (b1 w 24) ⟨r5 w 7, r5 w 12, r5 w 17, r3 w 27, Fin.ofNat 4 (w / 1073741824), b1 w 25, sizeOf2 (fld w 22 2)⟩)

/-- Major 0x13: STX. -/
def decMajor13 (w : Nat) : Except DecodeError Instr :=
  need (fld w 24 1 = 0 ∧ fld w 26 1 = 0) (.stx ⟨r5 w 7, r5 w 12, r5 w 17, r3 w 27, Fin.ofNat 4 (w / 1073741824), b1 w 25, sizeOf2 (fld w 22 2)⟩)

/-- Major 0x14: LDF, LDE, STF, SETE, SETF, TSTF. -/
def decMajor14 (w : Nat) : Except DecodeError Instr :=
  match fld w 24 3 with
  | 0 => need (fld w 18 1 = 0) (.ldf ⟨r5 w 7, rdMem w⟩)
  | 1 => need (fld w 18 1 = 0) (.lde ⟨r5 w 7, rdMem w⟩)
  | 2 => .ok (.stf ⟨r5 w 7, b1 w 18, rdMem w⟩)
  | 3 => need (fld w 7 5 = 0 ∧ fld w 18 1 = 0) (.sete (rdMem w))
  | 4 => need (fld w 7 5 = 0 ∧ fld w 18 1 = 0) (.setf (rdMem w))
  | 5 => need (fld w 18 1 = 0) (.tstf ⟨r5 w 7, rdMem w⟩)
  | _ => .error .selector

/-- Major 0x15: AMOADD, AMOAND, AMOOR, AMOXOR, AMOMIN, AMOMAX, AMOMINU, AMOMAXU, AMOSWP, AMOCAS. -/
def decMajor15 (w : Nat) : Except DecodeError Instr :=
  match fld w 25 4 with
  | 0 => .ok (.amoadd ⟨r5 w 7, r5 w 12, r5 w 17, r3 w 22, b1 w 29, b1 w 30, b1 w 31⟩)
  | 1 => .ok (.amoand ⟨r5 w 7, r5 w 12, r5 w 17, r3 w 22, b1 w 29, b1 w 30, b1 w 31⟩)
  | 2 => .ok (.amoor ⟨r5 w 7, r5 w 12, r5 w 17, r3 w 22, b1 w 29, b1 w 30, b1 w 31⟩)
  | 3 => .ok (.amoxor ⟨r5 w 7, r5 w 12, r5 w 17, r3 w 22, b1 w 29, b1 w 30, b1 w 31⟩)
  | 4 => .ok (.amomin ⟨r5 w 7, r5 w 12, r5 w 17, r3 w 22, b1 w 29, b1 w 30, b1 w 31⟩)
  | 5 => .ok (.amomax ⟨r5 w 7, r5 w 12, r5 w 17, r3 w 22, b1 w 29, b1 w 30, b1 w 31⟩)
  | 6 => .ok (.amominu ⟨r5 w 7, r5 w 12, r5 w 17, r3 w 22, b1 w 29, b1 w 30, b1 w 31⟩)
  | 7 => .ok (.amomaxu ⟨r5 w 7, r5 w 12, r5 w 17, r3 w 22, b1 w 29, b1 w 30, b1 w 31⟩)
  | 8 => .ok (.amoswp ⟨r5 w 7, r5 w 12, r5 w 17, r3 w 22, b1 w 29, b1 w 30, b1 w 31⟩)
  | 9 => .ok (.amocas ⟨r5 w 7, r5 w 12, r5 w 17, r3 w 22, b1 w 29, b1 w 30, b1 w 31⟩)
  | _ => .error .selector

/-- Major 0x16: FENCE, FENCER, ISYNC, DRAIN. -/
def decMajor16 (w : Nat) : Except DecodeError Instr :=
  match fld w 24 8 with
  | 0 =>
    match fenceKindOf (fld w 10 2), scopeOf (fld w 7 3) with
    | some k, some sc => need (fld w 12 12 = 0) (.fence k sc)
    | _, _ => .error .limit
  | 1 =>
    match scopeOf (fld w 7 3) with
    | some sc => need (fld w 10 2 = 0) (.fencer sc ⟨r5 w 12, r5 w 17, b1 w 22, b1 w 23⟩)
    | none => .error .limit
  | 2 => need (fld w 7 17 = 0) .isync
  | 3 => need (fld w 7 17 = 0) .drain
  | _ => .error .selector

/-- Major 0x17: VLD, VST, VLDF, VLDE, VSTF, VLDB. -/
def decMajor17 (w : Nat) : Except DecodeError Instr :=
  match fld w 24 3 with
  | 0 => need (fld w 18 1 = 0) (.vld ⟨r5 w 7, rdMem w⟩)
  | 1 => .ok (.vst ⟨r5 w 7, b1 w 18, rdMem w⟩)
  | 2 => need (fld w 18 1 = 0) (.vldf ⟨r5 w 7, rdMem w⟩)
  | 3 => need (fld w 18 1 = 0) (.vlde ⟨r5 w 7, rdMem w⟩)
  | 4 => .ok (.vstf ⟨r5 w 7, b1 w 18, rdMem w⟩)
  | 5 => need (fld w 18 1 = 0) (.vldb ⟨r5 w 7, rdMem w⟩)
  | _ => .error .selector

/-- Major 0x18: VLDI, VSTI. -/
def decMajor18 (w : Nat) : Except DecodeError Instr :=
  match fld w 28 1 with
  | 0 => need (fld w 17 5 = 0) (.vldi ⟨r5 w 7, r5 w 12, r3 w 22, tyOf (fld w 25 3), r3 w 29⟩)
  | 1 => need (fld w 17 5 = 0) (.vsti ⟨r5 w 7, r5 w 12, r3 w 22, tyOf (fld w 25 3), r3 w 29⟩)
  | _ => .error .selector

/-- Major 0x19: SGSET, SGNARROW, SGRD, SGCPY. -/
def decMajor19 (w : Nat) : Except DecodeError Instr :=
  match fld w 24 8 with
  | 0 => need (fld w 10 2 = 0) (.sgset ⟨r3 w 7, r5 w 12, r5 w 17, b1 w 22, b1 w 23⟩)
  | 1 => need (fld w 10 2 = 0) (.sgnarrow ⟨r3 w 7, r5 w 12, r5 w 17, b1 w 22, b1 w 23⟩)
  | 2 => need (fld w 16 8 = 0) (.sgrd (r5 w 7) (r3 w 12) (b1 w 15))
  | 3 => need (fld w 10 2 = 0 ∧ fld w 15 9 = 0) (.sgcpy (r3 w 7) (r3 w 12))
  | _ => .error .selector

/-- Major 0x20: BEQ, BNE, BLT, BGE, BLTU, BGEU. -/
def decMajor20 (w : Nat) : Except DecodeError Instr :=
  match fld w 19 3 with
  | 0 => .ok (.beq ⟨r5 w 7, r5 w 12, b1 w 17, b1 w 18, BitVec.ofNat 10 (w / 4194304)⟩)
  | 1 => .ok (.bne ⟨r5 w 7, r5 w 12, b1 w 17, b1 w 18, BitVec.ofNat 10 (w / 4194304)⟩)
  | 2 => .ok (.blt ⟨r5 w 7, r5 w 12, b1 w 17, b1 w 18, BitVec.ofNat 10 (w / 4194304)⟩)
  | 3 => .ok (.bge ⟨r5 w 7, r5 w 12, b1 w 17, b1 w 18, BitVec.ofNat 10 (w / 4194304)⟩)
  | 4 => .ok (.bltu ⟨r5 w 7, r5 w 12, b1 w 17, b1 w 18, BitVec.ofNat 10 (w / 4194304)⟩)
  | 5 => .ok (.bgeu ⟨r5 w 7, r5 w 12, b1 w 17, b1 w 18, BitVec.ofNat 10 (w / 4194304)⟩)
  | _ => .error .selector

/-- Major 0x21: BEQZ, BNEZ, BLTZ, BGEZ, BGTZ, BLEZ. -/
def decMajor21 (w : Nat) : Except DecodeError Instr :=
  match fld w 13 3 with
  | 0 => .ok (.beqz ⟨r5 w 7, b1 w 12, BitVec.ofNat 16 (w / 65536)⟩)
  | 1 => .ok (.bnez ⟨r5 w 7, b1 w 12, BitVec.ofNat 16 (w / 65536)⟩)
  | 2 => .ok (.bltz ⟨r5 w 7, b1 w 12, BitVec.ofNat 16 (w / 65536)⟩)
  | 3 => .ok (.bgez ⟨r5 w 7, b1 w 12, BitVec.ofNat 16 (w / 65536)⟩)
  | 4 => .ok (.bgtz ⟨r5 w 7, b1 w 12, BitVec.ofNat 16 (w / 65536)⟩)
  | 5 => .ok (.blez ⟨r5 w 7, b1 w 12, BitVec.ofNat 16 (w / 65536)⟩)
  | _ => .error .selector

/-- Major 0x22: JAL. -/
def decMajor22 (w : Nat) : Except DecodeError Instr :=
  .ok (.jal ⟨r5 w 7, BitVec.ofNat 20 (w / 4096)⟩)

/-- Major 0x23: JALR. -/
def decMajor23 (w : Nat) : Except DecodeError Instr :=
  .ok (.jalr ⟨r5 w 7, r5 w 12, b1 w 17, BitVec.ofNat 14 (w / 262144)⟩)

/-- Major 0x24: SKIP. -/
def decMajor24 (w : Nat) : Except DecodeError Instr :=
  need (fld w 7 5 = 0) (.skip (BitVec.ofNat 20 (w / 4096)))

/-- Major 0x28: JNEW, JFREE, SPAWN, SPAWNR, RETJ, SYNC, PUBLISH, RTAKE, YIELD, IDLE, WIDF. -/
def decMajor28 (w : Nat) : Except DecodeError Instr :=
  match fld w 24 8 with
  | 0 => need (fld w 12 12 = 0) (.jnew (r5 w 7))
  | 1 => need (fld w 7 5 = 0 ∧ fld w 17 5 = 0 ∧ fld w 23 1 = 0) (.jfree ⟨r5 w 12, b1 w 22⟩)
  | 2 => need (fld w 17 5 = 0 ∧ fld w 23 1 = 0) (.spawn ⟨r5 w 7, r5 w 12, b1 w 22⟩)
  | 3 => .ok (.spawnr ⟨r5 w 7, r5 w 12, r5 w 17, b1 w 22, b1 w 23⟩)
  | 4 => need (fld w 7 5 = 0 ∧ fld w 17 5 = 0 ∧ fld w 23 1 = 0) (.retj ⟨r5 w 12, b1 w 22⟩)
  | 5 => need (fld w 7 17 = 0) .sync
  | 6 => need (fld w 7 5 = 0) (.publish ⟨r5 w 12, r5 w 17, b1 w 22, b1 w 23⟩)
  | 7 => need (fld w 7 1 = 0 ∧ fld w 17 5 = 0 ∧ fld w 23 1 = 0) (.rtake ⟨r5 w 7, r5 w 12, b1 w 22⟩)
  | 8 => need (fld w 7 17 = 0) .yield
  | 9 => need (fld w 7 17 = 0) .idle
  | 10 => need (fld w 17 5 = 0 ∧ fld w 23 1 = 0) (.widf ⟨r5 w 7, r5 w 12, b1 w 22⟩)
  | _ => .error .selector

/-- Major 0x29: TALLOC, TALLOCN, TINC, TDROP, TFREE, TCNT, TADDR, RPUSH, RPOP, RPEEK, RCNT. -/
def decMajor29 (w : Nat) : Except DecodeError Instr :=
  match fld w 24 8 with
  | 0 => need (fld w 17 5 = 0 ∧ fld w 23 1 = 0) (.talloc ⟨r5 w 7, r5 w 12, b1 w 22⟩)
  | 1 => need (fld w 17 5 = 0 ∧ fld w 23 1 = 0) (.tallocn ⟨r5 w 7, r5 w 12, b1 w 22⟩)
  | 2 => need (fld w 7 5 = 0) (.tinc ⟨r5 w 12, r5 w 17, b1 w 22, b1 w 23⟩)
  | 3 => need (fld w 7 5 = 0 ∧ fld w 17 5 = 0 ∧ fld w 23 1 = 0) (.tdrop ⟨r5 w 12, b1 w 22⟩)
  | 4 => need (fld w 7 5 = 0 ∧ fld w 17 5 = 0 ∧ fld w 23 1 = 0) (.tfree ⟨r5 w 12, b1 w 22⟩)
  | 5 => need (fld w 17 5 = 0 ∧ fld w 23 1 = 0) (.tcnt ⟨r5 w 7, r5 w 12, b1 w 22⟩)
  | 6 => need (fld w 17 5 = 0 ∧ fld w 23 1 = 0) (.taddr ⟨r5 w 7, r5 w 12, b1 w 22⟩)
  | 7 => need (fld w 7 5 = 0 ∧ fld w 20 2 = 0 ∧ fld w 23 1 = 0) (.rpush (r3 w 17) ⟨r5 w 12, b1 w 22⟩)
  | 8 => need (fld w 12 5 = 0 ∧ fld w 20 4 = 0) (.rpop (r5 w 7) (r3 w 17))
  | 9 => need (fld w 12 5 = 0 ∧ fld w 20 4 = 0) (.rpeek (r5 w 7) (r3 w 17))
  | 10 => need (fld w 12 5 = 0 ∧ fld w 20 4 = 0) (.rcnt (r5 w 7) (r3 w 17))
  | _ => .error .selector

/-- Major 0x2A: MSEND, MSENDT, MRECV, MRECVT, WAITM, MCNT. -/
def decMajor2A (w : Nat) : Except DecodeError Instr :=
  match fld w 24 8 with
  | 0 => need (fld w 7 5 = 0) (.msend ⟨r5 w 12, r5 w 17, b1 w 22, b1 w 23⟩)
  | 1 => need (fld w 7 5 = 0) (.msendt ⟨r5 w 12, r5 w 17, b1 w 22, b1 w 23⟩)
  | 2 => need (fld w 7 1 = 0 ∧ fld w 12 12 = 0) (.mrecv (r5 w 7))
  | 3 => need (fld w 7 1 = 0 ∧ fld w 17 5 = 0 ∧ fld w 23 1 = 0) (.mrecvt ⟨r5 w 7, r5 w 12, b1 w 22⟩)
  | 4 => need (fld w 17 5 = 0 ∧ fld w 23 1 = 0) (.waitm ⟨r5 w 7, r5 w 12, b1 w 22⟩)
  | 5 => need (fld w 12 12 = 0) (.mcnt (r5 w 7))
  | _ => .error .selector

/-- Major 0x2B: CRRD, CRWR, CRSET, CRCLR, FSSET, FSRD, TRAP, TRET, HALT, BREAK. -/
def decMajor2B (w : Nat) : Except DecodeError Instr :=
  match fld w 24 8 with
  | 0 => need (fld w 12 5 = 0 ∧ fld w 22 2 = 0) (.crrd (r5 w 7) (r5 w 17))
  | 1 => need (fld w 23 1 = 0) (.crwr ⟨r5 w 7, r5 w 12, b1 w 22, r5 w 17⟩)
  | 2 => need (fld w 23 1 = 0) (.crset ⟨r5 w 7, r5 w 12, b1 w 22, r5 w 17⟩)
  | 3 => need (fld w 23 1 = 0) (.crclr ⟨r5 w 7, r5 w 12, b1 w 22, r5 w 17⟩)
  | 4 => need (fld w 19 3 = 0 ∧ fld w 23 1 = 0) (.fsset ⟨r5 w 7, r5 w 12, b1 w 22, Fin.ofNat 4 (w / 131072)⟩)
  | 5 => need (fld w 12 5 = 0 ∧ fld w 19 5 = 0) (.fsrd (r5 w 7) (Fin.ofNat 4 (w / 131072)))
  | 6 => need (fld w 7 5 = 0 ∧ fld w 17 5 = 0 ∧ fld w 23 1 = 0) (.trap ⟨r5 w 12, b1 w 22⟩)
  | 7 => need (fld w 7 17 = 0) .tret
  | 8 => need (fld w 7 17 = 0) .halt
  | 9 => need (fld w 7 5 = 0 ∧ fld w 17 5 = 0 ∧ fld w 23 1 = 0) (.break ⟨r5 w 12, b1 w 22⟩)
  | _ => .error .selector

/-- Major 0x30: VADD, VSUB, VMUL, VMULH, VMIN, VMAX, VMINU, VMAXU, VABS, VNEG, VADDS, VSUBS. -/
def decMajor30 (w : Nat) : Except DecodeError Instr :=
  match fld w 28 4 with
  | 0 => .ok (.vadd ⟨r5 w 7, r5 w 12, r5 w 17, r3 w 22, tyOf (fld w 25 3)⟩)
  | 1 => .ok (.vsub ⟨r5 w 7, r5 w 12, r5 w 17, r3 w 22, tyOf (fld w 25 3)⟩)
  | 2 => .ok (.vmul ⟨r5 w 7, r5 w 12, r5 w 17, r3 w 22, tyOf (fld w 25 3)⟩)
  | 3 => .ok (.vmulh ⟨r5 w 7, r5 w 12, r5 w 17, r3 w 22, tyOf (fld w 25 3)⟩)
  | 4 => .ok (.vmin ⟨r5 w 7, r5 w 12, r5 w 17, r3 w 22, tyOf (fld w 25 3)⟩)
  | 5 => .ok (.vmax ⟨r5 w 7, r5 w 12, r5 w 17, r3 w 22, tyOf (fld w 25 3)⟩)
  | 6 => .ok (.vminu ⟨r5 w 7, r5 w 12, r5 w 17, r3 w 22, tyOf (fld w 25 3)⟩)
  | 7 => .ok (.vmaxu ⟨r5 w 7, r5 w 12, r5 w 17, r3 w 22, tyOf (fld w 25 3)⟩)
  | 8 => need (fld w 17 5 = 0) (.vabs ⟨r5 w 7, r5 w 12, r3 w 22, tyOf (fld w 25 3)⟩)
  | 9 => need (fld w 17 5 = 0) (.vneg ⟨r5 w 7, r5 w 12, r3 w 22, tyOf (fld w 25 3)⟩)
  | 10 => .ok (.vadds ⟨r5 w 7, r5 w 12, r5 w 17, r3 w 22, tyOf (fld w 25 3)⟩)
  | 11 => .ok (.vsubs ⟨r5 w 7, r5 w 12, r5 w 17, r3 w 22, tyOf (fld w 25 3)⟩)
  | _ => .error .selector

/-- Major 0x31: VAND, VOR, VXOR, VANDN, VSLL, VSRL, VSRA. -/
def decMajor31 (w : Nat) : Except DecodeError Instr :=
  match fld w 28 4 with
  | 0 => .ok (.vand ⟨r5 w 7, r5 w 12, r5 w 17, r3 w 22, tyOf (fld w 25 3)⟩)
  | 1 => .ok (.vor ⟨r5 w 7, r5 w 12, r5 w 17, r3 w 22, tyOf (fld w 25 3)⟩)
  | 2 => .ok (.vxor ⟨r5 w 7, r5 w 12, r5 w 17, r3 w 22, tyOf (fld w 25 3)⟩)
  | 3 => .ok (.vandn ⟨r5 w 7, r5 w 12, r5 w 17, r3 w 22, tyOf (fld w 25 3)⟩)
  | 4 => .ok (.vsll ⟨r5 w 7, r5 w 12, r5 w 17, r3 w 22, tyOf (fld w 25 3)⟩)
  | 5 => .ok (.vsrl ⟨r5 w 7, r5 w 12, r5 w 17, r3 w 22, tyOf (fld w 25 3)⟩)
  | 6 => .ok (.vsra ⟨r5 w 7, r5 w 12, r5 w 17, r3 w 22, tyOf (fld w 25 3)⟩)
  | _ => .error .selector

/-- Major 0x32: VFADD, VFSUB, VFMUL, VFDIV, VFMIN, VFMAX, VFABS, VFNEG, VFSQRT, VRCP, VRSQ, VEXP2. -/
def decMajor32 (w : Nat) : Except DecodeError Instr :=
  match fld w 28 4 with
  | 0 => .ok (.vfadd ⟨r5 w 7, r5 w 12, r5 w 17, r3 w 22, tyOf (fld w 25 3)⟩)
  | 1 => .ok (.vfsub ⟨r5 w 7, r5 w 12, r5 w 17, r3 w 22, tyOf (fld w 25 3)⟩)
  | 2 => .ok (.vfmul ⟨r5 w 7, r5 w 12, r5 w 17, r3 w 22, tyOf (fld w 25 3)⟩)
  | 3 => .ok (.vfdiv ⟨r5 w 7, r5 w 12, r5 w 17, r3 w 22, tyOf (fld w 25 3)⟩)
  | 4 => .ok (.vfmin ⟨r5 w 7, r5 w 12, r5 w 17, r3 w 22, tyOf (fld w 25 3)⟩)
  | 5 => .ok (.vfmax ⟨r5 w 7, r5 w 12, r5 w 17, r3 w 22, tyOf (fld w 25 3)⟩)
  | 6 => need (fld w 17 5 = 0) (.vfabs ⟨r5 w 7, r5 w 12, r3 w 22, tyOf (fld w 25 3)⟩)
  | 7 => need (fld w 17 5 = 0) (.vfneg ⟨r5 w 7, r5 w 12, r3 w 22, tyOf (fld w 25 3)⟩)
  | 8 => need (fld w 17 5 = 0) (.vfsqrt ⟨r5 w 7, r5 w 12, r3 w 22, tyOf (fld w 25 3)⟩)
  | 9 => need (fld w 17 5 = 0) (.vrcp ⟨r5 w 7, r5 w 12, r3 w 22, tyOf (fld w 25 3)⟩)
  | 10 => need (fld w 17 5 = 0) (.vrsq ⟨r5 w 7, r5 w 12, r3 w 22, tyOf (fld w 25 3)⟩)
  | 11 => need (fld w 17 5 = 0) (.vexp2 ⟨r5 w 7, r5 w 12, r3 w 22, tyOf (fld w 25 3)⟩)
  | _ => .error .selector

/-- Major 0x33: VFMA, VFMS, VFNMA, VDOT. -/
def decMajor33 (w : Nat) : Except DecodeError Instr :=
  match fld w 28 4 with
  | 0 => .ok (.vfma ⟨r5 w 7, r5 w 12, r5 w 17, r3 w 22, tyOf (fld w 25 3)⟩)
  | 1 => .ok (.vfms ⟨r5 w 7, r5 w 12, r5 w 17, r3 w 22, tyOf (fld w 25 3)⟩)
  | 2 => .ok (.vfnma ⟨r5 w 7, r5 w 12, r5 w 17, r3 w 22, tyOf (fld w 25 3)⟩)
  | 3 => .ok (.vdot ⟨r5 w 7, r5 w 12, r5 w 17, r3 w 22, tyOf (fld w 25 3)⟩)
  | _ => .error .selector

/-- Major 0x34: VCMP, VFCMP. -/
def decMajor34 (w : Nat) : Except DecodeError Instr :=
  if fld w 28 1 = 0 then
    match icondOf (fld w 29 3) with
    | none => .error .selector
    | some c => need (fld w 10 2 = 0) (.vcmp c ⟨r5 w 7, r5 w 12, r5 w 17, r3 w 22, tyOf (fld w 25 3)⟩)
  else
    match fcondOf (fld w 29 3) with
    | none => .error .selector
    | some c => need (fld w 10 2 = 0) (.vfcmp c ⟨r5 w 7, r5 w 12, r5 w 17, r3 w 22, tyOf (fld w 25 3)⟩)

/-- Major 0x35: VCVT, VCVTI, VCVTF, VPACK, VUNPK. -/
def decMajor35 (w : Nat) : Except DecodeError Instr :=
  match fld w 28 3 with
  | 0 => need (fld w 27 1 = 0 ∧ fld w 31 1 = 0) (.vcvt ⟨r5 w 7, r5 w 12, r5 w 17, r3 w 22, Fin.ofNat 4 (w / 33554432)⟩)
  | 1 => need (fld w 17 5 = 0) (.vcvti ⟨r5 w 7, r5 w 12, r3 w 22, tyOf (fld w 25 3), b1 w 31⟩)
  | 2 => need (fld w 17 5 = 0) (.vcvtf ⟨r5 w 7, r5 w 12, r3 w 22, tyOf (fld w 25 3), b1 w 31⟩)
  | 3 => need (fld w 22 3 = 0) (.vpack (r5 w 7) (r5 w 12) (r5 w 17) (tyOf (fld w 25 3)) (b1 w 31))
  | 4 => need (fld w 17 8 = 0) (.vunpk (r5 w 7) (r5 w 12) (tyOf (fld w 25 3)) (b1 w 31))
  | _ => .error .selector

/-- Major 0x36: VREDADD, VFREDADD, VREDMIN, VREDMAX, VFREDMAX. -/
def decMajor36 (w : Nat) : Except DecodeError Instr :=
  match fld w 28 4 with
  | 0 => need (fld w 17 5 = 0) (.vredadd ⟨r5 w 7, r5 w 12, r3 w 22, tyOf (fld w 25 3)⟩)
  | 1 => need (fld w 17 5 = 0) (.vfredadd ⟨r5 w 7, r5 w 12, r3 w 22, tyOf (fld w 25 3)⟩)
  | 2 => need (fld w 17 5 = 0) (.vredmin ⟨r5 w 7, r5 w 12, r3 w 22, tyOf (fld w 25 3)⟩)
  | 3 => need (fld w 17 5 = 0) (.vredmax ⟨r5 w 7, r5 w 12, r3 w 22, tyOf (fld w 25 3)⟩)
  | 4 => need (fld w 17 5 = 0) (.vfredmax ⟨r5 w 7, r5 w 12, r3 w 22, tyOf (fld w 25 3)⟩)
  | _ => .error .selector

/-- Major 0x37: VBCST, VSHUF, VSLIDE, VZIP, VUNZIP, VEXT, VINS. -/
def decMajor37 (w : Nat) : Except DecodeError Instr :=
  match fld w 28 4 with
  | 0 => need (fld w 17 5 = 0) (.vbcst ⟨r5 w 7, r5 w 12, r3 w 22, tyOf (fld w 25 3)⟩)
  | 1 => .ok (.vshuf ⟨r5 w 7, r5 w 12, r5 w 17, r3 w 22, tyOf (fld w 25 3)⟩)
  | 2 => .ok (.vslide ⟨r5 w 7, r5 w 12, r5 w 17, r3 w 22, tyOf (fld w 25 3)⟩)
  | 3 => .ok (.vzip ⟨r5 w 7, r5 w 12, r5 w 17, r3 w 22, tyOf (fld w 25 3)⟩)
  | 4 => .ok (.vunzip ⟨r5 w 7, r5 w 12, r5 w 17, r3 w 22, tyOf (fld w 25 3)⟩)
  | 5 => need (fld w 22 3 = 0) (.vext (r5 w 7) (r5 w 12) (r5 w 17) (tyOf (fld w 25 3)))
  | 6 => need (fld w 22 3 = 0) (.vins (r5 w 7) (r5 w 12) (r5 w 17) (tyOf (fld w 25 3)))
  | _ => .error .selector

/-- Major 0x38: MAND, MOR, MXOR, MNOT, MPOPC, MFFS, MSET, MGET, VSEL, VMOV. -/
def decMajor38 (w : Nat) : Except DecodeError Instr :=
  match fld w 28 4 with
  | 0 => need (fld w 10 2 = 0 ∧ fld w 15 2 = 0 ∧ fld w 20 8 = 0) (.mand (r3 w 7) (r3 w 12) (r3 w 17))
  | 1 => need (fld w 10 2 = 0 ∧ fld w 15 2 = 0 ∧ fld w 20 8 = 0) (.mor (r3 w 7) (r3 w 12) (r3 w 17))
  | 2 => need (fld w 10 2 = 0 ∧ fld w 15 2 = 0 ∧ fld w 20 8 = 0) (.mxor (r3 w 7) (r3 w 12) (r3 w 17))
  | 3 => need (fld w 10 2 = 0 ∧ fld w 15 13 = 0) (.mnot (r3 w 7) (r3 w 12))
  | 4 => need (fld w 15 7 = 0) (.mpopc (r5 w 7) (r3 w 12) (r3 w 22) (tyOf (fld w 25 3)))
  | 5 => need (fld w 15 7 = 0) (.mffs (r5 w 7) (r3 w 12) (r3 w 22) (tyOf (fld w 25 3)))
  | 6 => need (fld w 10 2 = 0 ∧ fld w 17 11 = 0) (.mset (r3 w 7) (r5 w 12))
  | 7 => need (fld w 15 13 = 0) (.mget (r5 w 7) (r3 w 12))
  | 8 => .ok (.vsel ⟨r5 w 7, r5 w 12, r5 w 17, r3 w 22, tyOf (fld w 25 3)⟩)
  | 9 => need (fld w 17 5 = 0) (.vmov ⟨r5 w 7, r5 w 12, r3 w 22, tyOf (fld w 25 3)⟩)
  | _ => .error .selector

/-- Major 0x40: MMA, MMAR, MMAS, MMASR, ACCZ, ACCOUT, ACCIN, ACCLD, ACCST, MQWAIT, MQCNT. -/
def decMajor40 (w : Nat) : Except DecodeError Instr :=
  match fld w 9 4 with
  | 0 => need (fld w 30 1 = 0) (.mma ⟨Fin.ofNat 4 (w / 128), r3 w 13, r3 w 16, r5 w 19, tyOf (fld w 24 3), b1 w 27, b1 w 28, b1 w 29, b1 w 31⟩)
  | 1 => need (fld w 19 5 = 0 ∧ fld w 30 1 = 0) (.mmar ⟨Fin.ofNat 4 (w / 128), r3 w 13, r3 w 16, tyOf (fld w 24 3), b1 w 27, b1 w 28, b1 w 29, b1 w 31⟩)
  | 2 => need (fld w 30 1 = 1) (.mmas ⟨Fin.ofNat 4 (w / 128), r3 w 13, r3 w 16, r5 w 19, tyOf (fld w 24 3), b1 w 27, b1 w 28, b1 w 29, b1 w 31⟩)
  | 3 => need (fld w 19 5 = 0 ∧ fld w 30 1 = 1) (.mmasr ⟨Fin.ofNat 4 (w / 128), r3 w 13, r3 w 16, tyOf (fld w 24 3), b1 w 27, b1 w 28, b1 w 29, b1 w 31⟩)
  | 4 => need (fld w 13 18 = 0) (.accz (Fin.ofNat 4 (w / 128)) (b1 w 31))
  | 5 => need (fld w 18 1 = 0 ∧ fld w 27 5 = 0) (.accout ⟨Fin.ofNat 4 (w / 128), r5 w 13, r5 w 19, tyOf (fld w 24 3)⟩)
  | 6 => need (fld w 18 1 = 0 ∧ fld w 27 5 = 0) (.accin ⟨Fin.ofNat 4 (w / 128), r5 w 13, r5 w 19, tyOf (fld w 24 3)⟩)
  | 7 => need (fld w 16 3 = 0 ∧ fld w 27 4 = 0) (.accld ⟨Fin.ofNat 4 (w / 128), r3 w 13, r5 w 19, tyOf (fld w 24 3), b1 w 31⟩)
  | 8 => need (fld w 16 3 = 0 ∧ fld w 27 4 = 0) (.accst ⟨Fin.ofNat 4 (w / 128), r3 w 13, r5 w 19, tyOf (fld w 24 3), b1 w 31⟩)
  | 9 => need (fld w 7 2 = 0 ∧ fld w 17 2 = 0 ∧ fld w 24 8 = 0) (.mqwait (r5 w 19) (Fin.ofNat 16 (w / 8192)))
  | 10 => need (fld w 7 2 = 0 ∧ fld w 13 6 = 0 ∧ fld w 24 8 = 0) (.mqcnt (r5 w 19))
  | _ => .error .selector

/-- Major 0x48: COPYQ, COPYQT, GATHQ, GATHQT, COLLQ, DONATE, BBWAIT. -/
def decMajor48 (w : Nat) : Except DecodeError Instr :=
  match fld w 24 8 with
  | 0 => need (fld w 7 7 = 0 ∧ fld w 17 5 = 0 ∧ fld w 23 1 = 0) (.copyq ⟨r5 w 12, b1 w 22⟩)
  | 1 => need (fld w 12 2 = 0 ∧ fld w 17 5 = 0 ∧ fld w 23 1 = 0) (.copyqt ⟨r5 w 7, r5 w 12, b1 w 22⟩)
  | 2 => need (fld w 7 8 = 0 ∧ fld w 17 5 = 0 ∧ fld w 23 1 = 0) (.gathq ⟨r5 w 12, b1 w 22⟩)
  | 3 => need (fld w 12 3 = 0 ∧ fld w 17 5 = 0 ∧ fld w 23 1 = 0) (.gathqt ⟨r5 w 7, r5 w 12, b1 w 22⟩)
  | 4 => need (fld w 7 5 = 0) (.collq ⟨r5 w 12, r5 w 17, b1 w 22, b1 w 23⟩)
  | 5 => need (fld w 7 5 = 0) (.donate ⟨r5 w 12, r5 w 17, b1 w 22, b1 w 23⟩)
  | 6 => need (fld w 17 5 = 0 ∧ fld w 23 1 = 0) (.bbwait ⟨r5 w 7, r5 w 12, b1 w 22⟩)
  | _ => .error .selector

/-- Major 0x7F: NOP, HINT. -/
def decMajor7F (w : Nat) : Except DecodeError Instr :=
  if w / 128 = 0 then .ok .nop else .ok (.hint (BitVec.ofNat 25 (w / 128)))

/-- The word's fields, before the limits of Instr.wf. -/
def decodeRaw (w : Nat) : Except DecodeError Instr :=
  match w % 128 with
  | 1 => decMajor01 w
  | 2 => decMajor02 w
  | 3 => decMajor03 w
  | 4 => decMajor04 w
  | 5 => decMajor05 w
  | 6 => decMajor06 w
  | 7 => decMajor07 w
  | 8 => decMajor08 w
  | 9 => decMajor09 w
  | 10 => decMajor0A w
  | 11 => decMajor0B w
  | 12 => decMajor0C w
  | 16 => decMajor10 w
  | 17 => decMajor11 w
  | 18 => decMajor12 w
  | 19 => decMajor13 w
  | 20 => decMajor14 w
  | 21 => decMajor15 w
  | 22 => decMajor16 w
  | 23 => decMajor17 w
  | 24 => decMajor18 w
  | 25 => decMajor19 w
  | 32 => decMajor20 w
  | 33 => decMajor21 w
  | 34 => decMajor22 w
  | 35 => decMajor23 w
  | 36 => decMajor24 w
  | 40 => decMajor28 w
  | 41 => decMajor29 w
  | 42 => decMajor2A w
  | 43 => decMajor2B w
  | 48 => decMajor30 w
  | 49 => decMajor31 w
  | 50 => decMajor32 w
  | 51 => decMajor33 w
  | 52 => decMajor34 w
  | 53 => decMajor35 w
  | 54 => decMajor36 w
  | 55 => decMajor37 w
  | 56 => decMajor38 w
  | 64 => decMajor40 w
  | 72 => decMajor48 w
  | 127 => decMajor7F w
  | _ => .error .major

/-- The instruction a 32-bit word encodes, or why it is none (09 R238 step 2, R246). -/
def decode (w : Nat) : Except DecodeError Instr :=
  match decodeRaw w with
  | .ok i => if i.wf then .ok i else .error .limit
  | .error e => .error e

/-- The word of an encodable instruction, the sum of its fields each at its place; none for the events. -/
def encode : Instr → Option Nat
  | .add o => some (1 + (o.d.val * 128 + o.a.val * 4096 + o.b.val * 131072 + qv o.qa * 4194304 + qv o.qb * 8388608))
  | .sub o => some (16777217 + (o.d.val * 128 + o.a.val * 4096 + o.b.val * 131072 + qv o.qa * 4194304 + qv o.qb * 8388608))
  | .and o => some (33554433 + (o.d.val * 128 + o.a.val * 4096 + o.b.val * 131072 + qv o.qa * 4194304 + qv o.qb * 8388608))
  | .or o => some (50331649 + (o.d.val * 128 + o.a.val * 4096 + o.b.val * 131072 + qv o.qa * 4194304 + qv o.qb * 8388608))
  | .xor o => some (67108865 + (o.d.val * 128 + o.a.val * 4096 + o.b.val * 131072 + qv o.qa * 4194304 + qv o.qb * 8388608))
  | .andn o => some (83886081 + (o.d.val * 128 + o.a.val * 4096 + o.b.val * 131072 + qv o.qa * 4194304 + qv o.qb * 8388608))
  | .orn o => some (100663297 + (o.d.val * 128 + o.a.val * 4096 + o.b.val * 131072 + qv o.qa * 4194304 + qv o.qb * 8388608))
  | .sll o => some (117440513 + (o.d.val * 128 + o.a.val * 4096 + o.b.val * 131072 + qv o.qa * 4194304 + qv o.qb * 8388608))
  | .srl o => some (134217729 + (o.d.val * 128 + o.a.val * 4096 + o.b.val * 131072 + qv o.qa * 4194304 + qv o.qb * 8388608))
  | .sra o => some (150994945 + (o.d.val * 128 + o.a.val * 4096 + o.b.val * 131072 + qv o.qa * 4194304 + qv o.qb * 8388608))
  | .rol o => some (167772161 + (o.d.val * 128 + o.a.val * 4096 + o.b.val * 131072 + qv o.qa * 4194304 + qv o.qb * 8388608))
  | .ror o => some (184549377 + (o.d.val * 128 + o.a.val * 4096 + o.b.val * 131072 + qv o.qa * 4194304 + qv o.qb * 8388608))
  | .slt o => some (201326593 + (o.d.val * 128 + o.a.val * 4096 + o.b.val * 131072 + qv o.qa * 4194304 + qv o.qb * 8388608))
  | .sltu o => some (218103809 + (o.d.val * 128 + o.a.val * 4096 + o.b.val * 131072 + qv o.qa * 4194304 + qv o.qb * 8388608))
  | .min o => some (234881025 + (o.d.val * 128 + o.a.val * 4096 + o.b.val * 131072 + qv o.qa * 4194304 + qv o.qb * 8388608))
  | .max o => some (251658241 + (o.d.val * 128 + o.a.val * 4096 + o.b.val * 131072 + qv o.qa * 4194304 + qv o.qb * 8388608))
  | .minu o => some (268435457 + (o.d.val * 128 + o.a.val * 4096 + o.b.val * 131072 + qv o.qa * 4194304 + qv o.qb * 8388608))
  | .maxu o => some (285212673 + (o.d.val * 128 + o.a.val * 4096 + o.b.val * 131072 + qv o.qa * 4194304 + qv o.qb * 8388608))
  | .mul o => some (301989889 + (o.d.val * 128 + o.a.val * 4096 + o.b.val * 131072 + qv o.qa * 4194304 + qv o.qb * 8388608))
  | .mulh o => some (318767105 + (o.d.val * 128 + o.a.val * 4096 + o.b.val * 131072 + qv o.qa * 4194304 + qv o.qb * 8388608))
  | .mulhu o => some (335544321 + (o.d.val * 128 + o.a.val * 4096 + o.b.val * 131072 + qv o.qa * 4194304 + qv o.qb * 8388608))
  | .mulhmx o => some (352321537 + (o.d.val * 128 + o.a.val * 4096 + o.b.val * 131072 + qv o.qa * 4194304 + qv o.qb * 8388608))
  | .div o => some (369098753 + (o.d.val * 128 + o.a.val * 4096 + o.b.val * 131072 + qv o.qa * 4194304 + qv o.qb * 8388608))
  | .divu o => some (385875969 + (o.d.val * 128 + o.a.val * 4096 + o.b.val * 131072 + qv o.qa * 4194304 + qv o.qb * 8388608))
  | .rem o => some (402653185 + (o.d.val * 128 + o.a.val * 4096 + o.b.val * 131072 + qv o.qa * 4194304 + qv o.qb * 8388608))
  | .remu o => some (419430401 + (o.d.val * 128 + o.a.val * 4096 + o.b.val * 131072 + qv o.qa * 4194304 + qv o.qb * 8388608))
  | .clz o => some (436207617 + (o.d.val * 128 + o.a.val * 4096 + qv o.qa * 4194304))
  | .ctz o => some (452984833 + (o.d.val * 128 + o.a.val * 4096 + qv o.qa * 4194304))
  | .popc o => some (469762049 + (o.d.val * 128 + o.a.val * 4096 + qv o.qa * 4194304))
  | .bswap o => some (486539265 + (o.d.val * 128 + o.a.val * 4096 + qv o.qa * 4194304))
  | .sextb o => some (503316481 + (o.d.val * 128 + o.a.val * 4096 + qv o.qa * 4194304))
  | .sexth o => some (520093697 + (o.d.val * 128 + o.a.val * 4096 + qv o.qa * 4194304))
  | .sextw o => some (536870913 + (o.d.val * 128 + o.a.val * 4096 + qv o.qa * 4194304))
  | .zextw o => some (553648129 + (o.d.val * 128 + o.a.val * 4096 + qv o.qa * 4194304))
  | .addw o => some (570425345 + (o.d.val * 128 + o.a.val * 4096 + o.b.val * 131072 + qv o.qa * 4194304 + qv o.qb * 8388608))
  | .subw o => some (587202561 + (o.d.val * 128 + o.a.val * 4096 + o.b.val * 131072 + qv o.qa * 4194304 + qv o.qb * 8388608))
  | .addi o => some (2 + (o.d.val * 128 + o.a.val * 4096 + qv o.qa * 131072 + o.imm.toNat * 262144))
  | .andi o => some (3 + (o.d.val * 128 + o.a.val * 4096 + qv o.qa * 131072 + o.imm.toNat * 262144))
  | .ori o => some (4 + (o.d.val * 128 + o.a.val * 4096 + qv o.qa * 131072 + o.imm.toNat * 262144))
  | .xori o => some (5 + (o.d.val * 128 + o.a.val * 4096 + qv o.qa * 131072 + o.imm.toNat * 262144))
  | .slti o => some (7 + (o.d.val * 128 + o.a.val * 4096 + qv o.qa * 131072 + o.imm.toNat * 262144))
  | .sltiu o => some (8 + (o.d.val * 128 + o.a.val * 4096 + qv o.qa * 131072 + o.imm.toNat * 262144))
  | .addiw o => some (9 + (o.d.val * 128 + o.a.val * 4096 + qv o.qa * 131072 + o.imm.toNat * 262144))
  | .slli o => some (6 + (o.d.val * 128 + o.a.val * 4096 + qv o.qa * 131072 + o.sh.val * 262144))
  | .srli o => some (16777222 + (o.d.val * 128 + o.a.val * 4096 + qv o.qa * 131072 + o.sh.val * 262144))
  | .srai o => some (33554438 + (o.d.val * 128 + o.a.val * 4096 + qv o.qa * 131072 + o.sh.val * 262144))
  | .rori o => some (50331654 + (o.d.val * 128 + o.a.val * 4096 + qv o.qa * 131072 + o.sh.val * 262144))
  | .lih o => some (10 + (o.d.val * 128 + o.imm.toNat * 4096))
  | .pcblk o => some (11 + (o.d.val * 128 + o.imm.toNat * 4096))
  | .ldpc o => some (12 + (o.d.val * 128 + o.imm.toNat * 4096))
  | .beq o => some (32 + (o.a.val * 128 + o.b.val * 4096 + qv o.qa * 131072 + qv o.qb * 262144 + o.disp.toNat * 4194304))
  | .bne o => some (524320 + (o.a.val * 128 + o.b.val * 4096 + qv o.qa * 131072 + qv o.qb * 262144 + o.disp.toNat * 4194304))
  | .blt o => some (1048608 + (o.a.val * 128 + o.b.val * 4096 + qv o.qa * 131072 + qv o.qb * 262144 + o.disp.toNat * 4194304))
  | .bge o => some (1572896 + (o.a.val * 128 + o.b.val * 4096 + qv o.qa * 131072 + qv o.qb * 262144 + o.disp.toNat * 4194304))
  | .bltu o => some (2097184 + (o.a.val * 128 + o.b.val * 4096 + qv o.qa * 131072 + qv o.qb * 262144 + o.disp.toNat * 4194304))
  | .bgeu o => some (2621472 + (o.a.val * 128 + o.b.val * 4096 + qv o.qa * 131072 + qv o.qb * 262144 + o.disp.toNat * 4194304))
  | .beqz o => some (33 + (o.a.val * 128 + qv o.qa * 4096 + o.disp.toNat * 65536))
  | .bnez o => some (8225 + (o.a.val * 128 + qv o.qa * 4096 + o.disp.toNat * 65536))
  | .bltz o => some (16417 + (o.a.val * 128 + qv o.qa * 4096 + o.disp.toNat * 65536))
  | .bgez o => some (24609 + (o.a.val * 128 + qv o.qa * 4096 + o.disp.toNat * 65536))
  | .bgtz o => some (32801 + (o.a.val * 128 + qv o.qa * 4096 + o.disp.toNat * 65536))
  | .blez o => some (40993 + (o.a.val * 128 + qv o.qa * 4096 + o.disp.toNat * 65536))
  | .jal o => some (34 + (o.d.val * 128 + o.imm.toNat * 4096))
  | .jalr o => some (35 + (o.d.val * 128 + o.a.val * 4096 + qv o.qa * 131072 + o.imm.toNat * 262144))
  | .skip n => some (36 + (n.toNat * 4096))
  | .nop => some 0x7F
  | .hint bits => some (127 + (bits.toNat * 128))
  | .crrd d cr => some (43 + (d.val * 128 + cr.val * 131072))
  | .crwr o => some (16777259 + (o.d.val * 128 + o.a.val * 4096 + o.cr.val * 131072 + qv o.qa * 4194304))
  | .crset o => some (33554475 + (o.d.val * 128 + o.a.val * 4096 + o.cr.val * 131072 + qv o.qa * 4194304))
  | .crclr o => some (50331691 + (o.d.val * 128 + o.a.val * 4096 + o.cr.val * 131072 + qv o.qa * 4194304))
  | .fsset o => some (67108907 + (o.d.val * 128 + o.a.val * 4096 + o.fs.val * 131072 + qv o.qa * 4194304))
  | .fsrd d fs => some (83886123 + (d.val * 128 + fs.val * 131072))
  | .trap o => some (100663339 + (o.a.val * 4096 + qv o.qa * 4194304))
  | .tret => some (117440555)
  | .halt => some (134217771)
  | .break o => some (150994987 + (o.a.val * 4096 + qv o.qa * 4194304))
  | .ld size o => some (16 + size.code * 16777216 + (o.t.val * 128 + enMem o.mem))
  | .st size o => some (17 + size.code * 16777216 + (o.t.val * 128 + qv o.qt * 262144 + enMem o.mem))
  | .ldx u o => some (18 + (qv u * 16777216 + (o.d.val * 128 + o.a.val * 4096 + o.b.val * 131072 + o.size.code * 4194304 + qv o.sc * 33554432 + o.seg.val * 134217728 + o.il.val * 1073741824)))
  | .stx o => some (19 + (o.d.val * 128 + o.a.val * 4096 + o.b.val * 131072 + o.size.code * 4194304 + qv o.sc * 33554432 + o.seg.val * 134217728 + o.il.val * 1073741824))
  | .ldf o => some (20 + (o.t.val * 128 + enMem o.mem))
  | .lde o => some (16777236 + (o.t.val * 128 + enMem o.mem))
  | .stf o => some (33554452 + (o.t.val * 128 + qv o.qt * 262144 + enMem o.mem))
  | .sete o => some (50331668 + (enMem o))
  | .setf o => some (67108884 + (enMem o))
  | .tstf o => some (83886100 + (o.t.val * 128 + enMem o.mem))
  | .vld o => some (23 + (o.t.val * 128 + enMem o.mem))
  | .vst o => some (16777239 + (o.t.val * 128 + qv o.qt * 262144 + enMem o.mem))
  | .vldf o => some (33554455 + (o.t.val * 128 + enMem o.mem))
  | .vlde o => some (50331671 + (o.t.val * 128 + enMem o.mem))
  | .vstf o => some (67108887 + (o.t.val * 128 + qv o.qt * 262144 + enMem o.mem))
  | .vldb o => some (83886103 + (o.t.val * 128 + enMem o.mem))
  | .vldi o => some (24 + (o.d.val * 128 + o.a.val * 4096 + o.m.val * 4194304 + o.ty.code * 33554432 + o.seg.val * 536870912))
  | .vsti o => some (268435480 + (o.d.val * 128 + o.a.val * 4096 + o.m.val * 4194304 + o.ty.code * 33554432 + o.seg.val * 536870912))
  | .amoadd o => some (21 + (o.d.val * 128 + o.a.val * 4096 + o.b.val * 131072 + o.seg.val * 4194304 + qv o.wd * 536870912 + qv o.acq * 1073741824 + qv o.rel * 2147483648))
  | .amoand o => some (33554453 + (o.d.val * 128 + o.a.val * 4096 + o.b.val * 131072 + o.seg.val * 4194304 + qv o.wd * 536870912 + qv o.acq * 1073741824 + qv o.rel * 2147483648))
  | .amoor o => some (67108885 + (o.d.val * 128 + o.a.val * 4096 + o.b.val * 131072 + o.seg.val * 4194304 + qv o.wd * 536870912 + qv o.acq * 1073741824 + qv o.rel * 2147483648))
  | .amoxor o => some (100663317 + (o.d.val * 128 + o.a.val * 4096 + o.b.val * 131072 + o.seg.val * 4194304 + qv o.wd * 536870912 + qv o.acq * 1073741824 + qv o.rel * 2147483648))
  | .amomin o => some (134217749 + (o.d.val * 128 + o.a.val * 4096 + o.b.val * 131072 + o.seg.val * 4194304 + qv o.wd * 536870912 + qv o.acq * 1073741824 + qv o.rel * 2147483648))
  | .amomax o => some (167772181 + (o.d.val * 128 + o.a.val * 4096 + o.b.val * 131072 + o.seg.val * 4194304 + qv o.wd * 536870912 + qv o.acq * 1073741824 + qv o.rel * 2147483648))
  | .amominu o => some (201326613 + (o.d.val * 128 + o.a.val * 4096 + o.b.val * 131072 + o.seg.val * 4194304 + qv o.wd * 536870912 + qv o.acq * 1073741824 + qv o.rel * 2147483648))
  | .amomaxu o => some (234881045 + (o.d.val * 128 + o.a.val * 4096 + o.b.val * 131072 + o.seg.val * 4194304 + qv o.wd * 536870912 + qv o.acq * 1073741824 + qv o.rel * 2147483648))
  | .amoswp o => some (268435477 + (o.d.val * 128 + o.a.val * 4096 + o.b.val * 131072 + o.seg.val * 4194304 + qv o.wd * 536870912 + qv o.acq * 1073741824 + qv o.rel * 2147483648))
  | .amocas o => some (301989909 + (o.d.val * 128 + o.a.val * 4096 + o.b.val * 131072 + o.seg.val * 4194304 + qv o.wd * 536870912 + qv o.acq * 1073741824 + qv o.rel * 2147483648))
  | .fence k sc => some (22 + k.code * 1024 + sc.code * 128)
  | .fencer sc o => some (16777238 + sc.code * 128 + (o.a.val * 4096 + o.b.val * 131072 + qv o.qa * 4194304 + qv o.qb * 8388608))
  | .isync => some (33554454)
  | .drain => some (50331670)
  | .sgset o => some (25 + (o.sd.val * 128 + o.a.val * 4096 + o.b.val * 131072 + qv o.qa * 4194304 + qv o.qb * 8388608))
  | .sgnarrow o => some (16777241 + (o.sd.val * 128 + o.a.val * 4096 + o.b.val * 131072 + qv o.qa * 4194304 + qv o.qb * 8388608))
  | .sgrd d sg v => some (33554457 + (d.val * 128 + sg.val * 4096 + qv v * 32768))
  | .sgcpy sd sg => some (50331673 + (sd.val * 128 + sg.val * 4096))
  | .msend o => some (42 + (o.a.val * 4096 + o.b.val * 131072 + qv o.qa * 4194304 + qv o.qb * 8388608))
  | .msendt o => some (16777258 + (o.a.val * 4096 + o.b.val * 131072 + qv o.qa * 4194304 + qv o.qb * 8388608))
  | .mrecv d => some (33554474 + (d.val * 128))
  | .mrecvt o => some (50331690 + (o.d.val * 128 + o.a.val * 4096 + qv o.qa * 4194304))
  | .waitm o => some (67108906 + (o.d.val * 128 + o.a.val * 4096 + qv o.qa * 4194304))
  | .mcnt d => some (83886122 + (d.val * 128))
  | .vadd o => some (48 + (o.d.val * 128 + o.a.val * 4096 + o.b.val * 131072 + o.m.val * 4194304 + o.ty.code * 33554432))
  | .vsub o => some (268435504 + (o.d.val * 128 + o.a.val * 4096 + o.b.val * 131072 + o.m.val * 4194304 + o.ty.code * 33554432))
  | .vmul o => some (536870960 + (o.d.val * 128 + o.a.val * 4096 + o.b.val * 131072 + o.m.val * 4194304 + o.ty.code * 33554432))
  | .vmulh o => some (805306416 + (o.d.val * 128 + o.a.val * 4096 + o.b.val * 131072 + o.m.val * 4194304 + o.ty.code * 33554432))
  | .vmin o => some (1073741872 + (o.d.val * 128 + o.a.val * 4096 + o.b.val * 131072 + o.m.val * 4194304 + o.ty.code * 33554432))
  | .vmax o => some (1342177328 + (o.d.val * 128 + o.a.val * 4096 + o.b.val * 131072 + o.m.val * 4194304 + o.ty.code * 33554432))
  | .vminu o => some (1610612784 + (o.d.val * 128 + o.a.val * 4096 + o.b.val * 131072 + o.m.val * 4194304 + o.ty.code * 33554432))
  | .vmaxu o => some (1879048240 + (o.d.val * 128 + o.a.val * 4096 + o.b.val * 131072 + o.m.val * 4194304 + o.ty.code * 33554432))
  | .vabs o => some (2147483696 + (o.d.val * 128 + o.a.val * 4096 + o.m.val * 4194304 + o.ty.code * 33554432))
  | .vneg o => some (2415919152 + (o.d.val * 128 + o.a.val * 4096 + o.m.val * 4194304 + o.ty.code * 33554432))
  | .vadds o => some (2684354608 + (o.d.val * 128 + o.a.val * 4096 + o.b.val * 131072 + o.m.val * 4194304 + o.ty.code * 33554432))
  | .vsubs o => some (2952790064 + (o.d.val * 128 + o.a.val * 4096 + o.b.val * 131072 + o.m.val * 4194304 + o.ty.code * 33554432))
  | .vand o => some (49 + (o.d.val * 128 + o.a.val * 4096 + o.b.val * 131072 + o.m.val * 4194304 + o.ty.code * 33554432))
  | .vor o => some (268435505 + (o.d.val * 128 + o.a.val * 4096 + o.b.val * 131072 + o.m.val * 4194304 + o.ty.code * 33554432))
  | .vxor o => some (536870961 + (o.d.val * 128 + o.a.val * 4096 + o.b.val * 131072 + o.m.val * 4194304 + o.ty.code * 33554432))
  | .vandn o => some (805306417 + (o.d.val * 128 + o.a.val * 4096 + o.b.val * 131072 + o.m.val * 4194304 + o.ty.code * 33554432))
  | .vsll o => some (1073741873 + (o.d.val * 128 + o.a.val * 4096 + o.b.val * 131072 + o.m.val * 4194304 + o.ty.code * 33554432))
  | .vsrl o => some (1342177329 + (o.d.val * 128 + o.a.val * 4096 + o.b.val * 131072 + o.m.val * 4194304 + o.ty.code * 33554432))
  | .vsra o => some (1610612785 + (o.d.val * 128 + o.a.val * 4096 + o.b.val * 131072 + o.m.val * 4194304 + o.ty.code * 33554432))
  | .vfadd o => some (50 + (o.d.val * 128 + o.a.val * 4096 + o.b.val * 131072 + o.m.val * 4194304 + o.ty.code * 33554432))
  | .vfsub o => some (268435506 + (o.d.val * 128 + o.a.val * 4096 + o.b.val * 131072 + o.m.val * 4194304 + o.ty.code * 33554432))
  | .vfmul o => some (536870962 + (o.d.val * 128 + o.a.val * 4096 + o.b.val * 131072 + o.m.val * 4194304 + o.ty.code * 33554432))
  | .vfdiv o => some (805306418 + (o.d.val * 128 + o.a.val * 4096 + o.b.val * 131072 + o.m.val * 4194304 + o.ty.code * 33554432))
  | .vfmin o => some (1073741874 + (o.d.val * 128 + o.a.val * 4096 + o.b.val * 131072 + o.m.val * 4194304 + o.ty.code * 33554432))
  | .vfmax o => some (1342177330 + (o.d.val * 128 + o.a.val * 4096 + o.b.val * 131072 + o.m.val * 4194304 + o.ty.code * 33554432))
  | .vfabs o => some (1610612786 + (o.d.val * 128 + o.a.val * 4096 + o.m.val * 4194304 + o.ty.code * 33554432))
  | .vfneg o => some (1879048242 + (o.d.val * 128 + o.a.val * 4096 + o.m.val * 4194304 + o.ty.code * 33554432))
  | .vfsqrt o => some (2147483698 + (o.d.val * 128 + o.a.val * 4096 + o.m.val * 4194304 + o.ty.code * 33554432))
  | .vrcp o => some (2415919154 + (o.d.val * 128 + o.a.val * 4096 + o.m.val * 4194304 + o.ty.code * 33554432))
  | .vrsq o => some (2684354610 + (o.d.val * 128 + o.a.val * 4096 + o.m.val * 4194304 + o.ty.code * 33554432))
  | .vexp2 o => some (2952790066 + (o.d.val * 128 + o.a.val * 4096 + o.m.val * 4194304 + o.ty.code * 33554432))
  | .vfma o => some (51 + (o.d.val * 128 + o.a.val * 4096 + o.b.val * 131072 + o.m.val * 4194304 + o.ty.code * 33554432))
  | .vfms o => some (268435507 + (o.d.val * 128 + o.a.val * 4096 + o.b.val * 131072 + o.m.val * 4194304 + o.ty.code * 33554432))
  | .vfnma o => some (536870963 + (o.d.val * 128 + o.a.val * 4096 + o.b.val * 131072 + o.m.val * 4194304 + o.ty.code * 33554432))
  | .vdot o => some (805306419 + (o.d.val * 128 + o.a.val * 4096 + o.b.val * 131072 + o.m.val * 4194304 + o.ty.code * 33554432))
  | .vcmp c o => some (52 + c.code * 536870912 + (o.d.val * 128 + o.a.val * 4096 + o.b.val * 131072 + o.m.val * 4194304 + o.ty.code * 33554432))
  | .vfcmp c o => some (268435508 + c.code * 536870912 + (o.d.val * 128 + o.a.val * 4096 + o.b.val * 131072 + o.m.val * 4194304 + o.ty.code * 33554432))
  | .vcvt o => some (53 + (o.d.val * 128 + o.a.val * 4096 + o.s.val * 131072 + o.m.val * 4194304 + o.fs.val * 33554432))
  | .vcvti o => some (268435509 + (o.d.val * 128 + o.a.val * 4096 + o.m.val * 4194304 + o.ty.code * 33554432 + qv o.u * 2147483648))
  | .vcvtf o => some (536870965 + (o.d.val * 128 + o.a.val * 4096 + o.m.val * 4194304 + o.ty.code * 33554432 + qv o.u * 2147483648))
  | .vpack d a b ty u => some (805306421 + (d.val * 128 + a.val * 4096 + b.val * 131072 + ty.code * 33554432 + qv u * 2147483648))
  | .vunpk d a ty hi => some (1073741877 + (d.val * 128 + a.val * 4096 + ty.code * 33554432 + qv hi * 2147483648))
  | .vredadd o => some (54 + (o.d.val * 128 + o.a.val * 4096 + o.m.val * 4194304 + o.ty.code * 33554432))
  | .vfredadd o => some (268435510 + (o.d.val * 128 + o.a.val * 4096 + o.m.val * 4194304 + o.ty.code * 33554432))
  | .vredmin o => some (536870966 + (o.d.val * 128 + o.a.val * 4096 + o.m.val * 4194304 + o.ty.code * 33554432))
  | .vredmax o => some (805306422 + (o.d.val * 128 + o.a.val * 4096 + o.m.val * 4194304 + o.ty.code * 33554432))
  | .vfredmax o => some (1073741878 + (o.d.val * 128 + o.a.val * 4096 + o.m.val * 4194304 + o.ty.code * 33554432))
  | .vbcst o => some (55 + (o.d.val * 128 + o.a.val * 4096 + o.m.val * 4194304 + o.ty.code * 33554432))
  | .vshuf o => some (268435511 + (o.d.val * 128 + o.a.val * 4096 + o.b.val * 131072 + o.m.val * 4194304 + o.ty.code * 33554432))
  | .vslide o => some (536870967 + (o.d.val * 128 + o.a.val * 4096 + o.b.val * 131072 + o.m.val * 4194304 + o.ty.code * 33554432))
  | .vzip o => some (805306423 + (o.d.val * 128 + o.a.val * 4096 + o.b.val * 131072 + o.m.val * 4194304 + o.ty.code * 33554432))
  | .vunzip o => some (1073741879 + (o.d.val * 128 + o.a.val * 4096 + o.b.val * 131072 + o.m.val * 4194304 + o.ty.code * 33554432))
  | .vext d a b ty => some (1342177335 + (d.val * 128 + a.val * 4096 + b.val * 131072 + ty.code * 33554432))
  | .vins d a b ty => some (1610612791 + (d.val * 128 + a.val * 4096 + b.val * 131072 + ty.code * 33554432))
  | .mand d a b => some (56 + (d.val * 128 + a.val * 4096 + b.val * 131072))
  | .mor d a b => some (268435512 + (d.val * 128 + a.val * 4096 + b.val * 131072))
  | .mxor d a b => some (536870968 + (d.val * 128 + a.val * 4096 + b.val * 131072))
  | .mnot d a => some (805306424 + (d.val * 128 + a.val * 4096))
  | .mpopc d a m ty => some (1073741880 + (d.val * 128 + a.val * 4096 + m.val * 4194304 + ty.code * 33554432))
  | .mffs d a m ty => some (1342177336 + (d.val * 128 + a.val * 4096 + m.val * 4194304 + ty.code * 33554432))
  | .mset d a => some (1610612792 + (d.val * 128 + a.val * 4096))
  | .mget d a => some (1879048248 + (d.val * 128 + a.val * 4096))
  | .vsel o => some (2147483704 + (o.d.val * 128 + o.a.val * 4096 + o.b.val * 131072 + o.m.val * 4194304 + o.ty.code * 33554432))
  | .vmov o => some (2415919160 + (o.d.val * 128 + o.a.val * 4096 + o.m.val * 4194304 + o.ty.code * 33554432))
  | .jnew d => some (40 + (d.val * 128))
  | .jfree o => some (16777256 + (o.a.val * 4096 + qv o.qa * 4194304))
  | .spawn o => some (33554472 + (o.d.val * 128 + o.a.val * 4096 + qv o.qa * 4194304))
  | .spawnr o => some (50331688 + (o.d.val * 128 + o.a.val * 4096 + o.b.val * 131072 + qv o.qa * 4194304 + qv o.qb * 8388608))
  | .retj o => some (67108904 + (o.a.val * 4096 + qv o.qa * 4194304))
  | .sync => some (83886120)
  | .publish o => some (100663336 + (o.a.val * 4096 + o.b.val * 131072 + qv o.qa * 4194304 + qv o.qb * 8388608))
  | .rtake o => some (117440552 + (o.d.val * 128 + o.a.val * 4096 + qv o.qa * 4194304))
  | .yield => some (134217768)
  | .idle => some (150994984)
  | .widf o => some (167772200 + (o.d.val * 128 + o.a.val * 4096 + qv o.qa * 4194304))
  | .talloc o => some (41 + (o.d.val * 128 + o.a.val * 4096 + qv o.qa * 4194304))
  | .tallocn o => some (16777257 + (o.d.val * 128 + o.a.val * 4096 + qv o.qa * 4194304))
  | .tinc o => some (33554473 + (o.a.val * 4096 + o.b.val * 131072 + qv o.qa * 4194304 + qv o.qb * 8388608))
  | .tdrop o => some (50331689 + (o.a.val * 4096 + qv o.qa * 4194304))
  | .tfree o => some (67108905 + (o.a.val * 4096 + qv o.qa * 4194304))
  | .tcnt o => some (83886121 + (o.d.val * 128 + o.a.val * 4096 + qv o.qa * 4194304))
  | .taddr o => some (100663337 + (o.d.val * 128 + o.a.val * 4096 + qv o.qa * 4194304))
  | .rpush ring o => some (117440553 + (ring.val * 131072 + o.a.val * 4096 + qv o.qa * 4194304))
  | .rpop d ring => some (134217769 + (d.val * 128 + ring.val * 131072))
  | .rpeek d ring => some (150994985 + (d.val * 128 + ring.val * 131072))
  | .rcnt d ring => some (167772201 + (d.val * 128 + ring.val * 131072))
  | .mma o => some (64 + (o.acc.val * 128 + o.ringA.val * 8192 + o.ringB.val * 65536 + o.kc.val * 524288 + o.ty.code * 16777216 + qv o.keepA * 134217728 + qv o.keepB * 268435456 + qv o.zi * 536870912 + qv o.relc * 2147483648))
  | .mmar o => some (576 + (o.acc.val * 128 + o.ringA.val * 8192 + o.ringB.val * 65536 + o.ty.code * 16777216 + qv o.keepA * 134217728 + qv o.keepB * 268435456 + qv o.zi * 536870912 + qv o.relc * 2147483648))
  | .mmas o => some (1073742912 + (o.acc.val * 128 + o.ringA.val * 8192 + o.ringB.val * 65536 + o.kc.val * 524288 + o.ty.code * 16777216 + qv o.keepA * 134217728 + qv o.keepB * 268435456 + qv o.zi * 536870912 + qv o.relc * 2147483648))
  | .mmasr o => some (1073743424 + (o.acc.val * 128 + o.ringA.val * 8192 + o.ringB.val * 65536 + o.ty.code * 16777216 + qv o.keepA * 134217728 + qv o.keepB * 268435456 + qv o.zi * 536870912 + qv o.relc * 2147483648))
  | .accz acc relc => some (2112 + (acc.val * 128 + qv relc * 2147483648))
  | .accout o => some (2624 + (o.acc.val * 128 + o.g.val * 8192 + o.v.val * 524288 + o.ty.code * 16777216))
  | .accin o => some (3136 + (o.acc.val * 128 + o.g.val * 8192 + o.v.val * 524288 + o.ty.code * 16777216))
  | .accld o => some (3648 + (o.acc.val * 128 + o.seg.val * 8192 + o.g.val * 524288 + o.ty.code * 16777216 + qv o.relc * 2147483648))
  | .accst o => some (4160 + (o.acc.val * 128 + o.seg.val * 8192 + o.g.val * 524288 + o.ty.code * 16777216 + qv o.relc * 2147483648))
  | .mqwait d n => some (4672 + (d.val * 524288 + n.val * 8192))
  | .mqcnt d => some (5184 + (d.val * 524288))
  | .copyq o => some (72 + (o.a.val * 4096 + qv o.qa * 4194304))
  | .copyqt o => some (16777288 + (o.d.val * 128 + o.a.val * 4096 + qv o.qa * 4194304))
  | .gathq o => some (33554504 + (o.a.val * 4096 + qv o.qa * 4194304))
  | .gathqt o => some (50331720 + (o.d.val * 128 + o.a.val * 4096 + qv o.qa * 4194304))
  | .collq o => some (67108936 + (o.a.val * 4096 + o.b.val * 131072 + qv o.qa * 4194304 + qv o.qb * 8388608))
  | .donate o => some (83886152 + (o.a.val * 4096 + o.b.val * 131072 + qv o.qa * 4194304 + qv o.qb * 8388608))
  | .bbwait o => some (100663368 + (o.d.val * 128 + o.a.val * 4096 + qv o.qa * 4194304))
  | _ => none

/-- The decoder's answer for an instruction of `nbits` bits given as a number (bit 0 the least significant bit of the
first byte): instruction words are 32 bits, little-endian (R2, R235), so the number is the word. A row that the table
gives no bits has no word. -/
def decodeTableWord (nbits w : Nat) : Option Instr :=
  if nbits = 0 then none
  else
    match decode (w % 2 ^ 32) with
    | .ok i => some i
    | .error _ => none

end Sys2Proof
end

