-- ==== Sys2Proof/Machine/Fetch.lean ====
section
/-! DEFINITION. Fetching an instruction (01 R15, 03 R90, 16 R407) and the instruction cache. -/

namespace Sys2Proof.Machine

/-- The instruction-cache key of the 64-byte line at an address: the on-chip address, or the virtual address with its
ASID (03 R90). -/
def lineKey (chip : Bool) (asid a : Nat) : Nat := if chip then a / 64 * 64 else a / 64 * 64 + 2 ^ 64 * (asid + 1)
/-- The place of that line. -/
def linePlace (chip : Bool) (asid a : Nat) : Place := if chip then .chip (a / 64 * 64) else .glob asid (a / 64 * 64)
/-- `n` bytes of a line at an address. -/
def lineBytes (l : VWord) (a n : Nat) : Nat := getBytes l (a % 64) n

/-- The instruction fill that brings a line: one in flight, or a new one; answers its ticket (03 R90). After ISYNC a fill
sent before does not serve a later fetch (11 R295). A speculation's fill may hold its dry-fit bytes, which no other agent may
read: it serves its own slot and is not installed (06 R165, R167). -/
def State.fillLine (s : State) (t key : Nat) (pl : Place) : State × Nat :=
  let normal := (s.specOf (s.slot t).lidN).isNone
  match (s.core (coreOf t)).ifills.find? fun f => f.key = key && f.install && normal with
  | some f => (s, f.id)
  | none =>
    let r := s.send t (s.slot t).pc [⟨pl, 64, 0, .new⟩] (.load (.fetch key) .none .fetch 0)
    (r.1.modCore (coreOf t) fun c => { c with ifills := c.ifills ++ [⟨key, normal, r.2⟩] }, r.2)
/-- Installs a line in a core's instruction cache: 128 sets of 4 ways (03 R90). -/
def State.installCode (s : State) (c key : Nat) (line : VWord) : State :=
  let r := s.makeRoom (mapPut none (s.core c).icache key none) (fun e => e.1 / 64 % 128 = key / 64 % 128) 4
  r.1.modCore c fun k => { k with icache := mapPut none r.2 key (some line) }

/-- What the fetch of a slot gives: a word; a failed sg0 check (R15); or no issue in this phase. -/
inductive Fetched
  | word (w : Nat)
  | failed (pc : Word)
  | held (s : State)

/-- The fetch at the slot's PC (R15, 03 R90): the code segment's checks, then the instruction cache; a miss takes the
slot out of rotation until the fill arrives. -/
def State.fetch (s : State) (t : Nat) : Fetched :=
  let x := s.slot t
  let d := s.codeSeg t
  if x.mode = .user ∧ mapGet false x.sgPend 0 then .held (s.modSlot t (·.block (.segment 0)))
  else if !d.has 4 || d.limit < x.pc.toNat + 4 then .failed x.pc
  else
    let a := s.codeVa t
    let asid := s.asidOf x.lidN
    let bad := if a % 4 ≠ 0 then some (3, x.pc.toNat)
      else if d.chip then
        (match s.checkChip t { desc := d, off := x.pc.toNat, size := 4, align := 4, need := 4, use := .load } with
         | .error e => some e
         | .ok _ => none)
      else none
    match bad with
    | some e => .held (s.trapExact e.1 (BitVec.ofNat 64 e.2))
    | none =>
      let key := lineKey d.chip asid a
      match mapGet none (s.core (coreOf t)).icache key with
      | some l => .word (lineBytes l a 4)
      | none =>
        match x.fetched with
        | some f =>
          if f.1 = key then .word (lineBytes f.2 a 4)
          else let r := s.fillLine t key (linePlace d.chip asid a); .held (r.1.modSlot t (·.block (.ifetch r.2)))
        | none => let r := s.fillLine t key (linePlace d.chip asid a); .held (r.1.modSlot t (·.block (.ifetch r.2)))

/-- ICACHE_FILL: a line that has arrived is installed unless ISYNC passed it, goes to the slots that wait for it, and
serves the LDPC reads attached to it (03 R90, 10 R265, 11 R295). -/
def State.fillArrives (s : State) (c key : Nat) : State :=
  match s.flights.find? fun f => coreOf f.thr = c && (match f.kind with | .load (.fetch k) _ _ _ => k = key | _ => false) &&
      f.pieces.all fun p => p.phase = .done with
  | none => s
  | some f =>
    match f.kind with
    | .load _ _ _ line =>
      let install := (s.core c).ifills.any fun x => x.id = f.id && x.install
      let s := (s.dropFlight f.id).modCore c fun k => { k with ifills := k.ifills.filter fun x => x.id ≠ f.id }
      let s := if install then s.installCode c key line else s
      let s := (List.range 16).foldl (fun s i =>
        let x := s.slot (c * 16 + i)
        if x.status = .blocked (.ifetch f.id) then
          s.setSlot (c * 16 + i) { x.wake (.ifetch f.id) with fetched := some (key, line) }
        else s) s
      s.flights.foldl (fun s g =>
        g.pieces.zipIdx.foldl (fun s p =>
          if p.1.phase = .icache f.id then
            (s.gotPiece g.id p.2 p.1.pos p.1.len (lineBytes line p.1.place.tval.toNat p.1.len)).settle g.id
          else s) s) s
    | _ => s

/-- The word of an instruction, as tval of a trap holds it (R238, R246). -/
def wordOf (i : Instr) : Nat := (encode i).getD 0

/-- The illegal-instruction trap (R238 step 2, R246). -/
def State.illegal (s : State) (w : Nat) : State := s.trapExact 1 (BitVec.ofNat 64 w)

/-- LDPC: the checks of R265, then the literal from the instruction cache, or with the line's fill. -/
def State.readLiteral (s : State) (d : Fin 32) (imm : BitVec 20) : State :=
  let t := s.cur
  let x := s.slot t
  let seg := s.codeSeg t
  let l := (x.pc + sext64 imm * 4).toNat
  if x.mode = .user ∧ mapGet false x.sgPend 0 then s.blockCur (.segment 0)
  else if l % 8 ≠ 0 then s.trapExact 3 (BitVec.ofNat 64 l)
  else if !(seg.has 4 || seg.has 1) || seg.limit < l + 8 then s.trapExact 4 (BitVec.ofNat 64 l)
  else
    let a := (seg.base.toNat + l) % 2 ^ 64
    let asid := s.asidOf x.lidN
    match (if seg.chip then
        (match s.checkChip t { desc := seg, off := l, size := 8, align := 8, need := 4, use := .load } with
         | .error e => some e
         | .ok _ => none)
      else none) with
    | some e => s.trapExact e.1 (BitVec.ofNat 64 e.2)
    | none =>
      if a % 4 ≠ 0 then s.trapExact 3 (BitVec.ofNat 64 l)
      else
        let word := fun (r : State × List Piece × VWord) (k : Nat) =>
          let b := (a + k) % 2 ^ 64
          let pl := if seg.chip then Place.chip b else Place.glob asid b
          match mapGet none (r.1.core (coreOf t)).icache (lineKey seg.chip asid b) with
          | some line => (r.1, r.2.1 ++ [⟨pl, 4, k, .done⟩], putBytes r.2.2 k 4 (lineBytes line b 4))
          | none =>
            let f := r.1.fillLine t (lineKey seg.chip asid b) (linePlace seg.chip asid b)
            (f.1, r.2.1 ++ [⟨pl, 4, k, .icache f.2⟩], r.2.2)
        let r := word (word (s, [], 0) 0) 4
        if r.2.1.all fun p => p.phase = .done then r.1.finish fun x => x.wg d (BitVec.ofNat 64 r.2.2.toNat)
        else (r.1.send t x.pc r.2.1 (.load (.g d 8 false) .none .fetch r.2.2)).1.finish fun x => x.eg d

end Sys2Proof.Machine
end

