-- ==== Sys2Proof/Machine/Memory.lean ====
section
/-! DEFINITION. Loads and stores: scalar, full/empty, vector and indexed (11 R282-R289). -/

namespace Sys2Proof.Machine

/-! ### Loads -/

/-- Whether two byte ranges meet. -/
def meets (a n b m : Nat) : Bool := a < b + m && b < a + n
/-- The address of a place: virtual or on chip. -/
def Place.addr : Place → Nat
  | .chip a => a
  | .glob _ va => va
/-- Whether a store-buffer entry may hold bytes of a piece. Two virtual addresses with one page offset may be two names of a
byte, and the buffer knows no physical addresses (log 40). -/
def SbEntry.overlaps (e : SbEntry) (p : Piece) : Bool :=
  match p.place with
  | .chip a => e.chip && (maskRuns e.mask).any fun r => meets (e.blk + r.1) r.2 a p.len
  | .glob _ va => !e.chip && (maskRuns e.mask).any fun r => meets ((e.blk + r.1) % 65536) r.2 (va % 65536) p.len
/-- Whether an entry's data holds every byte of a piece under the piece's own address. -/
def SbEntry.holds (e : SbEntry) (p : Piece) : Bool :=
  let a := p.place.addr
  !e.grans && (match p.place with | .chip _ => e.chip | .glob asid _ => !e.chip && e.asid = asid) &&
    e.blk ≤ a && a + p.len ≤ e.blk + 64 && (List.range p.len).all fun i => e.mask.getLsbD (a - e.blk + i)
/-- The entries of thread `t`'s core that overlap a piece and that the thread sees: no other launch reads the stores of a
speculation (05 R133, 06 R167). -/
def State.bufferHits (s : State) (t : Nat) (p : Piece) : List SbEntry :=
  let lid := (s.slot t).lidN
  (s.core (coreOf t)).sb.filter fun e => e.overlaps p && (e.lid = lid || (s.specOf e.lid).isNone)
/-- The entries drain, each thread's older ones before them. -/
def State.drainHits (s : State) (c : Nat) (hits : List SbEntry) : State :=
  hits.foldl (fun s e => s.drainEntry c fun x => x = e) s
/-- The access of thread `t` to a piece looks into its core's store buffer (05 R133): of the entries that overlap the piece the
thread's newest, else the newest, gives all its bytes, or all of them drain first. Answers the piece, and the result with its
bytes. -/
def State.forward (s : State) (t : Nat) (gop : GranOp) (v : VWord) (p : Piece) : State × Piece × VWord :=
  let hits := s.bufferHits t p
  match (hits.filter fun e => e.thr = t).getLast?.or hits.getLast? with
  | none => (s, p, v)
  | some e =>
    if gop = .none && e.holds p then
      (s, { p with phase := .done }, putBytes v p.pos p.len (getBytes e.data (p.place.addr - e.blk) p.len))
    else (s.drainHits (coreOf t) hits, p, v)
/-- Whether an access in the pipeline of thread `t` must wait for stores to its own core that went through the store buffer, as
the pieces of an interleaved store do (03 R36): a read for those of the core that overlap it (05 R133), a write for the
thread's own (05 R134). -/
def State.ownBehind (s : State) (t : Nat) (ps : List Piece) (read write : Bool) : Bool :=
  let c := coreOf t
  let here := fun (a : Nat) => !chipShared a && chipCore a = c
  (read && ps.any fun p => s.bufferHits t p ≠ []) ||
    (write && (s.core c).sb.any fun e => e.thr = t && e.chip && here e.blk) ||
    s.flights.any fun g => coreOf g.owner = c && g.writes && g.pieces.any fun q =>
      match q.place with
      | .chip b => here b && q.phase ≠ .done &&
          ((write && g.owner = t) || (read && ps.any fun p => meets b q.len p.place.addr p.len))
      | .glob _ _ => false
/-- An access in the pipeline goes on with `k`, or those stores drain and the slot is BLOCKED until they are performed; the
instruction issues again. -/
def State.inOrder (s : State) (ps : List Piece) (read write : Bool) (k : State → State) : State :=
  let t := s.cur
  if s.ownBehind t ps read write then
    let s := if write then s.drainThread t else s
    let s := if read then ps.foldl (fun s p => s.drainHits (coreOf t) (s.bufferHits t p)) s else s
    (s.blockCur .release).postLat s.nextId (.releaseCompletion t)
  else k s

/-- A load away from the pipeline: the destination becomes EMPTY and the access is sent (11 R283). -/
def State.loadAway (s : State) (ps : List Piece) (d : Dest) (gop : GranOp) (f : Slot → Slot) : State :=
  let t := s.cur
  let step := fun (r : State × List Piece × VWord) (p : Piece) =>
    let q := r.1.forward t gop r.2.2 p
    (q.1, r.2.1 ++ [q.2.1], q.2.2)
  let r := ps.foldl step (s, [], 0)
  (r.1.send t (s.slot t).pc r.2.1 (.load d gop .read r.2.2)).1.finish f

/-- A load in the pipeline (03 R69): it waits on EMPTY granules, completes with poison, or delivers its bytes
(03 R71, R73, R96). -/
def State.loadOwn (s : State) (ps : List Piece) (d : Dest) (gop : GranOp) : State :=
  let x := s.slot s.cur
  let lid := x.lidN
  let at_ := fun (p : Piece) => p.place.addr
  let touched := ps.flatMap fun p => let r := granRange (at_ p) p.len; (List.range (r.2 - r.1)).map (r.1 + ·)
  if (gop = .wait || gop = .consume) && ps.any (fun p => s.anyEmpty (at_ p) p.len) then s.blockCur (.granule touched)
  else
    let one := fun (r : State × VWord × Option Nat) (p : Piece) =>
      if r.2.2.isSome then r
      else
        let q := r.1.readTarget lid (s.asidOf lid) (at_ p) p.len true gop .new
        match q.2 with
        | .got v => (q.1, putBytes r.2.1 p.pos p.len v, none)
        | .refused _ => (q.1, r.2.1, some (at_ p))
        | .wait _ => (q.1, r.2.1, r.2.2)
    let r := ps.foldl one (s, 0, none)
    r.1.stillRuns s lid fun s =>
      match r.2.2 with
      | none => s.finish (·.deliver d r.2.1)
      | some a =>
        match s.specOf lid with
        | some sid => s.discard sid 12
        | none => (s.finish (·.deliverPoison d)).deferTrap lid s.cur 9 x.pc (BitVec.ofNat 64 a)

/-- A load instruction after its checks: in the pipeline or away (11 R283). `f` sets the destination EMPTY. -/
def State.memLoad (s : State) (r : Req) (d : Dest) (gop : GranOp) (f : Slot → Slot) : State :=
  match s.check s.cur r with
  | .error e => s.trapExact e.1 (BitVec.ofNat 64 e.2)
  | .ok ps =>
    if ps.all (ownPipe (coreOf s.cur)) then s.inOrder ps true (gop = .consume) fun s => s.loadOwn ps d gop
    else s.loadAway ps d gop f

/-! ### Stores -/

/-- One piece of a store at the pipeline port (03 R68): poison of a partly covered word follows as a deferred trap. -/
def State.storeOwn (s : State) (p : Piece) (data : VWord) (fill : Option Bool) (grans : Bool) : State :=
  let t := s.cur
  let x := s.slot t
  let e := s.entryOf t p data fill grans 0
  let r := s.storeTarget t x.lidN (s.asidOf x.lidN) e.blk true e.data e.mask fill grans .new
  match r.2 with
  | .refused c =>
    match r.1.specOf x.lidN with
    | some sid => r.1.discard sid 12
    | none => r.1.deferTrap x.lidN t c x.pc (BitVec.ofNat 64 e.first)
  | _ => r.1

/-- The widest scope of the pieces' pair scopes. -/
def piecesScope (t : Nat) (ps : List Piece) : Scope :=
  ps.foldl (fun sc p => if scopeCode sc < scopeCode (p.place.scope t) then p.place.scope t else sc) .core

/-- A store instruction after its checks: at the pipeline port, or through the store buffer under the allowance of
02 R59; a filling store releases first (11 R283, R285, 05 R155). -/
def State.memStore (s : State) (r : Req) (data : VWord) (fill : Option Bool) (grans rel : Bool) : State :=
  match s.check s.cur r with
  | .error e => s.trapExact e.1 (BitVec.ofNat 64 e.2)
  | .ok ps =>
    let t := s.cur
    let c := coreOf t
    let lid := (s.slot t).lidN
    if ps.all (ownPipe c) then
      s.inOrder ps false true fun s =>
        let q := ps.foldl (fun s p => s.storeOwn p data fill grans) s
        q.stillRuns s lid fun s => s.finish id
    else if 32 ≤ (s.slot t).sbcnt then s.blockCur .allowance
    else s.withRelease (if rel then piecesScope t ps else .core) fun s =>
      let n := s.nextId
      let s := { s with nextId := n + 1 }
      let q := ps.foldl (fun s p => s.pushStore c (s.entryOf t p data fill grans n)) s
      q.finish fun x => { x with sbcnt := x.sbcnt + 1 }

/-- A request for an M-format operand. -/
def State.memReq (s : State) (m : MemOp) (size align need : Nat) (use : Use) (data : Nat) (scratch : Bool) : Req :=
  { desc := s.segment s.cur m.seg, off := memOffset m (s.slot s.cur) size, size := size, align := align, il := m.il.val,
    need := need, use := use, data := data, scratch := scratch }

/-- An M-format load: sources, segment, access (R282). -/
def State.loadM (s : State) (o : MLd) (size align need : Nat) (scratch : Bool) (d : Dest) (gop : GranOp)
    (f : Slot → Slot) : State :=
  s.withSrcs [.g o.mem.a o.mem.qa] fun s => s.withSeg o.mem.seg fun s =>
    s.memLoad (s.memReq o.mem size align need .load 0 scratch) d gop f
/-- An M-format store of a g register. -/
def State.storeM (s : State) (o : MSt) (size : Nat) (scratch : Bool) (fill : Option Bool) : State :=
  s.withSrcs [.g o.t o.qt, .g o.mem.a o.mem.qa] fun s => s.withSeg o.mem.seg fun s =>
    let v := ((s.slot s.cur).rg o.t).toNat % 2 ^ (8 * size)
    s.memStore (s.memReq o.mem size size 2 .store v scratch) (BitVec.ofNat 512 v) fill false fill.isSome
/-- An M-format store of a v register. -/
def State.storeV (s : State) (o : MSt) (scratch : Bool) (fill : Option Bool) : State :=
  s.withSrcs [⟨.v, o.t.val, o.qt⟩, .g o.mem.a o.mem.qa] fun s => s.withSeg o.mem.seg fun s =>
    let v := (s.slot s.cur).rv o.t
    s.memStore (s.memReq o.mem 64 64 2 .store v.toNat scratch) v fill false fill.isSome
/-- SETE and SETF: the granule changes, no byte is written (R287). -/
def State.setGranule (s : State) (o : MemOp) (full : Bool) : State :=
  s.withSrcs [.g o.a o.qa] fun s => s.withSeg o.seg fun s =>
    s.memStore (s.memReq o 16 16 2 .store 0 true) 0 (some full) true full

/-- LD (R284). -/
def execLd (size : LdSize) (o : MLd) (s : State) : Res :=
  .next (s.loadM o (LdSizeBytes size) (LdSizeBytes size) 1 false (.g o.t (LdSizeBytes size) (ldSigned size)) .none (·.eg o.t))
/-- ST (R285). -/
def execSt (size : Size) (o : MSt) (s : State) : Res := .next (s.storeM o (sizeBytes size) false none)
/-- LDX (R286). -/
def execLdx (u : Bool) (o : Xop) (s : State) : Res :=
  let n := sizeBytes o.size
  .next (s.withSrcs [.g o.a false, .g o.b false] fun s => s.withSeg o.seg fun s =>
    s.memLoad { desc := s.segment s.cur o.seg, off := xOffset o (s.slot s.cur), size := n, align := n, il := o.il.val,
                need := 1, use := .load } (.g o.d n (!u)) .none (·.eg o.d))
/-- STX (R286). -/
def execStx (o : Xop) (s : State) : Res :=
  let n := sizeBytes o.size
  .next (s.withSrcs [.g o.d false, .g o.a false, .g o.b false] fun s => s.withSeg o.seg fun s =>
    let v := ((s.slot s.cur).rg o.d).toNat % 2 ^ (8 * n)
    s.memStore { desc := s.segment s.cur o.seg, off := xOffset o (s.slot s.cur), size := n, align := n, il := o.il.val,
                 need := 2, use := .store, data := v } (BitVec.ofNat 512 v) none false false)
/-- LDF (R287). -/
def execLdf (o : MLd) (s : State) : Res := .next (s.loadM o 8 8 1 true (.g o.t 8 false) .wait (·.eg o.t))
/-- LDE (R287). -/
def execLde (o : MLd) (s : State) : Res := .next (s.loadM o 8 8 3 true (.g o.t 8 false) .consume (·.eg o.t))
/-- STF (R287). -/
def execStf (o : MSt) (s : State) : Res := .next (s.storeM o 8 true (some true))
/-- SETE (R287). -/
def execSete (o : MemOp) (s : State) : Res := .next (s.setGranule o false)
/-- SETF (R287). -/
def execSetf (o : MemOp) (s : State) : Res := .next (s.setGranule o true)
/-- TSTF (R287). -/
def execTstf (o : MLd) (s : State) : Res := .next (s.loadM o 16 16 1 true (.g o.t 8 false) .test (·.eg o.t))
/-- VLD (R288). -/
def execVld (o : MLd) (s : State) : Res := .next (s.loadM o 64 64 1 false (.v o.t) .none (·.ev o.t))
/-- VST (R288). -/
def execVst (o : MSt) (s : State) : Res := .next (s.storeV o false none)
/-- VLDF (R288). -/
def execVldf (o : MLd) (s : State) : Res := .next (s.loadM o 64 64 1 true (.v o.t) .wait (·.ev o.t))
/-- VLDE (R288). -/
def execVlde (o : MLd) (s : State) : Res := .next (s.loadM o 64 64 3 true (.v o.t) .consume (·.ev o.t))
/-- VSTF (R288). -/
def execVstf (o : MSt) (s : State) : Res := .next (s.storeV o true (some true))
/-- VLDB (R288). -/
def execVldb (o : MLd) (s : State) : Res := .next (s.loadM o 8 8 1 false (.vb o.t) .none (·.ev o.t))

/-! ### Indexed vector accesses (R289) -/

/-- The active lanes of an indexed access, ascending. -/
def activeLanes (ty : ElemTy) (m : Word) : List Nat := (List.range (lanesOf ty)).filter fun i => m.getLsbD i
/-- The offset of a lane: its index times the element size. -/
def laneOffset (ty : ElemTy) (idx : VWord) (i : Nat) : Nat := lane idx (elemW ty) i * elemBytes ty % 2 ^ 64
/-- The checks of every active lane; the first failing lane decides (R289). -/
def State.checkLanes (s : State) (seg : Fin 8) (ty : ElemTy) (idx data : VWord) (store : Bool) :
    List Nat → Except (Nat × Nat) (List Piece)
  | [] => .ok []
  | i :: rest =>
    let r : Req :=
      { desc := s.segment s.cur seg, off := laneOffset ty idx i, size := elemBytes ty, align := elemBytes ty,
        need := if store then 2 else 1, use := if store then .store else .load, data := lane data (elemW ty) i, scratch := true }
    match s.check s.cur r with
    | .error e => .error e
    | .ok ps =>
      match s.checkLanes seg ty idx data store rest with
      | .error e => .error e
      | .ok qs => .ok ((ps.map fun p => { p with pos := i * elemBytes ty }) ++ qs)

/-- VLDI (R289): every active lane checked before any access; v[d] is not read. -/
def execVldi (o : Vix) (s : State) : Res :=
  .next (s.withSrcs [.v o.a, .m o.m] fun s => s.withSeg o.seg fun s =>
    let x := s.slot s.cur
    let m := x.rm o.m
    match s.checkLanes o.seg o.ty (x.rv o.a) 0 false (activeLanes o.ty m) with
    | .error e => s.trapExact e.1 (BitVec.ofNat 64 e.2)
    | .ok ps =>
      if ps.all (ownPipe (coreOf s.cur)) then s.inOrder ps true false fun s => s.loadOwn ps (.lanes o.d o.ty m) .none
      else s.loadAway ps (.lanes o.d o.ty m) .none (·.ev o.d))
/-- VSTI (R289): lanes in ascending order, each on another core one buffered store. -/
def execVsti (o : Vix) (s : State) : Res :=
  .next (s.withSrcs [.v o.d, .v o.a, .m o.m] fun s => s.withSeg o.seg fun s =>
    let t := s.cur
    let x := s.slot t
    let act := activeLanes o.ty (x.rm o.m)
    match s.checkLanes o.seg o.ty (x.rv o.a) (x.rv o.d) true act with
    | .error e => s.trapExact e.1 (BitVec.ofNat 64 e.2)
    | .ok ps =>
      if 32 < act.length + x.sbcnt then s.blockCur .allowance
      else
        let one := fun (s : State) (p : Piece) =>
          if ownPipe (coreOf t) p then s.storeOwn p (x.rv o.d) none false
          else
            let n := s.nextId
            let s := ({ s with nextId := n + 1 }).pushStore (coreOf t) (s.entryOf t p (x.rv o.d) none false n)
            s.modSlot t fun x => { x with sbcnt := x.sbcnt + 1 }
        let own := ps.filter (ownPipe (coreOf t))
        let go := fun (s : State) => (ps.foldl one s).stillRuns s x.lidN fun s => s.finish id
        if own = [] then go s else s.inOrder own false true go)

end Sys2Proof.Machine
end

