-- ==== Sys2Proof/Machine/Atomics.lean ====
section
/-! DEFINITION. Atomics (11 R290-R292), fences, ISYNC and DRAIN (R293-R296), segment instructions (R297-R300). -/

namespace Sys2Proof.Machine

/-- An atomic instruction (R290): the check, then at the pipeline port for the own scratchpad, else sent to its home under
the allowance, with its release before and its acquire after (05 R144, R145). -/
def State.amo (s : State) (o : Amo) (k : AmoKind) : State :=
  let srcs := [Src.g o.a false, Src.g o.b false]
  s.withSrcs (match k with | .cas => Src.g o.d false :: srcs | _ => srcs) fun s => s.withSeg o.seg fun s =>
    let t := s.cur
    let x := s.slot t
    let lid := x.lidN
    let n := if o.wd then 8 else 4
    match s.check t { desc := s.segment t o.seg, off := (x.rg o.a).toNat, size := n, align := n, need := 8, use := .atomic } with
    | .error e => s.trapExact e.1 (BitVec.ofNat 64 e.2)
    | .ok ps =>
      match ps with
      | [] => s
      | p :: _ =>
        if ownPipe (coreOf t) p then
          s.inOrder [p] true true fun s =>
          let r := s.atomicTarget t lid (s.asidOf lid) p.place.tval.toNat n true k (x.rg o.b).toNat (x.rg o.d).toNat
          r.1.stillRuns s lid fun s =>
            match r.2 with
            | .got old => s.finish (·.wg o.d (extendTo n true old))
            | _ =>
              match s.specOf lid with
              | some sid => s.discard sid 12
              | none => (s.finish (·.wg o.d 0)).deferTrap lid t 9 x.pc p.place.tval
        else if 32 ≤ x.sbcnt then s.blockCur .allowance
        else
          let sc := p.place.scope t
          s.withRelease (if o.rel then sc else .core) fun s =>
            let s := (s.forward t .wait 0 p).1
            let r := s.send t x.pc [p] (.atomic k o.wd (x.rg o.b) (x.rg o.d) o.d o.acq)
            r.1.finish fun x =>
              let empty := (x.gReg o.d).empty
              let x := { x.eg o.d with sbcnt := x.sbcnt + 1 }
              if o.acq then { x with acqReg := some (o.d, r.2, b2n empty), status := .blocked .release } else x

/-- AMOADD (R291). -/
def execAmoadd (o : Amo) (s : State) : Res := .next (s.amo o .add)
/-- AMOAND (R291). -/
def execAmoand (o : Amo) (s : State) : Res := .next (s.amo o .and)
/-- AMOOR (R291). -/
def execAmoor (o : Amo) (s : State) : Res := .next (s.amo o .or)
/-- AMOXOR (R291). -/
def execAmoxor (o : Amo) (s : State) : Res := .next (s.amo o .xor)
/-- AMOMIN (R291). -/
def execAmomin (o : Amo) (s : State) : Res := .next (s.amo o .min)
/-- AMOMAX (R291). -/
def execAmomax (o : Amo) (s : State) : Res := .next (s.amo o .max)
/-- AMOMINU (R291). -/
def execAmominu (o : Amo) (s : State) : Res := .next (s.amo o .minu)
/-- AMOMAXU (R291). -/
def execAmomaxu (o : Amo) (s : State) : Res := .next (s.amo o .maxu)
/-- AMOSWP (R291). -/
def execAmoswp (o : Amo) (s : State) : Res := .next (s.amo o .swp)
/-- AMOCAS (R291). -/
def execAmocas (o : Amo) (s : State) : Res := .next (s.amo o .cas)

/-! ### Fences -/

/-- FENCE (05 R141, 11 R293). -/
def execFence (kind : FenceKind) (scope : Scope) (s : State) : Res :=
  .next (match kind with
    | .rel => s.withRelease scope fun s => s.finish id
    | .acq => (s.acquire (clusterOf s.cur) scope).finish id
    | .ar => s.withRelease scope fun s => (s.acquire (clusterOf s.cur) scope).finish id)
/-- FENCER (R294): an acquire over one global range; the checks are exact segment faults with tval g[a]. -/
def execFencer (_scope : Scope) (o : Rab) (s : State) : Res :=
  .next (s.withSrcs [.g o.a o.qa, .g o.b o.qb] fun s =>
    let x := s.slot s.cur
    let a := x.rg o.a
    let b := (x.rg o.b).toNat
    let len := bits b 47 0
    s.withSeg (bits b 63 61) fun s =>
      let d := s.segment s.cur (bits b 63 61)
      if bits b 60 48 ≠ 0 || d.chip || !d.has 1 || d.limit < a.toNat + len then s.trapExact 4 a
      else (s.acquireRange (clusterOf s.cur) (s.asidOf x.lidN) ((d.base + a).toNat) len).finish id)
/-- ISYNC (R295, 03 R91): the core's instruction cache goes; fills in flight are not installed. -/
def execIsync (s : State) : Res :=
  .next ((s.modCore (coreOf s.cur) fun c =>
    { c with icache := [], ifills := c.ifills.map fun f => { f with install := false } }).finish fun x => { x with fetched := none })
/-- DRAIN (05 R143, 11 R296). -/
def execDrain (s : State) : Res :=
  .next (
    let s := s.drainThread s.cur
    if s.drained s.cur then s.finish id else s.blockCur .drain)

/-! ### Segment instructions -/

/-- SGSET (R298, 01 R16). -/
def execSgset (o : Sgw) (s : State) : Res :=
  .next (s.privileged (wordOf (.sgset o)) fun s => s.withSrcs [.g o.a o.qa, .g o.b o.qb] fun s => s.withSeg o.sd fun s =>
    let x := s.slot s.cur
    let b := x.rg o.b
    if bits b.toNat 55 54 ≠ 0 then s.trapExact 4 b else s.finish (·.wsg o.sd ⟨x.rg o.a, b⟩))
/-- The descriptor SGNARROW derives, or none where it would widen or a reserved bit is set (01 R17, 11 R299). Where the exact
sum of BASE and the offset reaches 2^64, the new BASE is the sum modulo 2^64 (DESIGN CHOICE, log 56). -/
def narrow (d : Desc) (a b : Word) : Option Desc :=
  let off := a.toNat
  let lim := bits b.toNat 47 0
  let rights := bits b.toNat 52 48
  if bits b.toNat 60 53 = 0 && off + lim ≤ d.limit && (d.rights &&& rights == rights) then
    some ⟨d.base + a, BitVec.ofNat 64 (0xFF * 2 ^ 56 + b2n d.chip * 2 ^ 53 + rights * 2 ^ 48 + lim)⟩
  else none
/-- SGNARROW (R299). -/
def execSgnarrow (o : Sgw) (s : State) : Res :=
  .next (s.withSrcs [.g o.a o.qa, .g o.b o.qb] fun s =>
    let x := s.slot s.cur
    let src := bits (x.rg o.b).toNat 63 61
    s.withSeg src fun s => s.withSeg o.sd fun s =>
      match narrow (x.rsg src) (x.rg o.a) (x.rg o.b) with
      | some d => s.finish (·.wsg o.sd d)
      | none => s.trapExact 4 (x.rg o.a))
/-- SGRD (R300). -/
def execSgrd (d : Fin 32) (sg : Fin 8) (w : Bool) (s : State) : Res :=
  .next (s.withSeg sg fun s => s.finish fun x => x.wg d (if w then (x.rsg sg).w1 else (x.rsg sg).base))
/-- SGCPY (R300). -/
def execSgcpy (sd sg : Fin 8) (s : State) : Res :=
  .next (s.withSeg sg fun s => s.withSeg sd fun s => s.finish fun x => x.wsg sd (x.rsg sg))

end Sys2Proof.Machine
end

