-- ==== Sys2Proof/Machine/Agent.lean ====
section
/-! DEFINITION. Memory as the units reach it that act for a thread in the background: the matrix unit's transfers
(14 R364) and the copy engines (14 R368, 02 R63, 01 R31-R33), 8 bytes at a time (05 R152), each whole. -/

namespace Sys2Proof.Machine

/-- On whose behalf a unit acts: the issuing thread, its launch and ASID, and whether it was in system mode. `behind` is the
address at which it waits for matrix commands and the last of them (01 R27), `who` its transaction, if it uses one. -/
structure Actor where
  thr : Nat
  lid : Nat
  asid : Nat
  sys : Bool
  behind : Option (Nat × Nat) := none
  who : Option (Nat × Nat) := none
  deriving DecidableEq, Repr

/-- What became of a unit's access: done; parked on the fault record `key` of a die; refused by ADMIT or the tile check;
waiting at an address for the matrix commands up to a ticket, or behind a fault at the head of the port (02 R62); or the
speculation was discarded. -/
inductive UnitRes (α : Type)
  | ok (x : α)
  | parked (die key : Nat)
  | refused
  | wait (a k : Nat)
  | stalled
  | gone

/-- The translation of a unit's access: a fault joins an open record or makes one, or discards a speculation (02 R55, R63,
R66, R67). A fault of an access that takes a place of the fault-pending table waits for one (R62). -/
def State.unitTranslate (s : State) (u : Actor) (va : Nat) (a : Acc) (eng : Bool) : State × UnitRes Nat :=
  let cl := clusterOf u.thr
  let die := dieOfCluster cl
  match s.specOf u.lid with
  | some sid =>
    match s.translateNow cl u.asid va a true with
    | (s, .ok r) => (s.noteUsed sid cl u.asid va, .ok r.1)
    | (s, .error _) => (s.discard sid 5, .gone)
  | none =>
    if s.portStalled cl then (s, .stalled)
    else
      let full := u.who.isSome && 512 ≤ s.parkedOf cl
      match s.lookup cl u.asid va a with
      | (s, some r) => (s, .ok r.1)
      | (s, none) =>
        match (s.die die).records.find? fun r => r.matches u.asid va a with
        | some r => if full then (s, .stalled) else (s.attach die r.key u.who, .parked die r.key)
        | none =>
          match s.walkInstall cl u.asid va a false false with
          | (s, .ok r) => (s, .ok r.1)
          | (s, .error f) =>
            if full then (s, .stalled)
            else
              let q := s.recordFault cl u.lid (s.partFor u.lid u.thr) u.asid va eng a f u.who
              (q.1, .parked die q.2)

/-- Whether a unit's access to an on-chip address waits for matrix commands: those queued when it arrived, the last of which
it keeps while it waits (01 R27). -/
def State.unitWaits (s : State) (u : Actor) (a : Nat) : Option Nat :=
  let ph := match u.behind with | some (b, k) => if b = a then Phase.behind k else .new | none => .new
  match s.accWait a ph with | some (.behind k) => some k | _ => none

/-- A unit reads the `n` bytes (at most 8, within a word) at a place: their value, and whether the word is poisoned. -/
def State.unitRead (s : State) (u : Actor) (eng : Bool) (pl : Place) (n : Nat) : State × UnitRes (Nat × Bool) :=
  match pl with
  | .glob _ va =>
    match s.unitTranslate u va .read eng with
    | (s, .ok pa) =>
      (match s.specOf u.lid with
       | some sid =>
         if !s.specLoadOk u.lid sid va pa n then (s.discard sid 2, .gone)
         else if s.poisoned pa n then (s.discard sid 12, .gone)
         else (s, .ok (s.readHome (some sid) pa n, false))
       | none => (s, .ok (s.readHome none pa n, s.poisoned pa n)))
    | (s, .parked d k) => (s, .parked d k)
    | (s, .stalled) => (s, .stalled)
    | (s, _) => (s, .gone)
  | .chip a =>
    let a := s.redirect u.lid a
    s.atPartR u.lid (chipCluster a) fun s =>
      let s := s.guardLogged (some u.lid) a
      match s.unitWaits u a with
      | some k => (s, .wait a k)
      | none =>
        if !u.sys && s.tileRefuses a u.asid then (s, .refused)
        else
          let bad := chipBytes a && s.poisoned (chipKey a) n
          match s.specOf u.lid with
          | some sid => if bad then (s.discard sid 12, .gone) else (s, .ok (s.readChip a n, false))
          | none => (s, .ok (s.readChip a n, bad))

/-- A unit writes `n` bytes (at most 8, within a word, or a whole register of window 2) at a place, with the word's poison.
`port`: the write passes the cluster port as a store does (14 R364). -/
def State.unitWrite (s : State) (u : Actor) (eng port : Bool) (pl : Place) (n v : Nat) (bad : Bool) : State × UnitRes Unit :=
  match pl with
  | .glob _ va =>
    match s.unitTranslate u va .write eng with
    | (s, .ok pa) =>
      let bs := (natLe v n).map some
      (match s.specOf u.lid with
       | some sid =>
         if !inRanges (s.ranges u.lid).2 va n then (s.discard sid 3, .gone)
         else
           let s := s.writeDry sid pa bs
           (s, if (s.specOf u.lid).isSome then .ok () else .gone)
       | none =>
         let s := if port then s.portStore (clusterOf u.thr) pa bs else s
         let s := s.writeHome none pa bs
         (if bad then s.setPoison pa else s, .ok ()))
    | (s, .parked d k) => (s, .parked d k)
    | (s, .stalled) => (s, .stalled)
    | (s, _) => (s, .gone)
  | .chip a =>
    let a := s.redirect u.lid a
    s.atPartR u.lid (chipCluster a) fun s =>
      let s := s.guardLogged (some u.lid) a
      match s.unitWaits u a with
      | some k => (s, .wait a k)
      | none =>
        if !u.sys && s.tileRefuses a u.asid then (s, .refused)
        else
          let q := s.beforeChange u.lid a
          if q.gone s u.lid then (q, .gone)
          else
            let o := a % 64
            let s := q.writeBlock (a - o) (putBytes 0 o n v) (BitVec.ofNat 64 ((2 ^ n - 1) * 2 ^ o))
            (if bad && chipBytes a then s.setPoison (chipKey a) else s, .ok ())

/-- A place `k` bytes on. -/
def Place.plus (p : Place) (k : Nat) : Place :=
  match p with | .glob asid va => .glob asid ((va + k) % 2 ^ 64) | .chip a => .chip (a + k)
/-- The place a descriptor and an offset name (01 R14). -/
def Desc.place (d : Desc) (asid off : Nat) : Place :=
  if d.chip then .chip ((d.base.toNat + off) % 2 ^ 40) else .glob asid ((d.base.toNat + off) % 2 ^ 64)

/-- What a unit's run over many words came to: all done, or the byte position it stopped at and why, with what it waits behind. -/
inductive RunRes
  | done
  | parked (pos die key : Nat)
  | refused (pos : Nat)
  | wait (pos : Nat) (behind : Option (Nat × Nat))
  | gone
  deriving DecidableEq, Repr

/-- Reads `k` words of 8 bytes from byte `pos` on: the state, the words and the position of the first poisoned one. -/
def State.unitReadAll (s : State) (u : Actor) (eng : Bool) (pl : Place) : Nat → Nat → State × RunRes × List Nat × Option Nat
  | 0, _ => (s, .done, [], none)
  | k + 1, pos =>
    match s.unitRead u eng (pl.plus pos) 8 with
    | (s, .ok x) =>
      let r := s.unitReadAll u eng pl k (pos + 8)
      (r.1, r.2.1, x.1 :: r.2.2.1, if x.2 then some pos else r.2.2.2)
    | (s, .parked d key) => (s, .parked pos d key, [], none)
    | (s, .refused) => (s, .refused pos, [], none)
    | (s, .wait a k) => (s, .wait pos (some (a, k)), [], none)
    | (s, .stalled) => (s, .wait pos none, [], none)
    | (s, .gone) => (s, .gone, [], none)
/-- Writes words from byte `pos` on. -/
def State.unitWriteAll (s : State) (u : Actor) (eng port : Bool) (pl : Place) : List Nat → Nat → State × RunRes
  | [], _ => (s, .done)
  | w :: ws, pos =>
    match s.unitWrite u eng port (pl.plus pos) 8 w false with
    | (s, .ok _) => s.unitWriteAll u eng port pl ws (pos + 8)
    | (s, .parked d key) => (s, .parked pos d key)
    | (s, .refused) => (s, .refused pos)
    | (s, .wait a k) => (s, .wait pos (some (a, k)))
    | (s, .stalled) => (s, .wait pos none)
    | (s, .gone) => (s, .gone)

/-! ### Writes that reach a window (01 R24, R28-R33) -/

/-- Whether ADMIT or the tile check refuses a write. -/
def State.windowRefuses (s : State) (w : WinWrite) : Bool :=
  match w.writer with
  | .thread t | .engine t =>
    let x := s.slot t
    let sys := decide (x.mode = .system)
    s.admitRefuses t x.lidN w.addr sys || (!sys && s.tileRefuses w.addr (s.asidOf x.lidN))
  | .collective _ part =>
    !chipShared w.addr && !(s.core (chipCore w.addr)).admits (chipCore w.addr) part (chipWin w.addr) 256
  | .system => false
/-- The write is performed; a register it reaches becomes FULL and wakes its slot (R24). -/
def State.landWrite (s : State) (w : WinWrite) : State :=
  let s := s.guardLogged none w.addr
  if s.windowRefuses w then s
  else
    let o := w.addr % 64
    s.writeBlock (w.addr - o) (putBytes 0 o w.data.length (leNat w.data)) (BitVec.ofNat 64 ((2 ^ w.data.length - 1) * 2 ^ o))

end Sys2Proof.Machine
end

