-- ==== Sys2Proof/Machine/Messages.lean ====
section
/-! DEFINITION. Messages: sending, arriving, receiving and waiting (11 R301-R305, 05 R156, R157, 16 R417). -/

namespace Sys2Proof.Machine

/-- Word 0 of a mailbox entry (R301). -/
def msgWord0 (kind : Nat) (satinf : Bool) (scope ctx tag status src : Nat) : Word :=
  BitVec.ofNat 64 (kind % 16 * 2 ^ 60 + b2n satinf * 2 ^ 59 + scope % 8 * 2 ^ 56 + ctx % 4096 * 2 ^ 44 + tag % 65536 * 2 ^ 28 +
    status % 16 * 2 ^ 24 + src % 2 ^ 15)
/-- KIND of an entry. -/
def MailEntry.kind (m : MailEntry) : Nat := bits m.w0.toNat 63 60
/-- SATINF of an entry. -/
def MailEntry.satinf (m : MailEntry) : Bool := m.w0.getLsbD 59
/-- SCOPE of an entry. -/
def MailEntry.scope (m : MailEntry) : Nat := bits m.w0.toNat 58 56
/-- CTX of an entry. -/
def MailEntry.ctx (m : MailEntry) : Nat := bits m.w0.toNat 55 44
/-- TAG of an entry. -/
def MailEntry.tag (m : MailEntry) : Nat := bits m.w0.toNat 43 28
/-- Whether an entry matches a thread's launch and, where one is named, a tag (R303). -/
def MailEntry.fits (m : MailEntry) (lid : Nat) (tag : Option Nat) : Bool :=
  m.ctx = lid && (match tag with | some t => m.tag = t | none => true)
/-- The number of a slot's messages that match its launch (R304). -/
def Slot.mailCount (x : Slot) : Nat := (x.mail.filter fun m => m.fits x.lidN none).length
/-- The mailbox without the first entry that matches. -/
def dropFirst (p : MailEntry → Bool) : List MailEntry → List MailEntry
  | [] => []
  | m :: rest => if p m then rest else m :: dropFirst p rest

/-- The acquire of a taken message: at its recorded scope, or over a completion's range (05 R151, R156). -/
def State.takeAcquire (s : State) (t : Nat) (m : MailEntry) : State :=
  let cl := clusterOf t
  if m.kind = 1 then
    (if m.rlen = 0 then s else s.acquireRange cl (s.asidOf (s.slot t).lidN) m.rbase.toNat m.rlen.toNat)
  else s.acquire cl (scopeOfCode m.scope)

/-- WAITM and MCNT look at the mailbox again: every wait that is met writes its count (R304). -/
def Slot.answerWaitm (x : Slot) : Slot :=
  let n := x.mailCount
  let met := x.waitm.filter fun w => w.n ≤ n
  met.foldl (fun x w => x.arriveG w.d (BitVec.ofNat 64 n)) { x with waitm := x.waitm.filter fun w => n < w.n }

/-- An accepted message meets a pending receive: it completes it, or with the other SATINF cancels it and the format-mode
trap follows at the slot's next phase (R303). -/
def State.completeRecv (s : State) (t : Nat) : State :=
  let x := s.slot t
  match x.recv with
  | none => s
  | some p =>
    match x.mail.find? fun m => m.fits x.lidN p.tag with
    | none => s
    | some m =>
      if m.satinf = p.satinf then
        let s := s.takeAcquire t m
        s.modSlot t fun x =>
          let x := { x with mail := dropFirst (fun m => m.fits x.lidN p.tag) x.mail, recv := none }
          ((x.arriveG p.d m.payload).arriveG (p.d.val + 1) m.w0)
      else
        match s.specOf x.lidN with
        | some sid => s.discard sid 14
        | none => (s.setSlot t { x with recv := none }).holdTrap t ⟨19, p.pc, m.w0⟩

/-- A message is accepted at the tail of the mailbox of thread `t` (R302). -/
def State.acceptMail (s : State) (t : Nat) (m : MailEntry) : State :=
  let s := s.modSlot t fun x => ({ x with mail := x.mail ++ [m] }).answerWaitm
  s.completeRecv t

/-- MESSAGE_ARRIVAL: an entry reaches the mailbox of thread `t` of launch `ctx`, live, or is diverted into its
partition's saved mailbox buffer (16 R417); answers whether it was accepted. -/
def State.deliverMail (s : State) (t : Nat) (m : MailEntry) : State × Bool :=
  let cl := clusterOf t
  match s.whereIs m.ctx cl with
  | .live => if (s.cluster cl).replay = [] && (s.slot t).mail.length < 8 then (s.acceptMail t m, true) else (s, false)
  | .shadow =>
    match (s.cluster cl).shadow with
    | some sv =>
      if sv.msgs.length < 6783 then
        (s.modCluster cl fun c => { c with shadow := some { sv with msgs := sv.msgs ++ [(t, m)] } }, true)
      else (s, false)
    | none => (s, false)
  | .image k =>
    match mapGet none s.images k with
    | some sv =>
      if sv.msgs.length < 6783 then ({ s with images := mapPut none s.images k (some { sv with msgs := sv.msgs ++ [(t, m)] }) }, true)
      else (s, false)
    | none => (s, false)

/-- Whether two messages have one sender: of a thread's own messages the thread, wherever it has migrated, else the unit
(05 R156, 16 R418, R419). -/
def Flight.sameSender (f : Flight) (m : Msg) (g : Flight) (k : Msg) : Bool :=
  if m.counted && k.counted then f.owner = g.owner else m.counted = k.counted && m.sender = k.sender
/-- A message in flight reaches its target: held behind an earlier one of its sender to the same slot, accepted, or sent
again after 64 cycles (R302). -/
def State.messageArrives (s : State) (id : Nat) : State :=
  match s.flight id with
  | none => s
  | some f =>
    match f.kind with
    | .message m =>
      s.reaches f fun s =>
        let earlier := s.flights.any fun g => g.id < id && (match g.kind with
          | .message k => f.sameSender m g k && k.target = m.target
          | _ => false)
        if earlier then s.post (s.cycle + 64) (.messageRetry id)
        else
          let r := s.deliverMail (s.forwarded 0 m.entry.ctx m.target) m.entry
          if r.2 then
            let s := (r.1.dropFlight id).countRecvd f.lid (clusterOf m.target)
            if m.counted then s.onThread f.lid f.owner fun x => { x with unaccepted := x.unaccepted - 1 } else s
          else s.post (s.cycle + 64) (.messageRetry id)
    | _ => s

/-- The release at the pair scope, then the message (R302). -/
def State.sendMsg (s : State) (t : Nat) (o : Rab) (target a : Nat) : State :=
  let sc := if t = target then .thread else pairScope (clusterOf t) (clusterOf target) (coreOf t = coreOf target)
  s.withRelease sc fun s =>
    let x := s.slot t
    let m : MailEntry := ⟨msgWord0 0 x.satinf (scopeCode sc) x.lidN (bits a 31 16) 0 t, x.rg o.b, 0, 0⟩
    ((s.send t x.pc [] (.message ⟨target, m, t, true⟩)).1.countSent x.lidN (clusterOf t)).finish fun x => { x with unaccepted := x.unaccepted + 1 }

/-- MSEND and MSENDT (R302). -/
def State.msend (s : State) (o : Rab) (tagged : Bool) : State :=
  s.withSrcs [.g o.a o.qa, .g o.b o.qb] fun s =>
    let t := s.cur
    let x := s.slot t
    let a := (x.rg o.a).toNat
    let target := a % 2 ^ 15
    if a / 2 ^ 32 ≠ 0 || bit a 15 || (!tagged && bits a 31 16 ≠ 0) || !s.inPart (coreOf t) (clusterOf target) then
      s.trapExact 5 (x.rg o.a)
    else if 4 ≤ x.unaccepted then s
    else
      match s.specOf x.lidN with
      | some sid =>
        if (s.slot target).task = some x.lidN then s.sendMsg t o target a else s.discard sid 7
      | none => s.sendMsg t o target a

/-- MSEND (R302). -/
def execMsend (o : Rab) (s : State) : Res := .next (s.msend o false)
/-- MSENDT (R302). -/
def execMsendt (o : Rab) (s : State) : Res := .next (s.msend o true)

/-- MRECV and MRECVT (R303): a pending receive is waited for, as WaitFull on its register; the oldest matching message is
taken, or refused for its SATINF; with none the receive stays pending. Where that register is FULL while the earlier receive is
pending (it is g0, or was written meanwhile), the new receive takes the place of the earlier one (DESIGN CHOICE, log 57). -/
def State.mrecv (s : State) (d : Fin 32) (tag : Option Nat) : State :=
  let t := s.cur
  let x := s.slot t
  match x.recv.filter fun p => x.isEmpty .g p.d with
  | some p => s.blockCur (.reg .g p.d)
  | none =>
    match x.mail.find? fun m => m.fits x.lidN tag with
    | some m =>
      if m.satinf != x.satinf then s.trapExact 19 m.w0
      else
        let s := s.takeAcquire t m
        s.finish fun x =>
          (({ x with mail := dropFirst (fun m => m.fits x.lidN tag) x.mail }).wg d m.payload).wg (d.val + 1) m.w0
    | none =>
      s.finish fun x => { (x.eg d).eg (d.val + 1) with recv := some ⟨d, tag, x.satinf, x.pc⟩ }

/-- MRECV (R303). -/
def execMrecv (d : Fin 32) (s : State) : Res :=
  .next (if evenReg d then s.mrecv d none else s.illegal (wordOf (.mrecv d)))
/-- MRECVT (R303). -/
def execMrecvt (o : Rr) (s : State) : Res :=
  .next (if evenReg o.d then
      s.withSrcs [.g o.a o.qa] fun s => s.mrecv o.d (some (((s.slot s.cur).rg o.a).toNat % 65536))
    else s.illegal (wordOf (.mrecvt o)))
/-- WAITM (R304). -/
def execWaitm (o : Rr) (s : State) : Res :=
  .next (s.withSrcs [.g o.a o.qa] fun s => s.finish fun x =>
    let w : PendingCount := ⟨o.d, min (x.rg o.a).toNat 8⟩
    ({ x.eg o.d with waitm := x.waitm ++ [w] } : Slot).answerWaitm)
/-- MCNT (R304). -/
def execMcnt (d : Fin 32) (s : State) : Res := .next (s.finish fun x => x.wg d (BitVec.ofNat 64 x.mailCount))

/-- MESSAGE_ARRIVAL (R302). -/
def execMessageArrival (id : Nat) (s : State) : Res := .next (s.messageArrives id)
/-- MESSAGE_RETRY (R302). -/
def execMessageRetry (id : Nat) (s : State) : Res := .next (s.messageArrives id)

end Sys2Proof.Machine
end

