-- ==== Sys2Proof/Machine/Deque.lean ====
section
/-! DEFINITION. Deques with their spill places (07 R188-R192, 03 R85), work ids (07 R196, R197), frame headers (R186,
R187), the start of a task (R205, R206, 13 R329) with its segment registers (01 R8-R10), and its end. -/

namespace Sys2Proof.Machine

/-! ### Work ids (R196, R197) -/

/-- The number of work ids E. -/
def Header.count (h : Header) : Nat := h.extents.foldl (· * ·) 1
/-- P[k]: the product of the extents inside level k. -/
def Header.place (h : Header) (k : Nat) : Nat := (h.extents.drop (k + 1)).foldl (· * ·) 1
/-- Digit k of an ordinal. -/
def Header.digit (h : Header) (n k : Nat) : Nat := n / h.place k % h.extents.getD k 1
/-- The packed work id of an ordinal: field 0 highest, field 5 lowest. -/
def Header.wid (h : Header) (n : Nat) : Nat :=
  (List.range 6).foldl (fun w k => w + h.digit n k * 2 ^ ((h.widths.drop (k + 1)).foldl (· + ·) 0)) 0
/-- Where R197 splits [lo, hi) under a floor: the thief's first ordinal. -/
def Header.split (h : Header) (lo hi floor : Nat) : Option Nat :=
  if hi - lo < 2 then none
  else
    match (List.range 6).find? fun k => h.digit lo k ≠ h.digit (hi - 1) k with
    | none => none
    | some k =>
      if floor < k then none
      else
        let m := h.digit (hi - 1) k - h.digit lo k + 1
        let cut := h.digit (hi - 1) k - m / 2 + 1
        some ((List.range k).foldl (fun b j => b + h.digit lo j * h.place j) (cut * h.place k))

/-! ### Spill places (03 R85) -/

/-- Whether a spill place holds a spilled entry or a parked frame. -/
def Core.placeUsed (c : Core) (i : Nat) : Bool :=
  (mapGet none c.parked i).isSome || c.spilled.any fun e => e.place = some i
/-- The lowest free spill place. -/
def Core.freePlace (c : Core) : Option Nat := (List.range 1024).find? fun i => !c.placeUsed i
/-- The address of place `i` of core `c`. -/
def placeAddr (c i : Nat) : Nat := sharedWin (c / 8) 2 + 0x40000 + c % 8 * 0x8000 + i * 0x20
/-- Writes an entry's four words to a place. -/
def State.putPlace (s : State) (c i : Nat) (e : DqEntry) : State :=
  (List.range 4).foldl (fun s k => s.writeChipBytes (placeAddr c i + 8 * k) 8 (e.word k)) s
/-- The entry as its place's words now read: a system store to the spill region counts (01 R21). -/
def State.getPlace (s : State) (c i : Nat) (e : DqEntry) : DqEntry :=
  let w := fun k => readLe s.mem (chipKey (placeAddr c i) + 8 * k) 8
  { e with frame := BitVec.ofNat 64 (w 0), kind := bits (w 1) 63 60, floor := bits (w 1) 59 57, spec := bit (w 1) 56,
           slot := bits (w 1) 55 52, launch := bits (w 1) 51 40, seq := bits (w 1) 31 0, lo := w 2, hi := w 3, place := none }

/-! ### The deque controller (R188-R190) -/

/-- The list without its first occurrence of `e`. -/
def eraseEntry (e : DqEntry) : List DqEntry → List DqEntry
  | [] => []
  | x :: rest => if x = e then rest else x :: eraseEntry e rest
/-- The entries from the oldest to the youngest. -/
def Core.entries (c : Core) : List DqEntry := c.spilled ++ c.deque
/-- Whether a push at the tail can take place (R188, 13 R335). -/
def Core.canPush (c : Core) : Bool :=
  c.deque.length < 64 || (match c.deque with | h :: _ => !h.inSteal && c.freePlace.isSome | [] => false)
/-- Whether a push at the head can take place (R188). -/
def Core.canPushHead (c : Core) : Bool := (c.spilled = [] && c.deque.length < 64) || c.freePlace.isSome
/-- Room has come free in a deque: what waits for it looks again. -/
def State.dequeRoom (s : State) (c : Nat) : State := (s.wakeCore c .spill).wakeCore c .reclaim
/-- A push at the tail, with the next SEQ; 64 on-core entries first spill the one at HEAD (R188, R189). -/
def State.pushTail (s : State) (c : Nat) (e : DqEntry) : State :=
  let k := s.core c
  let s := match k.deque, k.freePlace with
    | h :: rest, some i =>
      if 64 ≤ k.deque.length then
        (s.putPlace c i h).modCore c fun k =>
          { k with deque := rest, spilled := k.spilled ++ [{ h with place := some i }], dqHead := (k.dqHead + 1) % 128 }
      else s
    | _, _ => s
  let s := s.modCore c fun k =>
    { k with deque := k.deque ++ [{ e with seq := k.push, place := none }], dqTail := (k.dqTail + 1) % 128,
             push := (k.push + 1) % 2 ^ 32, failed := 0 }
  s.postNow (.dispatch c)
/-- YIELD's push at the head (R188, 13 R339). -/
def State.pushHead (s : State) (c : Nat) (e : DqEntry) : State :=
  let k := s.core c
  let e := { e with seq := k.push }
  let s := if k.spilled = [] && k.deque.length < 64 then
      s.modCore c fun k => { k with deque := e :: k.deque, dqHead := (k.dqHead + 127) % 128 }
    else match k.freePlace with
      | some i => (s.putPlace c i e).modCore c fun k => { k with spilled := { e with place := some i } :: k.spilled }
      | none => s
  (s.modCore c fun k => { k with push := (k.push + 1) % 2 ^ 32, failed := 0 }).postNow (.dispatch c)
/-- The youngest entry, where it is spilled as its place's words read. -/
def State.youngest (s : State) (c : Nat) : Option DqEntry :=
  let k := s.core c
  match k.deque.getLast? with
  | some e => some e
  | none => k.spilled.getLast?.map fun e => match e.place with | some i => s.getPlace c i e | none => e
/-- With no on-core entry, the youngest spilled one comes back for a take (R188). -/
def State.unspill (s : State) (c : Nat) : State :=
  let k := s.core c
  match k.deque, k.spilled.getLast? with
  | [], some e =>
    let e' := match e.place with | some i => s.getPlace c i e | none => e
    (s.modCore c fun k =>
      { k with deque := [e'], spilled := k.spilled.dropLast, dqTail := (k.dqTail + 1) % 128 }).wakeCore c .spill
  | _, _ => s
/-- Removes an entry: from the tail's side TAIL falls, from the head's side HEAD rises (log 10). The core's dispatch looks: a take
may have waited for the entry (R190), or the steal engine may start (R200). -/
def State.removeEntry (s : State) (c : Nat) (e : DqEntry) (atHead : Bool) : State :=
  (s.modCore c fun k =>
    if e.place.isSome then { k with spilled := eraseEntry e k.spilled }
    else if k.deque.contains e then
      { k with deque := eraseEntry e k.deque,
               dqHead := if atHead then (k.dqHead + 1) % 128 else k.dqHead,
               dqTail := if atHead then k.dqTail else (k.dqTail + 127) % 128 }
    else k).dequeRoom c |>.postNow (.dispatch c)
/-- Replaces an entry where it stands. -/
def State.replaceEntry (s : State) (c : Nat) (e e' : DqEntry) : State :=
  let put := fun x => if x = e then e' else x
  let s := s.modCore c fun k => { k with deque := k.deque.map put, spilled := k.spilled.map put }
  match e.place with | some i => s.putPlace c i e' | none => s

/-! ### Segment registers from selectors (01 R8-R10) -/

/-- The descriptor of selectors 0xF0 and 0xF1, resolved by the loading core. -/
def ownDesc (core sel : Nat) : Desc :=
  if sel = 0xF0 then ⟨BitVec.ofNat 64 (coreWin core 0), 0xF03B000009000000⟩
  else ⟨BitVec.ofNat 64 (sharedWin (core / 8) 0), 0xF13B000006000000⟩
/-- Loads sg[n] of thread `t` from a selector; a table entry is read behind the port and leaves the register pending.
`pc` is the dispatched task's first PC (R10). -/
def State.loadSelector (s : State) (t n sel : Nat) (pc : Word) : State :=
  let lid := (s.slot t).lidN
  let asid := s.asidOf lid
  if sel = 0xF0 || sel = 0xF1 then s.modSlot t (·.wsg n (ownDesc (coreOf t) sel))
  else if sel = 0 || 0xF0 ≤ sel then s.modSlot t (·.wsg n {})
  else
    match mapGet none s.segtabs asid with
    | none => s.modSlot t (·.wsg n {})
    | some tab =>
      if tab.2 < sel then s.modSlot t (·.wsg n {})
      else
        let va := (tab.1.toNat + 16 * (sel - 1)) % 2 ^ 64
        let s := s.modSlot t fun x => { x.wsg n {} with sgPend := mapPut false x.sgPend n true }
        (s.send t pc [⟨.glob asid va, 8, 0, .new⟩, ⟨.glob asid ((va + 8) % 2 ^ 64), 8, 8, .new⟩]
          (.load (.seg (Fin.ofNat 8 n) sel) .none .read 0)).1

/-! ### The start of a task (R205, R206, 13 R329) -/

/-- What a task starts with. -/
structure TaskStart where
  lid : Nat
  pc : Word
  frame : Word
  sels : List Nat
  fmode : Nat
  rseed : Nat
  wid : Nat
  jc : Nat
  tk : TaskKind

/-- The slot begins a task: the registers of R205, then the segment registers, then g1 and FR, which wait for a pending
sg2. -/
def State.setTask (s : State) (t : Nat) (a : TaskStart) (e : Option DqEntry) : State :=
  let h := (s.launch a.lid).map (·.hdr)
  let fs := match h with | some h => h.fs | none => []
  let x := s.slot t
  let y : Slot :=
    { x.toIdle with
      status := if x.preempt then .parked else .ready, preempt := false, g := [], v := [], m := [], sg := [], sgPend := [], fs := [], pc := a.pc, mode := .user, fflags := 0,
      fmode := BitVec.ofNat 64 a.fmode, rseed := BitVec.ofNat 64 a.rseed, wid := BitVec.ofNat 64 a.wid,
      lid := BitVec.ofNat 64 a.lid, prio := BitVec.ofNat 64 (match h with | some h => h.prio | none => 0),
      jc := a.jc, tk := a.tk, ex := 0, task := some a.lid, entry := e }
  let y := fs.zipIdx.foldl (fun (y : Slot) f => y.wfs f.2 f.1) y
  let s := s.setSlot t y
  let s := a.sels.zipIdx.foldl (fun s e => s.loadSelector t e.2 e.1 a.pc) s
  s.modSlot t fun x =>
    if mapGet false x.sgPend 2 then { x.eg 1 with frPend := true, fr := a.frame }
    else let fr := a.frame - (x.rsg 2).base; { x.wg 1 fr with fr := fr }

/-- Word k of a frame header given as bytes. -/
def hdrWord (b : List Byte) (k : Nat) : Nat := leNat ((b.drop (8 * k)).take 8)
/-- Whether `a` is the address of a join counter (03 R83, 13 R333). -/
def counterAddr (a : Nat) : Bool :=
  a < 2 ^ 40 && chipShared a && chipCoreField a == 0 && chipWin a == 2 && chipOff a < 0x10000 && a % 8 == 0
/-- Whether `a` is the address of a join counter of a cluster of partition `p`. -/
def State.counterOk (s : State) (p a : Nat) : Bool :=
  counterAddr a && (match mapGet none s.parts p with | some r => r.cmask.getLsbD (chipCluster a) | none => false)
/-- Whether a frame size is valid (R186). -/
def sizeOk (n : Nat) : Bool := n % 256 == 0 && 256 ≤ n && n ≤ 0x100000
/-- Whether a frame header is well formed (R187) for a launch of partition `p`. -/
def State.headerOk (s : State) (p : Nat) (b : List Byte) : Bool :=
  hdrWord b 0 % 4 == 0 && bits (hdrWord b 5) 63 43 == 0 && bits (hdrWord b 5) 39 32 == 0 &&
    sizeOk (hdrWord b 5 % 2 ^ 32) && s.counterOk p (hdrWord b 1)
/-- The thief-side acquire of 05 R148 step 3 at cluster `cl`: over the declared read ranges and the frame, or over all. The
frame's size counts in the 1 MiB above which it is over all (DESIGN CHOICE, log 58). -/
def State.thiefAcquire (s : State) (cl lid : Nat) (frame : Word) (size : Nat) : State :=
  match s.launch lid with
  | none => s
  | some l =>
    let rs := l.hdr.reads.filter (·.2 ≠ 0)
    if rs = [] || 2 ^ 20 < rs.foldl (fun n r => n + r.2) size then s.acquireAll cl
    else ((frame.toNat, size) :: rs).foldl (fun s r => s.acquireRange cl l.asid r.1 r.2) s
/-- A task starts from its frame's header: checked, the owed acquire made, the slot set up (R187, R205, R336). -/
def State.startTask (s : State) (t : Nat) (e : DqEntry) (b : List Byte) : State :=
  match s.launch e.launch with
  | none => s
  | some l =>
    if !s.headerOk l.part b || (e.kind = 1 && !bit (hdrWord b 5) 41) then s.launchError e.launch 2
    else
      let cl := clusterOf t
      let s := if !e.acq then s
        else if e.kind = 1 then s.thiefAcquire cl e.launch e.frame (hdrWord b 5 % 2 ^ 32)
        else s.acquireAll cl
      s.setTask t
        { lid := e.launch, pc := if e.kind = 1 then BitVec.ofNat 64 (hdrWord b 0) else BitVec.ofNat 64 e.lo, frame := e.frame,
          sels := (b.drop 48).take 8 |>.map (·.toNat), fmode := hdrWord b 7 % 2 ^ 32, rseed := hdrWord b 7 / 2 ^ 32,
          wid := if e.kind = 1 then l.hdr.wid e.lo else 0, jc := hdrWord b 1,
          tk := if e.kind = 1 then .id else if bit (hdrWord b 5) 40 then .root else .cont }
        (some e)

/-! ### Dispatch (R191, R192, R467) -/

/-- Whether core `c` may give a slot to launch `lid` (R191), whose partition owns the cluster and is not being switched. -/
def State.mayRun (s : State) (c lid : Nat) : Bool :=
  match s.launch lid with
  | none => false
  | some l =>
    let k := s.cluster (c / 8)
    !l.killed && !l.stopped && k.part == some l.part && k.switching.isNone && !(s.core c).fenced &&
      ((List.range 16).filter fun i => (s.slot (c * 16 + i)).task = some lid).length < l.hdr.slots
/-- Whether a speculation has run in slot `t` (06 R170, R173). -/
def Spec.holds (sp : Spec) (t : Nat) : Bool := sp.undo.any (Undo.same (.slot t {}))
/-- Whether slot `t` may begin a task of launch `lid`: a speculation runs only in slots that were idle when it started, and
keeps those that it has run in for itself (06 R170, R173). -/
def State.slotTakes (s : State) (t lid : Nat) : Bool :=
  s.specs.all fun e => match e.2 with
    | some sp => if sp.lid = lid then !sp.busy.contains t else !sp.holds t
    | none => true
/-- The IDLE slots of a core, the lowest first. -/
def State.idleSlots (s : State) (c : Nat) : List Nat :=
  ((List.range 16).filter fun i => (s.slot (c * 16 + i)).status = .idle).map fun i => c * 16 + i
/-- The youngest entry that slot `t`, IDLE, may take (R192). -/
def State.candidate (s : State) (c t : Nat) : Option DqEntry :=
  (s.core c).entries.reverse.find? fun e => s.mayRun c e.launch && s.slotTakes t e.launch
/-- The lowest IDLE slot that may begin a task of launch `lid`. -/
def State.slotFor (s : State) (c lid : Nat) : Option Nat := (s.idleSlots c).find? fun t => s.slotTakes t lid
/-- A task of launch `lid` is to begin in a slot: a speculation of another launch that has logged the slot is discarded
first, and the slot's image is logged for the launch's own (06 R170, R172). -/
def State.claimSlot (s : State) (lid t : Nat) : State :=
  let s := (List.range 4).foldl (fun s i =>
    match mapGet none s.specs i with
    | some sp => if sp.lid ≠ lid && sp.undo.any (Undo.same (.slot t {})) then s.discard (Fin.ofNat 4 i) 11 else s
    | none => s) s
  match s.specOf lid with | some sid => s.logUndo sid (.slot t (s.slot t)) | none => s
/-- A slot becomes DISPATCHING for an entry. -/
def State.beginTask (s : State) (t : Nat) (e : DqEntry) : State :=
  let s := s.claimSlot e.launch t
  if (s.launch e.launch).isNone then s else
  (s.modSlot t fun x =>
    { x.toIdle with status := .dispatching, task := some e.launch, entry := some e, hdrWait := true,
                    lid := BitVec.ofNat 64 e.launch, mode := .user }).postNow (.headerArrival t)
/-- The entry is taken for thread `t`: whole, or one ordinal of a range (R192). -/
def State.takeEntry (s : State) (c t : Nat) (e : DqEntry) : State :=
  let e' := match e.place with | some i => s.getPlace c i e | none => e
  if e'.kind = 1 && e'.lo + 2 ≤ e'.hi then
    (s.replaceEntry c e { e' with lo := e'.lo + 1, place := e.place }).beginTask t { e' with hi := e'.lo + 1 }
  else (s.removeEntry c e false).beginTask t e'
/-- DISPATCH: the lowest IDLE slot takes the youngest permitted entry, and the next slot looks; an entry in steal is
waited for (R190); with nothing to take the steal engine starts (R200). With an entry to take it is not eligible (R204). -/
def State.dispatchCore (s : State) (c : Nat) : State :=
  match (s.idleSlots c).find? fun t => (s.candidate c t).isSome with
  | some t =>
    let s := (s.unspill c).modCore c fun k => { k with failed := 0 }
    match s.candidate c t with
    | some e => if e.inSteal then s else (s.takeEntry c t e).postNow (.dispatch c)
    | none => s
  | none =>
    if s.idleSlots c = [] || (s.core c).probing || (s.core c).pausing then s else s.postNow (.stealProbe c)

/-- Whether a write with this ticket is still on its way. -/
def State.ticketBusy (s : State) (id : Nat) : Bool :=
  s.flights.any (fun f => f.id = id || (match f.kind with | .store _ _ _ _ ids _ => ids.contains id | _ => false)) ||
    s.cores.any fun c => c.2.sb.any fun e => e.ids.contains id
/-- HEADER_ARRIVAL: the header read of a DISPATCHING slot is sent once the producer's writes are performed (R467), and
when it has arrived the task starts. -/
def State.headerEvent (s : State) (t : Nat) : State :=
  let x := s.slot t
  match x.status, x.entry with
  | .dispatching, some e =>
    match s.flights.find? fun f => f.owner = t && (match f.kind with | .load .header _ _ _ => !f.orphan | _ => false) with
    | none =>
      if !x.hdrWait then s
      else if e.waits.any s.ticketBusy then s.postLat s.nextId (.headerArrival t)
      else
        let s := s.setSlot t { x with hdrWait := false }
        (s.send t (BitVec.ofNat 64 e.lo) [⟨.glob (s.asidOf e.launch) e.frame.toNat, 64, 0, .new⟩] (.load .header .none .read 0)).1
    | some f =>
      match f.kind with
      | .load _ _ _ v => if f.pieces.all fun p => p.phase = .done then (s.dropFlight f.id).startTask t e (natLe v.toNat 64) else s
      | _ => s
  | _, _ => s

/-! ### The end of a task -/

/-- A transaction whose task has ended: results go nowhere (log 17). -/
def Flight.orphaned (f : Flight) : Flight :=
  let k := match f.kind with
    | .load (.fetch k) g a v => .load (.fetch k) g a v
    | .load _ g a v => .load (.g 0 8 false) g a v
    | .atomic k wd src cmp _ acq => .atomic k wd src cmp 0 acq
    | .jnew _ => .jnew 0
    | .tileRead h _ a => .tileRead h 0 a
    | .handle h _ => .handle h 0
    | .bbwait a _ => .bbwait a 0
    | k => k
  { f with kind := k, orphan := match f.kind with | .load (.fetch _) _ _ _ => false | _ => true }
/-- The slot goes IDLE: its buffered stores are sent, results still on their way are dropped, and it may be filled
again (07 R182). -/
def State.endTask (s : State) (t : Nat) : State :=
  let s := s.drainThread t
  let gone := fun (f : Flight) => f.owner = t && (match f.kind with | .accout _ _ _ _ | .load (.seg _ _) _ _ _ => true | _ => false)
  let s := { s with flights := (s.flights.filter fun f => !gone f).map fun (f : Flight) => if f.owner = t then f.orphaned else f }
  let leave := fun (m : MCmd) => if s.forwarded m.id m.lid m.thr = t then { m with orphan := true } else m
  let s := { s with
    cores := mapEach {} (fun (k : Core) => { k with mq := k.mq.map leave }) s.cores
    clusters := mapEach {} (fun (c : Cluster) =>
      { c with running := c.running.map fun (r : MRun) => { r with cmd := leave r.cmd } }) s.clusters }
  (s.modSlot t Slot.toIdle).postNow (.dispatch (coreOf t))
/-- The launch's root task has retired: completion starts (07 R207). -/
def State.retire (s : State) (lid : Nat) : State :=
  (s.modLaunch lid fun l => { l with retired := true }).postNow (.launchCompletion lid)

/-- DISPATCH (R192). -/
def execDispatch (core : Nat) (s : State) : Res := .next (s.dispatchCore core)
/-- HEADER_ARRIVAL (R187, R205, R467). -/
def execHeaderArrival (thr : Nat) (s : State) : Res := .next (s.headerEvent thr)

end Sys2Proof.Machine
end

