-- ==== Sys2Proof/Machine/Tasks.lean ====
section
/-! DEFINITION. Task instructions (13 R333-R342) and the join counters they act on (03 R83, R84, 05 R149, 07 R193-R198). -/

namespace Sys2Proof.Machine

/-! ### Operations at a counter's home (03 R84, R87) -/

/-- Applies `f` to the counter word at an address, logged for a speculation first; if that discards the speculation, nothing
is done and the answer is `lost` (06 R170, R172). -/
def State.atCounter {α : Type} (s : State) (lid a : Nat) (lost : α) (f : State → Nat → State × α) : State × α :=
  s.atPartR lid (chipCluster a) fun s =>
    let q := s.beforeChange lid a
    if q.gone s lid then (q, lost) else f q (readLe q.mem (chipKey a) 8)

/-- JOIN_COUNTER_INCREMENT: a carry is not performed and is the deferred count-overflow fault (R84, 13 R346). -/
def State.incCounter (s : State) (id : Nat) : State :=
  match s.flight id with
  | none => s
  | some f =>
    match f.kind with
    | .counterInc a n =>
      s.reaches f fun s =>
        let r := s.atCounter f.lid a false fun s w =>
          if 2 ^ 32 ≤ w % 2 ^ 32 + n then (s, false) else (s.writeChipBytes a 8 (w + n), true)
        if (r.1.flight id).isNone then r.1
        else
          let s := (r.1.dropFlight id).ack f.lid f.owner 1
          if r.2 then s else s.deferFlight f 12 (BitVec.ofNat 64 a)
    | _ => s

/-- What a decrement came to. -/
inductive DecEnd | done | zero | error | wait
  deriving DecidableEq, Repr

/-- The resume push of R84: the frame parked in place `pidx` of core `c` enters its deque, to acquire at module scope if
REMOTE is set (05 R149). -/
def State.resumePush (s : State) (c pidx : Nat) (e : DqEntry) (remote : Bool) : State :=
  let e := s.getPlace c pidx e
  let s := s.modCore c fun k => { k with parked := mapPut none k.parked pidx none }
  (s.pushTail c { e with kind := 2, acq := remote }).wakeCore c .spill

/-- The core that holds the frame parked in place `p`: the named one, or the one a migration moved it to (16 R419). -/
def State.parkedAt (s : State) (p : Nat) : Nat → Nat → Nat
  | 0, c => c
  | fuel + 1, c =>
    if (mapGet none (s.core c).parked p).isSome then c
    else match (s.core c).forward.find? fun f => f.slot = none && f.toCore ≠ c with
      | some f => s.parkedAt p fuel f.toCore
      | none => c
/-- A decrement at the counter's home (R84, 05 R149): below zero it is not performed; from another cluster it sets REMOTE;
zero with PARKED takes the parked frame and pushes it, in its launch's context of that core. -/
def State.decAt (s : State) (lid a n w : Nat) (outside : Bool) : State × DecEnd :=
  if w % 2 ^ 32 < n then (s, .error)
  else
    let w := (w - n) ||| (if outside then 2 ^ 63 else 0)
    if w % 2 ^ 32 = 0 && bit w 62 then
      let p := bits w 41 32
      let c := s.parkedAt p 2048 (bits w 58 48)
      let r := s.atPartR lid (c / 8) fun s =>
        match mapGet none (s.core c).parked p with
        | some e =>
          if (s.core c).deque.length < 64 || (match (s.core c).deque with | h :: _ => !h.inSteal | [] => true) then
            (s.resumePush c p e (bit w 63), DecEnd.zero)
          else (s, .wait)
        | none => (s, .error)
      if r.2 = .wait then (s, .wait) else (r.1.writeChipBytes a 8 (w - 2 ^ 62), r.2)
    else (s.writeChipBytes a 8 w, if w % 2 ^ 32 = 0 then .zero else .done)

/-- JOIN_COUNTER_DECREMENT: the join-state error, the resume push, and the retirement of a root whose counter reaches
zero (R84, 07 R207). -/
def State.decCounter (s : State) (id : Nat) : State :=
  match s.flight id with
  | none => s
  | some f =>
    match f.kind with
    | .counterDec a n outside =>
      if s.counterHeld f a 8 then s.postLat id (.joinCounterDecrement id) else s.reaches f fun s =>
      let r := s.atCounter f.lid a .done fun s w => s.decAt f.lid a n w outside
      if (r.1.flight id).isNone then r.1
      else
        match r.2 with
        | .wait => s.postLat id (.joinCounterDecrement id)
        | .error => (r.1.dropFlight id).launchError f.lid 3
        | .done => r.1.dropFlight id
        | .zero =>
          let s := r.1.dropFlight id
          match s.launch f.lid with
          | some l => if 1 < l.hdr.count && l.ctr = some a then s.retire f.lid else s
          | none => s
    | _ => s

/-! ### Instructions -/

/-- FR waits for a pending sg2 as WaitFull with q = 0 does (13 R329). -/
def State.withFrame (s : State) (k : State → State) : State :=
  if (s.slot s.cur).frPend then s.blockCur (.reg .g 1) else k s
/-- The frame check of R330; `k` gets the frame's virtual address. -/
def State.checkFrame (s : State) (fr : Word) (k : Nat → State → State) : State :=
  let d := s.segment s.cur 2
  let va := (d.base + fr).toNat
  if va % 256 ≠ 0 then s.trapExact 3 fr
  else if d.chip || !d.has 3 || d.limit < fr.toNat + 64 then s.trapExact 4 fr
  else k va s
/-- Room for `n` more counted accesses under the allowance of 02 R59. -/
def State.withRoom (s : State) (n : Nat) (k : State → State) : State :=
  if 32 < (s.slot s.cur).sbcnt + n then s.blockCur .allowance else k s

/-- Stores to a frame header through the store buffer, sent at once; answers their tickets (13 R330). -/
def State.headerStores (s : State) (t va : Nat) (l : List (Nat × Nat)) : State × List Nat :=
  let asid := s.asidOf (s.slot t).lidN
  let put := fun (r : State × List Nat) (w : Nat × Nat) =>
    let n := r.1.nextId
    let s := { r.1 with nextId := n + 1 }
    let p : Piece := ⟨.glob asid ((va + w.1) % 2 ^ 64), 8, 0, .new⟩
    (s.pushStore (coreOf t) (s.entryOf t p (BitVec.ofNat 512 w.2) none false n), r.2 ++ [n])
  let r := l.foldl put (s, [])
  ((r.1.drainThread t).modSlot t fun x => { x with sbcnt := x.sbcnt + l.length }, r.2)
/-- The selectors of sg0 to sg7, byte n for sgN (01 R9). A register whose table read is pending gives 0, and nothing waits for it
(DESIGN CHOICE, log 59). -/
def Slot.selWord (x : Slot) : Nat := (List.range 8).foldl (fun w n => w + (x.rsg n).sel * 2 ^ (8 * n)) 0
/-- Word 56 of a frame: RSEED and FMODE. -/
def Slot.modeWord (x : Slot) : Nat := x.rseed.toNat % 2 ^ 32 * 2 ^ 32 + x.fmode.toNat % 2 ^ 32
/-- RPC, selectors and word 56 (07 R186). -/
def State.writeHeader (s : State) (t va : Nat) (rpc : Word) : State × List Nat :=
  let x := s.slot t
  s.headerStores t va [(0, rpc.toNat), (48, x.selWord), (56, x.modeWord)]
/-- A fabric increment of a counter, counted in sbcnt (R335); answers its ticket. -/
def State.addCounter (s : State) (t a n : Nat) : State × Nat :=
  let r := s.send t (s.slot t).pc [] (.counterInc a n)
  (r.1.modSlot t fun x => { x with sbcnt := x.sbcnt + 1 }, r.2)
/-- A fabric decrement. -/
def State.subCounter (s : State) (t a n : Nat) : State :=
  (s.send t (s.slot t).pc [] (.counterDec a n (clusterOf t ≠ chipCluster a))).1
/-- A new entry for a frame. -/
def newEntry (s : State) (t va kind floor lo hi : Nat) (waits : List Nat) : DqEntry :=
  let lid := (s.slot t).lidN
  { frame := BitVec.ofNat 64 va, kind := kind, floor := floor, spec := (s.specOf lid).isSome, slot := t % 16, launch := lid,
    seq := 0, lo := lo, hi := hi, acq := false, inSteal := false, refused := [], place := none, waits := waits }
/-- A slot that finds no room in the deque is BLOCKED and issues again from its start (R335). -/
def State.withPush (s : State) (k : State → State) : State :=
  if (s.core (coreOf s.cur)).canPush then k s else s.blockCur .spill

/-- SPAWN (R335, 07 R193). -/
def execSpawn (o : Rr) (s : State) : Res :=
  .next (s.withSrcs [.g o.a o.qa] fun s => s.withFrame fun s =>
    let t := s.cur
    let x := s.slot t
    let target := x.rg o.a
    if target.toNat % 4 ≠ 0 then s.trapExact 3 target
    else s.checkFrame x.fr fun va s => s.withRoom 4 fun s => s.withPush fun s => s.withRelease .cluster fun s =>
      let rpc := x.pc + 4
      let i := s.addCounter t x.jc 1
      let h := i.1.writeHeader t va rpc
      let c := coreOf t
      let seq := (h.1.core c).push
      let s := h.1.pushTail c (newEntry h.1 t va 0 0 rpc.toNat 0 (i.2 :: h.2))
      s.modSlot t fun x =>
        { x.wg o.d (BitVec.ofNat 64 (2 ^ 62 + chipCluster x.jc * 2 ^ 45 + chipOff x.jc / 8 * 2 ^ 32 + seq)) with pc := target })

/-- SPAWNR (R336, 07 R198). -/
def execSpawnr (o : Rrr) (s : State) : Res :=
  .next (s.withSrcs [.g o.d false, .g o.a o.qa, .g o.b o.qb] fun s => s.withFrame fun s =>
    let t := s.cur
    let x := s.slot t
    let lo := (x.rg o.a).toNat
    let hi := (x.rg o.b).toNat
    let e := match s.launch x.lidN with | some l => l.hdr.count | none => 0
    let floor := match s.launch x.lidN with | some l => l.hdr.floor | none => 0
    if (x.rg o.d).toNat % 4 ≠ 0 then s.trapExact 15 (x.rg o.d)
    else if hi ≤ lo || e < hi then s.trapExact 15 (x.rg o.a)
    else if 2 ^ 32 ≤ hi - lo then s.trapExact 15 (x.rg o.b)
    else s.checkFrame x.fr fun va s => s.withRoom 4 fun s => s.withPush fun s => s.withRelease .cluster fun s =>
      let i := s.addCounter t x.jc (hi - lo)
      let h := i.1.writeHeader t va (x.rg o.d)
      (h.1.pushTail (coreOf t) (newEntry h.1 t va 1 floor lo hi (i.2 :: h.2))).finish id)

/-- The scope of R149: module if the counter lies in another cluster or its REMOTE bit is set, else cluster. -/
def State.joinScope (s : State) (t a : Nat) : Scope :=
  if chipCluster a ≠ clusterOf t || bit (readLe s.mem (chipKey a) 8) 63 then .module else .cluster
/-- A task's end on the stolen path: the release, then the decrement, then IDLE (R337). -/
def State.leave (s : State) (a n : Nat) : State :=
  let t := s.cur
  s.withRelease (s.joinScope t a) fun s => (s.subCounter t a n).endTask t
/-- RETJ with a return word of KIND 01: the reclaim of the tail entry, or the stolen path (07 R194). -/
def State.reclaim (s : State) (a seq : Nat) : State :=
  let t := s.cur
  let c := coreOf t
  if (s.slot t).relFrom.isSome then s.leave a 1
  else
    let own := fun (e : DqEntry) => e.kind = 0 && e.seq = seq && e.slot = t % 16
    if (s.core c).entries.any fun e => own e && e.inSteal then s.blockCur .reclaim
    else
      match s.youngest c with
      | some e =>
        if own e then (((s.unspill c).removeEntry c e false).subCounter t a 1).modSlot t fun x => { x with pc := BitVec.ofNat 64 e.lo }
        else s.leave a 1
      | none => s.leave a 1
/-- RETJ (R337). -/
def execRetj (o : Ra) (s : State) : Res :=
  .next (s.withSrcs [.g o.a o.qa] fun s =>
    let t := s.cur
    let x := s.slot t
    let w := (x.rg o.a).toNat
    let e := match s.launch x.lidN with | some l => l.hdr.count | none => 0
    if 2 ≤ w / 2 ^ 62 || bits w 61 53 ≠ 0 then s.trapExact 15 (x.rg o.a)
    else if w / 2 ^ 62 = 1 then s.reclaim (sharedWin (bits w 52 45) 2 + bits w 44 32 * 8) (w % 2 ^ 32)
    else if w ≠ 0 then s.trapExact 15 (x.rg o.a)
    else
      match x.tk with
      | .cont => s.trapExact 15 (x.rg o.a)
      | .id => s.leave x.jc (1 + x.ex)
      | .root => if e ≤ 1 then (s.endTask t).retire x.lidN else s.leave x.jc 1)

/-- SYNC (R338, 07 R195): a spill place is claimed, the test is sent, and the slot waits for the answer. -/
def execSync (s : State) : Res :=
  .next (s.withFrame fun s =>
    let t := s.cur
    let x := s.slot t
    let c := coreOf t
    if x.tk = .id && x.ex ≠ 0 then s.trapExact 15 (BitVec.ofNat 64 x.ex)
    else s.checkFrame x.fr fun va s => s.withRoom 3 fun s =>
      match (s.core c).freePlace with
      | none => s.blockCur .spill
      | some i =>
        let e := newEntry s t va 2 0 (x.pc + 4).toNat 0 []
        let s := s.modCore c fun k => { k with parked := mapPut none k.parked i (some e) }
        let r := s.send t x.pc [] (.syncTest x.jc i)
        r.1.modSlot t fun x => { x with status := .blocked .release, acqReg := some (0, r.2, 0) })
/-- SYNC_TEST: the test at the counter's home as one step, and its answer (R195): a second SYNC is the join-state error;
COUNT 0 acquires at the scope of 05 R149 and goes on; otherwise the frame parks and the slot goes IDLE. -/
def State.testCounter (s : State) (id : Nat) : State :=
  match s.flight id with
  | none => s
  | some f =>
    match f.kind with
    | .syncTest a i =>
      if s.counterHeld f a 8 then s.postLat id (.syncTest id) else s.reaches f fun s =>
      let t := f.owner
      let c := coreOf t
      let r := s.atCounter f.lid a 0 fun s w =>
        if bit w 62 || w % 2 ^ 32 = 0 then (s, w)
        else (s.writeChipBytes a 8 (b2n (bit w 63) * 2 ^ 63 + 2 ^ 62 + bits w 61 59 * 2 ^ 59 + c * 2 ^ 48 +
          bits w 47 42 * 2 ^ 42 + i * 2 ^ 32 + w % 2 ^ 32), w)
      if (r.1.flight id).isNone then r.1
      else
        let s := r.1.dropFlight id
        if bit r.2 62 then s.launchError f.lid 3
        else if r.2 % 2 ^ 32 = 0 then
          (s.acquire (clusterOf t) (if bit r.2 63 then .module else .cluster)).atPart f.lid (clusterOf t) fun s =>
            let s := (s.modCore c fun k => { k with parked := mapPut none k.parked i none }).wakeCore c .spill
            s.modSlot t fun x => ({ x with pc := f.pc + 4, acqReg := none }).wake .release
        else
          s.atPart f.lid (clusterOf t) fun s =>
            match mapGet none (s.core c).parked i with
            | none => s
            | some e =>
              let h := s.writeHeader t e.frame.toNat (f.pc + 4)
              let e := { e with waits := h.2, place := none }
              let s := (h.1.putPlace c i e).modCore c fun k => { k with parked := mapPut none k.parked i (some e) }
              s.endTask t
    | _ => s

/-- PUBLISH (R334). -/
def execPublish (o : Rab) (s : State) : Res :=
  .next (s.withSrcs [.g o.a o.qa, .g o.b o.qb] fun s => s.withFrame fun s => s.withSeg 2 fun s =>
    let t := s.cur
    let x := s.slot t
    let jc := (x.rg o.b).toNat
    s.checkFrame (x.rg o.a) fun va s =>
      if !counterAddr jc || !s.inPart (coreOf t) (chipCluster jc) then s.trapExact 15 (x.rg o.b)
      else s.withRoom 1 fun s =>
        let n := s.nextId
        let p : Piece := ⟨.glob (s.asidOf x.lidN) ((va + 8) % 2 ^ 64), 8, 0, .new⟩
        let s := { s with nextId := n + 1 }
        (s.pushStore (coreOf t) (s.entryOf t p (BitVec.ofNat 512 jc) none false n)).finish fun x =>
          { x with sbcnt := x.sbcnt + 1, fr := x.rg o.a, jc := jc })

/-- YIELD (R339). -/
def execYield (s : State) : Res :=
  .next (s.withFrame fun s =>
    let t := s.cur
    let x := s.slot t
    let c := coreOf t
    if x.tk = .id then s.trapExact 15 0
    else s.checkFrame x.fr fun va s => s.withRoom 3 fun s =>
      if !(s.core c).canPushHead then s.blockCur .spill
      else
        let rpc := x.pc + 4
        let h := s.writeHeader t va rpc
        (h.1.pushHead c (newEntry h.1 t va 0 0 rpc.toNat 0 h.2)).endTask t)
/-- IDLE (R340): no release, no counter. -/
def execIdle (s : State) : Res := .next (s.endTask s.cur)

/-- RTAKE (R341): from the youngest entry, if it is a range of this frame. -/
def execRtake (o : Rr) (s : State) : Res :=
  .next (if !evenReg o.d then s.illegal (wordOf (.rtake o)) else
    s.withSrcs [.g o.a o.qa] fun s => s.withFrame fun s =>
      let t := s.cur
      let x := s.slot t
      let c := coreOf t
      let n := (x.rg o.a).toNat
      let write := fun (s : State) (lo k ex : Nat) => s.finish fun x =>
        { ((x.wg o.d (BitVec.ofNat 64 lo)).wg (o.d.val + 1) (BitVec.ofNat 64 k)) with ex := x.ex + ex }
      if x.tk ≠ .id then s.trapExact 15 0
      else
        match s.youngest c with
        | none => write s 0 0 0
        | some e =>
          if e.inSteal then s.blockCur .reclaim
          else if e.kind = 1 && e.frame = (s.segment t 2).base + x.fr && n ≠ 0 then
            let k := min n (e.hi - e.lo)
            if 2 ^ 32 ≤ x.ex + k then s.trapExact 12 (BitVec.ofNat 64 x.jc)
            else
              let s := s.unspill c
              let s := if e.lo + k < e.hi then s.replaceEntry c e { e with lo := e.lo + k } else s.removeEntry c e false
              write s e.lo k k
          else write s 0 0 0)

/-- WIDF (R342). -/
def execWidf (o : Rr) (s : State) : Res :=
  .next (s.withSrcs [.g o.a o.qa] fun s =>
    let x := s.slot s.cur
    let n := x.rg o.a
    match s.launch x.lidN with
    | none => s.trapExact 15 n
    | some l => if l.hdr.count ≤ n.toNat then s.trapExact 15 n
      else s.finish (·.wg o.d (BitVec.ofNat 64 (l.hdr.wid n.toNat))))

/-! ### Allocating counters (R333) -/

/-- The lowest free counter of a cluster; the map holds the owning launch plus one. -/
def Cluster.freeCounter (c : Cluster) : Option Nat := (List.range 8192).find? fun n => mapGet 0 c.ctrs n = 0
/-- Allocates a counter of cluster `cl` to a launch, its word zero; answers its address, 0 if none is free. -/
def State.takeCounter (s : State) (lid cl : Nat) : State × Nat :=
  match (s.cluster cl).freeCounter with
  | none => (s, 0)
  | some n =>
    let a := sharedWin cl 2 + 8 * n
    let q := s.beforeChange lid a
    if q.gone s lid then (q, 0)
    else ((q.modCluster cl fun c => { c with ctrs := mapPut 0 c.ctrs n (lid + 1) }).writeChipBytes a 8 0, a)
/-- JNEW (R333): an atomic at the cluster, counted in sbcnt. -/
def execJnew (d : Fin 32) (s : State) : Res :=
  .next (s.withRoom 1 fun s =>
    let t := s.cur
    (s.send t (s.slot t).pc [] (.jnew d)).1.finish fun x => { x.eg d with sbcnt := x.sbcnt + 1 })
/-- JNEW at the cluster. -/
def State.jnewAt (s : State) (f : Flight) (d : Fin 32) : State :=
  let r := s.atPartR f.lid (clusterOf f.thr) fun s => s.takeCounter f.lid (clusterOf f.thr)
  if (r.1.flight f.id).isNone then r.1
  else (r.1.dropFlight f.id).arrive f fun x => (x.arriveG d (BitVec.ofNat 64 r.2)).acked 1
/-- JFREE (R333). -/
def execJfree (o : Ra) (s : State) : Res :=
  .next (s.withSrcs [.g o.a o.qa] fun s =>
    let t := s.cur
    let x := s.slot t
    let a := (x.rg o.a).toNat
    if !counterAddr a || !s.inPart (coreOf t) (chipCluster a) then s.trapExact 15 (x.rg o.a)
    else s.withRoom 1 fun s =>
      (s.send t x.pc [] (.jfree a)).1.finish fun x => { x with sbcnt := x.sbcnt + 1 })
/-- JFREE at the cluster: a counter not owned, or in use, is the join-state error. -/
def State.jfreeAt (s : State) (f : Flight) (a : Nat) : State :=
  if s.counterHeld f a 8 then s.postLat f.id f.event else s.reaches f fun s =>
  let n := chipOff a / 8
  let cl := chipCluster a
  let r := s.atCounter f.lid a true fun s w =>
    if mapGet 0 (s.cluster cl).ctrs n ≠ f.lid + 1 || w % 2 ^ 32 ≠ 0 || bit w 62 then (s, false)
    else (s.modCluster cl fun c => { c with ctrs := mapPut 0 c.ctrs n 0 }, true)
  if (r.1.flight f.id).isNone then r.1
  else
    let s := (r.1.dropFlight f.id).ack f.lid f.owner 1
    if r.2 then s else s.launchError f.lid 3

/-- JOIN_COUNTER_INCREMENT. -/
def execJoinCounterIncrement (id : Nat) (s : State) : Res := .next (s.incCounter id)
/-- JOIN_COUNTER_DECREMENT. -/
def execJoinCounterDecrement (id : Nat) (s : State) : Res := .next (s.decCounter id)
/-- SYNC_TEST. -/
def execSyncTest (id : Nat) (s : State) : Res := .next (s.testCounter id)

end Sys2Proof.Machine
end

