-- ==== Sys2Proof/Machine/Tiles.lean ====
section
/-! DEFINITION. Tile allocation (04 R105-R109, 13 R343), the tile instructions and what arrives at a tile (04 R103, R111,
13 R344-R346), pool events (R126), and the ring instructions (04 R117, 13 R347). -/

namespace Sys2Proof.Machine

/-! ### Allocation (04 R105-R109) -/

/-- The sum of the shortfalls (R105). -/
def Cluster.shortfalls (c : Cluster) : Nat :=
  (List.range 8).foldl (fun n q => n + ((c.pool q).res - c.held q)) 0
/-- Whether an allocation for pool partition `p` is eligible (R105). -/
def Cluster.eligible (c : Cluster) (p : Nat) : Bool :=
  c.held p < (c.pool p).cap && 1 ≤ c.freeTiles && (c.held p < (c.pool p).res || c.shortfalls < c.freeTiles)
/-- Whether a new request is granted at once: eligible, no earlier request of its pool partition queued (R106). -/
def Cluster.grantsNow (c : Cluster) (p : Nat) : Bool := c.eligible p && !c.allocQ.any fun r => r.pool = p
/-- The bytes of a tile: data and sideband (R99). -/
def tileParts (cl i : Nat) : List (Nat × Nat) := [(sharedWin cl 0 + i * 0x1000, 0x1000), (sharedWin cl 1 + i * 0x80, 0x80)]
/-- Sets every byte of a tile to zero. -/
def State.zeroTile (s : State) (cl i : Nat) : State :=
  (tileParts cl i).foldl (fun s p =>
    { s.clearPoison (chipKey p.1) p.2 with mem := mapClear s.mem (chipKey p.1) p.2 }) s
/-- Whether a tile was written since a launch was dispatched (R102). -/
def State.wroteSince (s : State) (lid : Nat) (t : Tile) : Bool :=
  match s.launch lid with | some l => l.since < t.wrote | none => false
/-- The grant: the lowest-numbered FREE tile, its state word, and the zero-fill (R106, R109); answers the handle. -/
def State.takeTile (s : State) (cl pool count lid asid : Nat) (spec : Bool) : State × Word32 :=
  match (List.range 512).find? fun i => (s.tile cl i).st = .free with
  | none => (s, 0)
  | some i =>
    let t := s.tile cl i
    let fill := t.zf || t.asid != asid
    let s := if fill then s.zeroTile cl i else s
    let s := s.modTile cl i fun t =>
      { t with launch := lid, asid := asid, ppart := pool, st := if count = 255 then .persistent else .held, zf := false,
               dirty := fill || s.wroteSince lid t, spec := spec, count := count, ctxBit := t.ctxBit || fill,
               wrote := if fill then s.cycle + 1 else t.wrote }
    let s := s.modCluster cl fun c => { c with pools := mapPut {} c.pools pool { c.pool pool with granted := s.cycle } }
    (s, mkHandle cl i t.gen)
/-- The pool partition an allocation of a launch is charged to (R107). -/
def State.poolOf (s : State) (lid : Nat) : Nat :=
  if (s.specOf lid).isSome then 7 else match s.launch lid with | some l => l.hdr.pool | none => 0

/-- TALLOC and TALLOCN at issue: the checks of R343 on the core's copies. -/
def State.tallocChecked (s : State) (o : Rr) (k : Nat → Nat → State → State) : State :=
  s.withSrcs [.g o.a o.qa] fun s =>
    let t := s.cur
    let lid := (s.slot t).lidN
    let a := ((s.slot t).rg o.a).toNat
    let p := s.poolOf lid
    let c := s.core (coreOf t)
    if 256 ≤ a || a = 0 then s.trapExact 11 (BitVec.ofNat 64 a)
    else if !mapGet false c.poolSet p || mapGet 0 c.poolCap p = 0 then s.trapExact 11 (BitVec.ofNat 64 a)
    else
      match s.specOf lid with
      | some sid => if a = 255 then s.discard sid 13 else k p a s
      | none => k p a s
/-- A granted handle is on its way to its register (R108, R109). -/
def State.sendHandle (s : State) (t : Nat) (pc : Word) (h : Word32) (d : Fin 32) : State :=
  ((s.send t pc [] (.handle h d)).1).modSlot t (·.eg d)
/-- Grants one queued request of a thread: it completes there (R106, 07 R183). -/
def State.grantThread (s : State) (cl t : Nat) (q : AllocReq) : State :=
  let r := s.takeTile cl q.pool q.count q.lid q.asid q.spec
  let s := r.1.modCluster cl fun c => { c with allocQ := c.allocQ.filter (· ≠ q) }
  let pc := (s.slot t).pc
  (s.sendHandle t pc r.2 q.dest).modSlot t fun x => (x.next).wake .alloc
/-- Grants the queued request of a landing: its step has the tile and looks again (R106, R124). -/
def State.grantLanding (s : State) (cl die cmd step : Nat) (q : AllocReq) : State :=
  let r := s.takeTile cl q.pool q.count q.lid q.asid q.spec
  let s := r.1.modCluster cl fun c => { c with allocQ := c.allocQ.filter (· ≠ q) }
  let put := fun (c : CCmd) => if c.id = cmd then
    { c with steps := mapPut none c.steps step ((mapGet none c.steps step).map fun x => { x with tile := some r.2 }) } else c
  (s.modDie die fun d => { d with coll := d.coll.map put }).postNow (.collectiveStep die cmd step)
/-- The queue is scanned from the oldest request; each eligible one with no older request of its pool partition left is granted,
before any other request is looked at (R106). A request of a partition whose context is switched out has no part in it. -/
def State.grantScan (s : State) (cl : Nat) : State :=
  (s.cluster cl).allocQ.foldl (fun s q =>
    let c := s.cluster cl
    let first := c.allocQ.find? fun r => r.pool = q.pool && s.whereIs r.lid cl = .live
    if c.eligible q.pool && first = some q then
      match q.who with
      | .thread t => s.grantThread cl t q
      | .landing die cmd step _ => s.grantLanding cl die cmd step q
    else s) s
/-- TALLOC (R343, 04 R108): granted at once, or queued with the slot BLOCKED. -/
def execTalloc (o : Rr) (s : State) : Res :=
  .next (s.tallocChecked o fun p n s =>
    let t := s.cur
    let x := s.slot t
    let cl := clusterOf t
    let asid := s.asidOf x.lidN
    let spec := s.unclaimed x.lidN
    let s := s.grantScan cl
    if (s.cluster cl).grantsNow p then
      let r := s.takeTile cl p n x.lidN asid spec
      (r.1.sendHandle t x.pc r.2 o.d).finish id
    else
      let q : AllocReq := ⟨.thread t, p, n, x.lidN, asid, spec, o.d⟩
      ((s.modCluster cl fun c => { c with allocQ := c.allocQ ++ [q] }).watchPool cl (Fin.ofNat 8 p)).blockCur .alloc)
/-- TALLOCN (R343): handle 0 where the request was not eligible at once. -/
def execTallocn (o : Rr) (s : State) : Res :=
  .next (s.tallocChecked o fun p n s =>
    let t := s.cur
    let x := s.slot t
    let cl := clusterOf t
    let s := s.grantScan cl
    let r := if (s.cluster cl).grantsNow p then s.takeTile cl p n x.lidN (s.asidOf x.lidN) (s.unclaimed x.lidN) else (s, 0)
    (r.1.sendHandle t x.pc r.2 o.d).finish id)
/-- ZERO_FILL_DONE: the handle reaches its register (R109). -/
def State.handleArrives (s : State) (id : Nat) : State :=
  match s.flight id with
  | some f =>
    match f.kind with
    | .handle h d => (s.dropFlight id).arrive f (·.arriveG d (h.setWidth 64))
    | _ => s
  | none => s

/-- POOL_STALL_EVENT: no grant to the pool partition and no tile freed for POOLSTALL cycles while it has waiters; again
after each further interval (R126). -/
def State.poolStallAt (s : State) (cl : Nat) (p : Fin 8) : State :=
  let c := s.cluster cl
  let since := max c.lastGrant (c.pool p).granted
  if c.poolStall = 0 || c.waiters p = 0 then s
  else if since + c.poolStall ≤ s.cycle then
    (s.raise 0x105 (natLe (cl + 2 ^ 8 * p.val + 2 ^ 16 * c.held p + 2 ^ 32 * c.waiters p + 2 ^ 48 * c.freeTiles) 8)).post
      (s.cycle + c.poolStall) (.poolStallEvent cl p)
  else s.post (since + c.poolStall) (.poolStallEvent cl p)

/-! ### What arrives at a tile (04 R103, R111, R112) -/

/-- A tile becomes free by R111: at once, or HELD with COUNT 0 until USE falls. -/
def State.releaseTile (s : State) (cl i : Nat) : State :=
  if (s.tile cl i).use ≠ 0 then s.modTile cl i fun t => { t with st := .held, count := 0 }
  else s.freeTile cl i false
/-- DEFERRED_TILE_FREE: USE has reached zero on a tile whose free waits. -/
def State.deferredFree (s : State) (cl i : Nat) : State :=
  let t := s.tile cl i
  if t.st = .held && t.count = 0 && t.use = 0 then s.freeTile cl i false else s
/-- Whether a handle names a tile that an agent of an ASID may use (R112). -/
def State.handleOk (s : State) (h : Word32) (asid : Nat) : Bool :=
  let t := s.tile (handleCluster h) (handleIndex h)
  h ≠ 0 && s.handleCurrent h && t.asid == asid
/-- A drop (R103): the cause of a fault, or the new state. `unit`: the matrix unit or an engine, for which a PERSISTENT
tile is no error (R110). -/
def State.dropTile (s : State) (h : Word32) (asid : Nat) (unit : Bool) : State × Option Nat :=
  let cl := handleCluster h
  let i := handleIndex h
  let t := s.tile cl i
  if !s.handleOk h asid then (s, some 10)
  else if t.st = .persistent then (if unit then (s, none) else (s, some 11))
  else if t.count = 0 then (s, some 10)
  else if t.count = 1 then (s.releaseTile cl i, none)
  else (s.modTile cl i fun t => { t with count := t.count - 1 }, none)
/-- TINC at its tile. -/
def State.incTile (s : State) (h : Word32) (asid k : Nat) : State × Option Nat :=
  let t := s.tile (handleCluster h) (handleIndex h)
  if !s.handleOk h asid then (s, some 10)
  else if t.st = .persistent || 254 < t.count + k then (s, some 11)
  else (s.modTile (handleCluster h) (handleIndex h) fun t => { t with count := t.count + k }, none)
/-- TFREE at its tile. -/
def State.freeAt (s : State) (h : Word32) (asid : Nat) : State × Option Nat :=
  let t := s.tile (handleCluster h) (handleIndex h)
  if !s.handleOk h asid then (s, some 10)
  else if t.st = .held then (s, some 11)
  else (s.releaseTile (handleCluster h) (handleIndex h), none)
/-- The tile that an operation of a thread on its way names. -/
def Flight.tileOf (f : Flight) : Option Word32 :=
  match f.kind with
  | .tinc h _ _ | .tdropHeld h _ _ _ | .tdrop h _ | .tfree h _ => some h
  | _ => none
/-- Whether an older operation of the same thread on the same tile has not arrived: one tile meets a thread's operations in
program order (log 18). -/
def State.tileHeld (s : State) (f : Flight) (h : Word32) : Bool :=
  s.flights.any fun g => g.id < f.id && g.owner = f.owner &&
    match g.tileOf with
    | some k => handleCluster k = handleCluster h && handleIndex k = handleIndex h
    | none => false
/-- A tile operation of a thread arrives: during TRANSFER it waits (R123); it is acknowledged, and a fault is the deferred
trap of R346. -/
def State.tileArrives (s : State) (f : Flight) (h : Word32) (op : Word) (act : State → State × Option Nat) : State :=
  s.reaches f fun s =>
    let cl := handleCluster h
    let r := s.atPartR f.lid cl fun s =>
      if (s.tile cl (handleIndex h)).st = .transfer || s.tileHeld f h then (s, some none)
      else let r := act s; (r.1, r.2.map some)
    match r.2 with
    | some none => s.postLat f.id f.event
    | none => (r.1.dropFlight f.id).ack f.lid f.owner 1
    | some (some cause) => ((s.dropFlight f.id).ack f.lid f.owner 1).deferFlight f cause op
/-- TILE_DROP_ARRIVAL. -/
def State.dropArrives (s : State) (id : Nat) : State :=
  match s.flight id with
  | some f =>
    match f.kind with
    | .tdrop h op => s.tileArrives f h op fun s => s.dropTile h f.asid false
    | _ => s
  | none => s
/-- TILE_INC_ARRIVAL. -/
def State.incArrives (s : State) (id : Nat) : State :=
  match s.flight id with
  | some f =>
    match f.kind with
    | .tinc h k op => s.tileArrives f h op fun s => s.incTile h f.asid k
    | _ => s
  | none => s
/-- TILE_FREE_ARRIVAL. -/
def State.freeArrives (s : State) (id : Nat) : State :=
  match s.flight id with
  | some f =>
    match f.kind with
    | .tfree h op => s.tileArrives f h op fun s => s.freeAt h f.asid
    | _ => s
  | none => s

/-! ### Tile instructions (R344, R345) -/

/-- The checks at issue of R344. -/
def State.withHandle (s : State) (a : Word) (k : Word32 → State → State) : State :=
  let h : Word32 := a.setWidth 32
  if a.toNat / 2 ^ 32 ≠ 0 || h = 0 || !s.inPart (coreOf s.cur) (handleCluster h) then s.trapExact 10 a else k h s
/-- An operation sent to a tile's cluster, counted in sbcnt. -/
def State.sendTile (s : State) (k : FlightKind) : State :=
  let t := s.cur
  (s.send t (s.slot t).pc [] k).1.finish fun x => { x with sbcnt := x.sbcnt + 1 }
/-- TINC (R344). -/
def execTinc (o : Rab) (s : State) : Res :=
  .next (s.withSrcs [.g o.a o.qa, .g o.b o.qb] fun s =>
    let x := s.slot s.cur
    let k := (x.rg o.b).toNat
    s.withHandle (x.rg o.a) fun h s =>
      if k = 0 || 254 < k then s.trapExact 11 (x.rg o.b)
      else s.withRoom 1 fun s => s.sendTile (.tinc h k (x.rg o.a)))
/-- TDROP (R344): held for the thread's earlier loads and for a release as of now. -/
def execTdrop (o : Ra) (s : State) : Res :=
  .next (s.withSrcs [.g o.a o.qa] fun s =>
    let t := s.cur
    let a := (s.slot t).rg o.a
    s.withHandle a fun h s => s.withRoom 1 fun s =>
      let loads := (s.flights.filter fun f => f.owner = t && f.access && !f.writes).map (·.id)
      let w := s.pushWaits t
      let own := if handleCluster h = clusterOf t then
          (w.1.flights.filter fun f => f.owner = t && f.writes).map (·.id) else w.2
      w.1.sendTile (.tdropHeld h a own loads))
/-- TDROP_SEND: the loads have returned and the release is complete (04 R111, 05 R153). -/
def State.tdropLeaves (s : State) (id : Nat) : State :=
  match s.flight id with
  | some f =>
    match f.kind with
    | .tdropHeld h op waits loads =>
      if s.waitsOver (waits ++ loads) then
        let r := s.fresh
        (r.2.modFlight id fun f => { f with kind := .tdrop h op, stamp := r.1 }).postLat id (.tileDropArrival id)
      else s.postLat id (.tdropSend id)
    | _ => s
  | none => s
/-- TFREE (R344). -/
def execTfree (o : Ra) (s : State) : Res :=
  .next (s.withSrcs [.g o.a o.qa] fun s =>
    let a := (s.slot s.cur).rg o.a
    s.withHandle a fun h s => s.withRoom 1 fun s => s.sendTile (.tfree h a))
/-- TCNT and TADDR: loads from the tile state (R345). -/
def State.readTile (s : State) (o : Rr) (addr : Bool) : State :=
  s.withSrcs [.g o.a o.qa] fun s =>
    let t := s.cur
    s.withHandle ((s.slot t).rg o.a) fun h s =>
      (s.send t (s.slot t).pc [] (.tileRead h o.d addr)).1.finish fun x => x.eg o.d
/-- TCNT (R345). -/
def execTcnt (o : Rr) (s : State) : Res := .next (s.readTile o false)
/-- TADDR (R345). -/
def execTaddr (o : Rr) (s : State) : Res := .next (s.readTile o true)
/-- TCNT or TADDR at the tile. -/
def State.tileReadAt (s : State) (f : Flight) (h : Word32) (d : Fin 32) (addr : Bool) : State :=
  if s.tileHeld f h then s.postLat f.id f.event else s.reaches f fun s =>
  let cl := handleCluster h
  let r := s.atPartR f.lid cl fun s => (s, if s.handleOk h f.asid then some (s.tile cl (handleIndex h)).count else none)
  let s := r.1.dropFlight f.id
  match r.2 with
  | some n => s.arrive f (·.arriveG d (BitVec.ofNat 64 (if addr then sharedWin cl 0 + handleIndex h * 0x1000 else n)))
  | none => (s.arrive f (·.arriveG d 0)).deferFlight f 10 (h.setWidth 64)

/-! ### Rings (04 R116, R117, 13 R347) -/

/-- A ring of a core. -/
def Core.ring (c : Core) (r : Nat) : Ring := mapGet {} c.rings r
/-- Replaces a ring. -/
def State.setRing (s : State) (c r : Nat) (x : Ring) : State := s.modCore c fun k => { k with rings := mapPut {} k.rings r x }
/-- The handles that RPOP, RPEEK and RCNT see: those not taken by the matrix unit (14 R354). -/
def Ring.visible (r : Ring) : List Word32 := r.handles.drop r.taken
/-- A handle enters at the tail; the matrix unit looks at its queues again. -/
def State.pushRing (s : State) (c r : Nat) (h : Word32) : State :=
  let x := (s.core c).ring r
  (s.setRing c r { x with handles := x.handles ++ [h] }).postNow (.matrixSelect (c / 8))
/-- RPUSH (R347, 05 R154). -/
def execRpush (ring : Fin 8) (o : Ra) (s : State) : Res :=
  .next (s.withSrcs [.g o.a o.qa] fun s =>
    let c := coreOf s.cur
    let a := (s.slot s.cur).rg o.a
    if a.toNat / 2 ^ 32 ≠ 0 || a = 0 then s.trapExact 10 a
    else s.withRelease .cluster fun s =>
      if 16 ≤ ((s.core c).ring ring).handles.length then s.trapExact 13 (BitVec.ofNat 64 ring.val)
      else (s.pushRing c ring (a.setWidth 32)).finish id)
/-- RPOP (R347). Behind handles that the matrix unit has taken the head position stays (DESIGN CHOICE, log 53). -/
def execRpop (d : Fin 32) (ring : Fin 8) (s : State) : Res :=
  .next (
    let c := coreOf s.cur
    let r := (s.core c).ring ring
    match r.visible with
    | [] => s.trapExact 14 (BitVec.ofNat 64 ring.val)
    | h :: rest =>
      (s.setRing c ring { r with handles := r.handles.take r.taken ++ rest,
                                 head := if r.taken = 0 then (r.head + 1) % 16 else r.head }).finish
        (·.wg d (h.setWidth 64)))
/-- RPEEK (R347). -/
def execRpeek (d : Fin 32) (ring : Fin 8) (s : State) : Res :=
  .next (s.finish (·.wg d ((((s.core (coreOf s.cur)).ring ring).visible.headD 0).setWidth 64)))
/-- RCNT (R347). -/
def execRcnt (d : Fin 32) (ring : Fin 8) (s : State) : Res :=
  .next (s.finish (·.wg d (BitVec.ofNat 64 ((s.core (coreOf s.cur)).ring ring).visible.length)))

/-! ### Events -/

/-- ALLOCATION_GRANT: the scan; a landing whose partition's context is switched out looks for a tile there. -/
def State.grantAll (s : State) (cl : Nat) : State :=
  let s := s.grantScan cl
  (s.cluster cl).allocQ.foldl (fun s q =>
    match q.who with
    | .landing die cmd step _ => if s.whereIs q.lid cl = .live then s else s.postNow (.collectiveStep die cmd step)
    | .thread _ => s) s
/-- ALLOCATION_GRANT. -/
def execAllocationGrant (cl : Nat) (s : State) : Res := .next (s.grantAll cl)
/-- ZERO_FILL_DONE. -/
def execZeroFillDone (id : Nat) (s : State) : Res := .next (s.handleArrives id)
/-- TILE_DROP_ARRIVAL. -/
def execTileDropArrival (id : Nat) (s : State) : Res := .next (s.dropArrives id)
/-- TILE_INC_ARRIVAL. -/
def execTileIncArrival (id : Nat) (s : State) : Res := .next (s.incArrives id)
/-- TILE_FREE_ARRIVAL. -/
def execTileFreeArrival (id : Nat) (s : State) : Res := .next (s.freeArrives id)
/-- TDROP_SEND. -/
def execTdropSend (id : Nat) (s : State) : Res := .next (s.tdropLeaves id)
/-- DEFERRED_TILE_FREE. -/
def execDeferredTileFree (cl tile : Nat) (s : State) : Res := .next (s.deferredFree cl tile)
/-- POOLP_WRITE. -/
def execPoolpWrite (cl : Nat) (p : Fin 8) (value : Word) (s : State) : Res := .next (s.setPool cl p value.toNat)
/-- POOLSTALL_WRITE. -/
def execPoolstallWrite (cl : Nat) (value : Word) (s : State) : Res :=
  .next (s.setPoolStall cl value.toNat)
/-- POOL_STALL_EVENT. -/
def execPoolStallEvent (cl : Nat) (p : Fin 8) (s : State) : Res := .next (s.poolStallAt cl p)

end Sys2Proof.Machine
end

