-- ==== Sys2Proof/Machine/Engines.lean ====
section
/-! DEFINITION. The copy engines (14 R366-R373, R376, 02 R63-R65): the push with its checks (01 R37), block copies, indirect
requests, completions (R369, 05 R151, 04 R120), byte barriers and BBWAIT (03 R86, 14 R375). -/

namespace Sys2Proof.Machine

/-! ### Request words (R368, R370, R371) -/

/-- TILE of an address word. -/
def wordTile (w : Nat) : Bool := bit w 60
/-- Whether an address word is well formed, its offset a multiple of `align`. -/
def addrWordOk (w align : Nat) : Bool :=
  if wordTile w then bits w 63 61 == 0 && bits w 59 45 == 0 && bits w 44 32 % 8 == 0 && bits w 44 32 ≤ 4223
  else bits w 59 48 == 0 && bits w 47 0 % align == 0
/-- Whether an address is a byte barrier's (03 R86). -/
def barrierAddr (a : Nat) : Bool :=
  a < 2 ^ 40 && chipShared a && chipCoreField a == 0 && chipWin a == 2 && 0x10000 ≤ chipOff a && chipOff a < 0x40000 && a % 8 == 0
/-- Whether COP fits its completion kind (R370). -/
def State.copOk (s : State) (c cmpl cop : Nat) : Bool :=
  match cmpl with
  | 0 | 3 => cop == 0
  | 1 => cop / 2 ^ 16 == 0
  | 2 => bits cop 63 16 == 0 && bits cop 7 3 == 0 && 1 ≤ bits cop 15 8 && bits cop 15 8 ≤ 254
  | _ => barrierAddr cop && s.inPart c (chipCluster cop)
/-- Whether a word names a tile of the core's own cluster (R370, CMPL 2). -/
def ownTile (c w : Nat) : Bool := wordTile w && w % 2 ^ 32 / 2 ^ 24 == c / 8
/-- Step 2 of R367 for a block copy: the first failing word. -/
def State.copyBad (s : State) (c : Nat) (w : Nat → Nat) : Option Nat :=
  let cmpl := bits (w 0) 59 57
  let fill := decide (w 0 / 2 ^ 60 = 1)
  if 1 < w 0 / 2 ^ 60 || 4 < cmpl || bits (w 0) 55 32 ≠ 0 || w 0 % 8 ≠ 0 then some 0
  else if (!fill && !addrWordOk (w 1) 8) || (bit (w 0) 56 && (fill || !wordTile (w 1))) then some 1
  else if !addrWordOk (w 2) 8 || (cmpl = 2 && !ownTile c (w 2)) || (cmpl = 3 && wordTile (w 2)) then some 2
  else if !s.copOk c cmpl (w 3) then some 3
  else none
/-- Step 2 of R367 for an indirect request (R371, R373). -/
def State.gathBad (s : State) (c : Nat) (w : Nat → Nat) : Option Nat :=
  let kind := w 0 / 2 ^ 60
  let cmpl := bits (w 0) 59 57
  let aty := bits (w 0) 54 52
  let dec := bits (w 0) 51 50
  let dst := if kind = 0 then 3 else 2
  let land := fun (k : Nat) => dst = k && ((cmpl = 2 && !ownTile c (w k)) || (cmpl = 3 && wordTile (w k)))
  if 3 < kind || 4 < cmpl || bits (w 0) 49 32 ≠ 0 || dec = 3 || (dec ≠ 0 && kind ≠ 0) ||
      (bit (w 0) 56 && kind ≠ 1 && kind ≠ 2) || (if kind = 2 then aty < 2 || 6 < aty else aty ≠ 0) ||
      (kind = 3 && w 0 % 2 ^ 32 ≠ 0) then some 0
  else if kind = 3 then
    (if w 1 ≠ 0 then some 1 else if !addrWordOk (w 2) 8 || cmpl = 2 || cmpl = 3 then some 2 else if w 3 ≠ 0 then some 3
     else if w 4 ≠ 0 then some 4 else if w 5 ≠ 0 then some 5 else if !s.copOk c cmpl (w 6) then some 6
     else if w 7 ≠ 0 then some 7 else none)
  else if !addrWordOk (w 1) 4 || wordTile (w 1) then some 1
  else if !addrWordOk (w 2) 8 || land 2 then some 2
  else if !addrWordOk (w 3) 8 || land 3 || (bit (w 0) 56 && !wordTile (w 3)) then some 3
  else if w 4 / 2 ^ 32 % 8 ≠ 0 || w 4 / 2 ^ 32 < 8 || 2 ^ 20 < w 4 / 2 ^ 32 then some 4
  else if !s.copOk c cmpl (w 6) then some 6
  else if w 7 ≠ 0 then some 7
  else none

/-- What a request does at an address word: the word, the length in bytes, whether it is read and written. -/
structure Role where
  word : Nat
  len : Nat
  rd : Bool
  wr : Bool
/-- The roles of a block copy's words. -/
def copyRoles (w : Nat → Nat) : List Role :=
  let len := w 0 % 2 ^ 32
  (if w 0 / 2 ^ 60 = 0 then [⟨1, len, true, false⟩] else []) ++ [⟨2, len, false, true⟩]
/-- The length of a DATA row (R371). -/
def dataRow (w : Nat → Nat) : Nat := w 4 / 2 ^ 32 * (match bits (w 0) 51 50 with | 1 => 2 | 2 => 4 | _ => 1)
/-- The roles of an indirect request's words. -/
def gathRoles (w : Nat → Nat) : List Role :=
  let n := w 0 % 2 ^ 32
  let table := w 4 % 2 ^ 32 * (w 4 / 2 ^ 32)
  match w 0 / 2 ^ 60 with
  | 0 => [⟨1, 4 * n, true, false⟩, ⟨2, table, true, false⟩, ⟨3, n * dataRow w, false, true⟩]
  | 3 => [⟨2, 32, true, false⟩]
  | _ => [⟨1, 4 * n, true, false⟩, ⟨2, table, false, true⟩, ⟨3, n * dataRow w, true, false⟩]

/-! ### R37 -/

/-- The size in which a unit reaches a window: whole registers (R37). -/
def unitSize (a : Nat) : Nat := if !chipShared a && chipWin a = 2 then 64 else 8
/-- Whether one unit at `a` of a range is allowed by R37 order 3. A destination in a cluster-shared window of a cluster outside
the partition is refused whatever the thread's mode: R37 names none, R23 a user-mode thread (DESIGN CHOICE, log 60). -/
def State.unitOk (s : State) (c a : Nat) (n : Nat) (wr : Bool) : Bool :=
  let cl := chipCluster a
  let u := if wr then Use.store else Use.load
  if a % n ≠ 0 then false
  else if chipShared a then chipCoreField a == 0 && sharedWinOk (chipWin a) (chipOff a) n u false && s.inPart c cl
  else coreWinOk (chipWin a) (chipOff a) n u false && (wr || s.inPart c cl)
/-- The first faulting on-chip address of a range [a, a + n). -/
def State.rangeBad (s : State) (c a n : Nat) (wr : Bool) : Option Nat :=
  let k := if a < 2 ^ 40 then unitSize a else 8
  let m := if n % 4 = 0 && n % 8 ≠ 0 || a % 8 ≠ 0 then 4 else k
  (((List.range (min ((n + m - 1) / m) 0x80001)).map fun i => a + i * m).find? fun x =>
    2 ^ 40 ≤ x || a / 2 ^ 24 ≠ x / 2 ^ 24 || a + n < x + m || !s.unitOk c x m wr)
/-- The checks of R37 for one role of a segment-form word, with the descriptor it names: a cause and tval. A malformed CHIP
descriptor gives its BASE (01 R7). -/
def State.descBad (s : State) (t : Nat) (d : Desc) (off : Nat) (r : Role) : Option (Nat × Nat) :=
  if !d.has (16 + (if r.rd then 1 else 0) + (if r.wr then 2 else 0)) then some (4, off)
  else if d.limit < off + r.len then some (4, off)
  else if d.chip then
    (if 2 ^ 40 ≤ d.base.toNat then some (5, d.base.toNat)
     else (s.rangeBad (coreOf t) (d.base.toNat + off) r.len r.wr).map fun a => (5, a % 2 ^ 64))
  else none
/-- Those checks for a thread's own segment registers. -/
def State.roleBad (s : State) (t : Nat) (w : Nat) (r : Role) : Option (Nat × Nat) :=
  s.descBad t (s.segment t (w / 2 ^ 61)) (w % 2 ^ 48) r

/-! ### The push (R366, R367) -/

/-- The address of a word with the thread's descriptor copied (01 R38). -/
def State.engAddr (s : State) (t w : Nat) : EngAddr :=
  if wordTile w then .tile (BitVec.ofNat 32 w) (bits w 44 32) else .seg (s.segment t (w / 2 ^ 61)) (w % 2 ^ 48)
/-- Places in use in a core's FIFO. -/
def Core.fifoUsed (c : Core) : Nat := c.fifoWords.length / 4
/-- The completion event of a request. -/
def EngReq.event (r : EngReq) : Ev :=
  if r.indirect then .indirectCompletion (r.core / 8) r.id else .copyCompletion (r.core / 8) r.id
/-- Whether the destination of CMPL 3 lies in a core's window 0 (R370). -/
def State.granDest (s : State) (t w : Nat) : Bool :=
  let d := s.segment t (w / 2 ^ 61)
  let a := d.base.toNat + w % 2 ^ 48
  d.chip && !chipShared a && chipWin a == 0

/-- COPYQ, COPYQT, GATHQ and GATHQT after their sources: the checks of R367 in order, room in the FIFO, the push with its
release (05 R150). `d` is the register of the T forms. Each address word goes through all orders of R37 before the next word
(DESIGN CHOICE, log 61). -/
def State.pushReq (s : State) (a : Fin 32) (indirect : Bool) (d : Option (Fin 32)) : State :=
  let t := s.cur
  let c := coreOf t
  let x := s.slot t
  let n := if indirect then 8 else 4
  let words := (List.range n).map fun i => x.rg (a.val + i)
  let w := fun (i : Nat) => (words.getD i 0).toNat
  let roles := if indirect then gathRoles w else copyRoles w
  let dst := if indirect && w 0 / 2 ^ 60 = 0 then 3 else 2
  let trap := fun (s : State) (i : Nat) => s.trapExact 18 (BitVec.ofNat 64 (w i))
  match (if indirect then s.gathBad c w else s.copyBad c w) with
  | some i => trap s i
  | none =>
    match roles.find? fun r => !wordTile (w r.word) && mapGet false x.sgPend (w r.word / 2 ^ 61) with
    | some r => s.blockCur (.segment (w r.word / 2 ^ 61))
    | none =>
      match roles.findSome? fun r => if wordTile (w r.word) then none else s.roleBad t (w r.word) r with
      | some e => s.trapExact e.1 (BitVec.ofNat 64 e.2)
      | none =>
        match roles.find? fun r =>
            let h : Word32 := BitVec.ofNat 32 (w r.word)
            wordTile (w r.word) && (h = 0 || !s.inPart c (handleCluster h) || 4224 < bits (w r.word) 44 32 + r.len) with
        | some r => trap s r.word
        | none =>
          if bits (w 0) 59 57 = 3 && !s.granDest t (w dst) then trap s dst
          else if 16 < (s.core c).fifoUsed + n / 4 then
            (match d with | some d => s.finish (·.wg d 0) | none => s)
          else
            let q := s.pushWaits t
            let id := q.1.nextId
            let r : EngReq :=
              { id := id, indirect := indirect, words := words,
                src := if indirect then s.engAddr t (w 2) else if w 0 / 2 ^ 60 = 0 then s.engAddr t (w 1) else .seg {} 0,
                dst := if indirect then s.engAddr t (w 3) else s.engAddr t (w 2),
                list := if indirect then s.engAddr t (w 1) else .seg {} 0,
                thr := t, core := c, lid := x.lidN, asid := s.asidOf x.lidN, satinf := x.satinf, waits := q.2, pos := 0, off := 0,
                skipped := 0, carried := false, started := false, parked := none, faultVa := 0,
                sys := decide (x.mode = .system), inUse := [], packet := none, ctx := none }
            let s := { q.1 with nextId := id + 1 }
            let s := (s.modCore c fun k => { k with fifo := k.fifo ++ [r] }).postLat id r.event
            s.finish fun x => match d with | some d => x.wg d 1 | none => x

/-- The sources of a request: registers g[a] to g[a + n - 1], each with qa. -/
def reqSrcs (a : Fin 32) (n : Nat) (q : Bool) : List Src := (List.range n).map fun i => ⟨.g, (a.val + i) % 32, q⟩
/-- COPYQ (R370). -/
def execCopyq (o : Ra) (s : State) : Res :=
  .next (if !(Instr.copyq o).wf then s.illegal (wordOf (.copyq o)) else
    s.withSrcs (reqSrcs o.a 4 o.qa) fun s => s.pushReq o.a false none)
/-- COPYQT (R370). -/
def execCopyqt (o : Rr) (s : State) : Res :=
  .next (if !(Instr.copyqt o).wf then s.illegal (wordOf (.copyqt o)) else
    s.withSrcs (reqSrcs o.a 4 o.qa) fun s => s.pushReq o.a false (some o.d))
/-- GATHQ (R371). -/
def execGathq (o : Ra) (s : State) : Res :=
  .next (if !(Instr.gathq o).wf then s.illegal (wordOf (.gathq o)) else
    s.withSrcs (reqSrcs o.a 8 o.qa) fun s => s.pushReq o.a true none)
/-- GATHQT (R371). -/
def execGathqt (o : Rr) (s : State) : Res :=
  .next (if !(Instr.gathqt o).wf then s.illegal (wordOf (.gathqt o)) else
    s.withSrcs (reqSrcs o.a 8 o.qa) fun s => s.pushReq o.a true (some o.d))

/-! ### Byte barriers (03 R86, R375) -/

/-- A subtraction at a barrier, and the answers it releases. -/
def State.barrierSub (s : State) (lid a n : Nat) : State :=
  s.atPart lid (chipCluster a) fun s => s.changing lid a fun s =>
    let w := readLe s.mem (chipKey a) 8
    let pend := w % 2 ^ 48
    let new := if n ≤ pend then w - n else (w - pend) ||| 2 ^ 48
    (s.writeChipBytes a 8 new).answerBarriers (chipCluster a)
/-- BBWAIT's wait at the barrier's cluster: answered, held in the wait table of 64, or tried again after 64 cycles. -/
def State.barrierWait (s : State) (id : Nat) : State :=
  match s.flight id with
  | none => s
  | some f =>
    match f.kind with
    | .bbwait a _ =>
      s.reaches f fun s => s.atPart f.lid (chipCluster a) fun s =>
      let cl := chipCluster a
      let s := s.guardLogged (some f.lid) a
      let c := s.cluster cl
      if c.bbwaits.contains id then s.answerBarriers cl
      else if c.bbwaits.length < 64 || readLe s.mem (chipKey a) 8 % 2 ^ 48 = 0 then
        (s.modCluster cl fun c => { c with bbwaits := c.bbwaits ++ [id] }).answerBarriers cl
      else s.post (s.cycle + 64) (.bbwaitRetry id)
    | _ => s
/-- BBWAIT (R375). -/
def execBbwait (o : Rr) (s : State) : Res :=
  .next (s.withSrcs [.g o.a o.qa] fun s =>
    let t := s.cur
    let x := s.slot t
    let a := (x.rg o.a).toNat
    if !barrierAddr a || !s.inPart (coreOf t) (chipCluster a) then s.trapExact 5 (x.rg o.a)
    else (s.send t x.pc [] (.bbwait a o.d)).1.finish (·.eg o.d))

/-! ### Addresses and tiles at the engine -/

/-- The place of byte `k` of an address. -/
def EngAddr.place (asid : Nat) (e : EngAddr) (k : Nat) : Place :=
  match e with
  | .seg d off => d.place asid (off + k)
  | .tile h off =>
    let b := off + k
    if b < 4096 then .chip (sharedWin (handleCluster h) 0 + handleIndex h * 0x1000 + b)
    else .chip (sharedWin (handleCluster h) 1 + handleIndex h * 0x80 + (b - 4096))
/-- The tile an address names, if it is in tile form. -/
def EngAddr.tile? : EngAddr → Option Word32
  | .tile h _ => some h
  | .seg _ _ => none
/-- The word of the request that holds a number. -/
def EngReq.w (r : EngReq) (k : Nat) : Nat := nthWord r.words k
/-- KIND, CMPL, DROP. -/
def EngReq.kind (r : EngReq) : Nat := r.w 0 / 2 ^ 60
/-- CMPL. -/
def EngReq.cmpl (r : EngReq) : Nat := bits (r.w 0) 59 57
/-- COP. -/
def EngReq.cop (r : EngReq) : Nat := if r.indirect then r.w 6 else r.w 3
/-- The addresses a request reads and writes. -/
def EngReq.reads (r : EngReq) : List EngAddr :=
  if !r.indirect then (if r.kind = 0 then [r.src] else [])
  else match r.kind with | 0 | 3 => [r.src] | 1 => [r.dst] | _ => [r.dst, r.src]
/-- The address written. -/
def EngReq.dest (r : EngReq) : Option EngAddr :=
  if !r.indirect then some r.dst else match r.kind with | 0 => some r.dst | 3 => none | _ => some r.src
/-- The length of the destination range (05 R151). -/
def EngReq.destLen (r : EngReq) : Nat :=
  if !r.indirect then r.w 0 % 2 ^ 32
  else match r.kind with
    | 0 => r.w 0 % 2 ^ 32 * dataRow r.w
    | 3 => 0
    | _ => r.w 4 % 2 ^ 32 * (r.w 4 / 2 ^ 32)
/-- The amount a byte barrier falls by (R369, R370). -/
def EngReq.amount (r : EngReq) : Nat := if r.indirect then r.w 0 % 2 ^ 32 * dataRow r.w else r.w 0 % 2 ^ 32
/-- The tile that DROP names. -/
def EngReq.dropTile (r : EngReq) : Option Word32 :=
  if !bit (r.w 0) 56 then none else if r.indirect then r.dst.tile? else r.src.tile?
/-- On whose behalf the engine acts. -/
def EngReq.actor (r : EngReq) : Actor := { thr := r.thr, lid := r.lid, asid := r.asid, sys := r.sys, behind := r.behind }
/-- Replaces a request of the cluster's engines. -/
def State.setReq (s : State) (r : EngReq) : State :=
  s.modCluster (r.core / 8) fun c => { c with engines := c.engines.map fun x => if x.id = r.id then r else x }

/-! ### Completion (R369, R370) -/

/-- A completion message to the issuing slot (11 R301). -/
def State.completionMsg (s : State) (r : EngReq) (tag status payload : Nat) : State :=
  let range := match r.dest with
    | some d => (match d.place r.asid 0 with | .glob _ va => (va, r.destLen) | .chip _ => (0, 0))
    | none => (0, 0)
  let m : MailEntry :=
    ⟨msgWord0 1 r.satinf 4 r.lid tag status r.thr, BitVec.ofNat 64 payload, BitVec.ofNat 64 range.1, BitVec.ofNat 64 range.2⟩
  let f : Flight :=
    { id := s.nextId, thr := r.thr, pc := 0, lid := r.lid, asid := r.asid, born := s.cycle, sys := r.sys, pieces := [],
      kind := .message ⟨r.thr, m, 2 ^ 16 + r.id, false⟩ }
  ({ s with flights := s.flights ++ [f], nextId := s.nextId + 1 }.countSent r.lid (r.core / 8)).postLat f.id f.event
/-- The ring push of a completion: the copy's count is replaced by the n readers and the handle is pushed (04 R120, R117), in
the launch's context; answers the status. -/
def State.ringCompletion (s : State) (r : EngReq) (h : Word32) : State × Nat :=
  let cl := handleCluster h
  let n := bits r.cop 15 8
  let q := s.atPartR r.lid cl fun s =>
    let t := s.tile cl (handleIndex h)
    if !s.handleOk h r.asid || t.st ≠ .held || t.count = 0 || 254 < t.count - 1 + n then (s, false)
    else (s.modTile cl (handleIndex h) fun t => { t with count := t.count - 1 + n }, true)
  if !q.2 then (s, 5)
  else
    let c := coreOf (s.forwarded r.id r.lid r.thr)
    q.1.atPartR r.lid (c / 8) fun s =>
      if 16 ≤ ((s.core c).ring (r.cop % 8)).handles.length then (s, 4) else (s.pushRing c (r.cop % 8) h, 0)
/-- A request that a front-end COPY packet made is over (15 R390). -/
def State.packetOver (s : State) (q index status : Nat) : State :=
  (s.modQueue q fun k => { k with packets := k.packets.map fun p => if p.index = index then { p with result := some status } else p }).postNow
    (.copy q index)
/-- The end of a request: USE falls, the drop is made, and the completion action follows (R369, R370). `at_` is the
faulting address, position or handle of a status other than 0 and 3. -/
def State.reqDone (s : State) (r : EngReq) (status at_ : Nat) : State :=
  let s := s.modCluster (r.core / 8) fun c => { c with engines := c.engines.filter fun x => x.id ≠ r.id }.giveContexts
  let s := r.inUse.foldl (fun s h => s.lowerUseOf r.lid h) s
  match r.packet with
  | some p => s.packetOver p.1 p.2 status
  | none =>
    let d := match r.dropTile with
      | some h => let q := s.atPartR r.lid (handleCluster h) fun s => s.dropTile h r.asid true; (q.1, q.2.map fun _ => h.toNat)
      | none => (s, none)
    let s := d.1
    let status := if status = 0 && r.carried then 3 else status
    let e := match d.2 with | some h => if status = 0 || status = 3 then (7, h) else (status, at_) | none => (status, at_)
    let good := e.1 = 0 || e.1 = 3
    let count := r.w 0 % 2 ^ 32
    let pay := if r.indirect then count + 2 ^ 32 * r.skipped else count
    match r.cmpl with
    | 1 => s.completionMsg r (r.cop % 2 ^ 16) e.1 (if good then pay else e.2)
    | k =>
      let s := if k = 4 then s.barrierSub r.lid r.cop r.amount else s
      let dst := r.dest
      let p := if k = 2 && good then
          (match dst.bind EngAddr.tile? with
           | some h => let q := s.ringCompletion r h; (q.1, if q.2 = 0 then e else (q.2, h.toNat))
           | none => (s, e))
        else if k = 3 && good then
          (match dst.map fun d => d.place r.asid 0 with
           | some (.chip a) =>
             let a := s.redirect r.lid a
             (s.atPart r.lid (chipCluster a) fun s => s.changing r.lid a fun s => s.fillGrans a r.destLen, e)
           | _ => (s, e))
        else (s, e)
      if p.2.1 = 0 then p.1 else p.1.completionMsg r 0 p.2.1 p.2.2

/-! ### Moving data -/

/-- How far a request came: `stop` ends it with a status and an address. -/
inductive Moved
  | go (r : EngReq)
  | stop (r : EngReq) (status at_ : Nat)
  | hold (r : EngReq)
  | gone

/-- The address as a completion reports it. -/
def Place.num (p : Place) : Nat := p.tval.toNat
/-- What an access that did not succeed makes of the request. -/
def moveRes (r : EngReq) (pl : Place) {α : Type} (x : UnitRes α) : Moved :=
  match x with
  | .ok _ => .go r
  | .parked d k => .hold { r with parked := some (d, k), faultVa := pl.num }
  | .refused => .stop r 2 pl.num
  | .wait a k => .hold { r with behind := some (a, k) }
  | .stalled => .hold r
  | .gone => .gone
/-- Reads `k` words of 8 bytes from byte `off` of an address, each with its poison. -/
def State.getWords (s : State) (r : EngReq) (e : EngAddr) : Nat → Nat → State × Except Moved (List (Nat × Bool))
  | 0, _ => (s, .ok [])
  | k + 1, off =>
    let pl := e.place r.asid off
    match s.unitRead r.actor true pl 8 with
    | (s, .ok x) => (match s.getWords r e k (off + 8) with | (s, .ok l) => (s, .ok (x :: l)) | m => m)
    | (s, x) => (s, .error (moveRes r pl x))
/-- Writes words of 8 bytes from byte `off` of an address. -/
def State.putWords (s : State) (r : EngReq) (e : EngAddr) (off : Nat) : List (Nat × Bool) → State × Moved
  | [] => (s, .go r)
  | w :: ws =>
    let pl := e.place r.asid off
    match s.unitWrite r.actor true false pl 8 w.1 w.2 with
    | (s, .ok _) => s.putWords r e (off + 8) ws
    | (s, x) => (s, moveRes r pl x)
/-- Writes the words of a unit: a whole register of window 2 in one step, so that its slot never finds part of it (01 R24,
R37), else word by word. -/
def State.putUnit (s : State) (r : EngReq) (e : EngAddr) (off : Nat) (ws : List (Nat × Bool)) : State × Moved :=
  let pl := e.place r.asid off
  let whole := ws.length = 8 && (match pl with | .chip a => !chipShared a && chipWin a = 2 && a % 64 = 0 | .glob _ _ => false)
  if whole then
    let r' := s.unitWrite r.actor true false pl 64 (leNat (ws.flatMap fun w => natLe w.1 8)) false
    (r'.1, moveRes r pl r'.2)
  else s.putWords r e off ws
/-- One unit of a copy: `k` words from byte `o` of the source to byte `p` of the destination, all read before any is written;
`f` is the decode. -/
def State.moveUnit (s : State) (r : EngReq) (src dst : EngAddr) (o p k : Nat) (f : Nat → List Nat) : State × Moved :=
  match s.getWords r src k o with
  | (s, .ok l) =>
    let r := if l.any (·.2) then { r with carried := true } else r
    s.putUnit r dst p (l.flatMap fun x => (f x.1).map fun w => (w, x.2))
  | (s, .error m) => (s, m)

/-- 64-byte units of a block copy of `n` bytes from r.pos on, up to as many as the first argument: a request that parks keeps
the position of the unit (02 R63). -/
def State.copyUnits (s : State) (n : Nat) : Nat → EngReq → State × Moved
  | 0, r => (s, .go r)
  | fuel + 1, r =>
    let k := min 8 ((n - r.pos) / 8)
    if k = 0 then (s, .go r)
    else
      let m := if r.kind = 1 then s.putUnit r r.dst r.pos (List.replicate k (r.w 1, false))
        else s.moveUnit r r.src r.dst r.pos r.pos k fun x => [x]
      match m.2 with
      | .go r' => m.1.copyUnits n fuel { r' with pos := r.pos + 8 * k, behind := none }
      | x => (m.1, x)

/-- Entry of a FIFO's code table. -/
def State.code (s : State) (c k : Nat) : Nat := (mapGet (0 : BitVec 16) (s.core c).codes k).toNat
/-- A table word as DATA words under DEC (R371, R373): each byte holds two codes, the low one first. -/
def State.decodeWord (s : State) (c dec x : Nat) : List Nat :=
  let codes := (List.range 16).map fun i => s.code c (x / 2 ^ (4 * i) % 16)
  match dec with
  | 1 => packElems8 (codes.map (· % 256))
  | 2 => packElems16 codes
  | _ => [x]
where
  /-- Eight bytes to a word. -/
  packElems8 (l : List Nat) : List Nat :=
    (List.range 2).map fun i => (List.range 8).foldl (fun n j => n + l.getD (8 * i + j) 0 * 2 ^ (8 * j)) 0
  /-- Four 16-bit entries to a word. -/
  packElems16 (l : List Nat) : List Nat :=
    (List.range 4).map fun i => (List.range 4).foldl (fun n j => n + l.getD (4 * i + j) 0 * 2 ^ (16 * j)) 0

/-- The sum of a scatter-add: elements of a word added each for itself (R372). -/
def addElems (ty : ElemTy) (a b : Nat) : Nat :=
  let w := elemW ty
  (List.range (64 / w)).foldl (fun n i =>
    let x := a / 2 ^ (w * i) % 2 ^ w
    let y := b / 2 ^ (w * i) % 2 ^ w
    let z := if ty.isInt then (x + y) % 2 ^ w else (roundF ty false .rne 0 (addF .rne (decodeF ty false x) (decodeF ty false y)).1).1
    n + z * 2 ^ (w * i)) 0
/-- Adds to a word at its home as an atomic (R372): a poisoned word is left as it is; a speculation's atomic on global
memory discards it (06 R165). -/
def State.unitAdd (s : State) (u : Actor) (pl : Place) (ty : ElemTy) (v : Nat) (bad : Bool) : State × UnitRes Bool :=
  match pl with
  | .glob _ va =>
    match s.specOf u.lid with
    | some sid => (s.discard sid 6, .gone)
    | none =>
      match s.unitTranslate u va .atomic true with
      | (s, .ok pa) =>
        let s := s.portAtomic (clusterOf u.thr) pa
        if s.poisoned pa 8 then (s, .ok true)
        else
          let s := s.writeHomeNat none pa 8 (addElems ty (s.readHome none pa 8) v)
          (if bad then s.setPoison pa else s, .ok bad)
      | (s, .parked d k) => (s, .parked d k)
      | (s, .stalled) => (s, .stalled)
      | (s, _) => (s, .gone)
  | .chip _ =>
    match s.unitRead u true pl 8 with
    | (s, .ok x) =>
      if x.2 then (s, .ok true)
      else
        match s.unitWrite u true false pl 8 (addElems ty x.1 v) bad with
        | (s, .ok _) => (s, .ok bad)
        | (s, .refused) => (s, .refused)
        | (s, .wait a k) => (s, .wait a k)
        | (s, .stalled) => (s, .stalled)
        | (s, .parked d k) => (s, .parked d k)
        | (s, .gone) => (s, .gone)
    | (s, .parked d k) => (s, .parked d k)
    | (s, .refused) => (s, .refused)
    | (s, .wait a k) => (s, .wait a k)
    | (s, .stalled) => (s, .stalled)
    | (s, .gone) => (s, .gone)

/-- The units of a row of an indirect request, from byte r.off of its table row on; a scatter-add goes word by word. -/
def State.rowMove (s : State) (x p : Nat) : Nat → EngReq → State × Moved
  | 0, r => (s, .go r)
  | fuel + 1, r =>
    let row := r.w 4 / 2 ^ 32
    let drow := dataRow r.w
    let t := x * row + r.off
    let k := if r.kind = 2 then 1 else min 8 ((row - r.off) / 8)
    if row ≤ r.off then (s, .go r)
    else
      let m := match r.kind with
        | 0 => s.moveUnit r r.src r.dst t (p * drow + r.off * (drow / row)) k (s.decodeWord r.core (bits (r.w 0) 51 50))
        | 1 => s.moveUnit r r.dst r.src (p * drow + r.off) t k fun w => [w]
        | _ =>
          let pl := r.dst.place r.asid (p * drow + r.off)
          match s.unitRead r.actor true pl 8 with
          | (s, .ok v) =>
            let tl := r.src.place r.asid t
            (match s.unitAdd r.actor tl (elemOf (bits (r.w 0) 54 52)) v.1 v.2 with
             | (s, .ok bad) => (s, .go (if bad then { r with carried := true } else r))
             | (s, e) => (s, moveRes r tl e))
          | (s, e) => (s, moveRes r pl e)
      match m.2 with
      | .go r' => m.1.rowMove x p fuel { r' with off := r.off + 8 * k, behind := none }
      | e => (m.1, e)
/-- The units of a gather row of the fill pattern. -/
def State.rowFill (s : State) (p : Nat) : Nat → EngReq → State × Moved
  | 0, r => (s, .go r)
  | fuel + 1, r =>
    let k := min 8 ((dataRow r.w - r.off) / 8)
    if k = 0 then (s, .go r)
    else
      match s.putUnit r r.dst (p * dataRow r.w + r.off) (List.replicate k (r.w 5, false)) with
      | (s, .go r') => s.rowFill p fuel { r' with off := r.off + 8 * k, behind := none }
      | m => m
/-- The list position r.pos of an indirect request (R372). A poisoned index is an undefined value. -/
def State.listStep (s : State) (r : EngReq) : State × Moved :=
  let p := r.pos
  let pl := r.list.place r.asid (4 * p)
  match s.unitRead r.actor true pl 4 with
  | (s, .ok v) =>
    let r := if v.2 then { r with carried := true } else r
    let x := if v.2 then (Config.freeWord s.free).toNat % 2 ^ 32 else v.1
    let s := if v.2 then { s with free := s.free + 1 } else s
    let next := fun (m : State × Moved) =>
      match m with
      | (s, .go r') => (s, Moved.go { r' with pos := p + 1, off := 0, behind := none })
      | m => m
    if x = 0xFFFFFFFF then (if r.kind = 0 then next (s.rowFill p (dataRow r.w / 8) r) else next (s, .go r))
    else if r.w 4 % 2 ^ 32 ≤ x then
      (if bit (r.w 0) 55 then next (s, .go { r with skipped := r.skipped + 1 }) else (s, .stop r 6 p))
    else next (s.rowMove x p (r.w 4 / 2 ^ 32 / 8) r)
  | (s, e) => (s, moveRes r pl e)
/-- KIND 3: 32 bytes into the FIFO's code table (R373). -/
def State.codeLoad (s : State) (r : EngReq) : Nat → EngReq × List Nat → State × Moved
  | 0, (r', ws) =>
    let put := fun (m : SMap (BitVec 16)) (i : Nat) => mapPut 0 m i (BitVec.ofNat 16 (ws.getD (i / 4) 0 / 2 ^ (16 * (i % 4))))
    (s.modCore r.core fun c => { c with codes := (List.range 16).foldl put c.codes }, .go r')
  | fuel + 1, (r', ws) =>
    let pl := r.src.place r.asid (8 * ws.length)
    match s.unitRead r.actor true pl 8 with
    | (s, .ok v) => s.codeLoad r fuel (if v.2 then { r' with carried := true } else r', ws ++ [v.1])
    | (s, e) => (s, moveRes r pl e)

/-! ### Serving requests (R366, 02 R63, R64) -/

/-- A parked request takes a free context of its engine, or waits in place (02 R63, R64). -/
def State.takeContext (s : State) (r : EngReq) : EngReq :=
  if r.ctx.isSome then r
  else
    let used := fun (k : Nat) => (s.cluster (r.core / 8)).engines.any fun x => x.indirect = r.indirect && x.ctx = some k
    { r with ctx := (List.range 4).find? fun k => !used k }
/-- Whether an engine serves nothing else: a request that faulted waits in place (02 R64). -/
def Cluster.stalled (c : Cluster) (indirect : Bool) : Bool :=
  c.engines.any fun x => x.indirect = indirect && x.parked.isSome && x.ctx.isNone
/-- Before its first byte: tiles are validated, ADMIT is sampled, USE is raised, each in the launch's context (R367, 01 R31,
04 R111, R112). -/
def State.reqStart (s : State) (r : EngReq) : State × Moved :=
  let tiles := r.reads.filterMap EngAddr.tile?
  let all := tiles ++ (r.dest.bind EngAddr.tile?).toList
  match all.find? fun h => !(s.atPartR r.lid (handleCluster h) fun s => (s, s.handleOk h r.asid)).2 with
  | some h => (s, .stop r 7 h.toNat)
  | none =>
    let refused := match r.dest.map fun d => d.place r.asid 0 with
      | some (.chip a) =>
        let a := s.redirect r.lid a
        r.destLen ≠ 0 && (s.atPartR r.lid (chipCluster a) fun s => (s, s.admitRefuses r.thr r.lid a r.sys)).2
      | _ => false
    let use := fun (h : Word32) =>
      (s.atPartR r.lid (handleCluster h) fun s => (s, (s.tile (handleCluster h) (handleIndex h)).use)).2
    if refused then (s, .stop r 2 (match r.dest with | some d => (d.place r.asid 0).num | none => 0))
    else if tiles.any fun h => 15 < use h + tiles.count h then (s, .hold r)
    else
      let s := tiles.foldl (fun s h => s.atPart r.lid (handleCluster h) fun s =>
        s.modTile (handleCluster h) (handleIndex h) fun t => { t with use := t.use + 1 }) s
      (s, .go { r with started := true, inUse := tiles })
/-- The bytes or list positions of a request. -/
def EngReq.size (r : EngReq) : Nat := if r.packet.isSome then r.w 0 % 2 ^ 48 else r.w 0 % 2 ^ 32
/-- Whether a request has moved all that it moves. -/
def EngReq.over (r : EngReq) : Bool := if r.indirect then r.kind = 3 || r.size ≤ r.pos else r.size < r.pos + 8
/-- A turn of a request in its engine: 256 bytes of a copy, one row of an indirect request (R366); it goes on until it ends,
parks or must wait. Every request of an engine takes as long for a turn, so they are served in rotation (log 11). -/
def State.reqRun (s : State) (r : EngReq) : State :=
  let m := if r.started then (s, .go r) else s.reqStart r
  let m := match m with
    | (s, .go r) =>
      if !r.indirect then s.copyUnits r.size 4 r
      else if r.kind = 3 then s.codeLoad r 4 (r, [])
      else if r.size ≤ r.pos then (s, .go r)
      else s.listStep r
    | m => m
  match m with
  | (s, .go r) => if r.over then s.reqDone r 0 0 else (s.setReq r).post (s.cycle + 2) r.event
  | (s, .stop r st a) => s.reqDone r st a
  | (s, .hold r) =>
    if r.parked.isSome then s.setReq (s.takeContext r) else (s.setReq r).postLat r.id r.event
  | (s, .gone) => s
/-- Whether a request waits for an earlier one of its FIFO at the code table (R373): a load for a decode in progress, a
decode for a load in progress. -/
def State.codeWaits (s : State) (r : EngReq) : Bool :=
  let load := fun (x : EngReq) => decide (x.kind = 3)
  let dec := fun (x : EngReq) => decide (x.kind = 0 ∧ bits (x.w 0) 51 50 ≠ 0)
  r.indirect && (s.cluster (r.core / 8)).engines.any fun x =>
    x.indirect && x.core = r.core && ((load r && (dec x || load x)) || (dec r && load x))
/-- COPY_COMPLETION and INDIRECT_COMPLETION: a request at the head of its FIFO whose release is over is handed to its
engine, and runs; a parked one waits for its record, and an engine with a request that waits in place serves nothing (02 R64). -/
def State.reqEvent (s : State) (cl id : Nat) : State :=
  match (s.cluster cl).engines.find? fun r => r.id = id with
  | some r =>
    if r.parked.isSome then s
    else if (s.cluster cl).stalled r.indirect then s.postLat id r.event
    else s.reqRun r
  | none =>
    match (List.range 8).findSome? fun i => (s.core (cl * 8 + i)).fifo.find? fun r => r.id = id with
    | none => s
    | some r =>
      let head := (s.core r.core).fifo.head?.any fun x => x.id = id
      if !head || !s.waitsOver r.waits || (s.cluster cl).stalled r.indirect || s.codeWaits r then s.postLat id r.event
      else
        let s := s.modCore r.core fun k =>
          { k with fifo := k.fifo.drop 1, fifoHead := (k.fifoHead + r.words.length / 4) % 16 }
        (s.modCluster cl fun c => { c with engines := c.engines ++ [r] }).reqRun r
/-- The fault record of a parked request was replayed: it continues (02 R63). -/
def State.reqReplay (s : State) (r : EngReq) : State :=
  (s.setReq { r with parked := none }).postLat r.id r.event
/-- The record was rejected: the request ends with status 1 (02 R65). -/
def State.reqReject (s : State) (r : EngReq) : State := s.reqDone { r with parked := none } 1 r.faultVa

/-- COPY_COMPLETION. -/
def execCopyCompletion (cl req : Nat) (s : State) : Res := .next (s.reqEvent cl req)
/-- INDIRECT_COMPLETION. -/
def execIndirectCompletion (cl req : Nat) (s : State) : Res := .next (s.reqEvent cl req)
/-- ENGINE_STATE_WRITE: a system agent's store to the engine-state window (R376). -/
def execEngineStateWrite (cl off : Nat) (value : Word) (s : State) : Res := .next (s.engineStore cl off value.toNat)
/-- SYSTEM_REGISTER_WRITE: a system agent's store to cluster-shared window 4 (01 R21). -/
def execSystemRegisterWrite (cl off : Nat) (value : Word) (s : State) : Res := .next (s.ctrlStore cl off value.toNat)
/-- BYTE_BARRIER_SUBTRACT (03 R86). -/
def execByteBarrierSubtract (addr amount : Nat) (s : State) : Res :=
  .next (if barrierAddr addr then s.barrierSub 4096 addr amount else s)
/-- BBWAIT_RETRY (R375). -/
def execBbwaitRetry (id : Nat) (s : State) : Res := .next (s.barrierWait id)

end Sys2Proof.Machine
end

