-- ==== Sys2Proof/Machine/Matrix.lean ====
section
/-! DEFINITION. The matrix unit (14 R350-R365): its command queues, selection and arbitration, K-tile updates (08 R229,
R230), write-back and aborts, the self-test, accumulator transfers and the counts of MQWAIT and MQCNT. -/

namespace Sys2Proof.Machine

/-! ### K-tiles (R351, 08 R229, R230) -/

/-- Line `r` of the tile a handle names, as a number of 64 bytes. -/
def State.tileLine (s : State) (h : Word32) (r : Nat) : Nat :=
  readLe s.mem (chipKey (sharedWin (handleCluster h) 0 + handleIndex h * 0x1000 + 64 * r)) 64
/-- Scale `r` of the tile's sideband. -/
def State.tileScale (s : State) (h : Word32) (r : Nat) : FVal :=
  decodeF .bf16 false (readLe s.mem (chipKey (sharedWin (handleCluster h) 1 + handleIndex h * 0x80 + 2 * r)) 2)
/-- Element `k` of a line of elements of `w` bits. -/
def lineElem (w line k : Nat) : Nat := line / 2 ^ (w * k) % 2 ^ w
/-- An exact value that was not rounded, as a value to go on with. -/
def XVal.back : XVal → FVal
  | .nan => .nan false
  | .inf n => .inf n
  | .zero n => .zero n
  | .num n m e _ => .fin n m e
/-- The products of a line of A with a line of B. -/
def lineProducts (ty : ElemTy) (satinf : Bool) (la lb : Nat) : List FVal :=
  (List.range (64 / elemBytes ty)).map fun k =>
    (mulF (decodeF ty satinf (lineElem (elemW ty) la k)) (decodeF ty satinf (lineElem (elemW ty) lb k))).1
/-- The exact integer product of two i8 lines. -/
def lineDot (la lb : Nat) : Int :=
  (List.range 64).foldl (fun n k => n + readInt 8 false (lineElem 8 la k) * readInt 8 false (lineElem 8 lb k)) 0
/-- An integer as an exact value. -/
def intF (i : Int) : FVal := if i = 0 then .zero false else .fin (i < 0) i.natAbs 0
/-- The update of one accumulator word by a K-tile: A's line, B's line, and their scales if the command is scaled. -/
def updateWord (ty : ElemTy) (satinf : Bool) (scales : Option (FVal × FVal)) (w la lb : Nat) : Nat :=
  match ty, scales with
  | .i8, none => toBits 32 (readInt 32 false w + lineDot la lb)
  | _, none => (roundF .f32 false .rne 0 (sumX .rne (decodeF .f32 false w :: lineProducts ty satinf la lb)).1).1
  | _, some (sa, sb) =>
    let sum := match ty with
      | .i8 => intF (lineDot la lb)
      | _ => (sumX .rne (lineProducts ty satinf la lb)).1.back
    (roundF .f32 false .rne 0 (sumX .rne [decodeF .f32 false w, (mulF (mulF sa sb).1 sum).1]).1).1

/-- The address of accumulator `n` of a core (01 R19). -/
def accAddr (core n : Nat) : Nat := coreWin core 4 + n * 0x4000
/-- The 4096 words of an accumulator, row-major. -/
def State.accWords (s : State) (core n : Nat) : List Nat :=
  (List.range 4096).map fun i => readLe s.mem (chipKey (accAddr core n) + 4 * i) 4
/-- A word list as one number, lowest word first. -/
def wordsNat (w : Nat) : List Nat → Nat
  | [] => 0
  | x :: xs => x % 2 ^ w + 2 ^ w * wordsNat w xs
/-- Writes a whole accumulator in one step (R355), logged for a speculation first (06 R170). -/
def State.putAcc (s : State) (lid core n : Nat) (ws : List Nat) : State :=
  s.changing lid (accAddr core n) fun s => s.writeChipBytes (accAddr core n) 0x4000 (wordsNat 32 ws)
/-- The on-chip address of the first poisoned word of a stretch of a byte window. -/
def State.firstPoison (s : State) (a n : Nat) : Option Nat :=
  (s.poison.find? fun e => chipKey a / 8 ≤ e.1 && e.1 < (chipKey a + n) / 8).map fun e => e.1 * 8 - 2 ^ 52
/-- One K-tile applied to the whole accumulator. -/
def State.kTile (s : State) (ty : ElemTy) (satinf scaled : Bool) (ws : List Nat) (a b : Word32) : List Nat :=
  let la := (List.range 64).map (s.tileLine a)
  let lb := (List.range 64).map (s.tileLine b)
  let sa := (List.range 64).map (s.tileScale a)
  let sb := (List.range 64).map (s.tileScale b)
  ws.zipIdx.map fun e =>
    let i := e.2 / 64
    let j := e.2 % 64
    updateWord ty satinf (if scaled then some (sa.getD i (.zero false), sb.getD j (.zero false)) else none) e.1
      (la.getD i 0) (lb.getD j 0)
/-- All K-tiles of a command, in ring order. -/
def State.kTiles (s : State) (ty : ElemTy) (satinf scaled : Bool) (ws : List Nat) (ps : List (Word32 × Word32)) : List Nat :=
  ps.foldl (fun ws p => s.kTile ty satinf scaled ws p.1 p.2) ws

/-! ### Conversions of accumulator transfers (R363) -/

/-- An accumulator word as an element of a type. -/
def accElem (ty : ElemTy) (satinf : Bool) (mode : RMode) (w : Nat) : Nat :=
  match ty with
  | .f32 | .i32 => w
  | .i8 => toBits 8 (clampInt (intRange 8 false) (readInt 32 false w))
  | t => (roundF t satinf mode 0 (decodeF .f32 false w).x).1
/-- An element of a type as an accumulator word. -/
def elemAcc (ty : ElemTy) (satinf : Bool) (x : Nat) : Nat :=
  match ty with
  | .f32 | .i32 => x
  | .i8 => toBits 32 (readInt 8 false x)
  | t => (roundF .f32 false .rne 0 (decodeF t satinf x).x).1
/-- The parts of a row (R363). -/
def partLimit : ElemTy → Nat
  | .f32 | .i32 => 4
  | .bf16 | .f16 => 2
  | _ => 1

/-! ### The queue (R350) -/

/-- Places in use in a core's queue: waiting commands and selected ones that are not complete. -/
def State.mqUsed (s : State) (c : Nat) : Nat :=
  (s.core c).mq.length + ((s.cluster (c / 8)).running.filter fun r => r.core = c).length
/-- The incomplete commands of a slot, with those that its thread pushed before it moved here (16 R418). -/
def State.slotCmds (s : State) (t : Nat) : List MCmd :=
  ((s.cores.flatMap fun c => c.2.mq) ++ s.clusters.flatMap fun c => c.2.running.map (·.cmd)).filter fun m =>
    s.forwarded m.id m.lid m.thr = t
/-- The slot's incomplete commands that carry relc. -/
def State.relCmds (s : State) (t : Nat) : Nat := ((s.slotCmds t).filter (·.relc)).length
/-- MQWAIT's pending answers that are due (R365). -/
def State.answerMqwait (s : State) (t : Nat) : State :=
  let n := s.relCmds t
  s.modSlot t fun x =>
    (x.mqwait.filter fun w => n ≤ w.n).foldl (fun x w => x.arriveG w.d (BitVec.ofNat 64 n))
      { x with mqwait := x.mqwait.filter fun w => w.n < n }

/-- A queued instruction enters its core's queue with the release of its push; with all eight places in use it issues
again (R350). -/
def State.pushCmd (s : State) (op : MOp) (acc : Fin 4) (relc : Bool) (f : Slot → Slot) : State :=
  let t := s.cur
  let c := coreOf t
  if 8 ≤ s.mqUsed c then s
  else
    let x := s.slot t
    let w := s.pushWaits t
    let m : MCmd :=
      { id := w.1.nextId, op := op, acc := acc, relc := relc, thr := t, pc := x.pc, lid := x.lidN, asid := s.asidOf x.lidN,
        satinf := x.satinf, rm := x.fmode.toNat % 8, waits := w.2,
        sys := decide (x.mode = .system) }
    let s := { w.1 with nextId := w.1.nextId + 1 }
    ((s.modCore c fun k => { k with mq := k.mq ++ [m] }).postNow (.matrixSelect (c / 8))).finish f

/-- MMA and MMAS. -/
def State.mmaCmd (s : State) (o : Mma) (scaled : Bool) : State :=
  s.pushCmd (.mma o.ringA o.ringB o.kc o.ty o.keepA o.keepB o.zi scaled) o.acc o.relc id
/-- MMAR and MMASR: the count comes from g29 (R353). -/
def State.mmarCmd (s : State) (o : Mmar) (scaled : Bool) : State :=
  s.withSrcs [.g 29 false] fun s =>
    let n := (s.slot s.cur).rg 29
    if 16 < n.toNat then s.trapExact 16 n
    else s.pushCmd (.mma o.ringA o.ringB n.toNat o.ty o.keepA o.keepB o.zi scaled) o.acc o.relc id
/-- The limits of R352, else the illegal-instruction trap. -/
def State.mx (s : State) (i : Instr) (k : State → State) : State := if i.wf then k s else s.illegal (wordOf i)
/-- MMA (R353). -/
def execMma (o : Mma) (s : State) : Res := .next (s.mx (.mma o) fun s => s.mmaCmd o false)
/-- MMAR (R353). -/
def execMmar (o : Mmar) (s : State) : Res := .next (s.mx (.mmar o) fun s => s.mmarCmd o false)
/-- MMAS (R353). -/
def execMmas (o : Mma) (s : State) : Res := .next (s.mx (.mmas o) fun s => s.mmaCmd o true)
/-- MMASR (R353). -/
def execMmasr (o : Mmar) (s : State) : Res := .next (s.mx (.mmasr o) fun s => s.mmarCmd o true)
/-- ACCZ (R362). -/
def execAccz (acc : Fin 4) (relc : Bool) (s : State) : Res := .next (s.pushCmd .accz acc relc id)

/-- The target check of ACCLD and ACCST: GLOBAL, a core's window 0 or cluster-shared window 0 (R364). -/
def State.accTarget (s : State) (o : AccM) (need : Nat) (use : Use) (k : Desc → Nat → State → State) : State :=
  s.withSrcs [.g o.g false] fun s => s.withSeg o.seg fun s =>
    let d := s.segment s.cur o.seg
    let off := ((s.slot s.cur).rg o.g).toNat
    match s.check s.cur { desc := d, off := off, size := 4096 * elemBytes o.ty, align := 64, need := need, use := use } with
    | .error e => s.trapExact e.1 (BitVec.ofNat 64 e.2)
    | .ok _ =>
      if d.chip && chipWin (d.base.toNat + off) ≠ 0 then s.trapExact 5 (d.base + BitVec.ofNat 64 off) else k d off s
/-- ACCLD (R364). -/
def execAccld (o : AccM) (s : State) : Res :=
  .next (s.mx (.accld o) fun s => s.accTarget o 1 .load fun d off s => s.pushCmd (.accld o.ty d off) o.acc o.relc id)
/-- ACCST (R364): counted in sbcnt until its writes are acknowledged. -/
def execAccst (o : AccM) (s : State) : Res :=
  .next (s.mx (.accst o) fun s => s.accTarget o 2 .store fun d off s => s.withRoom 1 fun s =>
    s.pushCmd (.accst o.ty d off) o.acc o.relc fun x => { x with sbcnt := x.sbcnt + 1 })

/-! ### ACCOUT and ACCIN (R363) -/

/-- The words of a row piece. -/
def rowWords (o : AccV) (core row part : Nat) : List Nat :=
  let n := 64 / partLimit o.ty
  (List.range n).map fun i => accAddr core o.acc.val + row * 256 + (part * n + i) * 4
/-- ACCOUT's data as the accumulator stands: the register's bytes, and the address of a poisoned word. -/
def State.rowOut (s : State) (o : AccV) (core row part : Nat) (satinf : Bool) : VWord × Option Nat :=
  let as := rowWords o core row part
  let xs := as.map fun a => accElem o.ty satinf .rne (readLe s.mem (chipKey a) 4)
  (BitVec.ofNat 512 (wordsNat (elemW o.ty) xs), as.find? fun a => s.poisoned (chipKey a) 4)
/-- ACCIN's write, in one step. -/
def State.rowIn (s : State) (lid : Nat) (o : AccV) (core row part : Nat) (satinf : Bool) (v : VWord) : State :=
  let n := 64 / partLimit o.ty
  let xs := (List.range n).map fun i => elemAcc o.ty satinf (lineElem (elemW o.ty) v.toNat i)
  s.changing lid (accAddr core o.acc.val) fun s =>
    s.writeChipBytes (accAddr core o.acc.val + row * 256 + part * n * 4) (4 * n) (wordsNat 32 xs)
/-- An ACCOUT whose turn has come: its data is on the way. -/
def State.sendRow (s : State) (f : Flight) (o : AccV) (row part : Nat) (satinf : Bool) : State :=
  let s := s.guardLogged (some f.lid) (accAddr (coreOf f.thr) o.acc.val)
  let r := s.rowOut o (coreOf f.thr) row part satinf
  match r.2 with
  | some a => s.poisonAccess { f with kind := .load (.v o.v) .none .read 0 } 9 (BitVec.ofNat 64 a)
  | none => (s.modFlight f.id fun f => { f with pieces := [], kind := .load (.v o.v) .none .read r.1 }).postLat f.id (.loadCompletion f.id)
/-- Row and part from gR, checked (R363). -/
def State.withRow (s : State) (o : AccV) (k : Nat → Nat → State → State) : State :=
  let g := (s.slot s.cur).rg o.g
  if g.toNat / 2 ^ 8 ≠ 0 || partLimit o.ty ≤ bits g.toNat 7 6 then s.trapExact 16 g
  else k (bits g.toNat 5 0) (bits g.toNat 7 6) s
/-- ACCOUT: behind the matrix commands queued on its accumulator, or at once (R363, 01 R27). -/
def execAccout (o : AccV) (s : State) : Res :=
  .next (s.mx (.accout o) fun s => s.withSrcs [.g o.g false] fun s => s.withRow o fun row part s =>
    let t := s.cur
    let x := s.slot t
    let c := coreOf t
    let k := s.lastMatrix c o.acc.val none
    let ph := match k with | some k => Phase.behind k | none => .done
    let r := s.send t x.pc [⟨.chip (accAddr c o.acc.val), 64, 0, ph⟩] (.accout o row part x.satinf)
    let s := r.1.finish (·.ev o.v)
    match k, s.flight r.2 with
    | none, some f => s.sendRow f o row part x.satinf
    | _, _ => s)
/-- ACCIN: performed at once, or behind the commands queued on its accumulator and counted in sbcnt meanwhile. -/
def execAccin (o : AccV) (s : State) : Res :=
  .next (s.mx (.accin o) fun s => s.withSrcs [.g o.g false, .v o.v] fun s => s.withRow o fun row part s =>
    let t := s.cur
    let x := s.slot t
    let c := coreOf t
    match s.lastMatrix c o.acc.val none with
    | none => (s.rowIn x.lidN o c row part x.satinf (x.rv o.v)).stillRuns s x.lidN fun s => s.finish id
    | some k => s.withRoom 1 fun s =>
      (s.send t x.pc [⟨.chip (accAddr c o.acc.val), 64, 0, .behind k⟩] (.accin o row part (x.rv o.v) x.satinf)).1.finish
        fun x => { x with sbcnt := x.sbcnt + 1 })
/-- Whether an access that waits behind a matrix command may go on. -/
def State.accFree (s : State) (f : Flight) (acc : Fin 4) : Bool :=
  f.pieces.all fun p => match p.phase with
    | .behind k => (s.lastMatrix (coreOf f.thr) acc.val (some k)).isNone
    | _ => true
/-- A waiting ACCOUT or ACCIN goes on, or waits further. -/
def State.rowServe (s : State) (id : Nat) : State :=
  match s.flight id with
  | none => s
  | some f =>
    match f.kind with
    | .accout o row part satinf =>
      if s.accFree f o.acc then s.sendRow f o row part satinf else s.poll id (.loadCompletion id)
    | .accin o row part v satinf =>
      if s.accFree f o.acc then
        let s := s.rowIn f.lid o (coreOf f.thr) row part satinf v
        if (s.flight id).isSome then (s.dropFlight id).ack f.lid f.owner 1 else s
      else s.poll id (.storeAcknowledgement id)
    | _ => s

/-! ### Completion and aborts (R350, R356) -/

/-- Whether a command belongs to the MMA family. -/
def MOp.isMma : MOp → Bool
  | .mma _ _ _ _ _ _ _ _ => true
  | .accz | .accld _ _ _ | .accst _ _ _ => false
/-- Counts a completed MMA-family command in MXCNT, an aborted one too (R350, R361). -/
def State.countMma (s : State) (cl : Nat) (m : MCmd) : State :=
  if m.op.isMma then s.modCluster cl fun c => { c with mxcnt := c.mxcnt + 1 } else s
/-- The writes through window 4 that waited for commands of accumulator `n` of core `c`, none of which is left, are performed
(01 R27). -/
def State.releaseWrites (s : State) (cl c n : Nat) : State :=
  let free := fun (e : WinWrite × Nat) =>
    decide (chipCore e.1.addr = c) && decide (chipOff e.1.addr / 0x4000 = n) && (s.lastMatrix c n (some e.2)).isNone
  let ws := (s.cluster cl).accWrites.filter free
  ws.foldl (fun s e => s.landWrite e.1)
    (s.modCluster cl fun c => { c with accWrites := c.accWrites.filter fun e => !free e })
/-- Whether an MMA has its result and waits only for the write-back of an earlier command (R354). -/
def State.backWaits (s : State) (r : MRun) : Bool := r.cmd.op.isMma && r.due ≠ 0 && r.due ≤ s.cycle && r.test ≠ 1
/-- A command is complete: it is counted and leaves the running ones; accesses that waited behind it go on before any later
command (01 R27), waits for the queue are answered, a write-back that waited for it and the unit's queues are looked at. -/
def State.cmdDone (s : State) (cl : Nat) (r : MRun) : State :=
  let s := s.modCluster cl fun c => { c with running := c.running.filter fun x => x.cmd.id ≠ r.cmd.id }
  let s := s.countMma cl r.cmd
  let s := s.flights.foldl (fun s f =>
    if f.pieces.any fun p => match p.phase, p.place with
        | .behind _, .chip a => chipCore a = r.core && chipOff a / 0x4000 = r.cmd.acc.val
        | _, _ => false then
      (match f.kind with
       | .accout _ _ _ _ | .accin _ _ _ _ _ => s.rowServe f.id
       | _ => s.advance f.id)
    else s) s
  let s := (s.releaseWrites cl r.core r.cmd.acc).answerMqwait (s.forwarded r.cmd.id r.cmd.lid r.cmd.thr)
  let s := if (s.cluster cl).running.any s.backWaits then s.postNow (.matrixWriteback cl) else s
  s.postNow (.matrixSelect cl)
/-- A deferred trap of a command for its issuing slot (R356). -/
def State.cmdTrap (s : State) (m : MCmd) (cause : Nat) (tval : Word) : State :=
  if m.orphan && (s.specOf m.lid).isNone then s
  else s.deferTrap m.lid (s.forwarded m.id m.lid m.thr) cause m.pc tval
/-- The handles a command uses, ring A's first; it has raised USE of the first `raised` of them (R355). -/
def MRun.uses (r : MRun) : List Word32 := r.ha ++ r.hb
/-- An abort: taken handles return to visibility, USE is restored, the accumulator keeps its bits, the count of an ACCST is
given back, and the deferred trap follows (R356, R364). A poisoned word discards a speculation (03 R96). -/
def State.cmdAbort (s : State) (cl : Nat) (r : MRun) (cause : Nat) (tval : Word) : State :=
  match (if cause = 17 then s.specOf r.cmd.lid else none) with
  | some sid => s.discard sid 12
  | none =>
    let s := match r.cmd.op with
      | .mma a b _ _ _ _ _ _ =>
        let give := fun (s : State) (n : Nat) (tk : Bool) =>
          if tk then let g := (s.core r.core).ring n; s.setRing r.core n { g with taken := 0 } else s
        give (give s a.val r.takenA) b.val r.takenB
      | .accst _ _ _ => s.ack r.cmd.lid (s.forwarded r.cmd.id r.cmd.lid r.cmd.thr) 1
      | _ => s
    let s := (r.uses.take r.raised).foldl State.lowerUse s
    (s.cmdDone cl r).cmdTrap r.cmd cause tval

/-! ### Selection (R354, R355, R357) -/

/-- The handles a command uses from a ring: `k` is its count and `keep` its flag (R353). -/
def usedHandles (g : Ring) (k : Nat) (keep : Bool) : List Word32 :=
  g.visible.take (if k = 0 then (if keep then 0 else 1) else k)
/-- How many that is. -/
def usedCount (k : Nat) (keep : Bool) : Nat := if k = 0 then (if keep then 0 else 1) else k
/-- Whether a command forms its result without reading the accumulator. -/
def MOp.zi : MOp → Bool
  | .mma _ _ _ _ _ _ zi _ => zi
  | .accz | .accld _ _ _ | .accst _ _ _ => false
/-- Whether the head command of a core is eligible (R354). -/
def State.cmdReady (s : State) (cl c : Nat) (m : MCmd) : Bool :=
  s.waitsOver m.waits && (m.op.zi || !((s.cluster cl).running.any fun r => r.core = c && r.cmd.acc = m.acc)) &&
    (match m.op with
     | .mma a b k _ ka kb _ _ =>
       decide (usedCount k ka ≤ ((s.core c).ring a).visible.length) && decide (usedCount k kb ≤ ((s.core c).ring b).visible.length)
     | _ => true)
/-- Validate of R355. -/
def State.validHandle (s : State) (cl asid : Nat) (h : Word32) (taken : Bool) : Bool :=
  let t := s.tile (handleCluster h) (handleIndex h)
  s.handleOk h asid && handleCluster h = cl && (!taken || t.st = .persistent || 1 ≤ t.count)
/-- What a command reads of a tile: its lines, and its sideband if the command is scaled (R351, R355). -/
def readParts (scaled : Bool) (h : Word32) : List (Nat × Nat) :=
  (tileParts (handleCluster h) (handleIndex h)).take (if scaled then 2 else 1)
/-- The on-chip address of the first poisoned word that a tile's reader meets. -/
def State.poisonedTile (s : State) (scaled : Bool) (h : Word32) : Option Nat :=
  (readParts scaled h).findSome? fun p => s.firstPoison p.1 p.2

/-- Cycles per K-tile: fenced sub-arrays and the ramp after power-up lower the rate (R360, 20 R462). -/
def Cluster.kTileCycles (c : Cluster) : Nat := 32 * 2 ^ max (rateOf c.mfenced) c.ramp
/-- Cycles from selection to write-back: 8, then the K-tiles, or 4 for none (R358). -/
def Cluster.mmaCycles (c : Cluster) (k : Nat) : Nat := 8 + (if k = 0 then 4 else k * c.kTileCycles)
/-- Raises USE of the tiles of a list in order, up to one whose USE is 15 (R111): the state and how many it raised. -/
def State.raiseUse (s : State) : List Word32 → State × Nat
  | [] => (s, 0)
  | h :: hs =>
    if 15 ≤ (s.tile (handleCluster h) (handleIndex h)).use then (s, 0)
    else
      let r := (s.modTile (handleCluster h) (handleIndex h) fun t => { t with use := t.use + 1 }).raiseUse hs
      (r.1, r.2 + 1)
/-- A selected MMA raises USE of the tiles that are left; with all of them raised its K-tiles begin, else it waits until a
reader lowers USE (R111, R355). -/
def State.mmaBegins (s : State) (cl : Nat) (r : MRun) (k : Nat) : State :=
  let q := s.raiseUse (r.uses.drop r.raised)
  let n := r.raised + q.2
  let due := s.cycle + (s.cluster cl).mmaCycles k
  let all := n = r.uses.length
  let s := q.1.modCluster cl fun c =>
    { c with running := c.running.map fun x => if x.cmd.id = r.cmd.id then { x with raised := n, due := if all then due else 0 } else x }
  if all then s.post due (.matrixWriteback cl) else s
/-- The selected MMA that waits for USE, and its count. -/
def Cluster.waitsUse (c : Cluster) : Option (MRun × Nat) :=
  c.running.findSome? fun r => match r.cmd.op with | .mma _ _ k _ _ _ _ _ => if r.due = 0 then some (r, k) else none | _ => none
/-- The selected command starts: offline, it aborts (R360); an MMA takes its handles, validates and raises USE; a
transfer gets its transaction. -/
def State.startCmd (s : State) (cl c : Nat) (m : MCmd) : State :=
  let s := s.modCore c fun k => { k with mq := k.mq.filter fun x => x.id ≠ m.id }
  let put := fun (s : State) (r : MRun) => s.modCluster cl fun k => { k with running := k.running ++ [r] }
  let plain : MRun := { core := c, cmd := m, ha := [], hb := [], takenA := false, takenB := false, test := 0 }
  if fencedCount (s.cluster cl).mfenced = 4 then (put s plain).cmdAbort cl plain 17 0
  else
    match m.op with
    | .mma a b k _ ka kb _ _ =>
      let ga := (s.core c).ring a
      let gb := (s.core c).ring b
      let r : MRun := { plain with ha := usedHandles ga k ka, hb := usedHandles gb k kb, takenA := !ka, takenB := !kb }
      let s := if ka then s else s.setRing c a { ga with taken := ga.taken + r.ha.length }
      let s := if kb then s else s.setRing c b { gb with taken := gb.taken + r.hb.length }
      let s := put s r
      let hs := r.ha.map (fun h => (h, r.takenA)) ++ r.hb.map fun h => (h, r.takenB)
      match hs.find? fun h => !s.validHandle cl m.asid h.1 h.2 with
      | some h => s.cmdAbort cl r 10 (h.1.setWidth 64)
      | none => (s.modCluster cl fun k => { k with testCount := k.testCount + 1 }).mmaBegins cl r k
    | .accz => (put s { plain with due := s.cycle + 4 }).post (s.cycle + 4) (.matrixWriteback cl)
    | .accld ty d off | .accst ty d off =>
      let f : Flight :=
        { id := m.id, thr := m.thr, pc := m.pc, lid := m.lid, asid := m.asid, born := s.cycle, sys := m.sys,
          pieces := [⟨d.place m.asid off, 4096 * elemBytes ty, 0, .new⟩], kind := .accst m }
      let s := put s plain
      { s with flights := s.flights ++ [f] }.postLat m.id (.matrixWriteback cl)

/-- Whether the unit is free to grant: no MMA or ACCZ is between selection and completion. -/
def Cluster.matrixFree (c : Cluster) : Bool :=
  c.running.all fun r => match r.cmd.op with | .accld _ _ _ | .accst _ _ _ => true | _ => false
/-- The weight of a core: from the priority of its head command's launch (R357). -/
def State.weight (s : State) (c : Nat) : Nat :=
  match (s.core c).mq with
  | [] => 1
  | m :: _ => 2 ^ (match s.launch m.lid with | some l => l.hdr.prio % 4 | none => 0)
/-- The first core from the pointer that is eligible and has credit (R357 step 2). -/
def State.grantFrom (s : State) (cl : Nat) (el : List Nat) : Option Nat :=
  ((List.range 8).map fun i => ((s.cluster cl).arbPtr + i) % 8).find? fun c => el.contains c && (s.core (cl * 8 + c)).credit ≠ 0
/-- The grant among eligible cores: a core passed over 16 times first, then by credit, refilled when none has any. -/
def State.arbitrate (s : State) (cl : Nat) (el : List Nat) : State × Option Nat :=
  let spend := fun (s : State) (g : Nat) =>
    (s.modCore (cl * 8 + g) fun k => { k with credit := k.credit - 1 }).modCluster cl fun c => { c with arbPtr := (g + 1) % 8 }
  match (List.range 8).find? fun c => el.contains c && 16 ≤ (s.core (cl * 8 + c)).passed with
  | some g => (s, some g)
  | none =>
    match s.grantFrom cl el with
    | some g => (spend s g, some g)
    | none =>
      let s := (List.range 8).foldl (fun s c => s.modCore (cl * 8 + c) fun k => { k with credit := s.weight (cl * 8 + c) }) s
      match s.grantFrom cl el with | some g => (spend s g, some g) | none => (s, none)
/-- MATRIX_SELECT: a selected MMA that waits for USE tries again; else one grant, if the unit is free and a head command is
eligible; heads whose release is waited for are looked at again. -/
def State.matrixSelect (s : State) (cl : Nat) : State :=
  if !(s.cluster cl).matrixFree then
    (match (s.cluster cl).waitsUse with | some r => s.mmaBegins cl r.1 r.2 | none => s)
  else
    let head := fun (c : Nat) => (s.core (cl * 8 + c)).mq.head?
    let el := (List.range 8).filter fun c => match head c with | some m => s.cmdReady cl (cl * 8 + c) m | none => false
    match el with
    | [] =>
      match (List.range 8).findSome? fun c => (head c).filter fun m => !s.waitsOver m.waits with
      | some m => s.poll m.id (.matrixSelect cl)
      | none => s
    | _ =>
      let r := s.arbitrate cl el
      match r.2 with
      | none => r.1
      | some g =>
        let s := (List.range 8).foldl (fun s c => s.modCore (cl * 8 + c) fun k =>
          { k with passed := if c = g || !el.contains c then 0 else k.passed + 1 }) r.1
        match head g with
        | some m => (s.startCmd cl (cl * 8 + g) m).postNow (.matrixSelect cl)
        | none => s

/-! ### Write-back (R355, R359) -/

/-- The accumulator of a command is read: another launch's speculation that has logged it is discarded first (06 R172). -/
def State.guardAcc (s : State) (m : MCmd) (core : Nat) : State := s.guardLogged (some m.lid) (accAddr core m.acc)
/-- The first poisoned word that an MMA of `k` K-tiles meets: the accumulator's, unless zi, then each K-tile's in order, A's
before B's (03 R96, R356; DESIGN CHOICE, log 62). -/
def State.mmaPoison (s : State) (r : MRun) (k : Nat) (zi scaled : Bool) : Option Nat :=
  if k = 0 then none
  else
    let tiles := (r.ha.zip r.hb).findSome? fun p =>
      match s.poisonedTile scaled p.1 with | some w => some w | none => s.poisonedTile scaled p.2
    match (if zi then none else s.firstPoison (accAddr r.core r.cmd.acc) 0x4000) with | some w => some w | none => tiles
/-- The taken handles of a run leave the head of a ring; those that a reclamation has removed are no longer among the taken
(R118, 04 R113). -/
def State.leaveRing (s : State) (c n : Nat) : State :=
  let g := (s.core c).ring n
  s.setRing c n { handles := g.handles.drop g.taken, taken := 0, head := (g.head + g.taken) % 16 }
/-- The drops of a retirement: the state and the handles for which the drop failed (R355). -/
def State.dropAll (s : State) (asid : Nat) : List Word32 → State × List Word32
  | [] => (s, [])
  | h :: hs =>
    let q := s.dropTile h asid true
    let r := q.1.dropAll asid hs
    (r.1, if q.2.isSome then h :: r.2 else r.2)
/-- The end of an MMA, after the earlier commands of its accumulator: a poisoned word aborts it; else the accumulator is
written in one step, taken handles are dropped and leave their rings, USE falls, and each drop that fails is a deferred trap. -/
def State.mmaBack (s : State) (cl : Nat) (r : MRun) (a b : Fin 8) (k : Nat) (ty : ElemTy) (zi scaled : Bool) : State :=
  let m := r.cmd
  if (s.cluster cl).running.any fun x => x.core = r.core && x.cmd.acc = m.acc && x.cmd.id < m.id then s
  else
    let s := if k = 0 || zi then s else s.guardAcc m r.core
    match s.mmaPoison r k zi scaled with
    | some w => s.cmdAbort cl r 17 (BitVec.ofNat 64 w)
    | none =>
      let w0 := if zi then List.replicate 4096 0 else s.accWords r.core m.acc
      let ws := s.kTiles ty m.satinf scaled w0 (if k = 0 then [] else r.ha.zip r.hb)
      let s' := if k = 0 && !zi then s else s.putAcc m.lid r.core m.acc ws
      s'.stillRuns s m.lid fun s =>
        let s := if r.takenA then s.leaveRing r.core a.val else s
        let s := if r.takenB then s.leaveRing r.core b.val else s
        let d := s.dropAll m.asid ((if r.takenA then r.ha else []) ++ (if r.takenB then r.hb else []))
        let s := (r.uses.foldl State.lowerUse d.1).cmdDone cl r
        d.2.foldl (fun s' h => s'.stillRuns s m.lid fun s => s.cmdTrap m 10 (h.setWidth 64)) s

/-- A transfer ends in a refusal, poison or a rejected fault: the deferred memory trap (R364). -/
def State.transferFails (s : State) (cl : Nat) (r : MRun) (cause : Nat) (tval : Word) : State :=
  let s := s.dropFlight r.cmd.id
  s.cmdAbort cl r cause tval
/-- The words of 8 bytes that hold elements of `b` bytes. -/
def packElems (b : Nat) (l : List Nat) : List Nat :=
  let n := wordsNat (8 * b) l
  (List.range (l.length * b / 8)).map fun i => n / 2 ^ (64 * i) % 2 ^ 64
/-- ACCLD or ACCST goes on (R364): parked on a fault it waits at the position reached, from which an ACCST goes on; an ACCLD
reads its staging copy anew. Poison aborts it before any change (03 R96). -/
def State.transfer (s : State) (cl : Nat) (r : MRun) : State :=
  let m := r.cmd
  match s.flight m.id with
  | none => s
  | some f =>
    match f.pieces with
    | p :: _ =>
      let u : Actor := { thr := m.thr, lid := m.lid, asid := m.asid, sys := f.sys, who := some (m.id, 0) }
      let at_ := fun (q : Nat) => (p.place.plus q).tval
      let stop := fun (s : State) (e : RunRes) =>
        match e with
        | .parked q d key => s.modFlight m.id fun f => { f with pieces := [{ p with pos := q, phase := .parked d key }] }
        | .refused q => s.transferFails cl r 8 (at_ q)
        | .wait q _ => (s.modFlight m.id fun f => { f with pieces := [{ p with pos := q }] }).postLat m.id (.matrixWriteback cl)
        | _ => s
      if p.phase ≠ .new then s
      else
        match m.op with
        | .accld ty _ _ =>
          let n := 4096 * elemBytes ty / 8
          let e := s.unitReadAll u false p.place n 0
          (match e.2.1 with
           | .done =>
             match e.2.2.2 with
             | some q => e.1.transferFails cl r 17 (at_ q)
             | none =>
               let x := wordsNat 64 e.2.2.1
               let ws := (List.range 4096).map fun i => elemAcc ty m.satinf (lineElem (elemW ty) x i)
               (e.1.putAcc m.lid r.core m.acc ws).stillRuns s m.lid fun s => (s.dropFlight m.id).cmdDone cl r
           | res => stop e.1 res)
        | .accst ty _ _ =>
          let s := s.guardAcc m r.core
          let refused := match p.place with | .chip a => p.pos = 0 && s.admitRefuses m.thr m.lid a f.sys | .glob _ _ => false
          if refused then s.transferFails cl r 8 p.place.tval
          else
            (match s.firstPoison (accAddr r.core m.acc) 0x4000 with
             | some w => s.transferFails cl r 17 (BitVec.ofNat 64 w)
             | none =>
               let ws := packElems (elemBytes ty) ((s.accWords r.core m.acc).map (accElem ty m.satinf (rmodeOf m.rm).arith))
               let e := s.unitWriteAll u false true p.place (ws.drop (p.pos / 8)) p.pos
               match e.2 with
               | .done => ((e.1.dropFlight m.id).ack m.lid (s.forwarded m.id m.lid m.thr) 1).cmdDone cl r
               | res => stop e.1 res)
        | _ => s
    | [] => s

/-- MATRIX_WRITEBACK: the selected commands of the cluster whose time has come go on; an MMA that reaches STINT has its write-back held for
the self-test (R359). -/
def State.matrixWriteback (s : State) (cl : Nat) : State :=
  (s.cluster cl).running.foldl (fun s r =>
    if !((s.cluster cl).running.any fun x => x.cmd.id = r.cmd.id) then s else
    match r.cmd.op with
    | .mma a b k ty _ _ zi scaled =>
      let c := s.cluster cl
      if !s.backWaits r then s
      else if r.test = 0 && c.stint ≠ 0 && c.stint ≤ c.testCount then
        let hold := fun (x : MRun) => if x.cmd.id = r.cmd.id then { x with test := 1 } else x
        (s.modCluster cl fun c => { c with running := c.running.map hold }).postLat s.nextId (.selfTest cl 0)
      else s.mmaBack cl r a b k ty zi scaled
    | .accz =>
      if s.cycle < r.due then s
      else (s.putAcc r.cmd.lid r.core r.cmd.acc (List.replicate 4096 0)).stillRuns s r.cmd.lid fun s => s.cmdDone cl r
    | _ => s.transfer cl r) s
/-- SELF_TEST: the count restarts; sub-arrays that failed are fenced with an event each, and the held command goes on to
its write-back, restarted if any failed: its result is the same at every rate (R359). -/
def State.selfTest (s : State) (cl : Nat) (failed : BitVec 4) : State :=
  if (s.cluster cl).running.any fun r => r.test = 1 then
    let s := s.modCluster cl fun c =>
      { c with testCount := 0, mfenced := c.mfenced ||| failed,
               running := c.running.map fun r => if r.test = 1 then { r with test := 2 } else r }
    let c := s.cluster cl
    let s := if failed = 0 then s else s.raise 0x103 (natLe (cl + 2 ^ 8 * c.mfenced.toNat + 2 ^ 12 * rateOf c.mfenced) 8)
    s.postNow (.matrixWriteback cl)
  else s
/-- MATRIX_RATE_RAMP: the next step of the ramp after power-up (20 R463). -/
def State.rateRamp (s : State) (cl : Nat) : State :=
  s.modCluster cl fun c => { c with ramp := c.ramp - 1 }

/-! ### MQWAIT and MQCNT (R365) -/

/-- MQWAIT. -/
def execMqwait (d : Fin 32) (n : Fin 16) (s : State) : Res :=
  .next (s.mx (.mqwait d n) fun s =>
    let t := s.cur
    (s.finish fun x => { x.eg d with mqwait := x.mqwait ++ [⟨d, n.val⟩] }).answerMqwait t)
/-- MQCNT. -/
def execMqcnt (d : Fin 32) (s : State) : Res :=
  .next (s.finish fun x => x.wg d (BitVec.ofNat 64
    ((s.slotCmds s.cur).length + 16 * s.relCmds s.cur + 256 * s.mqUsed (coreOf s.cur))))

/-- MATRIX_SELECT. -/
def execMatrixSelect (cl : Nat) (s : State) : Res := .next (s.matrixSelect cl)
/-- MATRIX_WRITEBACK. -/
def execMatrixWriteback (cl : Nat) (s : State) : Res := .next (s.matrixWriteback cl)
/-- SELF_TEST. -/
def execSelfTest (cl : Nat) (failed : BitVec 4) (s : State) : Res := .next (s.selfTest cl failed)
/-- MXCTL_WRITE (R361). -/
def execMxctlWrite (cl : Nat) (value : Word) (s : State) : Res := .next (s.setMxctl cl value.toNat)

end Sys2Proof.Machine
end

