-- ==== Sys2Proof/Machine/Traffic.lean ====
section
/-! DEFINITION. What arrives at ports, caches, walkers and die controllers: completions of loads and stores, line fills,
walks (02 R49-R52), fault records and their resolution (R55-R60), writes that reach a window (01 R24-R33), and the errors
of 03 R95-R98. -/

namespace Sys2Proof.Machine

/-! ### Completions (01 R26, 03 R78, R81) -/

/-- LOAD_COMPLETION: a load, JNEW, a tile-state read or an ACCOUT moves on. -/
def State.loadEvent (s : State) (id : Nat) : State :=
  match s.flight id with
  | none => s
  | some f =>
    match f.kind with
    | .jnew d => s.jnewAt f d
    | .tileRead h d addr => s.tileReadAt f h d addr
    | .accout _ _ _ _ => s.rowServe id
    | .load _ _ _ _ => s.advance id
    | _ => s
/-- STORE_ACKNOWLEDGEMENT: a store, an atomic, JFREE or ACCIN moves on. -/
def State.storeEvent (s : State) (id : Nat) : State :=
  match s.flight id with
  | none => s
  | some f =>
    match f.kind with
    | .jfree a => s.jfreeAt f a
    | .accin _ _ _ _ _ => s.rowServe id
    | .store _ _ _ _ _ _ | .atomic _ _ _ _ _ _ => s.advance id
    | _ => s
/-- Bytes of a line fill, the stores merged while it was in flight on top (03 R81). -/
def State.fillLineBytes (s : State) (f : CFill) : BitVec 1024 :=
  lineMerge (BitVec.ofNat 1024 (s.readHome none (f.line * 128) 128)) 0
    ((List.range 128).map fun i => mapGet none f.merged i)
/-- CLUSTER_CACHE_FILL: the oldest fill of the line arrives; it serves every load that waits for it and is installed unless an
acquire or atomic passed it (03 R80, R81); a poisoned line is not installed and each load meets its own words (R96). It comes
after what the cluster sent to the line before it (R98). -/
def State.lineArrives (s : State) (cl line : Nat) : State :=
  match (s.cluster cl).fills.find? fun f => f.line = line with
  | none => s
  | some f =>
    let late := s.flights.any fun g => g.sentAt < f.id && clusterOf g.thr = cl && g.headings.contains (2 ^ 20 + line)
    if late then s.postLat s.nextId (.clusterCacheFill cl line)
    else
      let bad := s.poisoned (line * 128) 128
      let bytes := s.fillLineBytes f
      let s := s.modCluster cl fun c => { c with fills := c.fills.erase f }
      let s := if f.install && !bad then s.installLine cl line bytes else s
      let waiting := s.flights.filter fun g => g.pieces.any fun p => match p.phase with | .filling _ k => k = f.id | _ => false
      waiting.foldl (fun s g =>
        let s := g.pieces.zipIdx.foldl (fun s p =>
          match p.1.phase, p.1.place with
          | .filling pa k, .glob _ va =>
            if k ≠ f.id || (s.flight g.id).isNone then s
            else if bad then s.loadHome g p.2 p.1 va pa
            else s.gotPiece g.id p.2 p.1.pos p.1.len (bytes.toNat / 2 ^ (8 * (pa % 128)) % 2 ^ (8 * p.1.len))
          | _, _ => s) s
        s.settle g.id) s

/-! ### Walks (02 R49-R52) -/

/-- An attached piece that still waits for the walk of a key: its transaction, ASID and address. -/
def State.walkPiece (s : State) (k : WalkKey) (e : Nat × Nat) : Option (Flight × Nat × Nat) :=
  match s.flight e.1 with
  | none => none
  | some f =>
    match f.pieces[e.2]? with
    | none => none
    | some p =>
      match p.phase, p.place with
      | .walking, .glob asid va => if missKey asid va = k then some (f, asid, va) else none
      | _, _ => none
/-- A walk's outcome for one attached piece: the translation, or the fault record it joins (R51, R55); with 512 accesses of
the cluster parked it waits at the head of the port (R62). `dirty`: an access attached to the walk writes (R45). -/
def State.resolvePiece (s : State) (k : WalkKey) (dirty : Bool) (e : Nat × Nat) : State :=
  match s.walkPiece k e with
  | none => s
  | some (f, asid, va) =>
    let cl := clusterOf f.thr
    let r := match s.lookup cl asid va f.acc with
      | (s, some r) => (s, Except.ok r)
      | (s, none) => s.walkInstall cl asid va f.acc dirty false
    match r.2 with
    | .ok t => r.1.passPort f e.2 va t.1 t.2
    | .error x =>
      if 512 ≤ r.1.parkedOf cl then r.1
      else
        let va1 := match f.kind with | .store _ _ _ _ _ first => first | _ => va
        let q := r.1.recordFault cl f.lid (s.partFor f.lid f.owner) asid va1 false f.acc x (some e)
        q.1.setPhase f.id e.2 (.parked (dieOfCluster cl) q.2)
/-- A miss entry is resolved: every attached access goes on, in the order they attached, with the one translation, which is
read with D set if any of them writes (R45, R50, R51). -/
def State.endMiss (s : State) (die : Nat) (m : Miss) : State :=
  let s := s.modDie die fun d => { d with misses := d.misses.erase m }
  let dirty := m.who.any fun e => match s.walkPiece m.key e with | some w => w.1.acc.dirties | none => false
  let s := m.who.foldl (State.resolvePiece · m.key dirty) s
  (distinct (m.who.map (·.1))).foldr (fun id s => match s.flight id with | some f => s.postLat id f.event | none => s) s
/-- Whether every access attached to a miss entry finds its leaf installed (R52). -/
def State.missHits (s : State) (m : Miss) : Bool :=
  m.who.all fun e => match s.walkPiece m.key e with
    | some w => (s.lookup (clusterOf w.1.thr) w.2.1 w.2.2 w.1.acc).2.isSome
    | none => true
/-- The walkers of a die, 32 of them, take its entries in the order they opened; an entry whose leaf has been installed
meanwhile is resolved without a walk (R51, R52). -/
def State.startWalks (s : State) (die : Nat) : State :=
  (s.die die).misses.foldl (fun s m =>
    if m.walking then s
    else
      match (s.die die).misses.find? fun x => x.key = m.key with
      | none => s
      | some m =>
        if s.missHits m then s.endMiss die m
        else if 32 ≤ ((s.die die).misses.filter (·.walking)).length then s
        else
          (s.modDie die fun d => { d with misses := d.misses.map fun x => if x.key = m.key then { x with walking := true } else x }).postLat
            s.nextId (.walkCompletion die m.key)) s
/-- WALK_START: entries have opened or walkers come free. -/
def State.walkStarts (s : State) (die : Nat) : State := (s.startWalks die).servePorts die
/-- WALK_COMPLETION: the entry is resolved; a walk that an invalidation overtook installs nothing and is made again (R54). -/
def State.walkEnds (s : State) (die : Nat) (k : WalkKey) : State :=
  match (s.die die).misses.find? fun m => m.key = k && m.walking with
  | none => s
  | some m =>
    if !m.valid then
      (s.modDie die fun d => { d with misses := d.misses.map fun x => if x = m then { x with valid := true } else x }).postLat
        s.nextId (.walkCompletion die k)
    else (s.endMiss die m).walkStarts die

/-! ### Fault records (02 R55-R60) -/

/-- A record as its 32 bytes (R55); LAUNCH is 0 for an access of the front end without a launch (DESIGN CHOICE, log 63). -/
def FRec.bytes (r : FRec) : List Byte :=
  natLe r.va.toNat 8 ++
    natLe (r.waiters * 2 ^ 48 + b2n r.eng * 2 ^ 44 + r.acc * 2 ^ 42 + r.kind * 2 ^ 38 + r.level * 2 ^ 36 + r.cluster * 2 ^ 28 +
      r.launch % 4096 * 2 ^ 16 + r.part * 2 ^ 12 + r.asid) 8 ++ natLe r.entry 8 ++ natLe r.seq 8
/-- A place of the hold has come free: the oldest fault without a record gets one (R57). -/
def State.nextRecord (s : State) (die : Nat) : State :=
  let d := s.die die
  if 256 ≤ d.held then s
  else match d.records.find? fun r => !r.made with | some r => s.makeRecord die r.key | none => s
/-- FAULT_RECORD_APPEND: the oldest held record of a partition goes to its sub-ring, then the new producer count (R57). -/
def State.appendRecord (s : State) (die part : Nat) : State :=
  match mapGet none s.parts part, (s.die die).records.find? fun r => r.made && !r.appended && r.part = part with
  | some p, some r =>
    let d := s.die die
    let prod := mapGet 0 d.prod part
    let size := 2 ^ p.frlog2.toNat
    if size ≤ (prod + 2 ^ 64 - mapGet 0 d.cons part) % 2 ^ 64 then s
    else
      let s := s.emit (.hostWrite part (p.frbase.toNat + die * 32 * size + prod % size * 32) r.bytes)
      let s := s.emit (.hostWrite part (p.frprod.toNat + 8 * die) (natLe (prod + 1) 8))
      let s := s.modDie die fun d =>
        { d with prod := mapPut 0 d.prod part ((prod + 1) % 2 ^ 64),
                 records := d.records.map fun x => if x.key = r.key then { x with appended := true } else x }
      s.nextRecord die
  | _, _ => s
/-- Whether a unit that does not use transactions waits on a record: the front end for a packet or a launch, or a
collective engine. -/
def State.frontWaits (s : State) (die key : Nat) : Bool :=
  s.queues.any (fun q => q.2.packets.any fun p => p.parked = some (die, key)) ||
    s.launches.any (fun l => match l.2 with | some l => l.parked = some (die, key) | none => false) ||
    s.dies.any fun d => d.2.coll.any fun c =>
      c.parked = some (die, key) || c.steps.any fun x => match x.2 with | some y => y.parked = some (die, key) | none => false
/-- The event in which the front end goes on with a packet. -/
def Packet.event (q : Nat) (p : Packet) : Ev :=
  match p.ty with
  | 0 => .launch q p.index
  | 1 | 2 => .waitEvaluation q p.index
  | 3 => .signal q p.index
  | 4 => .copy q p.index
  | 5 => .tlbinv q p.index
  | 6 => .fencePacket q p.index
  | 7 => .nopPacket q p.index
  | _ => .segtab q p.index
/-- What waited on a resolved record in the front end or a collective engine goes on. -/
def State.frontResume (s : State) (die key : Nat) : State :=
  let s := s.queues.foldl (fun s q => q.2.packets.foldl (fun s p =>
    if p.parked = some (die, key) then s.postNow (p.event q.1) else s) s) s
  let s := s.launches.foldl (fun s e => match e.2 with
    | some l => if l.parked = some (die, key) then s.postNow (.launch l.queue l.index) else s
    | none => s) s
  s.dies.foldl (fun s d => d.2.coll.foldl (fun s c =>
    let s := if c.parked = some (die, key) then s.postNow (.collectiveStep d.1 c.id c.first) else s
    c.steps.foldl (fun s x => match x.2 with
      | some y => if y.parked = some (die, key) then s.postNow (.collectiveStep d.1 c.id x.1) else s
      | none => s) s) s) s
/-- An access attached to a record that is replayed walks again (R56). -/
def State.replayPiece (s : State) (e : Nat × Nat) : State :=
  match s.flight e.1 with
  | some f =>
    match f.kind with
    | .accst _ | .steal _ _ _ _ _ _ _ _ => (s.setPhase e.1 e.2 .new).postLat e.1 f.event
    | _ => s.portAgain e
  | none => s
/-- A record is resolved: every attached access walks again in the order they attached, or completes with poison
(R56, R60, R65). -/
def State.resolveRecord (s : State) (die key : Nat) (reject : Bool) : State :=
  let front := s.frontWaits die key
  let who := ((s.die die).records.find? fun r => r.key = key).elim [] (·.who)
  let s := s.modDie die fun d => { d with records := d.records.filter fun r => r.key ≠ key }
  let s := if reject && front then { s with rejected := s.rejected ++ [key] } else s
  let s := if front then s.frontResume die key else s
  let here := fun (e : Nat × Nat) => match (s.flight e.1).bind fun f => f.pieces[e.2]? with
    | some p => decide (p.phase = .parked die key)
    | none => false
  let who := who.filter here
  let s := if reject then who.foldl (fun s e => s.postNow (.poisonCompletion e.1)) s
    else who.foldl State.replayPiece (who.foldl (fun s e => s.setPhase e.1 e.2 .queued) s)
  let s := s.clusters.foldl (fun s c => c.2.engines.foldl (fun s r =>
    if r.parked = some (die, key) then (if reject then s.reqReject r else s.reqReplay r) else s) s) s
  (s.nextRecord die).servePorts die
/-- FAULT_RESOLUTION_WRITE (R56): a word with a bit of [63:33], or one that names no open record, is ignored. -/
def State.resolutionWord (s : State) (die w : Nat) : State :=
  if bits w 63 33 ≠ 0 then s
  else match (s.die die).records.find? fun r => r.made && r.seq = w % 2 ^ 32 with
    | some r => s.resolveRecord die r.key (bit w 32)
    | none => s
/-- FAULT_CONS_WRITE: a count above PROD is ignored; held records follow (R57). -/
def State.consWrite (s : State) (die part v : Nat) : State :=
  let d := s.die die
  if mapGet 0 d.prod part < v then s
  else
    let s := s.modDie die fun d => { d with cons := mapPut 0 d.cons part v }
    (d.records.filter fun r => r.made && !r.appended && r.part = part).foldl (fun s _ => s.postNow (.faultRecordAppend die part)) s
/-- FAULT_TIMEOUT: a record still open after the timeout its partition had when it was made is rejected (R58, 15 R397). -/
def State.recordExpires (s : State) (die seq : Nat) : State :=
  match (s.die die).records.find? fun r => r.made && r.seq = seq with
  | some r => if r.ftime ≠ 0 && r.born + r.ftime ≤ s.cycle then s.resolveRecord die r.key true else s
  | none => s
/-- POISON_COMPLETION: an access whose record was rejected completes with poison (R60); a transfer of the matrix unit ends
with its deferred trap (14 R364). -/
def State.poisonEvent (s : State) (id : Nat) : State :=
  match s.flight id with
  | none => s
  | some f =>
    let open_ := fun (d k : Nat) => (s.die d).records.any fun r => r.key = k
    match f.pieces.find? fun p => match p.phase with | .parked d k => !open_ d k | _ => false with
    | none => s
    | some p =>
      match f.kind with
      | .accst m =>
        let cl := clusterOf f.thr
        (match (s.cluster cl).running.find? fun r => r.cmd.id = m.id with
         | some r => s.transferFails cl r 8 (p.place.plus p.pos).tval
         | none => s)
      | .store _ _ _ _ _ first => s.poisonFlight id 8 (BitVec.ofNat 64 first)
      | _ => s.poisonFlight id 8 p.place.tval

/-! ### Writes that reach a window (01 R24, R28-R33) -/

/-- Whether the tables of R19 and R21 let a write of this size at this address. -/
def winWriteOk (w : WinWrite) : Bool :=
  let n := w.data.length
  let sys := decide (w.writer = .system)
  w.addr < 2 ^ 40 && 0 < n && w.addr % 64 + n ≤ 64 && storeDataOk w.addr (leNat w.data) &&
    (if chipShared w.addr then chipCoreField w.addr == 0 && sharedWinOk (chipWin w.addr) (chipOff w.addr) n .store sys
     else coreWinOk (chipWin w.addr) (chipOff w.addr) n .store sys)
/-- WINDOW_WRITE: the write is performed, through window 4 behind the matrix commands of its accumulator that are queued as it
arrives (R24, R27). -/
def State.windowWrite (s : State) (w : WinWrite) : State :=
  if !winWriteOk w then s
  else
    match s.accWait w.addr .new with
    | some (.behind k) => s.modCluster (chipCluster w.addr) fun c => { c with accWrites := c.accWrites ++ [(w, k)] }
    | _ => s.landWrite w
/-- ADMIT_WRITE (R29, R32): reserved bits must be zero. -/
def State.admitWrite (s : State) (c : Nat) (v : Word) : State :=
  if v.toNat / 2 ^ 22 ≠ 0 then s else s.modCore c fun k => { k with admission := v }

/-! ### Errors (03 R95-R98) -/

/-- The place of a structure in R95's table, whose rows are the structures that are counted (DEDUCED, log 66). -/
def eccIndex : EccStruct → Nat
  | .hbm => 0
  | .memCache => 1
  | .clusterSide => 2
  | .sramSide => 3
  | .regFile => 4
  | .control => 5
  | .flit => 6
/-- The structure a location belongs to. -/
def eccOf : EccLoc → EccStruct
  | .hbmWord _ => .hbm
  | .memCacheClean _ | .memCacheDirty _ => .memCache
  | .clusterCacheLine _ _ | .icacheLine _ _ | .clusterTlb _ _ | .dieTlb _ _ | .walkCache _ => .clusterSide
  | .onChipWord _ | .shadow _ => .sramSide
  | .gReg _ _ | .vReg _ _ | .mReg _ _ => .regFile
  | .deque _ | .tileState _ _ | .ring _ _ | .mailbox _ | .joinCounter _ _ => .control
/-- Launches that own damaged control state end with the hardware-error status (R95, 15 R388). -/
def State.hardwareError (s : State) (l : List Nat) : State := (distinct l).foldl (fun s lid => s.launchError lid 5) s
/-- The register codes of a slot, for an error in its saved registers. -/
def savedCode (k : Nat) : Nat :=
  if k < 32 then RegFile.g.code k else if k < 64 then RegFile.v.code (k - 32) else RegFile.m.code (k % 8)
/-- An uncorrectable error at byte `off` of a cluster's shadow store, in the regions of R89: a slot's registers, a deque, a ring,
a copy command FIFO or a matrix command queue of the standby image takes the error as the live structure would (DEDUCED,
log 66). -/
def State.strikeShadow (s : State) (cl off : Nat) : State :=
  match (s.cluster cl).shadow with
  | none => s
  | some sv =>
    let core := fun (i : Nat) => mapGet {} sv.cores (cl * 8 + i)
    if off < 0x58000 then
      let d := s.draw
      let hit := fun (x : Slot) => { x with dataErr := some (savedCode (d.1 % 72)) }
      let t := cl * 128 + off / 2816
      d.2.modCluster cl fun c => { c with shadow := some { sv with slots := mapPut {} sv.slots t (hit (mapGet {} sv.slots t)) } }
    else if off < 0x5C000 then s.hardwareError ((core ((off - 0x58000) / 2048)).entries.map (·.launch))
    else if off < 0x5E000 then
      s.hardwareError ((core ((off - 0x5C000) / 1024)).rings.flatMap fun r => r.2.handles.map fun h =>
        (mapGet {} sv.tiles (handleIndex h)).launch)
    else if off < 0x5F000 then s.hardwareError ((core ((off - 0x5E000) / 512)).fifo.map (·.lid))
    else if off < 0x60000 then s.hardwareError (sv.cores.flatMap fun k => k.2.mq.map (·.lid))
    else s
/-- A cached leaf of a page is dropped. -/
def dropLeaf (k : WalkKey) (l : List TlbEntry) : List TlbEntry := l.filter fun t => !((t.glob || t.asid = k.asid) && t.covers (k.vpn * 65536))
/-- What an uncorrectable error does (R95). -/
def State.strike (s : State) (l : EccLoc) : State :=
  match l with
  | .hbmWord pa | .memCacheDirty pa => if populated pa 1 then s.setPoison pa else s
  | .memCacheClean _ => s
  | .clusterCacheLine cl pa => s.modCluster cl fun c => { c with cache := mapPut none c.cache (pa / 128) none }
  | .icacheLine core key => s.modCore core fun c => { c with icache := mapPut none c.icache key none }
  | .clusterTlb cl k => s.modCluster cl fun c => { c with tlb := dropLeaf k c.tlb }
  | .dieTlb die k => s.modDie die fun d => { d with tlb := dropLeaf k d.tlb, large := dropLeaf k d.large }
  | .walkCache die => s.modDie die fun d => { d with wcache := [] }
  | .onChipWord a => if a < 2 ^ 40 && chipBytes a then s.setPoison (chipKey a) else s
  | .shadow a => s.strikeShadow (a / 2 ^ 32 % 256) (a % 2 ^ 32)
  | .gReg t n => s.modSlot t fun x => { x with dataErr := some (RegFile.g.code n) }
  | .vReg t n => s.modSlot t fun x => { x with dataErr := some (RegFile.v.code n) }
  | .mReg t n => s.modSlot t fun x => { x with dataErr := some (RegFile.m.code n) }
  | .deque c => s.hardwareError ((s.core c).entries.map (·.launch))
  | .tileState cl i => if (s.tile cl i).st = .free then s else s.hardwareError [(s.tile cl i).launch]
  | .ring c r => s.hardwareError (((s.core c).ring r).handles.map fun h => (s.tile (handleCluster h) (handleIndex h)).launch)
  | .mailbox t => s.hardwareError ((s.slot t).task.toList ++ (s.slot t).mail.map (·.ctx))
  | .joinCounter cl n => match mapGet 0 (s.cluster cl).ctrs n with | 0 => s | k + 1 => s.hardwareError [k]
/-- ECC_UNCORRECTABLE_ERROR: counted, then its effect (R95). -/
def State.eccStrike (s : State) (die : Nat) (l : EccLoc) : State :=
  let i := eccIndex (eccOf l)
  (s.modDie die fun d => { d with uncorrected := mapPut 0 d.uncorrected i (mapGet 0 d.uncorrected i + 1) }).strike l
/-- A corrected error is counted (R95). -/
def State.eccCorrected (s : State) (die : Nat) (st : EccStruct) : State :=
  s.modDie die fun d => { d with corrected := mapPut 0 d.corrected (eccIndex st) (mapGet 0 d.corrected (eccIndex st) + 1) }

/-! ### Events -/

/-- LOAD_COMPLETION. -/
def execLoadCompletion (id : Nat) (s : State) : Res := .next (s.loadEvent id)
/-- STORE_BUFFER_DRAIN. -/
def execStoreBufferDrain (core entry : Nat) (s : State) : Res := .next (s.idleDrain core entry)
/-- STORE_ACKNOWLEDGEMENT. -/
def execStoreAcknowledgement (id : Nat) (s : State) : Res := .next (s.storeEvent id)
/-- WINDOW_WRITE. -/
def execWindowWrite (w : WinWrite) (s : State) : Res := .next (s.windowWrite w)
/-- ADMIT_WRITE. -/
def execAdmitWrite (core : Nat) (value : Word) (s : State) : Res := .next (s.admitWrite core value)
/-- SEGMENT_TABLE_READ (01 R10). -/
def execSegmentTableRead (id : Nat) (s : State) : Res :=
  .next (match s.flight id with
    | some f => (match f.kind with | .load (.seg _ _) _ _ _ => s.advance id | _ => s)
    | none => s)
/-- REMOTE_WAIT_RETRY (03 R74). -/
def execRemoteWaitRetry (id : Nat) (s : State) : Res := .next (s.sendAgain id)
/-- CLUSTER_CACHE_FILL. -/
def execClusterCacheFill (cl line : Nat) (s : State) : Res := .next (s.lineArrives cl line)
/-- ICACHE_FILL (03 R90). -/
def execIcacheFill (core key : Nat) (s : State) : Res := .next (s.fillArrives core key)
/-- RELEASE_COMPLETION (05 R136). -/
def execReleaseCompletion (thr : Nat) (s : State) : Res := .next (s.releaseEvent thr)
/-- WALK_START. -/
def execWalkStart (die : Nat) (_ : WalkKey) (s : State) : Res := .next (s.walkStarts die)
/-- WALK_COMPLETION. -/
def execWalkCompletion (die : Nat) (k : WalkKey) (s : State) : Res := .next (s.walkEnds die k)
/-- FAULT_RECORD_APPEND. -/
def execFaultRecordAppend (die part : Nat) (s : State) : Res := .next (s.appendRecord die part)
/-- FAULT_RESOLUTION_WRITE. -/
def execFaultResolutionWrite (die : Nat) (word : Word) (s : State) : Res := .next (s.resolutionWord die word.toNat)
/-- FAULT_CONS_WRITE. -/
def execFaultConsWrite (die part : Nat) (value : Word) (s : State) : Res := .next (s.consWrite die part value.toNat)
/-- FAULT_TIMEOUT. -/
def execFaultTimeout (die seq : Nat) (s : State) : Res := .next (s.recordExpires die seq)
/-- POISON_COMPLETION. -/
def execPoisonCompletion (id : Nat) (s : State) : Res := .next (s.poisonEvent id)
/-- ECC_CORRECTABLE_ERROR. -/
def execEccCorrectableError (die : Nat) (st : EccStruct) (s : State) : Res := .next (s.eccCorrected die st)
/-- ECC_UNCORRECTABLE_ERROR. -/
def execEccUncorrectableError (die : Nat) (loc : EccLoc) (s : State) : Res := .next (s.eccStrike die loc)
/-- PATROL_SCRUB: every populated word is rewritten with its own contents (R95). -/
def execPatrolScrub (die : Nat) (s : State) : Res := .next (s.modDie die fun d => { d with scrubs := d.scrubs + 1 })
/-- FLIT_CRC_ERROR: the flit is resent (R95). -/
def execFlitCrcError (die : Nat) (net : Fin 4) (link : Nat) (s : State) : Res :=
  .next ((s.eccCorrected die .flit).modDie die fun d =>
    { d with resent := mapPut 0 d.resent (link * 4 + net.val) (mapGet 0 d.resent (link * 4 + net.val) + 1) })
/-- NETWORK_STARVATION_GRANT (R98). -/
def execNetworkStarvationGrant (die : Nat) (net : Fin 4) (link : Nat) (s : State) : Res :=
  .next (s.modDie die fun d =>
    { d with granted := mapPut 0 d.granted (link * 4 + net.val) (mapGet 0 d.granted (link * 4 + net.val) + 1) })

end Sys2Proof.Machine
end

