-- ==== Sys2Proof/Machine/Packet.lean ====
section
/-! DEFINITION. Queues and packets as the front end reads them (15 R379-R387, R392): the fields of descriptors, slots,
headers and packets, the validation of a LAUNCH, the ordering classes, and accesses the front end makes (02 R55, 15 R389). -/

namespace Sys2Proof.Machine

/-! ### Descriptors (R379) -/

/-- The physical address of the ring. -/
def Queue.ring (q : Queue) : Nat := bits q.w0.toNat 51 12 * 4096
/-- The number of slots of the ring. -/
def Queue.size (q : Queue) : Nat := 2 ^ (q.w0.toNat % 32)
/-- Whether PMASK names partition `p`. -/
def Queue.names (q : Queue) (p : Nat) : Bool := bit q.w1.toNat (48 + p)
/-- ASID. -/
def Queue.asid (q : Queue) : Nat := bits q.w1.toNat 35 24
/-- SPEC. -/
def Queue.mayPredict (q : Queue) : Bool := bit q.w1.toNat 1
/-- SYS. -/
def Queue.sys (q : Queue) : Bool := bit q.w1.toNat 0
/-- T2. -/
def Queue.t2 (q : Queue) : Nat := q.w3.toNat / 2 ^ 32
/-- T3. -/
def Queue.t3 (q : Queue) : Nat := q.w4.toNat % 2 ^ 32
/-- No admitted and no uncompleted packet (R395). -/
def Queue.idle (q : Queue) : Bool := q.packets = [] && q.wr ≤ q.next
/-- The lowest cluster of a partition. -/
def State.lowCluster (s : State) (p : Nat) : Option Nat :=
  match mapGet none s.parts p with | some r => (List.range 256).find? fun c => r.cmask.getLsbD c | none => none
/-- The clusters of a partition in ascending order. -/
def State.partClusters (s : State) (p : Nat) : List Nat :=
  match mapGet none s.parts p with | some r => (List.range 256).filter fun c => r.cmask.getLsbD c | none => []
/-- The partition for which a queue's packets that name none act: the lowest of PMASK with clusters (log 20). -/
def State.queuePart (s : State) (q : Queue) : Option Nat :=
  (List.range 16).find? fun p => q.names p && (s.lowCluster p).isSome

/-! ### The leader (20 R459, R460) -/

/-- Whether die `d` leads: three dies, itself included, hold its TERM. -/
def Die.leads (x : Die) (d : Nat) : Bool := x.leader = some (Fin.ofNat 4 d) && 3 ≤ x.votes.length && x.recovery = 0
/-- The die that leads; of two that have not seen each other's TERM, the one with the higher. -/
def State.leaderDie (s : State) : Option Nat :=
  (List.range 4).foldl (fun (b : Option Nat) d =>
    if (s.die d).leads d then
      match b with | some e => if (s.die e).term < (s.die d).term then some d else b | none => some d
    else b) none
/-- Whether a die leads. -/
def State.led (s : State) : Bool := s.leaderDie.isSome

/-! ### Packets (R382, R385, R390) -/

/-- The number in `n` bytes at offset `o` of a slot. -/
def slotNum (b : List Byte) (o n : Nat) : Nat := leNat ((b.drop o).take n)
/-- The number in `n` bytes at offset `o` of a packet's first slot. -/
def Packet.num (p : Packet) (o n : Nat) : Nat := slotNum (p.slots.headD []) o n
/-- CLASS. -/
def Packet.cls (p : Packet) : Nat := p.num 253 1 % 16
/-- FSCOPE. -/
def Packet.fscope (p : Packet) : Nat := p.num 253 1 / 16
/-- Whether the named bytes of a slot, from `o` to `e`, are zero. -/
def slotZero (b : List Byte) (o e : Nat) : Bool := slotNum b o (e - o) == 0
/-- Whether the first slot of a packet has an invalid trailer (R383). -/
def trailerBad (b : List Byte) : Bool :=
  let ty := slotNum b 252 1
  let fs := slotNum b 253 1 / 16
  8 < ty || 2 < slotNum b 253 1 % 16 || slotNum b 254 1 ≠ 0 || (fs ≠ 0 && ty ≠ 3 && ty ≠ 6) || 5 < fs
/-- Whether a LAUNCH's extension slot has an invalid trailer (R383). -/
def extBad (b : List Byte) : Bool := slotNum b 252 3 ≠ 0xFF
/-- Slots of the packet whose first slot is given (R383). -/
def slotsOf (b : List Byte) : Nat := if slotNum b 252 1 = 0 then 1 + bits (slotNum b 0x50 8) 38 36 else 1
/-- A WAIT's N, entry addresses and compare values, and condition codes (R390). -/
def Packet.waitN (p : Packet) : Nat := bits (p.num 0xC0 8) 51 48
/-- The address of a WAIT's entry. -/
def Packet.entryAddr (p : Packet) (j : Nat) : Nat := p.num (16 * j) 8
/-- The compare value of a WAIT's entry. -/
def Packet.entryVal (p : Packet) (j : Nat) : Nat := p.num (16 * j + 8) 8
/-- The condition code of a WAIT's entry. -/
def Packet.entryCond (p : Packet) (j : Nat) : Nat := p.num 0xC0 8 / 2 ^ (4 * j) % 16
/-- Whether a packet other than a LAUNCH has an invalid field: reserved bytes and bits are zero, codes within their limits
(R390, R389, R393, 02 R53). -/
def Packet.fieldBad (p : Packet) : Bool :=
  let b := p.slots.headD []
  let sig := fun (a : Nat) => bits a 2 1 ≠ 0
  match p.ty with
  | 1 | 2 =>
    !slotZero b 0xC8 252 || p.num 0xC0 8 / 2 ^ 52 ≠ 0 || p.waitN = 0 || 12 < p.waitN ||
      (List.range p.waitN).any fun j => 7 < p.entryCond j || sig (p.entryAddr j)
  | 3 => sig (p.num 0 8) || p.num 0x10 8 / 4 ≠ 0 || !slotZero b 0x18 252
  | 4 =>
    p.num 0x10 8 / 2 ^ 48 ≠ 0 || p.num 0x10 8 % 8 ≠ 0 || p.num 0x18 8 / 16 ≠ 0 || p.num 0x20 8 % 32 ≠ 0 || sig (p.num 0x28 8) ||
      p.num 0x38 8 / 4 ≠ 0 || !slotZero b 0x40 252
  | 5 =>
    4 < p.num 0 8 || p.num 8 8 / 2 ^ 12 ≠ 0 || !slotZero b 0x20 252 ||
      (p.num 0 8 = 1 && (p.num 0x10 8 % 65536 ≠ 0 || p.num 0x18 8 % 65536 ≠ 0))
  | 6 | 7 => !slotZero b 0 252
  | _ => p.num 0 8 / 2 ^ 12 ≠ 0 || p.num 0x10 8 = 0 || 239 < p.num 0x10 8 || !slotZero b 0x18 252

/-! ### The LAUNCH header (R385-R387) -/

/-- The range descriptors of a LAUNCH's extension slots, bases and lengths with their reserved bits. -/
def rangeWords (ext : List (List Byte)) : List (Nat × Nat) :=
  ext.flatMap fun b => (List.range 15).map fun i => (slotNum b (16 * i) 8, slotNum b (16 * i + 8) 8)
/-- The header of a LAUNCH. -/
def launchHeader (slots : List (List Byte)) : Header :=
  let b := slots.headD []
  let w := fun (o : Nat) => slotNum b o 8
  let x := w 0x18
  let y := w 0x50
  let z := w 0x58
  let ext := slots.drop 1
  let ranges := rangeWords ext
  let nr := bits y 44 40
  let nw := bits y 49 45
  let used := ranges.take (nr + nw)
  let ptr := bit y 35
  { entry := BitVec.ofNat 64 (w 0), idpc := BitVec.ofNat 64 (w 8), sel := (b.drop 0x10).take 8,
    pool := bits x 59 57, prio := bits x 56 55, part := bits x 54 51, slots := bits x 50 47 + 1, bind := bits x 46 45,
    floor := bits x 44 42, widths := (List.range 6).map fun k => bits x (7 * k + 6) (7 * k),
    extents := (List.range 6).map fun k => w (0x20 + 8 * k),
    flags := bits y 35 32, cap := bits y 25 16, res := bits y 9 0, rseed := z / 2 ^ 32, fmode := z % 16,
    fs := (List.range 4).map fun k => BitVec.ofNat 64 (w (0x60 + 8 * k)),
    rootf := BitVec.ofNat 64 (w 0x80), rootsz := w 0x88 % 2 ^ 32, crec := BitVec.ofNat 64 (w 0x90), csig := BitVec.ofNat 64 (w 0x98),
    cval := BitVec.ofNat 64 (w 0xA0), csop := w 0xA8 % 4, args := (b.drop 0xB0).take 64,
    reads := (used.take nr).map fun r => (r.1, r.2 % 2 ^ 48), writes := (used.drop nr).map fun r => (r.1, r.2 % 2 ^ 48),
    reserved :=
      x / 2 ^ 60 ≠ 0 || y / 2 ^ 50 ≠ 0 || bit y 39 || bits y 31 26 ≠ 0 || bits y 15 10 ≠ 0 || bits z 31 4 ≠ 0 ||
        w 0x88 / 2 ^ 32 ≠ 0 || w 0xA8 / 4 ≠ 0 || !slotZero b 0xF0 252 || (ptr && !slotZero b 0xB8 0xF0) || bits (w 0x98) 2 1 ≠ 0 ||
        used.any (fun r => r.2 / 2 ^ 48 ≠ 0) || (ranges.drop (nr + nw)).any (fun r => r.1 ≠ 0 || r.2 ≠ 0) ||
        ext.any fun e => !slotZero e 240 252,
    nread := nr, nwrite := nw, nslot := bits y 38 36 }
/-- The flags: speculable, strict-tiles, spread, argument pointer. -/
def Header.speculable (h : Header) : Bool := bit h.flags 0
/-- strict-tiles. -/
def Header.strict (h : Header) : Bool := bit h.flags 1
/-- spread. -/
def Header.spread (h : Header) : Bool := bit h.flags 2
/-- argument pointer. -/
def Header.argPtr (h : Header) : Bool := bit h.flags 3
/-- The argument block's address with FLAGS[35]. -/
def Header.argBlock (h : Header) : Nat := leNat (h.args.take 8)
/-- Whether [a, a + n) lies in one of the ranges. -/
def insideRange (l : List (Nat × Nat)) (a n : Nat) : Bool := l.any fun r => r.1 ≤ a && a + n ≤ r.1 + r.2
/-- Whether a header is valid for a queue (R387). -/
def State.headerValid (s : State) (q : Queue) (h : Header) : Bool :=
  let e := h.count
  !h.reserved && h.bind ≠ 3 && h.pool ≤ 6 && h.floor ≤ 5 && h.widths.all (· ≤ 64) && h.nread ≤ 16 && h.nwrite ≤ 16 &&
    1 ≤ h.cap && h.cap ≤ 512 && h.res ≤ h.cap && (h.nread + h.nwrite + 14) / 15 ≤ h.nslot && fmodeOk h.fmode &&
    h.fs.all (fun f => fsValid f.toNat) && h.widths.foldl (· + ·) 0 ≤ 64 &&
    (h.extents.zip h.widths).all (fun x => 1 ≤ x.1 && x.1 ≤ 2 ^ x.2) && e < 2 ^ 64 &&
    (!h.spread || (h.bind ≠ 0 && 1 < e && e ≤ 2 ^ 32 - 2)) && (h.bind ≠ 2 || 0 < h.widths.getD 1 0) && q.names h.part &&
    (match mapGet none s.parts h.part with
     | some r => (s.lowCluster h.part).isSome && r.asids.any (fun a => a.toNat = q.asid)
     | none => false) &&
    h.entry.toNat % 4 == 0 && h.idpc.toNat % 4 == 0 && h.rootf.toNat % 256 == 0 && sizeOk h.rootsz && h.crec.toNat % 32 == 0 &&
    (!h.argPtr || insideRange h.reads h.argBlock 64)

/-! ### Ordering (R392) -/

/-- The read and write ranges of a packet; none for a LAUNCH that declares no range. -/
def Packet.ranges (p : Packet) : Option (List (Nat × Nat) × List (Nat × Nat)) :=
  match p.ty with
  | 0 =>
    let h := launchHeader p.slots
    let f := fun (l : List (Nat × Nat)) => l.filter (·.2 ≠ 0)
    if f h.reads = [] && f h.writes = [] then none else some (f h.reads, f h.writes)
  | 4 => some ([(p.num 0 8, p.num 0x10 8)], [(p.num 8 8, p.num 0x10 8)])
  | _ => some ([], [])
/-- Whether two ranges share a granule. -/
def shareGranule (a b : Nat × Nat) : Bool :=
  a.2 != 0 && b.2 != 0 && a.1 / 256 ≤ (b.1 + b.2 - 1) / 256 && b.1 / 256 ≤ (a.1 + a.2 - 1) / 256
/-- Whether two packets conflict. -/
def Packet.conflicts (p r : Packet) : Bool :=
  match p.ranges, r.ranges with
  | some a, some b =>
    let hit := fun (x y : List (Nat × Nat)) => x.any fun u => y.any fun v => shareGranule u v
    hit a.2 b.1 || hit a.2 b.2 || hit a.1 b.2
  | _, _ => true
/-- Whether a packet's class and the WAITs and FENCEs before it let it start. -/
def Queue.ready (q : Queue) (p : Packet) : Bool :=
  let before := q.packets.filter fun r => r.index < p.index && !r.done
  if before.any fun r => r.ty = 1 || r.ty = 2 || r.ty = 6 then false
  else if p.ty = 6 || p.cls = 0 || (p.cls = 1 && p.ty ≠ 0 && p.ty ≠ 4) then before = []
  else if p.cls = 1 then !before.any p.conflicts
  else true

/-! ### Accesses of the front end -/

/-- Whether a unit parked on a fault record may go on: no record, still open, or rejected. -/
inductive Gate | go | wait | rejected
  deriving DecidableEq, Repr
/-- The gate of what is parked on a record. -/
def State.gate (s : State) (p : Option (Nat × Nat)) : Gate :=
  match p with
  | none => .go
  | some (d, k) => if s.rejected.contains k then .rejected else if (s.die d).records.any (·.key = k) then .wait else .go
/-- A rejection that nobody has to see any more is forgotten. -/
def State.seen (s : State) (p : Option (Nat × Nat)) : State :=
  match p with
  | some (d, k) => if s.frontWaits d k then s else { s with rejected := s.rejected.filter (· ≠ k) }
  | none => s
/-- A translation for the front end in a partition's lowest cluster; a fault is recorded, and an access that misses joins an open
record of its kind (02 R55, R67). -/
def State.feTranslate (s : State) (part lid asid va : Nat) (a : Acc) : State × Except (Nat × Nat) Nat :=
  let cl := (s.lowCluster part).getD 0
  let die := dieOfCluster cl
  match s.lookup cl asid va a with
  | (s, some r) => (s, .ok r.1)
  | (s, none) =>
    match (s.die die).records.find? fun r => r.matches asid va a with
    | some r => (s.attach die r.key none, .error (die, r.key))
    | none =>
      match s.walkInstall cl asid va a false false with
      | (s, .ok r) => (s, .ok r.1)
      | (s, .error f) => let q := s.recordFault cl lid part asid va false a f none; (q.1, .error (die, q.2))

/-- What became of a signal (R389): done, parked on a record, or the signal-fault error. -/
inductive SigRes
  | done
  | parked (die key : Nat)
  | bad
/-- The operations of R389. -/
def signalOp (op old v : Nat) : Nat :=
  match op with
  | 0 => v
  | 1 => (old + v) % 2 ^ 64
  | 2 => max old v
  | _ => old ||| v
/-- Whether a word of a partition's host window exists (17 R425). -/
def State.windowOk (s : State) (part off : Nat) : Bool :=
  match mapGet none s.parts part with | some r => off + 8 ≤ r.hwLen.toNat | none => false
/-- A signal operation: an atomic at the home, or an operation on the host window (R389, 17 R425). -/
def State.signal (s : State) (part asid addr v op : Nat) : State × SigRes :=
  let a := addr / 8 * 8
  if bit addr 0 then
    if !s.windowOk part a then (s, .bad)
    else match op with
      | 0 => (s.emit (.hostWrite part a (natLe v 8)), .done)
      | 1 => (s.emit (.fetchAdd part a (BitVec.ofNat 64 v)), .done)
      | _ => (s, .bad)
  else
    match s.feTranslate part 4096 asid a .atomic with
    | (s, .ok pa) =>
      if s.poisoned pa 8 && op ≠ 0 then (s, .done)
      else (s.writeHomeNat none pa 8 (signalOp op (s.readHome none pa 8) v), .done)
    | (s, .error e) => (s, .parked e.1 e.2)

end Sys2Proof.Machine
end

