-- ==== Sys2Proof/Machine/Queue.lean ====
section
/-! DEFINITION. The front end's queues: residency (15 R395), admission and slot reads (R381-R384), the predictor's history and
claims (R399, R401, 06 R176), ordering and starting (R392), halting (R391), completion records and signals (R388, R389), and
the packets other than LAUNCH (R390, R393, R394). -/

namespace Sys2Proof.Machine

/-! ### Progress -/

/-- Applies `f` to a packet of a queue. -/
def State.modPacket (s : State) (q i : Nat) (f : Packet → Packet) : State :=
  s.modQueue q fun k => { k with packets := k.packets.map fun p => if p.index = i then f p else p }
/-- A packet of a queue that has not completed. -/
def State.packet (s : State) (q i : Nat) : Option Packet := (s.queue q).packets.find? fun p => p.index = i && !p.done
/-- The queue halts with an error; its speculation is discarded (R391, 06 R175). -/
def State.haltQueue (s : State) (q err : Nat) : State :=
  let s := s.modQueue q fun k => { k with state := 4, err := err, hold := none, stale := none, got := [] }
  match (s.queue q).spec with
  | some sid => if s.unclaimed (match mapGet none s.specs sid.val with | some sp => sp.lid | none => 4096) then s.discard sid 16 else s
  | none => s
/-- A queue that is to halt at a packet does so once every earlier packet has started (R384, R391; log 20). -/
def State.holdHalt (s : State) (q : Nat) : State :=
  match (s.queue q).hold with
  | some (i, e) => if (s.queue q).packets.all fun p => p.started || i ≤ p.index then s.haltQueue q e else s
  | none => s
/-- A queue is to halt at packet `i` with an error. -/
def State.holdAt (s : State) (q i err : Nat) : State :=
  let k := s.queue q
  if k.state = 4 || (match k.hold with | some h => h.1 ≤ i | none => false) then s
  else (s.modQueue q fun k => { k with hold := some (i, err) }).holdHalt q
/-- The packet that a queue may start next (R392): at most 64 are started and not completed. -/
def Queue.startable (k : Queue) : Option Packet :=
  if k.state = 4 || !k.held || 64 ≤ (k.packets.filter fun p => p.started && !p.done).length then none
  else k.packets.find? fun p =>
    !p.started && !p.done && k.claiming ≠ some p.index && (match k.hold with | some h => p.index < h.1 | none => true) && k.ready p
/-- The event that starts a packet. -/
def Packet.startEvent (q : Nat) (p : Packet) : Ev :=
  match p.ty with | 1 => .waitAll q p.index | 2 => .waitAny q p.index | _ => p.event q
/-- Starts every packet that may start. -/
def State.startReady (s : State) (q : Nat) : Nat → State
  | 0 => s
  | fuel + 1 =>
    match (s.queue q).startable with
    | none => s.holdHalt q
    | some p =>
      ((s.modPacket q p.index fun p => { p with started := true, since := s.cycle }).postNow (p.startEvent q)).startReady q fuel
/-- Queues that wait for a hardware slot (R395). -/
def Queue.waitsSlot (k : Queue) : Bool := k.defined && !k.held && k.state ≠ 4 && !k.idle &&
  (k.state ≠ 3 || !k.packets.any fun p => p.waits && p.parked.isSome)
/-- The queue that waits longest for a hardware slot, by its notify write. -/
def State.firstWaiting (s : State) : Option Nat :=
  (s.queues.foldl (fun (b : Option (Nat × Nat)) e =>
    if e.2.waitsSlot then
      match b with | some x => if x.2 ≤ e.2.since then b else some (e.1, e.2.since) | none => some (e.1, e.2.since)
    else b) none).map (·.1)
/-- RD and STATE follow the packets; a queue that has become idle is noted, another may take its slot, and the predictor
looks (R379, R392, R395, R400). -/
def State.settleQueue (s : State) (q : Nat) : State :=
  let k := s.queue q
  let ps := k.packets.dropWhile (·.done)
  let rd := match ps with | p :: _ => p.index | [] => k.next
  let s := s.modQueue q fun k =>
    let k := { k with packets := ps, rd := rd }
    if k.state = 4 || k.state = 2 || k.state = 3 then k else { k with state := b2n (!k.idle && k.held) }
  if (s.queue q).idle && !k.idle && k.state ≠ 4 then
    let s := s.modQueue q fun k => { k with idleSince := s.cycle }
    let s := s.postNow (.speculationStart q)
    match s.firstWaiting with | some w => s.postNow (.queueResidency w) | none => s
  else s
/-- A packet has completed: what waited for it may start. -/
def State.completePacket (s : State) (q i : Nat) : State :=
  let s := s.modPacket q i fun p => { p with done := true, ending := none, parked := none }
  let s := s.startReady q ((s.queue q).packets.length + 1)
  s.settleQueue q

/-! ### Completion records and signals (R388, R389) -/

/-- A packet's record and signal, when a die leads (20 R460): each is made, or parked on a fault record. A rejected record write leaves the record
unwritten, a rejected signal halts the queue with the signal-fault error (log 20). -/
def State.endPacket (s : State) (q i : Nat) : State :=
  match s.packet q i with
  | none => s
  | some p =>
    match p.ending with
    | none => s
    | some e =>
      let k := s.queue q
      let g := s.gate p.parked
      let clear := fun (s : State) => (s.modPacket q i fun p => { p with parked := none }).seen p.parked
      let signal := fun (s : State) =>
        if e.csig = 0 || bits e.csig 2 1 ≠ 0 then s.completePacket q i
        else match s.signal e.part k.asid e.csig e.cval e.csop with
          | (s, .done) => s.completePacket q i
          | (s, .parked d r) => s.modPacket q i fun p => { p with parked := some (d, r), ending := some { e with stage := 1 } }
          | (s, .bad) => (s.haltQueue q 5).completePacket q i
      if !s.led then s
      else match g with
      | .wait => s
      | .rejected =>
        let s := clear s
        if e.stage = 0 then signal s else (s.haltQueue q 5).completePacket q i
      | .go =>
        let s := clear s
        if e.stage = 1 || e.crec = 0 || e.crec % 32 ≠ 0 then signal s
        else match s.feTranslate e.part 4096 k.asid e.crec .write with
          | (s, .ok pa) =>
            signal (s.writeHome none pa ((natLe e.w0 8 ++ natLe e.start 8 ++ natLe s.cycle 8 ++ natLe i 8).map some))
          | (s, .error r) => s.modPacket q i fun p => { p with parked := some r }
/-- A LAUNCH's or COPY's completion record and signal begin. -/
def State.beginEnd (s : State) (q i : Nat) (e : PacketEnd) : State :=
  (s.modPacket q i fun p => { p with ending := some e, parked := none }).endPacket q i

/-! ### The predictor: history, keys and claims (R399, R401) -/

/-- The 31 aligned words of bytes 0-247 of a slot. -/
def slotWords (b : List Byte) : List Word := (List.range 31).map fun i => BitVec.ofNat 64 (slotNum b (8 * i) 8)
/-- A history entry updated from a LAUNCH; a LAUNCH of another length starts it afresh (log 9). -/
def History.update (h : Option History) (key : Nat) (slots : List (List Byte)) : History :=
  let image := slots.map (·.take 255)
  match h with
  | some h =>
    if h.image.length = slots.length then
      let step := fun (x : List Byte × List Byte) => (slotWords x.1).zip (slotWords x.2) |>.map fun w => w.2 - w.1
      let d := (h.image.zip slots).map step
      { key := key, image := image, stride := d, confirm := (d.zip h.stride).map fun x => (x.1.zip x.2).map fun y => y.1 == y.2 }
    else { key := key, image := image, stride := slots.map fun _ => List.replicate 31 0, confirm := slots.map fun _ => List.replicate 31 false }
  | none => { key := key, image := image, stride := slots.map fun _ => List.replicate 31 0, confirm := slots.map fun _ => List.replicate 31 false }
/-- The prediction of an entry: bytes 0-254 of each slot. -/
def History.predict (h : History) : List (List Byte) :=
  ((h.image.zip (h.stride.zip h.confirm)).map fun x =>
    let ws := (slotWords x.1).zip (x.2.1.zip x.2.2)
    (ws.flatMap fun (w : Word × Word × Bool) => natLe (if w.2.2 then w.1 + w.2.1 else w.1).toNat 8) ++ x.1.drop 248)
/-- An entry of the segment table registered for an ASID, read without a fault record. -/
def State.tableEntry (s : State) (cl asid sel : Nat) : Option Desc :=
  if sel = 0 || 0xF0 ≤ sel then none
  else match mapGet none s.segtabs asid with
    | none => none
    | some tab =>
      if tab.2 < sel then none
      else
        let va := tab.1.toNat + 16 * (sel - 1)
        match s.probe cl asid (va % 2 ^ 64), s.probe cl asid ((va + 8) % 2 ^ 64) with
        | some a, some b =>
          if s.poisoned a 8 || s.poisoned b 8 then none
          else some ⟨BitVec.ofNat 64 (s.readHome none a 8), BitVec.ofNat 64 (s.readHome none b 8)⟩
        | _, _ => none
/-- The predictor key of a LAUNCH: its kernel address and the hash of its argument bytes (R399, log 8). -/
def State.launchKey (s : State) (k : Queue) (slots : List (List Byte)) : Option Nat :=
  let h := launchHeader slots
  match s.tableEntry ((s.lowCluster h.part).getD 0) k.asid (h.sel.headD 0).toNat with
  | some d => some ((d.base + h.entry).toNat * 2 ^ 64 + Config.argHash h.args % 2 ^ 64)
  | none => none
/-- The history with an entry replaced; of nine the one updated longest ago goes (log 9). -/
def historyPut (l : List History) (h : History) : List History :=
  let l := l.filter (fun x => x.key ≠ h.key) ++ [h]
  l.drop (l.length - 8)
/-- A packet is admitted: the entry of the LAUNCH before it is updated, and it becomes the predecessor (R399); at most 256
queues are tracked. -/
def State.learn (s : State) (q : Nat) (p : Packet) : State :=
  let k := s.queue q
  let after := p.index + p.slots.length
  if !k.mayPredict then s.modQueue q fun k => { k with lastKey := none, lastEnd := after }
  else if p.ty ≠ 0 then s.modQueue q fun k => { k with lastKey := none, lastEnd := after }
  else
    let key := s.launchKey k p.slots
    let tracked := k.history ≠ [] || (s.queues.filter fun e => e.2.history ≠ []).length < 256
    s.modQueue q fun k =>
      match k.lastKey, key with
      | some a, some _ =>
        if tracked then
          { k with lastKey := key, lastEnd := after,
                   history := historyPut k.history (History.update (k.history.find? fun h => h.key = a) a p.slots) }
        else { k with lastKey := key, lastEnd := after }
      | _, _ => { k with lastKey := key, lastEnd := after }
/-- The claim rule for the next packet of a queue with a speculation (R401): a match asks the four watchers (06 R176), any
other packet discards it with cause 16. -/
def State.claimCheck (s : State) (q : Nat) (p : Packet) : State :=
  let k := s.queue q
  match k.spec with
  | none => s
  | some sid =>
    match mapGet none s.specs sid.val with
    | none => s
    | some sp =>
      if sp.claimed || sp.asked then s
      else if p.ty = 0 && p.index = k.lastEnd && p.slots.map (·.take 255) = sp.predicted then
        let s := s.modQueue q fun k => { k with claiming := some p.index }
        let s := { s with specs := mapPut none s.specs sid.val (some { sp with asked := true }) }
        (List.range 4).foldl (fun s d => s.postLat s.nextId (.claimReply sid (Fin.ofNat 4 d))) s
      else s.discard sid 16

/-! ### Admission (R381-R384) -/

/-- The signal words in device memory that a packet names (06 R464). -/
def Packet.signalNames (p : Packet) : List Nat :=
  let ads := match p.ty with
    | 0 => if p.num 0x98 8 = 0 then [] else [p.num 0x98 8]
    | 1 | 2 => (List.range (min p.waitN 12)).map p.entryAddr
    | 3 => [p.num 0 8]
    | 4 => if p.num 0x28 8 = 0 then [] else [p.num 0x28 8]
    | _ => []
  (ads.filter fun a => !bit a 0).map fun a => a / 8 * 8
/-- A packet that names a word in which a speculation holds dry-fit bytes discards it (06 R464). -/
def State.signalClash (s : State) (sigs : List Nat) : State :=
  (List.range 4).foldl (fun s i =>
    match mapGet none s.specs i with
    | some sp => if sp.dry.any (fun e => sigs.any fun a => a / 8 = e.1 / 8) then s.discard (Fin.ofNat 4 i) 9 else s
    | none => s) s
/-- A packet is admitted with the slots read. -/
def State.admitPacket (s : State) (q i : Nat) (slots : List (List Byte)) : State :=
  let o := s.nextId
  let s := { s with nextId := o + 1 }
  let p : Packet := { index := i, slots := slots, order := o }
  let k := s.queue q
  let cl := ((s.queuePart k).bind s.lowCluster).getD 0
  let p := { p with
    sigs := p.signalNames.filterMap fun a => s.probe cl k.asid a
    vsigs := (p.signalNames.filter fun a => (s.probe cl k.asid a).isNone).map fun a => (cl, k.asid, a) }
  let s := s.signalClash p.sigs
  let s := s.modQueue q fun k => { k with packets := k.packets ++ [p], next := i + slots.length, got := [] }
  (s.claimCheck q p).learn q p

/-- What reading a slot gives. -/
inductive SlotRead
  | good (b : List Byte)
  | stale
  | poison
/-- The slot of index `n` as it stands in the ring (R381, R382, 03 R95). -/
def State.readSlot (s : State) (k : Queue) (n : Nat) : SlotRead :=
  let a := k.ring + n % k.size * 256
  if s.poisoned a 256 then .poison
  else
    let b := s.homeBytes none a 256
    if slotNum b 255 1 = (if n / k.size % 2 = 0 then 0x5A else 0xA5) then .good b else .stale
/-- A slot whose VALID byte does not match: read again every 256 cycles, 2^20 cycles long (R382). -/
def State.slotStale (s : State) (q n : Nat) : State :=
  match (s.queue q).stale with
  | some (m, c) =>
    if m = n then (if c + 2 ^ 20 ≤ s.cycle then s.holdAt q (s.queue q).next 4 else s.post (s.cycle + 256) (.slotReread q))
    else ((s.modQueue q fun k => { k with stale := some (n, s.cycle) }).post (s.cycle + 256) (.slotReread q)).post
      (s.cycle + 2 ^ 20) (.staleSlotTimeout q)
  | none =>
    ((s.modQueue q fun k => { k with stale := some (n, s.cycle) }).post (s.cycle + 256) (.slotReread q)).post
      (s.cycle + 2 ^ 20) (.staleSlotTimeout q)
/-- The front end reads the slots of admitted packets in order, each once (R381-R384), while a die leads (20 R460). -/
def State.readSlots (s : State) (q : Nat) : Nat → State
  | 0 => s
  | fuel + 1 =>
    let k := s.queue q
    let i := k.next
    let n := i + k.got.length
    if !s.led || k.state = 4 || k.hold.isSome || !k.held || k.wr ≤ n then s
    else
      match s.readSlot k n with
      | .poison => s.holdAt q i 6
      | .stale => s.slotStale q n
      | .good b =>
        let first := k.got.headD b
        let need := slotsOf first
        if k.got = [] && trailerBad b then s.holdAt q i 1
        else if k.got = [] && k.size ≤ need - 1 then s.holdAt q i 2
        else if k.wr < i + need then s
        else if k.got ≠ [] && extBad b then s.holdAt q i 1
        else
          let got := k.got ++ [b]
          let s := s.modQueue q fun k => { k with stale := none, got := got }
          (if got.length = need then s.admitPacket q i got else s).readSlots q fuel
/-- SLOT_REREAD: the queue's slots are read as far as they go, and what may start starts. -/
def State.pump (s : State) (q : Nat) : State :=
  let k := s.queue q
  let s := s.readSlots q (k.wr - k.next + 1)
  let s := s.startReady q ((s.queue q).packets.length + 1)
  s.settleQueue q
/-- STALE_SLOT_TIMEOUT. -/
def State.staleTimeout (s : State) (q : Nat) : State :=
  match (s.queue q).stale with
  | some (_, c) => if c + 2 ^ 20 ≤ s.cycle then s.holdAt q (s.queue q).next 4 else s
  | none => s
/-- WRIDX (R381): a write at or below WR changes nothing, one beyond the ring halts the queue; a queue without a hardware
slot waits for one from its first notify write (R395), a queue descheduled on a fault too (R403). -/
def State.notifyIndex (s : State) (q w : Nat) : State :=
  let k := s.queue q
  if !k.defined || w ≤ k.wr then s
  else if k.rd + k.size < w then (if k.state = 4 then s else s.haltQueue q 3)
  else
    let waiting := k.waitsSlot
    let free := fun (p : Packet) => if k.state = 3 && p.waits then { p with parked := none } else p
    let s := s.modQueue q fun k =>
      { k with wr := w, since := if waiting then k.since else s.nextId, packets := k.packets.map free }
    ({ s with nextId := s.nextId + 1 }).postNow (.queueResidency q)

/-! ### Residency (R395) -/

/-- The number of resident queues. -/
def State.residents (s : State) : Nat := (s.queues.filter fun e => e.2.held).length
/-- The resident queue that has been idle longest. -/
def State.idlest (s : State) : Option Nat :=
  (s.queues.foldl (fun (b : Option (Nat × Nat)) e =>
    if e.2.held && e.2.idle then
      match b with | some x => if x.2 ≤ e.2.idleSince then b else some (e.1, e.2.idleSince) | none => some (e.1, e.2.idleSince)
    else b) none).map (·.1)
/-- A queue loses its hardware slot: descheduled, it discards its speculation with cause 16 (06 R175). -/
def State.unseat (s : State) (q : Nat) : State :=
  let s := s.modQueue q fun k => { k with held := false, state := if k.state = 1 then 0 else k.state }
  match (s.queue q).spec with
  | some sid => if s.unclaimed (match mapGet none s.specs sid.val with | some sp => sp.lid | none => 4096) then s.discard sid 16 else s
  | none => s
/-- A queue takes a hardware slot and goes on; a WAIT of a descheduled queue is evaluated again from the start (R394). -/
def State.seat (s : State) (q : Nat) : State :=
  let s := s.modQueue q fun k => { k with held := true, state := if k.state = 3 then 2 else k.state }
  let s := (s.queue q).packets.foldl (fun s p => if p.waits then s.pollNow (.waitEvaluation q p.index) else s) s
  s.pump q
/-- QUEUE_RESIDENCY: the queue that has waited longest takes a free slot, or that of the queue idle longest. -/
def State.residency (s : State) (q : Nat) : State :=
  if (s.queue q).held then s.pump q
  else
    match s.firstWaiting with
    | none => s
    | some w =>
      let s := if s.residents < 1024 then s.seat w
        else match s.idlest with | some v => (s.unseat v).seat w | none => s
      if w ≠ q && (s.queue q).waitsSlot && (s.residents < 1024 || s.idlest.isSome) then s.postNow (.queueResidency q) else s

/-! ### WAIT (R393, R394) -/

/-- Whether a value meets a condition code against a compare value (R393). -/
def condHolds (code v c : Nat) : Bool :=
  let sv := (BitVec.ofNat 64 v).toInt
  let sc := (BitVec.ofNat 64 c).toInt
  match code with
  | 0 => v == c
  | 1 => v != c
  | 2 => decide (sv < sc)
  | 3 => decide (sc ≤ sv)
  | 4 => decide (v < c)
  | 5 => decide (c ≤ v)
  | 6 => v &&& c != 0
  | _ => v &&& c == c
/-- One entry of an evaluation: what it came to, if it is known now. -/
inductive Entry
  | is (b : Bool)
  | unknown
  | parked (die key : Nat)
  | bad
/-- Evaluates entry `j`; a host entry that is due is asked for (17 R425). -/
def State.evalEntry (s : State) (q : Nat) (p : Packet) (part : Nat) (due : Bool) (j : Nat) : State × Entry :=
  let a := p.entryAddr j / 8 * 8
  if bit (p.entryAddr j) 0 then
    if !s.windowOk part a then (s, .bad)
    else
      let s := if due && !p.asked.contains j then
          (s.modPacket q p.index fun p => { p with asked := j :: p.asked, hostAt := s.cycle }).emit (.hostRead part a q p.index j)
        else s
      (s, match p.met.find? fun e => e.1 = j with | some e => .is e.2 | none => .unknown)
  else
    match s.feTranslate part 4096 (s.queue q).asid a .read with
    | (s, .error e) => (s, .parked e.1 e.2)
    | (s, .ok pa) =>
      if s.poisoned pa 8 then (s, .bad)
      else
        let s := s.modPacket q p.index fun p => { p with sigs := if p.sigs.contains pa then p.sigs else pa :: p.sigs }
        (s, .is (condHolds (p.entryCond j) (s.readHome none pa 8) (p.entryVal j)))
/-- The entries in order, up to one that faults. -/
def State.evalEntries (s : State) (q : Nat) (p : Packet) (part : Nat) (due : Bool) : List Nat → State × List Entry
  | [] => (s, [])
  | j :: js =>
    let r := s.evalEntry q p part due j
    match r.2 with
    | .parked _ _ | .bad => (r.1, [r.2])
    | _ => let t := r.1.evalEntries q p part due js; (t.1, r.2 :: t.2)
/-- Whether an entry is known to hold. -/
def Entry.holds : Entry → Bool
  | .is b => b
  | _ => false
/-- WAIT_EVALUATION: the words are read and compared; a completed WAIT is a system-scope acquire for what follows. -/
def State.evaluate (s : State) (q i : Nat) : State :=
  match s.packet q i with
  | none => s
  | some p =>
    let k := s.queue q
    if !p.waits || k.state = 4 || !k.held then
      (match s.gate p.parked with
       | .rejected => if p.waits && k.state ≠ 4 then ((s.modPacket q i fun p => { p with parked := none }).seen p.parked).haltQueue q 5 else s
       | .go => if p.parked.isSome then (s.modPacket q i fun p => { p with parked := none }).postNow (.queueResidency q) else s
       | .wait => s)
    else
      match s.gate p.parked with
      | .wait => s
      | .rejected => ((s.modPacket q i fun p => { p with parked := none }).seen p.parked).haltQueue q 5
      | .go =>
        let s := (s.modPacket q i fun p => { p with parked := none }).modQueue q fun k => { k with state := 1 }
        let part := (s.queuePart k).getD 16
        let due := p.hostAt = 0 || p.hostAt + 16384 ≤ s.cycle
        let r := s.evalEntries q p part due (List.range p.waitN)
        let s := r.1
        match r.2.getLast? with
        | some (.parked d key) =>
          ((s.modPacket q i fun p => { p with parked := some (d, key) }).modQueue q fun k =>
            { k with state := 2, faultAt := s.cycle }).post (s.cycle + 1750000) (.waitFaultTimeout q)
        | some .bad => s.haltQueue q 5
        | _ =>
          if (if p.ty = 1 then r.2.all Entry.holds else r.2.any Entry.holds) then
            ((s.partClusters part).foldl State.acquireAll s).completePacket q i
          else
            let dev := (List.range p.waitN).any fun j => !bit (p.entryAddr j) 0
            if s.agenda.any fun e => e.2 = .waitEvaluation q i then s
            else s.post (s.cycle + (if dev then 4096 else 16384)) (.waitEvaluation q i)
/-- WAIT_ALL and WAIT_ANY: an invalid field halts the queue at the packet (R390); then the first evaluation. -/
def State.startWait (s : State) (q i : Nat) : State :=
  match s.packet q i with
  | none => s
  | some p =>
    if !p.waits then s
    else if p.fieldBad then (s.modPacket q i fun p => { p with started := false }).holdAt q i 1
    else s.evaluate q i
/-- WAIT_HOST_READ_RESPONSE (17 R425). -/
def State.hostAnswer (s : State) (q i j : Nat) (v : Option Word) : State :=
  match s.packet q i with
  | none => s
  | some p =>
    if !p.waits || !p.asked.contains j then s
    else match v with
      | none => s.haltQueue q 5
      | some w =>
        let ok := condHolds (p.entryCond j) w.toNat (p.entryVal j)
        (s.modPacket q i fun p =>
          { p with asked := p.asked.filter (· ≠ j), met := (j, ok) :: p.met.filter fun e => e.1 ≠ j }).evaluate q i
/-- WAIT_FAULT_TIMEOUT: after 1 ms in fault-wait the queue is descheduled (R394). -/
def State.faultWaitOver (s : State) (q : Nat) : State :=
  let k := s.queue q
  if k.state = 2 && k.faultAt + 1750000 ≤ s.cycle then
    let s := (s.modQueue q fun k => { k with state := 3 }).unseat q
    match s.firstWaiting with | some w => s.postNow (.queueResidency w) | none => s
  else s

/-! ### SIGNAL, COPY, TLBINV, FENCE, NOP, SEGTAB (R390) -/

/-- A started packet of a type, with its queue; a bad one halts the queue at it. -/
def State.withPacket (s : State) (q i ty : Nat) (bad : Queue → Packet → Bool) (f : State → Queue → Packet → State) : State :=
  match s.packet q i with
  | none => s
  | some p =>
    if p.ty ≠ ty || !p.started then s
    else if bad (s.queue q) p then (s.modPacket q i fun p => { p with started := false }).holdAt q i 1
    else f s (s.queue q) p
/-- Whether writes of a queue's launches are still on their way (05 R160). -/
def State.queueWrites (s : State) (q : Nat) : Bool :=
  s.launches.any fun e => match e.2 with
    | some l => l.queue = q && (l.phase = 8 || l.specOf.isNone) && s.flights.any fun f => f.lid = e.1 && f.writes
    | none => false
/-- SIGNAL: the release at FSCOPE covers what earlier packets' completions have released already (R160); then the
operation. -/
def State.signalPacket (s : State) (q i : Nat) : State :=
  s.withPacket q i 3 (fun _ p => p.fieldBad) fun s k p =>
    match s.gate p.parked with
    | .wait => s
    | .rejected => (((s.modPacket q i fun p => { p with parked := none }).seen p.parked).haltQueue q 5).completePacket q i
    | .go =>
      match (s.modPacket q i fun p => { p with parked := none }).signal ((s.queuePart k).getD 16) k.asid (p.num 0 8) (p.num 8 8)
          (p.num 0x10 8) with
      | (s, .done) => s.completePacket q i
      | (s, .parked d r) => s.modPacket q i fun p => { p with parked := some (d, r) }
      | (s, .bad) => (s.haltQueue q 5).completePacket q i
/-- Whether a COPY's PART is not one of the queue's. -/
def State.copyRefused (s : State) (k : Queue) (p : Packet) : Bool :=
  p.fieldBad || !k.names (p.num 0x18 8) || (s.lowCluster (p.num 0x18 8)).isNone
/-- COPY: a block copy by the partition's lowest cluster on the queue's behalf; when it is over, the record and signal. -/
def State.copyPacket (s : State) (q i : Nat) : State :=
  s.withPacket q i 4 s.copyRefused fun s k p =>
    let part := p.num 0x18 8
    let cl := (s.lowCluster part).getD 0
    match p.ending, p.result with
    | some _, _ => s.endPacket q i
    | none, some st =>
      s.beginEnd q i
        { w0 := if st = 1 then 8 else 0, start := p.since, part := part, crec := p.num 0x20 8, csig := p.num 0x28 8,
          cval := p.num 0x30 8, csop := p.num 0x38 8, stage := 0 }
    | none, none =>
      if (s.cluster cl).engines.any fun r => r.packet = some (q, i) then s
      else
        let id := s.nextId
        let seg := fun (va : Nat) => EngAddr.seg ⟨BitVec.ofNat 64 va, 0⟩ 0
        let r : EngReq :=
          { id := id, indirect := false, words := [BitVec.ofNat 64 (p.num 0x10 8), 0, 0, 0], src := seg (p.num 0 8), dst := seg (p.num 8 8),
            list := seg 0, thr := cl * 128, core := cl * 8, lid := 4096, asid := k.asid, satinf := false, waits := [], pos := 0,
            off := 0, skipped := 0, carried := false, started := true, parked := none, faultVa := 0, sys := true, inUse := [],
            packet := some (q, i), ctx := none }
        (({ s with nextId := id + 1 }).modCluster cl fun c => { c with engines := c.engines ++ [r] }).postLat id r.event

/-- Whether TLBINV removes a leaf (02 R53). -/
def TlbEntry.removed (t : TlbEntry) (kind asid va len : Nat) : Bool :=
  let lo := t.vpn * 2 ^ levelShift t.level
  let own := t.glob || t.asid = asid
  match kind with
  | 0 => own && t.covers va
  | 1 => own && len != 0 && lo < va + len && va < lo + 2 ^ levelShift t.level
  | 2 => !t.glob && t.asid = asid
  | 3 => !t.glob
  | _ => true
/-- Whether an instruction-cache line of key `key` belongs to an ASID that the kind names (03 R91). -/
def lineRemoved (key kind asid : Nat) : Bool :=
  2 ^ 64 ≤ key && (2 < kind || key / 2 ^ 64 = asid + 1)
/-- The removals of R53, R54 and 03 R91; a speculation that used a removed translation is discarded (R66). A RANGE of length 0
removes no leaf, and the walk-cache entries as the other lengths do (DESIGN CHOICE, log 64). -/
def State.invalidate (s : State) (kind asid va len : Nat) : State :=
  let keep := fun (l : List TlbEntry) => l.filter fun t => !t.removed kind asid va len
  let s := { s with
    clusters := mapEach {} (fun c => { c with tlb := keep c.tlb }) s.clusters
    dies := mapEach {} (fun d => { d with
      tlb := keep d.tlb, large := keep d.large
      wcache := d.wcache.filter fun w => !(2 < kind || w.asid = asid)
      misses := d.misses.map fun m => if m.walking then { m with valid := false } else m }) s.dies
    cores := mapEach {} (fun c => { c with
      icache := c.icache.filter fun e => !lineRemoved e.1 kind asid
      ifills := c.ifills.map fun f => if lineRemoved f.key kind asid then { f with install := false } else f }) s.cores }
  (List.range 4).foldl (fun s i =>
    match mapGet none s.specs i with
    | some sp => if sp.used.any fun t => t.removed kind asid va len then s.discard (Fin.ofNat 4 i) 5 else s
    | none => s) s
/-- Whether an access has used a translation and not completed (R54). -/
def Flight.translated (f : Flight) : Bool :=
  f.pieces.any fun p => match p.phase with | .home _ _ | .filling _ _ => true | _ => false
/-- Whether a TLBINV is refused (R390). -/
def Packet.tlbinvRefused (k : Queue) (p : Packet) : Bool :=
  p.fieldBad || (!k.sys && (p.num 8 8 ≠ k.asid || 3 ≤ p.num 0 8))
/-- The removal of a TLBINV everywhere, after which it waits for the accesses that have used a translation (R54). -/
def State.tlbinvRemove (s : State) (q i : Nat) (p : Packet) : State :=
  let s := s.invalidate (p.num 0 8) (p.num 8 8) (p.num 0x10 8) (p.num 0x18 8)
  let ids := (s.flights.filter Flight.translated).map (·.id)
  (s.modPacket q i fun p => { p with barrier := ids }).postLat s.nextId (.tlbinvCompletion q i)
/-- TLBINV: removed everywhere; it completes when the accesses that used a translation before it are over. -/
def State.tlbinvPacket (s : State) (q i : Nat) : State :=
  s.withPacket q i 5 (fun k p => p.tlbinvRefused k) fun s _ p => s.tlbinvRemove q i p
/-- The old root entries that an invalidation brings to an end (R40). -/
def Packet.oldRoots (p : Packet) (old : SMap (List Word)) : SMap (List Word) :=
  match p.num 0 8 with
  | 2 => mapPut [] old (p.num 8 8) []
  | 3 | 4 => []
  | _ => old
/-- TLBINV_COMPLETION (R54). A changed root entry comes into effect first, with what walks have installed through the old one
since the removal removed too (R40). -/
def State.tlbinvOver (s : State) (q i : Nat) : State :=
  s.withPacket q i 5 (fun _ _ => false) fun s _ p =>
    if s.flights.any fun f => p.barrier.contains f.id && f.translated then s.postLat s.nextId (.tlbinvCompletion q i)
    else if p.oldRoots s.asidOld ≠ s.asidOld then { s with asidOld := p.oldRoots s.asidOld }.tlbinvRemove q i p
    else s.completePacket q i
/-- FENCE: every earlier packet has completed; once the queue's launches are quiescent and their writes performed it
completes. -/
def State.fenceStep (s : State) (q i : Nat) : State :=
  s.withPacket q i 6 (fun _ p => p.fieldBad) fun s _ _ =>
    if s.queueWrites q then s.postLat s.nextId (.fencePacket q i) else s.completePacket q i
/-- NOP. -/
def State.nopStep (s : State) (q i : Nat) : State :=
  s.withPacket q i 7 (fun _ p => p.fieldBad) fun s _ _ => s.completePacket q i
/-- SEGTAB: registers the ASID's segment table (01 R8). -/
def State.segtabStep (s : State) (q i : Nat) : State :=
  s.withPacket q i 8 (fun k p => p.fieldBad || !k.sys || p.num 0 8 ≠ k.asid) fun s _ p =>
    ({ s with segtabs := mapPut none s.segtabs (p.num 0 8) (some (BitVec.ofNat 64 (p.num 8 8), p.num 0x10 8)) }).completePacket q i

/-! ### The prediction counters (06 R180) -/

/-- A host write of a counter word. -/
def State.writeCounters (s : State) (q : Nat) (i : Fin 4) (v : Word) : State :=
  if !(s.queue q).defined then s
  else s.modQueue q fun k =>
    match i.val with
    | 0 => { k with starts := v.toNat / 2 ^ 32, claims := v.toNat % 2 ^ 32 }
    | 1 => { k with discards := v.toNat / 2 ^ 32, late := v.toNat % 2 ^ 32 }
    | 2 => { k with lastCause := v.toNat % 256 }
    | _ => k

/-! ### Events -/

/-- WRIDX. -/
def execWridx (q : Nat) (value : Word) (s : State) : Res := .next (s.notifyIndex q value.toNat)
/-- PREDICTION_COUNTER_WRITE. -/
def execPredictionCounterWrite (q : Nat) (word : Fin 4) (value : Word) (s : State) : Res := .next (s.writeCounters q word value)
/-- SLOT_REREAD. -/
def execSlotReread (q : Nat) (s : State) : Res := .next (s.pump q)
/-- STALE_SLOT_TIMEOUT. -/
def execStaleSlotTimeout (q : Nat) (s : State) : Res := .next (s.staleTimeout q)
/-- QUEUE_RESIDENCY. -/
def execQueueResidency (q : Nat) (s : State) : Res := .next (s.residency q)
/-- WAIT_ALL. -/
def execWaitAll (q index : Nat) (s : State) : Res := .next (s.startWait q index)
/-- WAIT_ANY. -/
def execWaitAny (q index : Nat) (s : State) : Res := .next (s.startWait q index)
/-- WAIT_EVALUATION. -/
def execWaitEvaluation (q index : Nat) (s : State) : Res := .next (s.evaluate q index)
/-- WAIT_HOST_READ_RESPONSE. -/
def execWaitHostReadResponse (q index entry : Nat) (value : Option Word) (s : State) : Res :=
  .next (s.hostAnswer q index entry value)
/-- WAIT_FAULT_TIMEOUT. -/
def execWaitFaultTimeout (q : Nat) (s : State) : Res := .next (s.faultWaitOver q)
/-- SIGNAL. -/
def execSignal (q index : Nat) (s : State) : Res := .next (s.signalPacket q index)
/-- COPY. -/
def execCopy (q index : Nat) (s : State) : Res := .next (s.copyPacket q index)
/-- TLBINV. -/
def execTlbinv (q index : Nat) (s : State) : Res := .next (s.tlbinvPacket q index)
/-- TLBINV_COMPLETION. -/
def execTlbinvCompletion (q index : Nat) (s : State) : Res := .next (s.tlbinvOver q index)
/-- FENCE_PACKET. -/
def execFencePacket (q index : Nat) (s : State) : Res := .next (s.fenceStep q index)
/-- NOP_PACKET. -/
def execNopPacket (q index : Nat) (s : State) : Res := .next (s.nopStep q index)
/-- SEGTAB. -/
def execSegtab (q index : Nat) (s : State) : Res := .next (s.segtabStep q index)

end Sys2Proof.Machine
end

