-- ==== Sys2Proof/Machine/Collective.lean ====
section
/-! DEFINITION. The collective engine of each die: COLLQ and DONATE (14 R374), plans and their steps (17 R434-R440), the
packets of the Azrum links (R431-R433), donation (R441) and link events (R431, R436). -/

namespace Sys2Proof.Machine

/-! ### Packets (R432) -/

/-- Word 0 of a header flit. -/
def azWord0 (ty vc : Nat) (satinf : Bool) (nflit dst src plan : Nat) : Word :=
  BitVec.ofNat 64 (ty * 2 ^ 60 + vc * 2 ^ 58 + b2n satinf * 2 ^ 57 + nflit * 2 ^ 50 + dst % 2 ^ 16 * 2 ^ 32 + src % 2 ^ 16 * 2 ^ 16 +
    plan % 2 ^ 16)
/-- Word 1. -/
def azWord1 (count step seq : Nat) : Word :=
  BitVec.ofNat 64 (count % 2 ^ 16 * 2 ^ 48 + step % 2 ^ 12 * 2 ^ 36 + seq % 2 ^ 24)
/-- The virtual channel of a packet type. -/
def azVc : Nat → Nat
  | 0 | 3 => 0
  | 1 | 6 => 1
  | 2 => 2
  | _ => 3
/-- TYPE of a packet. -/
def azTy (p : AzPkt) : Nat := bits p.w0.toNat 63 60
/-- SRC. -/
def azSrc (p : AzPkt) : Nat := bits p.w0.toNat 31 16
/-- PLAN. -/
def azPlan (p : AzPkt) : Nat := bits p.w0.toNat 15 0
/-- COUNT. -/
def azCount (p : AzPkt) : Nat := bits p.w1.toNat 63 48
/-- STEP. -/
def azStep (p : AzPkt) : Nat := bits p.w1.toNat 47 36
/-- SEQ. -/
def azSeq (p : AzPkt) : Nat := bits p.w1.toNat 23 0
/-- Whether a packet is of type `ty`, its reserved bits zero and its data as long as NFLIT says. -/
def azOk (p : AzPkt) (ty : Nat) : Bool :=
  azTy p = ty && bits p.w0.toNat 49 48 == 0 && bits p.w1.toNat 35 24 == 0 && bits p.w0.toNat 56 50 ≤ 66 && p.data.length = 64 * bits p.w0.toNat 56 50
/-- Sends a packet on a link. -/
def State.azSend (s : State) (link : Fin 8) (ty : Nat) (satinf : Bool) (data : List Byte) (dst plan count step seq : Nat) : State :=
  s.emit (.azrum link (azWord0 ty (azVc ty) satinf (data.length / 64) dst s.modid.toNat plan) (azWord1 count step seq) data)
/-- A link. -/
def State.link (s : State) (l : Fin 8) : Link := mapGet {} s.links l.val
/-- Replaces a link. -/
def State.modLink (s : State) (l : Fin 8) (f : Link → Link) : State := { s with links := mapPut {} s.links l.val (f (s.link l)) }

/-! ### Commands, ranks and steps -/

/-- A command of a die's engine. -/
def State.cmd (s : State) (die id : Nat) : Option CCmd := (s.die die).coll.find? fun c => c.id = id
/-- Applies `f` to a command. -/
def State.modCmd (s : State) (die id : Nat) (f : CCmd → CCmd) : State :=
  s.modDie die fun d => { d with coll := d.coll.map fun c => if c.id = id then f c else c }
/-- A step of a command. -/
def CCmd.step (c : CCmd) (k : Nat) : Option CStep := mapGet none c.steps k
/-- Applies `f` to a step. -/
def State.modStep (s : State) (die id k : Nat) (f : CStep → CStep) : State :=
  s.modCmd die id fun c => { c with steps := mapPut none c.steps k ((c.step k).map f) }
/-- The module id of rank `r`. -/
def CCmd.rankMod (c : CCmd) (r : Nat) : Nat := nthWord c.ranks r % 2 ^ 16
/-- The link that leads to rank `r`. -/
def CCmd.rankLink (c : CCmd) (r : Nat) : Fin 8 := Fin.ofNat 8 (nthWord c.ranks r / 2 ^ 16)
/-- The rank of a module. -/
def CCmd.rankOf (c : CCmd) (m : Nat) : Option Nat := (List.range c.ranks.length).find? fun r => c.rankMod r = m
/-- On whose behalf a command acts, and what it waits behind (01 R27). -/
def CCmd.actor (c : CCmd) (behind : Option (Nat × Nat)) : Actor :=
  { thr := c.thr, lid := c.lid, asid := c.asid, sys := c.sys, behind := behind }
/-- Word `n` of a step. -/
def CStep.w (x : CStep) (n : Nat) : Nat := nthWord x.words n
/-- OP. -/
def CStep.op (x : CStep) : Nat := x.w 0 / 2 ^ 60
/-- PEER. -/
def CStep.peer (x : CStep) : Nat := bits (x.w 0) 59 54
/-- ETY. -/
def CStep.ety (x : CStep) : ElemTy := elemOf (bits (x.w 0) 53 51)
/-- POOL. -/
def CStep.pool (x : CStep) : Nat := bits (x.w 0) 50 48
/-- RCNT. -/
def CStep.rcnt (x : CStep) : Nat := bits (x.w 0) 47 40
/-- AFTER. -/
def CStep.after (x : CStep) : Nat := bits (x.w 0) 39 28
/-- NPIECE. -/
def CStep.npiece (x : CStep) : Nat := x.w 0 % 2 ^ 20
/-- The place of piece `k` at an address word of a step: 4096 bytes each (log 24). -/
def CCmd.place (c : CCmd) (w k : Nat) : Place := (c.descs.getD (w / 2 ^ 61) {}).place c.asid (w % 2 ^ 48 + 4096 * k)
/-- The sideband of a piece whose place is a tile's data (log 24). -/
def Place.sideband : Place → Option Place
  | .chip a => if chipShared a && chipWin a = 0 && chipOff a % 4096 = 0 then
      some (.chip (sharedWin (chipCluster a) 1 + chipOff a / 4096 * 128)) else none
  | .glob _ _ => none
/-- A step is looked at again after a latency. -/
def State.stepAgain (s : State) (die id k : Nat) : State := s.poll s.nextId (.collectiveStep die id k)
/-- A step is looked at again, having met matrix commands at an address. -/
def State.stepWaits (s : State) (die id k : Nat) (b : Option (Nat × Nat)) : State :=
  (s.modStep die id k fun x => { x with behind := b }).stepAgain die id k
/-- A command that is still read is looked at again, likewise. -/
def State.cmdWaits (s : State) (die : Nat) (c : CCmd) (b : Option (Nat × Nat)) : State :=
  (s.modCmd die c.id fun c => { c with behind := b }).stepAgain die c.id c.first
/-- Words as bytes. -/
def wordBytes (l : List Nat) : List Byte := l.flatMap fun w => natLe w 8
/-- Bytes as words. -/
def bytesWords : Nat → List Byte → List Nat
  | 0, _ => []
  | n + 1, l => leNat (l.take 8) :: bytesWords n (l.drop 8)

/-! ### The push (14 R374) -/

/-- COLLQ and DONATE after their sources: the words are checked, the plan's segment by 01 R37, a full engine makes the
instruction issue again; every descriptor is copied (01 R38) and the push releases (05 R150). -/
def State.pushColl (s : State) (o : Rab) (donate : Bool) : State :=
  let t := s.cur
  let x := s.slot t
  let a := (x.rg o.a).toNat
  let b := (x.rg o.b).toNat
  let die := dieOfCluster (clusterOf t)
  match s.specOf x.lidN with
  | some sid => s.discard sid 8
  | none =>
    if wordTile a || !addrWordOk a 8 then s.trapExact 18 (x.rg o.a)
    else if b / 2 ^ 32 ≠ 0 || (donate && bits b 31 24 ≠ 0) then s.trapExact 18 (x.rg o.b)
    else match (List.range 8).find? fun n => mapGet false x.sgPend n with
    | some n => s.blockCur (.segment n)
    | none =>
      match s.roleBad t a ⟨0, if donate then 320 else 64, true, false⟩ with
      | some e => s.trapExact e.1 (BitVec.ofNat 64 e.2)
      | none =>
        if 64 ≤ (s.die die).coll.length then s
        else
          let q := s.pushWaits t
          let id := q.1.nextId
          let first := bits b 31 16
          let c : CCmd :=
            { id := id, donate := donate, desc := s.segment t (a / 2 ^ 61), descs := (List.range 8).map (s.segment t), off := a % 2 ^ 48,
              first := if donate then 0 else first, tag := b % 2 ^ 16, dq := if donate then first % 256 else 0, thr := t, lid := x.lidN,
              asid := s.asidOf x.lidN, satinf := x.satinf, loaded := false, plan := 0, rank := 0, ranks := [], steps := [],
              failedStep := none, waits := q.2, sys := decide (x.mode = .system) }
          let s := ({ q.1 with nextId := id + 1 }).modDie die fun d => { d with coll := d.coll ++ [c] }
          (s.postLat id (.collectiveStep die id c.first)).finish fun x => x
/-- COLLQ (R374). -/
def execCollq (o : Rab) (s : State) : Res :=
  .next (s.withSrcs [.g o.a o.qa, .g o.b o.qb] fun s => s.pushColl o false)
/-- DONATE (R374). -/
def execDonate (o : Rab) (s : State) : Res :=
  .next (s.withSrcs [.g o.a o.qa, .g o.b o.qb] fun s => s.pushColl o true)

/-! ### The end of a command (R435, R436, R441) -/

/-- A value the manual leaves open, drawn fresh (log 7). -/
def State.drawWord (s : State) : State × Nat := ({ s with free := s.free + 1 }, (Config.freeWord s.free).toNat)
/-- The command leaves the engine and its completion is sent (11 R301, KIND 2); a PAYLOAD that no rule gives is a free
value. -/
def State.endCmd (s : State) (die : Nat) (c : CCmd) (status : Nat) (payload : Option Nat) : State :=
  let s := s.modDie die fun d => { d with coll := d.coll.filter fun x => x.id ≠ c.id }
  let p := match payload with | some v => (s, v) | none => s.drawWord
  let s := p.1
  let m : MailEntry := ⟨msgWord0 2 c.satinf 4 c.lid c.tag status c.thr, BitVec.ofNat 64 p.2, 0, 0⟩
  let f : Flight :=
    { id := s.nextId, thr := c.thr, pc := 0, lid := c.lid, asid := c.asid, born := s.cycle, sys := c.sys, pieces := [],
      kind := .message ⟨c.thr, m, 2 ^ 16 + c.id, false⟩ }
  ({ s with flights := s.flights ++ [f], nextId := s.nextId + 1 }.countSent c.lid (clusterOf c.thr)).postLat f.id f.event
/-- The steps of a command in one state. -/
def CCmd.stepsIn (c : CCmd) (st : StepSt) : List Nat :=
  c.steps.filterMap fun e => match e.2 with | some x => if x.st = st then some e.1 else none | none => none
/-- A command whose steps are over ends: with status 0, or with status 8 once the steps that run have finished (R436). -/
def State.settleCmd (s : State) (die id : Nat) : State :=
  match s.cmd die id with
  | none => s
  | some c =>
    match c.failedStep with
    | some k => if c.stepsIn .running = [] then s.endCmd die c 8 (some k) else s
    | none => if c.stepsIn .running = [] && c.stepsIn .waiting = [] then s.endCmd die c 0 none else s
/-- A tile that a landing was granted and does not fill goes back. -/
def State.returnTile (s : State) (c : CCmd) (x : CStep) : State :=
  match x.tile with
  | some h => s.atPart c.lid (handleCluster h) fun s => s.freeTile (handleCluster h) (handleIndex h) false
  | none => s
/-- A step fails (R436). -/
def State.failStep (s : State) (die id k : Nat) : State :=
  let s := match s.cmd die id with
    | some c => (match c.step k with | some x => s.returnTile c x | none => s)
    | none => s
  let s := s.modStep die id k fun x => { x with st := .done, failed := true, early := [], parked := none, tile := none }
  let s := s.modCmd die id fun c => { c with failedStep := some (c.failedStep.getD k) }
  let s := { s with clusters := mapEach {} (fun (c : Cluster) => { c with allocQ := c.allocQ.filter fun r =>
    match r.who with | .landing d i n _ => !(d = die && i = id && n = k) | .thread _ => true }) s.clusters }
  s.settleCmd die id

/-! ### Loading a plan (R434) -/

/-- The bytes from the start of a plan to its steps. -/
def planSteps (nrank : Nat) : Nat := 64 + (8 * nrank + 63) / 64 * 64
/-- Whether the header of a plan is well formed. -/
def planHeaderOk (l : List Nat) : Bool :=
  let w := l.headD 0
  let nrank := bits w 46 40
  !bit w 47 && bits w 39 38 == 0 && bits w 31 12 == 0 && 1 ≤ nrank && nrank ≤ 64 && bits w 37 32 < nrank && 1 ≤ w % 4096 &&
    (l.drop 1).all (· = 0)
/-- Whether an address word of a step is well formed and passes R37 for the pieces it is used for. -/
def State.stepAddrOk (s : State) (c : CCmd) (w n : Nat) (rd wr : Bool) : Bool :=
  !wordTile w && addrWordOk w 8 &&
    (!(rd || wr) || (s.descBad c.thr (c.descs.getD (w / 2 ^ 61) {}) (w % 2 ^ 48) ⟨0, 4096 * n, rd, wr⟩).isNone)
/-- Whether a step is well formed (R434, 01 R37). -/
def State.stepOk (s : State) (die nrank nstep : Nat) (c : CCmd) (x : CStep) : Bool :=
  let op := x.op
  op ≤ 5 && bits (x.w 0) 27 20 == 0 && 1 ≤ x.npiece && x.peer < nrank && (x.after = 0xFFF || x.after < nstep) &&
    (op ≠ 1 || (x.pool ≤ 6 && 1 ≤ x.rcnt && x.rcnt ≤ 254 && x.w 2 = 0 && bits (x.w 3) 10 0 / 512 = die &&
      s.inPart (coreOf c.thr) (bits (x.w 3) 10 0 / 8))) &&
    x.w 3 / 2 ^ 14 = 0 &&
    s.stepAddrOk c (x.w 1) x.npiece (op = 0 || 3 ≤ op) false && s.stepAddrOk c (x.w 2) x.npiece false (op = 2 || op = 3 || op = 5) &&
    (x.w 4 = 0 || (barrierAddr (x.w 4) && s.inPart (coreOf c.thr) (chipCluster (x.w 4)))) &&
    (x.w 5 = 0 || (counterAddr (x.w 5) && s.inPart (coreOf c.thr) (chipCluster (x.w 5)))) && x.w 6 / 2 ^ 32 = 0 && x.w 7 = 0
/-- A list cut into steps of eight words. -/
def cutSteps (first : Nat) : Nat → List Nat → List (Nat × Option CStep)
  | 0, _ => []
  | n + 1, l => (first, some { words := (l.take 8).map (BitVec.ofNat 64), st := .waiting }) :: cutSteps (first + 1) n (l.drop 8)
/-- What reading part of a plan gives: words, a record it parked on, or nothing that can be read. -/
inductive PlanRead
  | ok (l : List Nat)
  | parked (die key : Nat)
  | bad
  | again (behind : Option (Nat × Nat))
/-- Reads `n` words of a plan from byte `o` on. A poisoned word makes the plan unreadable (log 24). -/
def State.planWords (s : State) (c : CCmd) (o n : Nat) : State × PlanRead :=
  match s.unitReadAll (c.actor c.behind) true (c.desc.place c.asid (c.off + o)) n 0 with
  | (s, .done, l, bad) => (s, if bad.isSome then .bad else .ok l)
  | (s, .parked _ d key, _, _) => (s, .parked d key)
  | (s, .wait _ b, _, _) => (s, .again b)
  | (s, _, _, _) => (s, .bad)
/-- A malformed plan completes with status 8 and a PAYLOAD of all ones (R434). -/
def State.badPlan (s : State) (die : Nat) (c : CCmd) : State := s.endCmd die c 8 (some (2 ^ 64 - 1))
/-- The command waits on a fault record. -/
def State.parkCmd (s : State) (die id d key : Nat) : State := s.modCmd die id fun c => { c with parked := some (d, key) }
/-- The plan is read, checked and started. -/
def State.loadPlan (s : State) (die : Nat) (c : CCmd) : State :=
  match s.planWords c 0 8 with
  | (s, .bad) => s.badPlan die c
  | (s, .again b) => s.cmdWaits die c b
  | (s, .parked d key) => s.parkCmd die c.id d key
  | (s, .ok h) =>
    let w := h.headD 0
    let nrank := bits w 46 40
    let nstep := w % 4096
    let n := planSteps nrank
    if !planHeaderOk h || nstep ≤ c.first || c.desc.limit < c.off + n + 64 * nstep ||
        (s.descBad c.thr c.desc c.off ⟨0, n + 64 * nstep, true, false⟩).isSome then s.badPlan die c
    else match s.planWords c 64 nrank with
    | (s, .bad) => s.badPlan die c
    | (s, .again b) => s.cmdWaits die c b
    | (s, .parked d key) => s.parkCmd die c.id d key
    | (s, .ok rs) =>
      if rs.any fun r => r / 2 ^ 19 ≠ 0 then s.badPlan die c
      else match s.planWords c n (8 * nstep) with
      | (s, .bad) => s.badPlan die c
      | (s, .again b) => s.cmdWaits die c b
      | (s, .parked d key) => s.parkCmd die c.id d key
      | (s, .ok l) =>
        let steps := cutSteps 0 nstep l
        if steps.any fun e => match e.2 with | some x => !s.stepOk die nrank nstep c x | none => false then s.badPlan die c
        else
          let steps := steps.drop c.first
          let s := s.modCmd die c.id fun c =>
            { c with loaded := true, plan := w / 2 ^ 48, rank := bits w 37 32, ranks := rs.map (BitVec.ofNat 64), steps := steps }
          steps.foldl (fun s e => s.postNow (.collectiveStep die c.id e.1)) s

/-! ### Pieces -/

/-- What a piece's reading came to. -/
inductive PieceRead
  | ok (data : List Byte)
  | parked (die key : Nat)
  | refused
  | again (behind : Option (Nat × Nat))
/-- Reads words from byte `pos` on; what a poisoned word sends is a free value (log 24). -/
def State.readWords (s : State) (u : Actor) (pl : Place) : Nat → Nat → State × PieceRead
  | 0, _ => (s, .ok [])
  | n + 1, pos =>
    match s.unitRead u true (pl.plus pos) 8 with
    | (s, .ok x) =>
      let q := if x.2 then s.drawWord else (s, x.1)
      (match q.1.readWords u pl n (pos + 8) with
       | (s, .ok l) => (s, .ok (natLe q.2 8 ++ l))
       | r => r)
    | (s, .parked d key) => (s, .parked d key)
    | (s, .wait a k) => (s, .again (some (a, k)))
    | (s, .stalled) => (s, .again none)
    | (s, _) => (s, .refused)
/-- Reads piece `k` at an address word: 4096 bytes, and with a tile's data its 128 sideband bytes. -/
def State.readPiece (s : State) (c : CCmd) (x : CStep) (w k : Nat) : State × PieceRead :=
  let pl := c.place w k
  match s.readWords (c.actor x.behind) pl 512 0 with
  | (s, .ok d) =>
    (match pl.sideband with
     | none => (s, .ok d)
     | some sb =>
       match s.readWords (c.actor x.behind) sb 16 0 with
       | (s, .ok e) => (s, .ok (d ++ e))
       | r => r)
  | r => r
/-- Whether ADMIT lets the engine write at a place (01 R28, R31). -/
def State.collAdmits (s : State) (c : CCmd) : Place → Bool
  | .glob _ _ => true
  | .chip a => chipShared a || (s.core (chipCore a)).admits (chipCore a) (s.partOf (coreOf c.thr)) (chipWin a) 256
/-- A step is parked on a fault record, having reached byte `pos` of a piece. -/
def State.parkStep (s : State) (die id k pos d key : Nat) : State :=
  s.modStep die id k fun x => { x with pos := pos, parked := some (d, key) }
/-- The next of a step's events, if it has more to do. -/
def State.stepMore (s : State) (die id k : Nat) (ended : Bool) : State :=
  if ended then s.postLat s.nextId (.collectiveStepCompletion die id k) else s.stepAgain die id k
/-- BARRIER of a step falls by one piece. -/
def State.pieceBarrier (s : State) (c : CCmd) (x : CStep) : State := if x.w 4 = 0 then s else s.barrierSub c.lid (x.w 4) 4096
/-- A received piece is landed or stored: its sender's credit returns, or its acknowledgement goes up the tree (R433,
R439). -/
def State.answerPiece (s : State) (c : CCmd) (k : Nat) (p : CPiece) : State :=
  s.azSend p.link (if p.group then 1 else 6) false [] p.src c.plan (if p.group then 1 else 0) k p.seq

/-! ### OP 0, 4 and 5 as they send (R439, R440) -/

/-- Sends one piece, group write or reduce-read request. -/
def State.sendPiece (s : State) (die id k : Nat) (c : CCmd) (x : CStep) : State :=
  let sat := c.satinf && x.ety = .s8
  let after := fun (s : State) =>
    let s := s.modStep die id k fun x => { x with next := x.next + 1, credits := if x.op = 0 then x.credits - 1 else x.credits }
    if x.op = 0 then
      let s := (s.pieceBarrier c x).modStep die id k fun x => { x with sentPieces := x.sentPieces + 1 }
      s.stepMore die id k (x.next + 1 = x.npiece)
    else s.stepAgain die id k
  let link := c.rankLink x.peer
  if x.op = 5 then after (s.azSend link 4 sat [] (x.w 6 % 2 ^ 16) c.plan 0 k x.next)
  else
    match s.readPiece c x (x.w 1) x.next with
    | (s, .ok d) =>
      if x.op = 0 then after (s.azSend link 0 sat d (c.rankMod x.peer) c.plan 0 k x.next)
      else after (s.azSend link 3 sat d (x.w 6 % 2 ^ 16) c.plan 0 k x.next)
    | (s, .parked d key) => s.parkStep die id k 0 d key
    | (s, .again b) => s.stepWaits die id k b
    | (s, .refused) => s.failStep die id k

/-! ### OP 1: landing (R438, 04 R124) -/

/-- The tile of a landing: the one that its queued request was granted, one granted at once, or none yet (04 R106, R108). -/
def State.landTile (s : State) (die id k : Nat) (c : CCmd) (x : CStep) (cl : Nat) : State × Option Word32 :=
  let s := s.grantScan cl
  let q := s.cluster cl
  match (((s.cmd die id).bind fun c => c.step k).getD x).tile with
  | some h => (s.modStep die id k fun x => { x with tile := none }, some h)
  | none =>
    if q.allocQ.any fun r => r.who = .landing die id k x.next then (s, none)
    else if q.grantsNow x.pool then
      let r := s.takeTile cl x.pool x.rcnt c.lid c.asid false
      (r.1, some r.2)
    else
      let r : AllocReq := ⟨.landing die id k x.next, x.pool, x.rcnt, c.lid, c.asid, false, 0⟩
      ((s.modCluster cl fun q => { q with allocQ := q.allocQ ++ [r] }).watchPool cl (Fin.ofNat 8 x.pool), none)
/-- One landing: tile, data and sideband, push, or the failure of a full ring (04 R117). -/
def State.landPiece (s : State) (die id k : Nat) (c : CCmd) (x : CStep) (p : CPiece) : State :=
  let core := x.w 3 % 2048
  let cl := core / 8
  let ring := x.w 3 / 2048
  let r := s.atPartR c.lid cl fun s =>
    match s.landTile die id k c x cl with
    | (s, none) => (s, none)
    | (s, some h) =>
      let i := handleIndex h
      let s := s.writeChipBytes (sharedWin cl 0 + i * 4096) 4096 (leNat (p.data.take 4096))
      let s := if p.data.length = 4224 then s.writeChipBytes (sharedWin cl 1 + i * 128) 128 (leNat (p.data.drop 4096)) else s
      let core := coreOf (s.forwarded c.id c.lid (core * 16))
      if 16 ≤ ((s.core core).ring ring).handles.length then ((s.freeTile cl i false), some false)
      else (s.pushRing core ring h, some true)
  match r.2 with
  | none => r.1
  | some false => r.1.failStep die id k
  | some true =>
    let s := (r.1.pieceBarrier c x).answerPiece c k p
    let s := s.modStep die id k fun x =>
      { x with next := x.next + 1, sentPieces := x.sentPieces + 1, early := x.early.filter fun y => y ≠ p }
    s.stepMore die id k (x.sentPieces + 1 = x.npiece)

/-! ### OP 2, 3 and 5: storing (R437, R440) -/

/-- Writes the rest of a piece at DST; then it is answered for. -/
def State.storePiece (s : State) (die id k : Nat) (c : CCmd) (x : CStep) (p : CPiece) : State :=
  let pl := c.place (x.w 2) p.seq
  if !s.collAdmits c pl then s.failStep die id k
  else match s.unitWriteAll (c.actor x.behind) true false pl ((bytesWords 512 p.data).drop (x.pos / 8)) x.pos with
  | (s, .parked pos d key) => s.parkStep die id k pos d key
  | (s, .wait pos b) => (s.modStep die id k fun x => { x with pos := pos }).stepWaits die id k b
  | (s, .done) =>
    let sb := match pl.sideband with
      | some q => if p.data.length = 4224 then s.unitWriteAll (c.actor none) true false q (bytesWords 16 (p.data.drop 4096)) 0 else (s, .done)
      | none => (s, .done)
    let s := sb.1.pieceBarrier c x
    let s := if x.op = 5 then s
      else if x.op = 3 then (x.early.filter fun y => y.seq = p.seq && y.rank < 64).foldl (fun s y => s.answerPiece c k y) s
      else s.answerPiece c k p
    let s := s.modStep die id k fun x =>
      { x with sentPieces := x.sentPieces + 1, pos := 0, early := x.early.filter fun y => y ≠ p && !(x.op = 3 && y.seq = p.seq) }
    s.stepMore die id k (x.sentPieces + 1 = x.npiece)
  | (s, _) => s.failStep die id k
/-- One element of a reduction in rank order (R437): contributions with their SATINF. -/
def reduceElem (ty : ElemTy) (satinf : Bool) (cs : List (Bool × Nat)) : Nat :=
  let w := elemW ty
  if ty.isInt then
    let sum := cs.foldl (fun (n : Int) c => sInt 32 (BitVec.ofInt 32 (n + sInt w c.2)).toNat) 0
    let lo : Int := -(2 ^ (w - 1))
    let hi : Int := 2 ^ (w - 1) - 1
    (BitVec.ofInt w (max lo (min hi sum))).toNat
  else
    let dec := fun (c : Bool × Nat) => decodeF ty c.1 c.2
    let f32 := fun (v : XVal) => (roundF .f32 false .rne 0 v).1
    match cs with
    | [] => 0
    | c :: cs =>
      let a := cs.foldl (fun a c => f32 (addF .rne (decodeF .f32 false a) (dec c)).1) (f32 (dec c).x)
      (roundF ty satinf .rne 0 (decodeF .f32 false a).x).1
/-- The elements of a word of a piece, reduced. -/
def reduceWord (ty : ElemTy) (satinf : Bool) (cs : List (Bool × Nat)) : Nat :=
  let w := elemW ty
  (List.range (64 / w)).foldl (fun n i =>
    n + reduceElem ty satinf (cs.map fun c => (c.1, c.2 / 2 ^ (w * i) % 2 ^ w)) * 2 ^ (w * i)) 0
/-- A piece reduced from the contributions in rank order. -/
def reducePiece (ty : ElemTy) (satinf : Bool) (cs : List (Bool × List Nat)) : List Byte :=
  wordBytes ((List.range 512).map fun i => reduceWord ty satinf (cs.map fun c => (c.1, c.2.getD i 0)))
/-- The piece of a reduction for which every other rank's contribution is held. -/
def CCmd.reducible (c : CCmd) (x : CStep) : Option Nat :=
  (x.early.map (·.seq)).find? fun q =>
    (List.range c.ranks.length).all fun r => r = c.rank || x.early.any fun y => y.seq = q && y.rank = r
/-- OP 3: a finished result is stored; otherwise a complete piece is reduced. -/
def State.reduceStep (s : State) (die id k : Nat) (c : CCmd) (x : CStep) : State :=
  match x.early.find? fun y => y.rank = 64 with
  | some p => s.storePiece die id k c x p
  | none =>
    match (if c.ranks.length = 1 then some x.sentPieces else c.reducible x) with
    | none => s
    | some q =>
      match s.readPiece c x (x.w 1) q with
      | (s, .ok own) =>
        let part := fun (r : Nat) =>
          if r = c.rank then (c.satinf, bytesWords 512 own)
          else match x.early.find? fun y => y.seq = q && y.rank = r with
            | some y => (y.satinf, bytesWords 512 y.data)
            | none => (false, [])
        let res : CPiece :=
          { rank := 64, seq := q, group := false, satinf := c.satinf, link := 0, src := 0,
            data := reducePiece x.ety c.satinf ((List.range c.ranks.length).map part) }
        (s.modStep die id k fun x => { x with early := x.early ++ [res] }).postNow (.collectiveStep die id k)
      | (s, .parked d key) => s.parkStep die id k 0 d key
      | (s, .again b) => s.stepWaits die id k b
      | (s, .refused) => s.failStep die id k
/-- Answers a reduce-read request with the piece at SRC (R440). -/
def State.replyPiece (s : State) (die id k : Nat) (c : CCmd) (x : CStep) (p : CPiece) : State :=
  match s.readPiece c x (x.w 1) p.seq with
  | (s, .ok d) =>
    let s := s.azSend p.link 5 (c.satinf && x.ety = .s8) d p.src c.plan 0 k p.seq
    (s.modStep die id k fun x => { x with early := x.early.filter fun y => y ≠ p }).stepAgain die id k
  | (s, .parked d key) => s.parkStep die id k 0 d key
  | (s, .again b) => s.stepWaits die id k b
  | (s, .refused) => s.failStep die id k

/-! ### COLLECTIVE_STEP and COLLECTIVE_STEP_COMPLETION (R435, R436) -/

/-- Whether a step may start: no step has failed, the step in its AFTER has completed, and its partition's context is live
on the issuer's cluster with no switch under way (16 R411). -/
def State.mayStart (s : State) (c : CCmd) (x : CStep) : Bool :=
  let cl := clusterOf c.thr
  c.failedStep.isNone && s.whereIs c.lid cl = .live && (s.cluster cl).switching.isNone &&
    (x.after = 0xFFF || x.after < c.first || (match c.step x.after with | some y => y.st = .done && !y.failed | none => true))
/-- The links a step works over. -/
def CCmd.linksOf (c : CCmd) (x : CStep) : List (Fin 8) :=
  if x.op = 3 then ((List.range c.ranks.length).filter (· ≠ c.rank)).map c.rankLink else [c.rankLink x.peer]
/-- What a running step does next. -/
def State.runStep (s : State) (die id k : Nat) (c : CCmd) (x : CStep) : State :=
  match (if x.pos = 0 then x.early.find? fun y => y.rank = 65 else none) with
  | some p => s.replyPiece die id k c x p
  | none =>
    if x.st = .done then s
    else if (c.linksOf x).any fun l => (s.link l).down && (s.link l).downSince + 2 ^ 20 ≤ s.cycle then s.failStep die id k
    else if x.op = 1 then
      (match x.early.find? fun y => y.seq = x.next with | some p => s.landPiece die id k c x p | none => s)
    else if x.op = 2 then (match x.early with | p :: _ => s.storePiece die id k c x p | [] => s)
    else if x.op = 3 then s.reduceStep die id k c x
    else
      match (if x.op = 5 then x.early.find? fun y => y.rank ≠ 65 else none) with
      | some p => s.storePiece die id k c x p
      | none =>
        if x.npiece ≤ x.next || (s.link (c.rankLink x.peer)).down then s
        else if x.op = 0 then (if x.credits = 0 then s else s.sendPiece die id k c x)
        else if 8 ≤ x.next - x.sentPieces then s
        else s.sendPiece die id k c x
/-- How many of a die's collective contexts are parked on faults (02 R63). -/
def Die.collParked (d : Die) : Nat :=
  (d.coll.filter fun c => c.parked.isSome).length +
    (d.coll.flatMap fun c => c.steps.filter fun e => match e.2 with | some x => x.parked.isSome | none => false).length

/-! ### Donation, as the issuer sees it (R441) -/

/-- The record is read and the image sent. The command's id is the packet's SEQ and the donation queue its STEP (log 25). -/
def State.donateStep (s : State) (die : Nat) (c : CCmd) : State :=
  if c.loaded then s
  else match s.planWords c 0 40 with
  | (s, .bad) => s.endCmd die c 9 none
  | (s, .again b) => s.cmdWaits die c b
  | (s, .parked d key) => s.parkCmd die c.id d key
  | (s, .ok l) =>
    let w := l.headD 0
    let link : Fin 8 := Fin.ofNat 8 (w / 2 ^ 16)
    if w / 2 ^ 19 ≠ 0 || !((l.drop 1).take 7).all (· = 0) then s.endCmd die c 9 none
    else if (s.link link).down then
      (if (s.link link).downSince + 2 ^ 20 ≤ s.cycle then s.endCmd die c 9 none
       else s.modCmd die c.id fun c => { c with ranks := [BitVec.ofNat 64 w] })
    else
      let s := s.azSend link 2 false (wordBytes (l.drop 8)) (w % 2 ^ 16) c.tag 0 c.dq c.id
      s.modCmd die c.id fun c => { c with loaded := true, ranks := [BitVec.ofNat 64 w] }
/-- COLLECTIVE_STEP: a command not yet loaded reads its plan or record once the writes before its push are performed; a
waiting step starts if it may; a running one goes on. -/
def State.collStep (s : State) (die id k : Nat) : State :=
  match s.cmd die id with
  | none => s
  | some c =>
    if !s.waitsOver c.waits then s.stepAgain die id k
    else if !c.loaded || c.donate then
      (match s.gate c.parked with
       | .wait => s
       | .rejected =>
         let s := (s.modCmd die id fun c => { c with parked := none }).seen c.parked
         if c.donate then s.endCmd die c 9 none else s.badPlan die c
       | .go =>
         if c.parked.isNone && 4 < (s.die die).collParked then s.stepAgain die id k
         else
           let s := s.modCmd die id fun c => { c with parked := none, behind := none }
           if c.donate then s.donateStep die c else s.loadPlan die c)
    else
      match c.step k with
      | none => s
      | some x =>
        match x.st with
        | .waiting =>
          if s.mayStart c x then (s.modStep die id k fun x => { x with st := .running }).postNow (.collectiveStep die id k)
          else if c.failedStep.isSome then s.settleCmd die id
          else if (s.whereIs c.lid (clusterOf c.thr)) ≠ .live || (s.cluster (clusterOf c.thr)).switching.isSome then s.stepAgain die id k
          else s
        | _ =>
          match s.gate x.parked with
          | .wait => s
          | .rejected =>
            let s := (s.modStep die id k fun x => { x with parked := none }).seen x.parked
            if x.st = .done then s else s.failStep die id k
          | .go =>
            if x.parked.isNone && 4 < (s.die die).collParked then s.stepAgain die id k
            else (s.modStep die id k fun x => { x with parked := none, behind := none }).runStep die id k c { x with parked := none }
/-- COLLECTIVE_STEP_COMPLETION: the step's writes are performed, so that the release is over; RELEASE falls by one with
REMOTE set, the steps that wait for this one start, and with the last the issuer gets its message (R435). -/
def State.collStepOver (s : State) (die id k : Nat) : State :=
  match s.cmd die id with
  | none => s
  | some c =>
    match c.step k with
    | none => s
    | some x =>
      if x.st ≠ .running || x.sentPieces < x.npiece then s
      else
        let s := s.modStep die id k fun x => { x with st := .done }
        let s := if x.w 5 = 0 then s
          else
            let f : Flight :=
              { id := s.nextId, thr := c.thr, pc := 0, lid := c.lid, asid := c.asid, born := s.cycle, sys := c.sys, pieces := [],
                kind := .counterDec (x.w 5) 1 true }
            ({ s with flights := s.flights ++ [f], nextId := s.nextId + 1 }).postLat f.id f.event
        let next := c.steps.filterMap fun e => match e.2 with
          | some y => if y.st = .waiting && y.after = k then some e.1 else none
          | none => none
        (next.foldl (fun s n => s.postNow (.collectiveStep die id n)) s).settleCmd die id

/-! ### What arrives (R432, R433, R439, R440) -/

/-- The step of a command in the module that a packet's PLAN and STEP name, if `ok` holds of it. -/
def State.stepNamed (s : State) (p : AzPkt) (ok : CCmd → CStep → Bool) : Option (Nat × CCmd × CStep) :=
  s.dies.findSome? fun d => d.2.coll.findSome? fun c =>
    if c.loaded && !c.donate && c.plan = azPlan p then
      match c.step (azStep p) with
      | some x => if azSeq p < x.npiece && ok c x then some (d.1, c, x) else none
      | none => none
    else none
/-- A packet is discarded and counted at the die controller of its link. -/
def State.azDiscard (s : State) (p : AzPkt) : State := s.modDie (p.link.val / 2) fun d => { d with discarded := d.discarded + 1 }
/-- A packet of type `ty` arrives over a link that is up: it is discarded, or `f` takes it. -/
def State.azArrives (s : State) (p : AzPkt) (ty : Nat) (f : State → State) : State :=
  if (s.link p.link).down then s else if azOk p ty then f s else s.azDiscard p
/-- A data piece for a receiving step: OP 1 and 2 take their peer's, OP 3 every rank's, OP 5 a switch's result. -/
def State.takePiece (s : State) (p : AzPkt) (group : Bool) : State :=
  let ok := fun (c : CCmd) (x : CStep) =>
    x.st ≠ .done && (x.op = 1 || x.op = 2 || x.op = 3) && (p.data.length = 4096 || p.data.length = 4224) &&
      (match c.rankOf (azSrc p) with
       | some r => (x.op = 3 || r = x.peer) && r ≠ c.rank && !x.early.any fun y => y.rank = r && y.seq = azSeq p
       | none => false)
  match s.stepNamed p ok with
  | none => s.azDiscard p
  | some (die, c, _) =>
    let e : CPiece :=
      { rank := (c.rankOf (azSrc p)).getD 0, seq := azSeq p, group := group, satinf := p.w0.getLsbD 57, link := p.link, src := azSrc p,
        data := p.data }
    (s.modStep die c.id (azStep p) fun x => { x with early := x.early ++ [e] }).postNow (.collectiveStep die c.id (azStep p))
/-- TYPE 6: a credit returns to a sending step. -/
def State.takeCredit (s : State) (p : AzPkt) : State :=
  match s.stepNamed p fun _ x => x.op = 0 && x.st = .running with
  | none => s.azDiscard p
  | some (die, c, _) =>
    (s.modStep die c.id (azStep p) fun x => { x with credits := x.credits + 1 }).postNow (.collectiveStep die c.id (azStep p))
/-- TYPE 1: receivers of a group write's piece acknowledge; the piece is over when the COUNTs sum to GROUPN. Or a donation
is answered: COUNT 1 accepts, 0 refuses it (log 25). -/
def State.takeAck (s : State) (p : AzPkt) : State :=
  match s.stepNamed p fun _ x => x.op = 4 && x.st = .running with
  | some (die, c, x) =>
    let n := bits (x.w 6) 31 16
    let old := mapGet 0 x.acks (azSeq p)
    let s := s.modStep die c.id (azStep p) fun x => { x with acks := mapPut 0 x.acks (azSeq p) (old + azCount p) }
    if old < n && n ≤ old + azCount p then
      let s := (s.pieceBarrier c x).modStep die c.id (azStep p) fun x => { x with sentPieces := x.sentPieces + 1 }
      s.stepMore die c.id (azStep p) (x.sentPieces + 1 = x.npiece)
    else s
  | none =>
    let mine := fun (c : CCmd) => c.donate && c.loaded && c.id % 2 ^ 24 = azSeq p && c.tag = azPlan p && c.dq = azStep p
    match s.dies.findSome? fun d => (d.2.coll.find? mine).map fun c => (d.1, c) with
    | some (die, c) => s.endCmd die c (if azCount p = 0 then 9 else 0) none
    | none => s.azDiscard p
/-- TYPE 4: a switch asks for the piece at SRC of the matching step. -/
def State.takeRequest (s : State) (p : AzPkt) : State :=
  match s.stepNamed p fun _ x => x.op = 5 && p.data = [] with
  | none => s.azDiscard p
  | some (die, c, _) =>
    let e : CPiece := { rank := 65, seq := azSeq p, group := false, satinf := false, link := p.link, src := azSrc p, data := [] }
    (s.modStep die c.id (azStep p) fun x => { x with early := x.early ++ [e] }).postNow (.collectiveStep die c.id (azStep p))
/-- TYPE 5: the switch's result for a piece. -/
def State.takeReply (s : State) (p : AzPkt) : State :=
  match s.stepNamed p fun _ x =>
      x.op = 5 && x.st = .running && azSeq p < x.next && (p.data.length = 4096 || p.data.length = 4224) with
  | none => s.azDiscard p
  | some (die, c, _) =>
    let e : CPiece :=
      { rank := 0, seq := azSeq p, group := false, satinf := p.w0.getLsbD 57, link := p.link, src := azSrc p, data := p.data }
    (s.modStep die c.id (azStep p) fun x => { x with early := x.early ++ [e] }).postNow (.collectiveStep die c.id (azStep p))
/-- Writes a slot image into the slot of a queue at WR, with the VALID byte of that slot's pass (15 R382). -/
def State.putSlot (s : State) (q n : Nat) (image : List Byte) : State :=
  let k := s.queue q
  let valid : Byte := if n / k.size % 2 = 0 then 0x5A else 0xA5
  s.writeHome none (k.ring + n % k.size * 256) ((image.take 255 ++ [valid]).map some)
/-- TYPE 2: a donation is accepted into the mapped queue, or refused (R441). -/
def State.takeDonation (s : State) (p : AzPkt) : State :=
  let answer := fun (s : State) (n : Nat) => s.azSend p.link 1 false [] (azSrc p) (azPlan p) n (azStep p) (azSeq p)
  if p.data.length ≠ 256 then s.azDiscard p
  else match mapGet none s.donMap (azStep p) with
  | none => answer s 0
  | some q =>
    let k := s.queue q
    if !k.defined || k.rd + k.size < k.wr + 1 || (p.data.getD 252 0) ≠ 0 then answer s 0
    else answer ((s.putSlot q k.wr p.data).notifyIndex q (k.wr + 1)) 1

/-! ### Links (R431, R436) -/

/-- Commands and steps that work over a link are looked at again. -/
def State.wakeLink (s : State) (l : Fin 8) : State :=
  s.dies.foldl (fun s d => d.2.coll.foldl (fun s c =>
    if c.donate then (if !c.loaded && c.ranks ≠ [] && c.rankLink 0 = l then s.postNow (.collectiveStep d.1 c.id c.first) else s)
    else c.steps.foldl (fun s e => match e.2 with
      | some x => if x.st = .running && (c.linksOf x).contains l then s.postNow (.collectiveStep d.1 c.id e.1) else s
      | none => s) s) s) s
/-- AZRUM_LINK_DOWN: steps fail when it stays down for 2^20 cycles. -/
def State.linkFalls (s : State) (l : Fin 8) : State :=
  if (s.link l).down then s
  else (s.modLink l fun x => { x with down := true, downSince := s.cycle }).post (s.cycle + 2 ^ 20) (.linkDownTimeout l)
/-- AZRUM_LINK_UP. -/
def State.linkRises (s : State) (l : Fin 8) : State :=
  if (s.link l).down then (s.modLink l fun x => { x with down := false }).wakeLink l else s
/-- LINK_DOWN_TIMEOUT. -/
def State.linkTimeout (s : State) (l : Fin 8) : State :=
  if (s.link l).down && (s.link l).downSince + 2 ^ 20 ≤ s.cycle then s.wakeLink l else s
/-- LINK_FRAME_CRC_ERROR: a resend from that frame is asked for; flits stay in order (R431). -/
def State.linkCrc (s : State) (l : Fin 8) : State :=
  if (s.link l).down then s else (s.modLink l fun x => { x with resends := x.resends + 1 }).emit (.resend l.val)

/-! ### Events -/

/-- COLLECTIVE_STEP. -/
def execCollectiveStep (die cmd step : Nat) (s : State) : Res := .next (s.collStep die cmd step)
/-- COLLECTIVE_STEP_COMPLETION. -/
def execCollectiveStepCompletion (die cmd step : Nat) (s : State) : Res := .next (s.collStepOver die cmd step)
/-- COLLECTIVE_DATA. -/
def execCollectiveData (p : AzPkt) (s : State) : Res := .next (s.azArrives p 0 fun s => s.takePiece p false)
/-- COLLECTIVE_ACKNOWLEDGEMENT. -/
def execCollectiveAcknowledgement (p : AzPkt) (s : State) : Res := .next (s.azArrives p 1 fun s => s.takeAck p)
/-- DONATION. -/
def execDonation (p : AzPkt) (s : State) : Res := .next (s.azArrives p 2 fun s => s.takeDonation p)
/-- GROUP_WRITE. -/
def execGroupWrite (p : AzPkt) (s : State) : Res := .next (s.azArrives p 3 fun s => s.takePiece p true)
/-- REDUCE_READ_REQUEST. -/
def execReduceReadRequest (p : AzPkt) (s : State) : Res := .next (s.azArrives p 4 fun s => s.takeRequest p)
/-- REDUCE_READ_REPLY. -/
def execReduceReadReply (p : AzPkt) (s : State) : Res := .next (s.azArrives p 5 fun s => s.takeReply p)
/-- CREDIT. -/
def execCredit (p : AzPkt) (s : State) : Res := .next (s.azArrives p 6 fun s => s.takeCredit p)
/-- LINK_FRAME_CRC_ERROR. -/
def execLinkFrameCrcError (link : Fin 8) (s : State) : Res := .next (s.linkCrc link)
/-- LINK_DOWN_TIMEOUT. -/
def execLinkDownTimeout (link : Fin 8) (s : State) : Res := .next (s.linkTimeout link)
/-- AZRUM_LINK_DOWN. -/
def execAzrumLinkDown (link : Fin 8) (s : State) : Res := .next (s.linkFalls link)
/-- AZRUM_LINK_UP. -/
def execAzrumLinkUp (link : Fin 8) (s : State) : Res := .next (s.linkRises link)

end Sys2Proof.Machine
end

