-- ==== Sys2Proof/Machine/Steal.lean ====
section
/-! DEFINITION. Work stealing: the probe ladder (07 R200, R201, R204), grants (R202, R203), the cross-cluster steal with
its release, header, named tiles (04 R122) and delivery (05 R148). -/

namespace Sys2Proof.Machine

/-! ### The probe ladder -/

/-- Whether the steal engine of a core runs (R200). -/
def State.stealRuns (s : State) (c : Nat) : Bool :=
  let cl := s.cluster (c / 8)
  s.idleSlots c ≠ [] && (s.idleSlots c).all (fun t => (s.candidate c t).isNone) && !(s.core c).fenced &&
    cl.part == some (s.partOf c) && cl.switching.isNone && s.launched (s.partOf c)

/-- A core that has ceased to be eligible forgets its failed rounds (R204). -/
def State.calm (s : State) (c : Nat) : State := if s.stealRuns c then s else s.modCore c fun k => { k with failed := 0 }

/-- What a step of the ladder probes. -/
inductive Target
  | core (c : Nat)
  | cluster (cl : Nat)
  deriving DecidableEq, Repr

/-- The clusters of a list that lie in a mask. -/
def inMask (m : BitVec 256) (l : List Nat) : List Nat := l.filter fun k => m.getLsbD k
/-- The clusters of a die. -/
def dieClusters (d : Nat) : List Nat := (List.range 64).map fun i => d * 64 + i
/-- The mesh distance of two clusters of a die (01 R1). -/
def meshDist (a b : Nat) : Nat :=
  let dx := (a % 8 - b % 8) + (b % 8 - a % 8)
  let dy := (a % 64 / 8 - b % 64 / 8) + (b % 64 / 8 - a % 64 / 8)
  dx + dy
/-- The list from position `k` on, then its beginning. -/
def rotate {α : Type} (l : List α) (k : Nat) : List α := l.drop k ++ l.take k
/-- The ladder of a core in round `r` (R201). -/
def ladderOf (c r : Nat) (mask : BitVec 256) : List Target :=
  let cl := c / 8
  let d := cl / 64
  let near := (List.range 7).map fun i => Target.core (cl * 8 + (c % 8 + 1 + i) % 8)
  let ring := fun (k : Nat) => (inMask mask (dieClusters d)).filter fun x => meshDist x cl = k
  let rings := (List.range 14).flatMap fun k =>
    let l := ring (k + 1)
    (rotate l (r % l.length)).map Target.cluster
  let far := (List.range 3).flatMap fun k =>
    let l := inMask mask (dieClusters ((d + 1 + k) % 4))
    (l[(r + cl % 64) % l.length]?).toList.map Target.cluster
  near ++ rings ++ far

/-- Whether a core runs the speculation of a launch in some slot (06 R173). -/
def State.runsSpec (s : State) (c : Nat) (sid : Fin 4) : Bool :=
  match mapGet none s.specs sid.val with
  | some sp => (List.range 16).any fun i => sp.holds (c * 16 + i)
  | none => false
/-- Whether a thief may steal an entry: it has an IDLE slot that may take it (R202, 06 R173). -/
def State.stealable (s : State) (thief : Nat) (e : DqEntry) : Bool :=
  match s.launch e.launch with
  | none => false
  | some l =>
    !l.killed && l.part == s.partOf thief && !e.inSteal && (s.slotFor thief e.launch).isSome &&
      (match s.specOf e.launch with | none => true | some sid => s.runsSpec thief sid) &&
      (match e.kind with
       | 0 => !e.refused.contains (thief / 8)
       | 1 => (l.hdr.split e.lo e.hi e.floor).isSome
       | _ => false)
/-- The entry with its words as its spill place holds them. -/
def State.current (s : State) (c : Nat) (e : DqEntry) : DqEntry :=
  match e.place with | some i => { s.getPlace c i e with place := some i } | none => e
/-- The oldest stealable entry of a core (R202). -/
def State.victimEntry (s : State) (victim thief : Nat) : Option DqEntry :=
  if (s.cluster (victim / 8)).switching.isSome then none
  else (s.core victim).entries.find? fun e => s.stealable thief (s.current victim e)

/-- The probe of one step of the ladder: the first core of the target with a grant to give (R201). -/
def State.probeTarget (s : State) (thief : Nat) (t : Target) : State × Option Nat :=
  match t with
  | .core v => (s, if (s.victimEntry v thief).isSome then some v else none)
  | .cluster cl =>
    let p := (s.cluster cl).stealPtr
    let s := s.modCluster cl fun c => { c with stealPtr := (p + 1) % 8 }
    (s, ((List.range 8).map fun i => cl * 8 + (p + i) % 8).find? fun v => (s.victimEntry v thief).isSome)

/-- STEAL_PROBE: one probe of the round; a grant is asked of the victim, a refusal goes on to the next step, and a round
without a grant is followed by the pause of R204. -/
def State.stealProbe (s : State) (c : Nat) : State :=
  let k := s.core c
  if k.pausing then s
  else if !s.stealRuns c then s.modCore c fun k => { k with probing := false, failed := 0, ladder := 0 }
  else
    match (ladderOf c k.round k.cmask)[k.ladder]? with
    | some t =>
      let r := s.probeTarget c t
      match r.2 with
      | some v => (r.1.modCore c fun k => { k with probing := true }).postNow (.stealGrant v c)
      | none => (r.1.modCore c fun k => { k with probing := true, ladder := k.ladder + 1 }).postLat r.1.nextId (.stealProbe c)
    | none =>
      (s.modCore c fun k =>
        { k with probing := false, pausing := true, ladder := 0, round := (k.round + 1) % 2 ^ 32, failed := k.failed + 1 }).post
        (s.cycle + 64 * 2 ^ min k.failed 6) (.probePauseExpiry c)
/-- PROBE_PAUSE_EXPIRY. -/
def State.pauseOver (s : State) (c : Nat) : State :=
  (s.modCore c fun k => { k with pausing := false }).stealProbe c

/-- The thief goes on with its round after a refusal (R203). -/
def State.roundGoesOn (s : State) (thief : Nat) : State :=
  (s.modCore thief fun k => { k with ladder := k.ladder + 1 }).stealProbe thief

/-! ### Grants (R202, R203) -/

/-- A steal of `entry` is sent on its way by the victim's core. -/
def State.sendSteal (s : State) (e : DqEntry) (victim thief : Nat) (cross piece released : Bool) (waits : List Nat) : State :=
  let e := { e with waits := e.waits ++ waits }
  let f : Flight :=
    { id := s.nextId, thr := victim * 16, pc := BitVec.ofNat 64 e.lo, lid := e.launch, asid := s.asidOf e.launch,
      born := s.cycle, sys := false, pieces := [], kind := .steal e victim thief cross piece [] released [] }
  let s := { s with flights := s.flights ++ [f], nextId := s.nextId + 1 }
  let s := s.countSent e.launch (victim / 8)
  s.postLat f.id f.event

/-- STEAL_GRANT: the oldest stealable entry. A range is split at once; within the cluster the entry leaves at once;
across clusters a continuation is marked in steal and the release of 05 R148 is waited for: the pushing thread's writes and
the outbound ones of the victim's cluster, so far. -/
def State.stealGrant (s : State) (victim thief : Nat) : State :=
  match s.victimEntry victim thief with
  | none => s.roundGoesOn thief
  | some e0 =>
    let e := s.current victim e0
    let s := s.modCore thief fun k => { k with failed := 0 }
    let cross := decide (victim / 8 ≠ thief / 8)
    let w := if cross then s.pushWaits (victim * 16 + e.slot) else (s, [])
    let s := w.1
    if e.kind = 1 then
      match s.launch e.launch with
      | none => s
      | some l =>
        match l.hdr.split e.lo e.hi e.floor with
        | none => s.roundGoesOn thief
        | some b =>
          let s := s.replaceEntry victim e0 { e with hi := b }
          s.sendSteal { e with lo := b, place := none } victim thief cross true (!cross) w.2
    else if cross then
      (s.replaceEntry victim e0 { e with inSteal := true }).sendSteal { e with inSteal := true } victim thief true false false w.2
    else (s.removeEntry victim e0 true).sendSteal { e with place := none } victim thief false false true []

/-! ### The named tiles (04 R122) -/

/-- The handles of a frame header's four places. -/
def namedTiles (b : List Byte) : List (Nat × Word32) :=
  ((List.range 4).map fun k => (k, BitVec.ofNat 32 (leNat ((b.drop (16 + 4 * k)).take 4)))).filter fun e => e.2 ≠ 0
/-- Step 1: whether a named handle allows the steal. -/
def State.tileMovable (s : State) (h : Word32) : Bool :=
  s.handleCurrent h && (s.tile (handleCluster h) (handleIndex h)).use = 0
/-- Step 2: one allocation at the thief per named tile, in the order of the places; answers the victim and thief handles of those
granted, and whether all were. -/
def State.tilesAt (s : State) (cl : Nat) : List (Nat × Word32) → State × List (Word32 × Word32) × Bool
  | [] => (s, [], true)
  | (_, h) :: rest =>
    let t := s.tile (handleCluster h) (handleIndex h)
    if (s.cluster cl).grantsNow t.ppart then
      let r := s.takeTile cl t.ppart t.count t.launch t.asid t.spec
      let q := r.1.tilesAt cl rest
      (q.1, (h, r.2) :: q.2.1, q.2.2)
    else (s, [], false)
/-- Grants already made are returned. -/
def State.returnTiles (s : State) (cl : Nat) (l : List (Word32 × Word32)) : State :=
  l.foldl (fun s m => s.freeTile cl (handleIndex m.2) false) s
/-- Writes bytes of a frame for the steal engine: to the dry-fit line of a speculation, which must have declared them, else at
their home (06 R165, R167). -/
def State.writeFrame (s : State) (lid va pa : Nat) (bs : List Byte) : State :=
  match s.specOf lid with
  | some sid =>
    if inRanges (s.ranges lid).2 va bs.length then s.writeDry sid pa (bs.map some) else s.discard sid 3
  | none => s.writeHome none pa (bs.map some)
/-- Step 3 begins: the victim's tile is in transfer. -/
def State.beginMove (s : State) (v : Word32) : State := s.modTile (handleCluster v) (handleIndex v) fun t => { t with st := .transfer }
/-- Steps 3 and 4 end: the bytes are copied, the thief's tile is dirty, the victim's is freed (R103). -/
def State.moveTile (s : State) (m : Word32 × Word32) : State :=
  let v := m.1
  let n := m.2
  let s := ((tileParts (handleCluster v) (handleIndex v)).zip (tileParts (handleCluster n) (handleIndex n))).foldl (fun s p =>
    let s := { s.clearPoison (chipKey p.2.1) p.2.2 with mem := writeList s.mem (chipKey p.2.1) (readList s.mem (chipKey p.1.1) p.2.2) }
    let bad := s.poison.filter fun e => chipKey p.1.1 / 8 ≤ e.1 && e.1 < (chipKey p.1.1 + p.1.2) / 8
    bad.foldl (fun s e => s.setPoison (e.1 * 8 - chipKey p.1.1 + chipKey p.2.1)) s) s
  let s := s.modTile (handleCluster n) (handleIndex n) fun t => { t with dirty := true, zf := false, ctxBit := true, wrote := s.cycle + 1 }
  s.freeTile (handleCluster v) (handleIndex v) false

/-! ### Release, header, removal (R203 steps 2 and 3) -/

/-- The marked entry at the victim. -/
def State.markedEntry (s : State) (victim : Nat) (e : DqEntry) : Option DqEntry :=
  (s.core victim).entries.find? fun x => x.inSteal && x.seq = e.seq && x.launch = e.launch
/-- A refused steal leaves the entry as it stood, with the refusal mark of R202. -/
def State.refuseSteal (s : State) (id : Nat) (e : DqEntry) (victim thief : Nat) : State :=
  let s := s.dropFlight id
  let s := (s.countRecvd e.launch (victim / 8))
  let s := match s.markedEntry victim e with
    | some x => (s.replaceEntry victim x { x with inSteal := false, refused := (thief / 8) :: x.refused }).dequeRoom victim
    | none => s
  (s.postNow (.dispatch victim)).roundGoesOn thief

/-- The frame's places with the thief's handles, each a write of four bytes. -/
def State.renameTiles (s : State) (lid va pa : Nat) (places : List Nat) (moves : List (Word32 × Word32)) : State :=
  (places.zip moves).foldl (fun s m => s.writeFrame lid (va + 16 + 4 * m.1) (pa + 16 + 4 * m.1) (natLe m.2.2.toNat 4)) s
/-- The continuation's header is at hand at `pa`: checked, REMOTE and STOLEN written, the entry removed, its tiles in transfer
to those allocated at the thief (R203 step 3, 04 R122). -/
def State.takeStolen (s : State) (id : Nat) (e : DqEntry) (victim thief va pa : Nat) : State :=
  match s.launch e.launch with
  | none => s
  | some l =>
    let sid := s.specOf e.launch
    let b := s.homeBytes sid pa 64
    let jca := hdrWord b 1
    let named := namedTiles b
    if !s.headerOk l.part b then s.launchError e.launch 2
    else if !named.all (fun h => s.tileMovable h.2) then s.refuseSteal id e victim thief
    else
      let r := (if named = [] then s else s.grantScan (thief / 8)).tilesAt (thief / 8) named
      if !r.2.2 then (r.1.returnTiles (thief / 8) r.2.1).refuseSteal id e victim thief
      else
        let moves := r.2.1
        let s := r.1.atPart e.launch (chipCluster jca) fun s =>
          s.changing e.launch jca fun s => s.writeChipBytes jca 8 (readLe s.mem (chipKey jca) 8 ||| 2 ^ 63)
        s.stillRuns r.1 e.launch fun s =>
          let s' := s.writeFrame e.launch (va + 40) (pa + 40) (natLe (hdrWord b 5 ||| 2 ^ 42) 8)
          s'.stillRuns s e.launch fun s =>
            let s := match s.markedEntry victim e with | some x => s.removeEntry victim x true | none => s
            let s := moves.foldl (fun s m => s.beginMove m.1) s
            let s' := s.renameTiles e.launch va pa (named.map (·.1)) moves
            s'.stillRuns s e.launch fun s =>
              (s.modFlight id fun f =>
                { f with kind := .steal { e with inSteal := false, place := none } victim thief true false (s.homeBytes sid pa 64) true moves,
                         pieces := [] }).postLat id (.stealDelivery id)

/-- STEAL_RELEASE_DONE: the release of 05 R148 is awaited; then a range piece is sent, or the continuation's header is
read at its home through the victim's port, to be written there: a fault is recorded and the steal waits for its replay
(02 R59); a speculation's header lies in its ranges and is not poisoned (06 R165, R175). -/
def State.stealRelease (s : State) (id : Nat) : State :=
  match s.flight id with
  | none => s
  | some f =>
    match f.kind with
    | .steal e victim thief cross piece hdr false _ =>
      if e.waits.any s.ticketBusy then s.postLat id (.stealReleaseDone id)
      else if piece then
        (s.modFlight id fun f => { f with kind := .steal { e with acq := true, waits := [] } victim thief cross piece hdr true [] }).postLat
          id (.stealDelivery id)
      else
        let asid := s.asidOf e.launch
        let va := e.frame.toNat
        let u : Actor := { thr := victim * 16, lid := e.launch, asid := asid, sys := false, who := some (id, 0) }
        let seen := fun (s : State) (x : UnitRes Nat) (k : State → Nat → State) =>
          match x with
          | .ok pa => k s pa
          | .parked d key => s.modFlight id fun f => { f with pieces := [⟨.glob asid va, 64, 0, .parked d key⟩] }
          | .gone => s
          | _ => s.postLat id (.stealReleaseDone id)
        let r := s.unitTranslate u va .read true
        seen r.1 r.2 fun s _ =>
          let q := s.unitTranslate u va .write true
          seen q.1 q.2 fun s pa =>
            match s.specOf e.launch with
            | some sid =>
              if !s.specLoadOk e.launch sid va pa 64 then s.discard sid 2
              else if s.poisoned pa 64 then s.discard sid 12
              else s.takeStolen id { e with waits := [] } victim thief va pa
            | none =>
              if s.poisoned pa 64 then s.launchError e.launch 2
              else s.takeStolen id { e with waits := [] } victim thief va pa
    | _ => s

/-! ### Delivery (R203 step 4) -/

/-- The thief's slot for a delivered entry (R191, R203). -/
def State.thiefSlot (s : State) (thief : Nat) (e : DqEntry) : Option Nat :=
  if s.mayRun thief e.launch then s.slotFor thief e.launch else none
/-- A delivered steal is over: the round has ended with a grant (R201), and the thief's dispatch looks. -/
def State.stealOver (s : State) (id lid thief : Nat) : State :=
  let s := (s.dropFlight id).countRecvd lid (thief / 8)
  (s.modCore thief fun k => { k with probing := false, ladder := 0, round := (k.round + 1) % 2 ^ 32 }).postNow (.dispatch thief)
/-- STEAL_DELIVERY: the named tiles have arrived. The thief's lowest IDLE slot takes the entry: a continuation, after the
thief-side acquire for one from another cluster, or the first ordinal of a range piece, the rest of which is pushed; where no
slot may take it the thief pushes it at its own tail. -/
def State.stealDeliver (s : State) (id : Nat) : State :=
  match s.flight id with
  | none => s
  | some f =>
    match f.kind with
    | .steal e victim thief cross piece hdr true moves =>
      let s := moves.foldl State.moveTile s
      let later := fun (s : State) =>
        (s.modFlight id fun f => { f with kind := .steal e victim thief cross piece hdr true [] }).postLat id (.stealDelivery id)
      let e := { e with refused := [] }
      let acquire := fun (s : State) =>
        if cross && !piece then s.thiefAcquire (thief / 8) e.launch e.frame (hdrWord hdr 5 % 2 ^ 32) else s
      match s.thiefSlot thief e with
      | some t =>
        if piece && e.lo + 2 ≤ e.hi then
          if (s.core thief).canPush then
            ((s.stealOver id e.launch thief).pushTail thief { e with lo := e.lo + 1 }).beginTask t { e with hi := e.lo + 1 }
          else later s
        else
          let s := (acquire (s.stealOver id e.launch thief)).beginTask t e
          if cross && !piece && (s.slot t).status = .dispatching then
            (s.modSlot t fun x => { x with hdrWait := false }).startTask t { e with acq := false } hdr
          else s
      | none =>
        if (s.core thief).canPush then (acquire (s.stealOver id e.launch thief)).pushTail thief e
        else later s
    | _ => s

/-- STEAL_PROBE (R200, R201). -/
def execStealProbe (core : Nat) (s : State) : Res := .next (s.stealProbe core)
/-- STEAL_GRANT (R202, R203). -/
def execStealGrant (victim thief : Nat) (s : State) : Res := .next (s.stealGrant victim thief)
/-- STEAL_RELEASE_DONE (R203, 05 R148). -/
def execStealReleaseDone (id : Nat) (s : State) : Res := .next (s.stealRelease id)
/-- STEAL_DELIVERY (R203). -/
def execStealDelivery (id : Nat) (s : State) : Res := .next (s.stealDeliver id)
/-- PROBE_PAUSE_EXPIRY (R204). -/
def execProbePauseExpiry (core : Nat) (s : State) : Res := .next (s.pauseOver core)

end Sys2Proof.Machine
end

