-- ==== Sys2Proof/Machine/System.lean ====
section
/-! DEFINITION. Control and format registers (09 R247, 10 R272-R274), traps, halting and returning (10 R275-R278,
16 R405, R406, R409), and the issue-time events: illegal instruction, fetch trap, deferred trap (09 R246, 01 R15, 02 R60). -/

namespace Sys2Proof.Machine

/-! ### Control registers (R247, R272, R273) -/

/-- A control register as it reads at thread `t` in this cycle (R247, R273). -/
def State.readCr (s : State) (t n : Nat) : Word :=
  let x := s.slot t
  match n with
  | 0 => x.tpc
  | 1 => x.tcause
  | 2 => x.tval
  | 3 => x.tstat
  | 4 => x.tvec
  | 5 => x.fflags
  | 6 => x.fmode
  | 7 => x.rseed
  | 8 => x.wid
  | 9 => x.lid
  | 10 => BitVec.ofNat 64 (t % 16)
  | 11 => BitVec.ofNat 64 (coreOf t)
  | 12 => BitVec.ofNat 64 s.cycle
  | 13 => BitVec.ofNat 64 x.sbcnt
  | 14 => x.prio
  | _ => 0
/-- A control register written (R273). -/
def Slot.writeCr (x : Slot) (n : Nat) (v : Word) : Slot :=
  match n with
  | 0 => { x with tpc := v &&& ~~~(3 : Word) }
  | 1 => { x with tcause := v &&& 0xFF }
  | 2 => { x with tval := v }
  | 3 => { x with tstat := v &&& tstatMask }
  | 4 => { x with tvec := v &&& ~~~(3 : Word) }
  | 5 => { x with fflags := v &&& 0x1F }
  | 6 => { x with fmode := v }
  | 7 => { x with rseed := v &&& 0xFFFFFFFF }
  | _ => x
/-- CRWR, CRSET and CRCLR (R272): step 2 and 3 of R238, the source, the refusal of fmode, then old value and write. -/
def State.writeControl (s : State) (word : Nat) (o : CrW) (f : Word → Word → Word) : State :=
  if 8 ≤ o.cr.val then s.illegal word
  else
    let go := fun (s : State) => s.withSrcs [.g o.a o.qa] fun s =>
      let x := s.slot s.cur
      let old := s.readCr s.cur o.cr
      let new := f old (x.rg o.a)
      if o.cr.val = 6 && !fmodeOk new.toNat then s.illegal new.toNat
      else s.finish fun x => (x.writeCr o.cr new).wg o.d old
    if o.cr.val < 5 then s.privileged word go else go s

/-- CRRD (R272). -/
def execCrrd (d cr : Fin 32) (s : State) : Res :=
  .next (
    if 15 ≤ cr.val then s.illegal (wordOf (.crrd d cr))
    else
      let go := fun (s : State) => s.finish fun x => x.wg d (s.readCr s.cur cr)
      if cr.val < 5 then s.privileged (wordOf (.crrd d cr)) go else go s)
/-- CRWR (R272). -/
def execCrwr (o : CrW) (s : State) : Res := .next (s.writeControl (wordOf (.crwr o)) o fun _ a => a)
/-- CRSET (R272). -/
def execCrset (o : CrW) (s : State) : Res := .next (s.writeControl (wordOf (.crset o)) o fun old a => old ||| a)
/-- CRCLR (R272). -/
def execCrclr (o : CrW) (s : State) : Res := .next (s.writeControl (wordOf (.crclr o)) o fun old a => old &&& ~~~a)

/-! ### Format registers (R274) -/

/-- FSSET (R274): an invalid descriptor traps with both registers unchanged. -/
def execFsset (o : FsW) (s : State) : Res :=
  .next (s.withSrcs [.g o.a o.qa] fun s =>
    let a := (s.slot s.cur).rg o.a
    if !fsValid a.toNat then s.illegal a.toNat
    else s.finish fun x => (x.wfs o.fs a).wg o.d (x.rfs o.fs))
/-- FSRD (R274). -/
def execFsrd (d : Fin 32) (fs : Fin 4) (s : State) : Res := .next (s.finish fun x => x.wg d (x.rfs fs))

/-! ### Traps, halting, returning -/

/-- TRAP (R275). -/
def execTrap (o : Ra) (s : State) : Res :=
  .next (s.withSrcs [.g o.a o.qa] fun s => s.trapExact 20 ((s.slot s.cur).rg o.a))
/-- Whether a thread's launch is being killed (16 R420). -/
def State.killedOf (s : State) (lid : Nat) : Bool :=
  match s.launch lid with | some l => l.killed | none => true
/-- A slot that stops in system mode at TRET or HALT: parked if pre-empted (16 R409), IDLE if its launch was killed
(R420). -/
def State.stopAt (s : State) (t : Nat) : State :=
  let x := s.slot t
  let killed := match x.task with | some l => s.killedOf l | none => false
  if killed then (s.setSlot t x.toIdle).postNow (.dispatch (coreOf t))
  else if x.preempt then s.setSlot t { x with status := .parked, preempt := false }
  else s
/-- TRET (R276): PC and mode from tpc and PMODE, INH cleared; a held pre-emption takes effect (R409). -/
def execTret (s : State) : Res :=
  .next (s.privileged (wordOf .tret) fun s => (s.modSlot s.cur Slot.trapReturn).stopAt s.cur)
/-- The body of an event that names a thread and a PC (10 R277, R278, 17 R430). -/
def haltBody (t : Nat) (pc : Word) : List Byte := natLe t 8 ++ natLe pc.toNat 8
/-- HALT (R277): the slot is HALTED and the host is told; a killed launch's slot becomes IDLE instead (R420). -/
def execHalt (s : State) : Res :=
  .next (s.privileged (wordOf .halt) fun s =>
    let x := s.slot s.cur
    let s := s.setSlot s.cur { x with status := .halted, preempt := false }
    (s.raise 0x101 (haltBody s.cur x.pc)).stopAt s.cur)
/-- tstat with the mode saved in PMODE and nothing else changed (R278). -/
def Slot.breakStat (x : Slot) : Word := (x.tstat &&& ~~~tstatPmode) ||| (if x.mode = .system then tstatPmode else 0)
/-- BREAK (R278): tpc, tcause and tval as the breakpoint gives them and the mode in tstat, the rest of which is kept; no handler: the
slot is HALTED as by HALT. -/
def execBreak (o : Ra) (s : State) : Res :=
  .next (s.withSrcs [.g o.a o.qa] fun s =>
    let x := s.slot s.cur
    match s.specOf x.lidN with
    | some sid => s.discard sid 14
    | none =>
      let s := s.setSlot s.cur { x with tpc := x.pc &&& ~~~(3 : Word), tcause := 21, tval := x.rg o.a, tstat := x.breakStat, status := .halted, preempt := false }
      (s.raise 0x102 (haltBody s.cur x.pc ++ natLe (x.rg o.a).toNat 8)).stopAt s.cur)

/-! ### Issue-time events -/

/-- ILLEGAL_INSTRUCTION (09 R246): tval is the word. -/
def execIllegalInstruction (w : Word32) (s : State) : Res := .next (s.illegal w.toNat)
/-- FETCH_TRAP (01 R15, 02 R60): a failed sg0 check is a segment fault with tval the PC, poison a fetch fault with tval
the word's address. -/
def execFetchTrap (poisoned : Bool) (at_ : Word) (s : State) : Res := .next (s.trapExact (if poisoned then 7 else 4) at_)
/-- DEFERRED_TRAP (02 R60): the held trap is taken; the waiting instruction is abandoned. -/
def execDeferredTrap (thr : Nat) (s : State) : Res :=
  let x := s.slot thr
  match x.deferred with
  | none => .next s
  | some h => .next (s.setSlot thr ({ x with deferred := none }.takeTrap h.cause h.tval h.tpc x.pc true))
/-- A slot parks: user mode only; its waiting instruction is abandoned and a queued TALLOC leaves the queue (R409,
04 R108). -/
def State.parkSlot (s : State) (t : Nat) : State :=
  let s := s.modCluster (clusterOf t) fun c => { c with allocQ := c.allocQ.filter fun r => r.who ≠ .thread t }
  s.modSlot t fun x => { x with status := .parked, relFrom := none, fetched := none }
/-- A parked slot returns to rotation; one whose acquiring atomic is still on its way waits for it (05 R145). -/
def Slot.resume (x : Slot) : Slot :=
  match x.status with
  | .parked => { x with status := if x.acqReg.isSome then .blocked .release else .ready }
  | _ => x
/-- Pre-emption of one slot (R409): a user-mode slot parks; in system mode the request is held until TRET or HALT; a
HALTED slot stays HALTED; a DISPATCHING one parks when its task begins; an unclaimed speculation is discarded with cause 15 (06 R175). -/
def State.preemptSlot (s : State) (t : Nat) : State :=
  let x := s.slot t
  let go := fun (k : State) =>
    match s.specOf x.lidN with
    | some sid => if s.unclaimed x.lidN then s.discard sid 15 else k
    | none => k
  match x.status with
  | .ready | .blocked _ => go (if x.mode = .system then s.setSlot t { x with preempt := true } else s.parkSlot t)
  | .dispatching => go (s.setSlot t { x with preempt := true })
  | .idle | .halted | .parked => s
/-- PREEMPTION (R409). -/
def execPreemption (thr : Nat) (s : State) : Res := .next (s.preemptSlot thr)

end Sys2Proof.Machine
end

