-- ==== Sys2Proof/Machine/Launch.lean ====
section
/-! DEFINITION. Launches: from packet to first issue (15 R398, R396, 07 R199), speculations (R400, 06 R168, R171, R176-R178),
quiescence and completion (07 R207, R208, 04 R113, R114, 05 R160, 15 R388), the watchdog and the kill (R402, 16 R420). -/

namespace Sys2Proof.Machine

/-! ### Range pieces (07 R199) -/

/-- The distinct dies of a list of clusters, in order. -/
def diesOf (l : List Nat) : List Nat := ((l.map dieOfCluster).eraseDups)
/-- The j-th of `n` shares of `e` values: [j·e/n, (j+1)·e/n). -/
def share (j n e : Nat) : Nat × Nat := (j * e / n, (j + 1) * e / n)
/-- The pieces of a spread range: cluster and ordinals [lo, hi), empty ones left out. -/
def Header.spreadOver (h : Header) (cls : List Nat) : List (Nat × Nat × Nat) :=
  let dies := diesOf cls
  let e0 := h.extents.getD 0 1
  let e1 := h.extents.getD 1 1
  let p0 := h.place 0
  let p1 := h.place 1
  (dies.zipIdx.flatMap fun d =>
    let own := cls.filter fun c => dieOfCluster c = d.1
    let r := share d.2 dies.length e0
    if h.bind = 1 then [(own.headD 0, r.1 * p0, r.2 * p0)]
    else (List.range (r.2 - r.1)).flatMap fun v => own.zipIdx.map fun c =>
      let q := share c.2 own.length e1
      (c.1, (r.1 + v) * p0 + q.1 * p1, (r.1 + v) * p0 + q.2 * p1)).filter fun x => x.2.1 < x.2.2
/-- The lowest-numbered core of a cluster that is in service. -/
def State.lowCore (s : State) (cl : Nat) : Nat :=
  ((List.range 8).find? fun i => !(s.core (cl * 8 + i)).fenced).getD 0 + cl * 8

/-! ### The steps of R398 -/

/-- The launch that a packet started. -/
def State.launchOf (s : State) (q i : Nat) : Option Nat :=
  (s.launches.find? fun e => match e.2 with
    | some l => l.queue = q && l.index = i && (l.specOf.isNone || l.claimed)
    | none => false).map (·.1)
/-- The lowest free launch id (R396). -/
def State.freeLaunch (s : State) : Option Nat := (List.range 4096).find? fun i => (s.launch i).isNone
/-- The record of a launch that begins. -/
def newLaunch (h : Header) (q i asid order : Nat) (sid : Option (Fin 4)) : Launch :=
  { hdr := h, queue := q, index := i, asid := asid, part := h.part, ctr := none, phase := 2, start := none, retired := false,
    status := 0, leak := 0, order := order, pieces := 0, stage := 0, stageAt := 0, stopped := false, killed := false, specOf := sid,
    claimed := false, wave := none, parked := none }
/-- A write of the front end for a launch: at its home, or to a speculation's dry-fit lines (06 R171). -/
def State.frameWrite (s : State) (lid va : Nat) (bs : List (Option Byte)) : State × Except (Option (Nat × Nat)) Unit :=
  match s.launch lid with
  | none => (s, .error none)
  | some l =>
    match l.specOf with
    | some sid =>
      (match s.translateNow ((s.lowCluster l.part).getD 0) l.asid va .write true with
       | (s, .ok r) => (((s.noteUsed sid ((s.lowCluster l.part).getD 0) l.asid va).writeDry sid r.1 bs), .ok ())
       | (s, .error _) => (s.discard sid 5, .error none))
    | none =>
      match s.feTranslate l.part lid l.asid va .write with
      | (s, .ok pa) => (s.writeHome none pa bs, .ok ())
      | (s, .error r) => (s, .error (some r))
/-- Bytes 8 to 127 of the root frame (step 2): JCA, ROOT, RANGE, SIZE, and the arguments or their pointer. -/
def Launch.rootBytes (l : Launch) : List (Option Byte) :=
  let h := l.hdr
  let w5 := 2 ^ 40 + (if 1 < h.count then 2 ^ 41 else 0) + h.rootsz
  (natLe (l.ctr.getD 0) 8 ++ List.replicate 24 0 ++ natLe w5 8).map some ++ List.replicate 16 none ++
    (if h.argPtr then h.args.take 8 else h.args).map some
/-- Bytes 0 to 63 of the range frame that step 4 writes: RPC, the selectors and word 56. -/
def Launch.spreadBytes (l : Launch) : List (Option Byte) :=
  let h := l.hdr
  (natLe h.idpc.toNat 8).map some ++ List.replicate 40 none ++ (h.sel ++ natLe (h.rseed * 2 ^ 32 + h.fmode) 8).map some
/-- Step 3: RES and CAP of the header in the launch's pool partition of every cluster where it is idle (04 R107). -/
def State.writePools (s : State) (lid : Nat) (l : Launch) : State :=
  (s.partClusters l.part).foldl (fun s cl =>
    s.atPart lid cl fun s =>
      if (s.cluster cl).held l.hdr.pool = 0 && (s.cluster cl).waiters l.hdr.pool = 0 then
        s.setPool cl l.hdr.pool (2 ^ 63 + l.hdr.cap * 2 ^ 16 + l.hdr.res)
      else s) s
/-- The counter of the root frame: COUNT rises by `n`, and `flag` sets REMOTE. -/
def State.rootCount (s : State) (lid n : Nat) (remote : Bool) : State :=
  match (s.launch lid).bind (·.ctr) with
  | none => s
  | some a => s.atPart lid (chipCluster a) fun s => s.changing lid a fun s =>
      s.writeChipBytes a 8 ((readLe s.mem (chipKey a) 8 + n) ||| (if remote then 2 ^ 63 else 0))
/-- The system-scope acquire on each cluster of the partition (step 5, 05 R160). -/
def State.acquirePart (s : State) (p : Nat) : State := (s.partClusters p).foldl State.acquireAll s
/-- Step 4's pieces from number `k` on: each becomes a range entry as its core's deque has room. -/
def State.pushPieces (s : State) (lid : Nat) (l : Launch) : List (Nat × Nat × Nat) → State × Bool
  | [] => (s, true)
  | x :: rest =>
    let c := s.lowCore x.1
    if !(s.core c).canPush then (s, false)
    else
      let e : DqEntry :=
        { frame := l.hdr.rootf, kind := 1, floor := l.hdr.floor, spec := l.specOf.isSome, slot := 0, launch := lid, seq := 0,
          lo := x.2.1, hi := x.2.2, acq := false, inSteal := false, refused := [], place := none, waits := [] }
      let s := (s.pushTail c e).modLaunch lid fun l => { l with pieces := l.pieces + 1 }
      s.pushPieces lid l rest
/-- Whether another launch of the partition is to be dispatched first (R396). -/
def State.outranked (s : State) (lid : Nat) (l : Launch) : Bool :=
  s.launches.any fun e => match e.2 with
    | some x => e.1 ≠ lid && x.part = l.part && x.phase = 6 && !x.killed &&
        (l.hdr.prio < x.hdr.prio || (x.hdr.prio = l.hdr.prio && x.order < l.order))
    | none => false
/-- The IDLE slot of the lowest partition core that has one for the launch. -/
def State.rootSlot (s : State) (lid part : Nat) : Option Nat :=
  ((s.partClusters part).flatMap fun cl => (List.range 8).map fun i => cl * 8 + i).findSome? fun c =>
    if s.mayRun c lid then s.slotFor c lid else none
/-- An unclaimed speculation that runs, or has run, in a slot of the partition (06 R173, R175 cause 10). -/
def State.specInWay (s : State) (part : Nat) : Option (Fin 4) :=
  (List.range 4).findSome? fun i =>
    match mapGet none s.specs i with
    | some sp =>
      if !sp.claimed && (s.slots.any fun e => (e.2.task = some sp.lid || sp.holds e.1) && s.partOf (coreOf e.1) = part) then
        some (Fin.ofNat 4 i)
      else none
    | none => none
/-- The dispatch of every core of a partition looks: a launch of it has started (R200) or may now run. -/
def State.lookPart (s : State) (p : Nat) : State :=
  (s.partClusters p).foldl (fun s cl => (List.range 8).foldl (fun s i => s.postNow (.dispatch (cl * 8 + i))) s) s
/-- Step 6: the root task begins in a slot (07 R205). Dirty bits of the partition's pages and accumulators are cleared at
the dispatch (03 R88, R89). -/
def State.startRoot (s : State) (lid : Nat) (l : Launch) (t : Nat) : State :=
  let s := s.claimSlot lid t
  if (s.launch lid).isNone then s
  else
    let h := l.hdr
    let s := (s.partClusters l.part).foldl (fun s cl =>
      let s := s.modCluster cl fun c => { c with dirty := [] }
      (List.range 8).foldl (fun s i => s.modCore (cl * 8 + i) fun k => { k with dirty := [] }) s) s
    let s := s.modCore (coreOf t) fun k => { k with push := (k.push + 1) % 2 ^ 32 }
    let s := s.modLaunch lid fun l => { l with phase := 7, since := s.cycle }
    let s := s.setTask t
      { lid := lid, pc := h.entry, frame := h.rootf, sels := h.sel.map (·.toNat), fmode := h.fmode, rseed := h.rseed,
        wid := if h.count = 1 then h.wid 0 else 0, jc := l.ctr.getD 0, tk := .root } none
    (s.calm (coreOf t)).lookPart l.part
/-- The launch goes on with R398 from where it stands; `fuel` bounds the steps. What it must wait for is looked at again
after a latency. -/
def State.launchRun (s : State) (lid : Nat) : Nat → State
  | 0 => s
  | fuel + 1 =>
    match s.launch lid with
    | none => s
    | some l =>
      let again := fun (s : State) => s.poll s.nextId (.launch l.queue l.index)
      let goto := fun (s : State) (n : Nat) => (s.modLaunch lid fun l => { l with phase := n, parked := none }).launchRun lid fuel
      let park := fun (s : State) (r : Nat × Nat) => s.modLaunch lid fun l => { l with parked := some r }
      if l.killed then s
      else match l.phase with
      | 2 =>
        let cl := (s.lowCluster l.part).getD 0
        let r := s.atPartR lid cl fun s => s.takeCounter lid cl
        if (r.1.launch lid).isNone then r.1
        else if r.2 = 0 then again s
        else
          let s := r.1.modLaunch lid fun l => { l with ctr := some r.2 }
          goto (if 1 < l.hdr.count then s.rootCount lid 1 false else s) 3
      | 3 =>
        (match s.frameWrite lid ((l.hdr.rootf.toNat + 8) % 2 ^ 64) l.rootBytes with
         | (s, .ok _) => goto s 4
         | (s, .error (some r)) => park s r
         | (s, .error none) => s)
      | 4 =>
        let s := if l.specOf.isSome then s else s.writePools lid l
        if !l.hdr.spread then goto s 6
        else
          (match s.frameWrite lid l.hdr.rootf.toNat l.spreadBytes with
           | (s, .ok _) => goto ((s.rootCount lid l.hdr.count true).acquirePart l.part) 5
           | (s, .error (some r)) => park s r
           | (s, .error none) => s)
      | 5 =>
        let r := s.pushPieces lid l ((l.hdr.spreadOver (s.partClusters l.part)).drop l.pieces)
        if r.2 then goto r.1 6 else again r.1
      | 6 =>
        if s.outranked lid l then again s
        else
          (match s.rootSlot lid l.part with
           | some t => (s.acquirePart l.part).startRoot lid l t
           | none =>
             match (if l.specOf.isSome then none else s.specInWay l.part) with
             | some sid => again (s.discard sid 10)
             | none => again s)
      | _ => s
/-- The front end's state for a launch whose writes were rejected in steps 2 or 4: the frame-error status (R398). -/
def State.launchGo (s : State) (lid : Nat) : State :=
  match s.launch lid with
  | none => s
  | some l =>
    match s.gate l.parked with
    | .wait => s
    | .rejected => ((s.modLaunch lid fun l => { l with parked := none }).seen l.parked).launchError lid 2
    | .go => s.launchRun lid 8
/-- LAUNCH: validated, given the lowest free id, and started (R387, R396, R398). An invalid one only has its record and
signal. -/
def State.launchPacket (s : State) (q i : Nat) : State :=
  match (match s.launchOf q i with
    | some lid => some lid
    | none => (s.launches.find? fun e => match e.2 with
        | some l => l.queue = q && l.index = i && l.specOf.isSome && l.phase < 7 | none => false).map (·.1)) with
  | some lid => s.launchGo lid
  | none =>
    match s.packet q i with
    | none => s
    | some p =>
      if p.ty ≠ 0 || !p.started then s
      else if p.ending.isSome then s.endPacket q i
      else
        let h := launchHeader p.slots
        if !s.headerValid (s.queue q) h then
          s.beginEnd q i
            { w0 := 6, start := 0, part := h.part, crec := h.crec.toNat, csig := h.csig.toNat, cval := h.cval.toNat, csop := h.csop,
              stage := 0 }
        else match s.freeLaunch with
          | none => s.poll s.nextId (.launch q i)
          | some lid => ((s.setLaunch lid (some (newLaunch h q i (s.queue q).asid p.order none))).lookPart h.part).launchRun lid 8

/-! ### Speculations (R400, 06 R168, R171) -/

/-- The leaf through which a page translates for an access kind, nothing set or installed. -/
def State.leafFor (s : State) (cl asid va : Nat) (a : Acc) : Option TlbEntry :=
  let d := s.die (dieOfCluster cl)
  match ((tlbFind (s.cluster cl).tlb asid va).or (tlbFind (d.tlb ++ d.large) asid va)).filter fun t =>
      t.ready a && populated (t.pa va) 1 with
  | some t => some t
  | none =>
    match (s.walk (dieOfCluster cl) asid va).2 with
    | .leaf lv _ e => if ptePermits e a && populated (leafPa lv e va) 1 then some (tlbOf asid lv va e (bit e 6)) else none
    | .fault _ _ _ => none
/-- A range rounded outward to granules (06 R165). -/
def granuled (r : Nat × Nat) : Nat × Nat := if r.2 = 0 then r else (r.1 / 256 * 256, (r.1 + r.2 + 255) / 256 * 256 - r.1 / 256 * 256)
/-- The physical extents of a range, page by page, each with its leaf; none if a page has no permitting translation. -/
def State.extentsOf (s : State) (cl asid : Nat) (a : Acc) (r : Nat × Nat) : Option (List ((Nat × Nat) × TlbEntry)) :=
  (pagesOf r.1 r.2).foldr (fun p l =>
    match l, s.leafFor cl asid (p.1 % 2 ^ 64) a with
    | some l, some t => some (((t.pa (p.1 % 2 ^ 64), p.2), t) :: l)
    | _, _ => none) (some [])
/-- Inserts an extent by its address. -/
def extentInsert (e : Nat × Nat) : List (Nat × Nat) → List (Nat × Nat)
  | [] => [e]
  | x :: l => if e.1 ≤ x.1 then e :: x :: l else x :: extentInsert e l
/-- Joins physically contiguous extents of a sorted list. -/
def extentJoin : List (Nat × Nat) → List (Nat × Nat)
  | [] => []
  | e :: l =>
    match extentJoin l with
    | [] => [e]
    | x :: r => if x.1 ≤ e.1 + e.2 then (e.1, max e.2 (x.1 + x.2 - e.1)) :: r else e :: x :: r
/-- The virtual ranges a speculation's watchers match (06 R168), to read and to fetch, in whole granules: the read ranges, the
implicit code range and table range. -/
def State.watchRanges (s : State) (cl asid : Nat) (h : Header) : List (Nat × Nat) × List (Nat × Nat) :=
  let code := match s.tableEntry cl asid (h.sel.headD 0).toNat with
    | some d => if d.chip then [] else [(d.base.toNat, d.limit)]
    | none => []
  let table := match mapGet none s.segtabs asid with
    | some t => if h.sel.any fun x => x ≠ 0 && x.toNat < 0xF0 then [(t.1.toNat, 16 * t.2)] else []
    | none => []
  ((h.reads ++ table).map granuled, code.map granuled)
/-- The physical extents of those ranges, contiguous ones joined, and the leaves used for them; none if a page does not translate
or there are more than 64. -/
def State.watchExtents (s : State) (cl asid : Nat) (h : Header) : Option (List (Nat × Nat) × List TlbEntry) :=
  let r := s.watchRanges cl asid h
  let parts := r.1.map (s.extentsOf cl asid .read) ++ r.2.map (s.extentsOf cl asid .fetch)
  if parts.any Option.isNone then none
  else
    let all := parts.flatMap fun p => p.getD []
    let l := extentJoin (all.foldl (fun l e => extentInsert e.1 l) [])
    if l.length ≤ 64 then some (l, (all.map (·.2)).eraseDups) else none
/-- Whether a launch of the partition waits to dispatch (R400). -/
def State.waitsDispatch (s : State) (part : Nat) : Bool :=
  (s.launches.any fun e => match e.2 with | some l => l.part = part && l.phase < 7 | none => false) ||
    s.queues.any fun e => e.2.packets.any fun p =>
      p.ty = 0 && !p.done && p.ending.isNone && (launchHeader p.slots).part = part && (p.started || e.2.ready p) &&
        (s.launchOf e.1 p.index).isNone
/-- Whether a quarter of a partition's slots are IDLE (R400). -/
def State.quarterIdle (s : State) (part : Nat) : Bool :=
  let cls := s.partClusters part
  let idle := (cls.flatMap fun cl => (List.range 128).filter fun i => (s.slot (cl * 128 + i)).status = .idle).length
  cls.length * 128 ≤ 4 * idle
/-- Whether [va, va + n) lies inside both lists of declared ranges (06 R171). -/
def Header.frameDeclared (h : Header) : Bool :=
  inRanges h.writes h.rootf.toNat h.rootsz && inRanges h.reads h.rootf.toNat h.rootsz &&
    (!h.argPtr || inRanges h.reads h.argBlock 64)
/-- SPECULATION_START (R400): when every condition holds, the watchers are armed and the launch begins as a speculation. -/
def State.speculate (s : State) (q : Nat) : State :=
  let k := s.queue q
  if !(k.defined && k.mayPredict && k.state ≠ 4 && k.idle && k.wr = k.rd && k.spec.isNone && k.held) then s
  else
    match k.lastKey.bind fun a => k.history.find? fun h => h.key = a with
    | none => s
    | some e =>
      let image := e.predict
      let h := launchHeader image
      let cl := (s.lowCluster h.part).getD 0
      let sid := (List.range 4).find? fun i => (mapGet none s.specs i).isNone
      if !(h.speculable && s.headerValid k h && s.dfarea1.getLsbD 63 && s.dfarea1.toNat % 2 ^ 16 ≠ 0 && s.quarterIdle h.part &&
          !s.waitsDispatch h.part && h.frameDeclared && (s.cluster cl).freeCounter.isSome && k.lastEnd = k.wr) then s
      else
        match sid, s.freeLaunch, s.watchExtents cl k.asid h with
        | some i, some lid, some ex =>
          let sid := Fin.ofNat 4 i
          let busy := ((s.partClusters h.part).flatMap fun cl => (List.range 128).map fun t => cl * 128 + t).filter fun t =>
            (s.slot t).status ≠ .idle
          let sp : Spec :=
            { lid := lid, queue := q, extents := ex.1, dry := [], undo := [], usage := 0, dieUse := [], claimed := false, asked := false,
              replies := [], conflict := false, ended := false, predicted := image, used := ex.2, busy := busy }
          let s := { s with specs := mapPut none s.specs i (some sp) }
          let s := s.modQueue q fun k => { k with spec := some sid, starts := (k.starts + 1) % 2 ^ 32 }
          ((s.setLaunch lid (some (newLaunch h q k.lastEnd k.asid s.nextId (some sid)))).lookPart h.part).launchRun lid 8
        | _, _, _ => s

/-- CLAIM_REPLY (06 R176): a watcher closes the extents and replies; when all four have, the claim succeeds, or the
speculation is discarded with cause 1 and the packet runs as an ordinary launch. -/
def State.claimReplied (s : State) (sid d : Fin 4) : State :=
  match mapGet none s.specs sid.val with
  | none => s
  | some sp =>
    if !sp.asked || sp.claimed || sp.replies.contains d then s
    else
      let sp := { sp with replies := d :: sp.replies }
      let s := { s with specs := mapPut none s.specs sid.val (some sp) }
      if sp.replies.length < 4 then s
      else if sp.conflict then s.discard sid 1
      else
        match (s.queue sp.queue).claiming with
        | none => s
        | some i =>
          let s := { s with specs := mapPut none s.specs sid.val (some { sp with claimed := true }) }
          let s := s.modQueue sp.queue fun k => { k with claiming := none }
          let s := s.modPacket sp.queue i fun p => { p with started := true, since := s.cycle }
          let order := match s.packet sp.queue i with | some p => p.order | none => 0
          let s := s.modLaunch sp.lid fun l => { l with claimed := true, index := i, order := order }
          let s := { s with clusters := mapEach {} (fun (c : Cluster) =>
            { c with tiles := mapEach {} (fun t => if t.launch = sp.lid && t.spec then { t with spec := false } else t) c.tiles,
                     allocQ := c.allocQ.map fun (r : AllocReq) => if r.lid = sp.lid then { r with spec := false } else r }) s.clusters }
          let t := (s.queue sp.queue).t1
          let s := if t = 0 then s else s.post (s.cycle + t * 1024) (.watchdogPreempt sp.lid)
          s.postNow (.launchCompletion sp.lid)

/-! ### Quiescence (07 R207, R208) -/

/-- Whether cluster `cl` is quiescent for the launches that `p` selects: no deque entry, no slot, no engine request, matrix
command or landing. -/
def State.quietAt (s : State) (p : Nat → Bool) (cl : Nat) : Bool :=
  let cores := (List.range 8).map fun i => s.core (cl * 8 + i)
  let c := s.cluster cl
  cores.all (fun k => !k.entries.any (fun e => p e.launch) && !k.fifo.any (fun r => p r.lid) && !k.mq.any fun m => p m.lid) &&
    !c.engines.any (fun r => p r.lid) && !c.running.any (fun r => p r.cmd.lid) && !c.allocQ.any (fun r => p r.lid) &&
    (List.range 128).all fun i => !(s.slot (cl * 128 + i)).task.any p
/-- Transactions that a completion waits for: steals, messages, and operations on join counters and tiles (log 14). -/
def Flight.busies (f : Flight) : Bool :=
  match f.kind with
  | .steal _ _ _ _ _ _ _ _ | .message _ | .counterInc _ _ | .counterDec _ _ _ | .jfree _ | .tdropHeld _ _ _ _ | .tdrop _ _ |
    .tinc _ _ _ | .tfree _ _ => true
  | _ => false
/-- Whether the module is quiescent for a launch: every cluster, where its partition's state now stands, no steal, message,
counter or tile operation under way, and no collective command or landing of it. -/
def State.quiet (s : State) (lid : Nat) : Bool :=
  (match s.launch lid with
   | some l => (s.partClusters l.part).all fun cl => (s.atPartR lid cl fun s => (s, s.quietAt (· = lid) cl)).2
   | none => true) &&
    !s.flights.any (fun f => f.busies && f.lid = lid) &&
    !s.dies.any fun d => d.2.coll.any fun c => c.lid = lid
/-- The packets that the launches which `p` selects have sent and received (R208). -/
def State.sums (s : State) (p : Nat → Bool) : Nat × Nat :=
  let of := fun (m : SMap Nat) => m.foldl (fun n e => if p e.1 then n + e.2 else n) 0
  s.clusters.foldl (fun n e => (n.1 + of e.2.sent, n.2 + of e.2.recvd)) (0, 0)

/-! ### Completion (R388, R389, 04 R113, R114, 13 R333, 11 R305) -/

/-- Tiles of a launch that one cluster reclaims: each held one counts as a leak (04 R113); a transfer under way ends and its tile
is free (R103). -/
def State.reclaimTiles (s : State) (lid cl : Nat) : State × Nat :=
  let mine := (s.cluster cl).tiles.filter fun e => (e.2.st = .held || e.2.st = .transfer) && e.2.launch = lid && !e.2.spec
  ((mine.foldl (fun s e => s.freeTile cl e.1 false) s).purgeRings cl, (mine.filter fun e => e.2.st = .held).length)
/-- One cluster lets go of a terminated launch: tiles, counters, messages, forwarding entries (16 R418, R419). -/
def State.letGoAt (s : State) (lid cl : Nat) : State × Nat :=
  let r := s.reclaimTiles lid cl
  let s := r.1.modCluster cl fun c => { c with ctrs := c.ctrs.filter fun e => e.2 ≠ lid + 1 }
  let s := (List.range 128).foldl (fun s i =>
    s.modSlot (cl * 128 + i) fun x =>
      let x := x.dropMail lid
      if x.task = some lid then x.toIdle else x) s
  ((List.range 8).foldl (fun s i => (s.modCore (cl * 8 + i) fun k =>
    { k.dropLaunch lid with forward := k.forward.filter fun f => f.launch ≠ lid }).postNow (.dispatch (cl * 8 + i))) s, r.2)
/-- Every cluster of the launch's partition, where its state stands; diverted messages and those still to be replayed go too
(11 R305). -/
def State.letGo (s : State) (lid part : Nat) : State × Nat :=
  let keep := fun (l : List (Nat × MailEntry)) => l.filter fun m => m.2.launch ≠ lid
  let stowed := fun (sv : Saved) => { sv with msgs := keep sv.msgs }
  let s := { s with
    clusters := mapEach {} (fun (c : Cluster) => { c with shadow := c.shadow.map stowed, replay := keep c.replay }) s.clusters
    images := mapEach none (fun o => o.map stowed) s.images }
  (s.partClusters part).foldl (fun r cl =>
    let x := r.1.atPartR lid cl fun s => s.letGoAt lid cl
    (x.1, r.2 + x.2)) (s, 0)
/-- The records of a launch that nothing waits on any more are resolved with it (02 R58). -/
def State.resolveKilled (s : State) (lid : Nat) : State :=
  s.dies.foldl (fun s d =>
    (d.2.records.filter fun r => r.launch = lid && r.who = [] &&
        !s.clusters.any (fun c => c.2.engines.any fun e => e.parked = some (d.1, r.key)) && !s.frontWaits d.1 r.key).foldl
      (fun s r => s.resolveRecord d.1 r.key false) s) s
/-- The stores of a launch leave the buffers for the release of its completion. -/
def State.drainLaunch (s : State) (lid : Nat) : State :=
  s.cores.foldl (fun s c => (c.2.sb.filter fun b => b.lid = lid).foldl (fun s b => s.drainThread b.thr) s) s
/-- Whether a launch has a store buffered or on its way (05 R160). -/
def State.storing (s : State) (lid : Nat) : Bool :=
  s.flights.any (fun f => f.lid = lid && f.writes) || s.cores.any fun c => c.2.sb.any fun b => b.lid = lid
/-- The merge of a claimed speculation that has ended and whose stores are performed: each line's bytes at their homes, the undo
log dropped, CLAIMS + 1 (06 R178, R180). -/
def State.merge (s : State) (sid : Fin 4) : State :=
  match mapGet none s.specs sid.val with
  | none => s
  | some sp =>
    let s := if sp.claimed && sp.ended then s.drainLaunch sp.lid else s
    if !(sp.claimed && sp.ended) then s
    else if s.storing sp.lid then s.poll s.nextId (.launchCompletion sp.lid)
    else
      let lines := distinct (sp.dry.map fun e => e.1 / 128)
      let s := lines.foldl (fun s l =>
        s.writeHome (some sid) (l * 128) ((List.range 128).map fun i => mapGet none sp.dry (l * 128 + i))) s
      let s := { s with specs := mapPut none s.specs sid.val none }
      let s := s.modQueue sp.queue fun k => { k with spec := none, claims := (k.claims + 1) % 2 ^ 32 }
      (s.modLaunch sp.lid fun l => { l with specOf := none }).postNow (.launchCompletion sp.lid)
/-- The launch is reclaimed: tiles counted, counters freed, the status settled (R113, R114). -/
def State.reclaimLaunch (s : State) (lid : Nat) (l : Launch) : State :=
  let r := s.letGo lid l.part
  let leak := min r.2 0xFFFF
  let status := if l.status = 0 && l.hdr.strict && leak ≠ 0 then 4 else l.status
  let s := r.1.modLaunch lid fun l => { l with phase := 8, status := status, leak := leak }
  s.postNow (.launchCompletion lid)
/-- After the system-scope release of 05 R160: the launch id is free, and the packet's record and signal follow. -/
def State.endLaunch (s : State) (lid : Nat) (l : Launch) : State :=
  let s := { s with clusters := mapEach {} (fun (c : Cluster) =>
    { c with sent := mapPut 0 c.sent lid 0, recvd := mapPut 0 c.recvd lid 0 }) s.clusters }
  let s := s.freeLid lid
  s.beginEnd l.queue l.index
    { w0 := l.leak * 2 ^ 32 + lid * 2 ^ 8 + b2n l.claimed * 2 ^ 7 + l.status, start := l.start.getD 0, part := l.part,
      crec := l.hdr.crec.toNat, csig := l.hdr.csig.toNat, cval := l.hdr.cval.toNat, csop := l.hdr.csop, stage := 0 }
/-- Whether a killed launch has a slot in system mode that has still to stop, or an issued store on its way (16 R420,
05 R160). -/
def State.stillStops (s : State) (lid : Nat) : Bool :=
  s.slots.any (fun e => e.2.handles lid) || s.storing lid
/-- LAUNCH_COMPLETION: of a killed launch or one in error, everything is removed at once, slots in system mode excepted
until they stop and issued stores until they are performed; otherwise a retired launch is asked for its quiescence. A reclaimed one waits for its release. -/
def State.completeLaunch (s : State) (lid : Nat) : State :=
  match s.launch lid with
  | none => s
  | some l =>
    if l.phase = 8 then
      let s := s.drainLaunch lid
      if s.storing lid then s.poll s.nextId (.launchCompletion lid)
      else s.endLaunch lid l
    else if l.killed then
      let s := ((s.drainLaunch lid).dropLaunchWork lid false).resolveKilled lid
      if s.stillStops lid then s.poll s.nextId (.launchCompletion lid)
      else ((s.dropLaunchWork lid true).resolveKilled lid).reclaimLaunch lid l
    else if !l.retired then s
    else
      match l.specOf with
      | none => s.poll s.nextId (.quiescenceWave lid)
      | some sid =>
        match mapGet none s.specs sid.val with
        | none => s
        | some sp =>
          if !sp.ended then s.poll s.nextId (.quiescenceWave lid)
          else if sp.claimed then s.pollNow (.speculationMerge sid)
          else s
/-- QUIESCENCE_WAVE: the first of a pair notes its sums; after the second, both flags set and the four sums equal, the
launch is quiescent; otherwise a new pair begins (R208). -/
def State.quiescenceWave (s : State) (lid : Nat) : State :=
  match s.launch lid with
  | none => s
  | some l =>
    if !l.retired || l.killed || 8 ≤ l.phase then s
    else
      let n := s.sums (· = lid)
      let now := (n.1, n.2, s.quiet lid)
      match l.wave with
      | none => (s.modLaunch lid fun l => { l with wave := some now }).postLat s.nextId (.quiescenceWave lid)
      | some w =>
        if w.2.2 && now.2.2 && w.1 = w.2.1 && w.1 = now.1 && now.1 = now.2.1 then
          match l.specOf with
          | none => s.reclaimLaunch lid l
          | some sid =>
            match mapGet none s.specs sid.val with
            | none => s
            | some sp =>
              if sp.ended then s
              else if l.hdr.strict && s.clusters.any (fun c => c.2.tiles.any fun t => t.2.launch = lid && t.2.st = .held) then
                s.discard sid 17
              else
                ({ s with specs := mapPut none s.specs sid.val (some { sp with ended := true }) }).postNow (.launchCompletion lid)
        else (s.modLaunch lid fun l => { l with wave := none }).postLat s.nextId (.quiescenceWave lid)

/-! ### The watchdog and the kill (R402, R403, 16 R420) -/

/-- The body of a WATCHDOG event (17 R430). -/
def watchdogBody (lid q step : Nat) : List Byte := natLe (lid + q * 2 ^ 16 + step * 2 ^ 32) 8
/-- Cores that hold a slot of a launch which has not stopped. -/
def State.coresHolding (s : State) (lid : Nat) : List Nat :=
  distinct ((s.slots.filter fun e => e.2.task = some lid && e.2.status ≠ .idle).map fun e => coreOf e.1)
/-- Step 1: at T1 the launch's slots are pre-empted, and it stays stopped until the host resumes it. -/
def State.watchdogStop (s : State) (lid : Nat) : State :=
  match s.launch lid with
  | none => s
  | some l =>
    let k := s.queue l.queue
    let base := if l.claimed then (match s.packet l.queue l.index with | some p => some p.since | none => none) else l.start
    match base with
    | none => s
    | some c =>
      if k.t1 = 0 || l.stage ≠ 0 || l.killed || 8 ≤ l.phase || s.cycle < c + k.t1 * 1024 || (l.specOf.isSome && !l.claimed) then s
      else
        let s := s.modLaunch lid fun l => { l with stage := 1, stageAt := s.cycle, stopped := true }
        let s := (s.slots.filter fun e => e.2.task = some lid).foldl (fun s e => s.preemptSlot e.1) s
        let s := (List.range 4).foldl (fun s i =>
          match mapGet none s.specs i with
          | some sp => if !sp.claimed && (match s.launch sp.lid with | some x => x.part = l.part | none => false) then s.discard (Fin.ofNat 4 i) 15 else s
          | none => s) s
        let s := s.raise 0x100 (watchdogBody lid l.queue 1)
        if k.t2 = 0 then s else s.post (s.cycle + k.t2 * 1024) (.watchdogKill lid)
/-- A launch is killed: a claimed speculation is discarded late, any other ends with the status (R402, 17 R428). -/
def State.killLaunch (s : State) (lid status : Nat) : State :=
  match s.launch lid with
  | none => s
  | some l =>
    match l.specOf with
    | some sid => s.discardNow sid 15
    | none =>
      if l.killed || l.phase = 8 then s
      else (s.modLaunch lid fun l => { l with status := status, killed := true, stopped := false }).postNow (.launchCompletion lid)
/-- Step 2: at T2 after step 1 the launch is killed. -/
def State.watchdogEnd (s : State) (lid : Nat) : State :=
  match s.launch lid with
  | none => s
  | some l =>
    let k := s.queue l.queue
    if l.stage ≠ 1 || k.t2 = 0 || l.killed || 8 ≤ l.phase || s.cycle < l.stageAt + k.t2 * 1024 then s
    else
      let s := s.modLaunch lid fun l => { l with stage := 2, stageAt := s.cycle }
      let s := s.raise 0x100 (watchdogBody lid l.queue 2)
      let s := if k.t3 = 0 then s else s.post (s.cycle + k.t3 * 1024) (.watchdogFence lid)
      s.killLaunch lid 1

/-! ### Events -/

/-- LAUNCH. -/
def execLaunch (q index : Nat) (s : State) : Res := .next (s.launchPacket q index)
/-- SPECULATION_START. -/
def execSpeculationStart (q : Nat) (s : State) : Res := .next (s.speculate q)
/-- WATCHED_WRITE (06 R169). -/
def execWatchedWrite (pa len : Nat) (s : State) : Res := .next (s.watch none pa len)
/-- SPECULATION_DISCARD (06 R174, R175): a discard from a cause that the environment of the model brings about. -/
def execSpeculationDiscard (sid : Fin 4) (cause : Nat) (s : State) : Res :=
  .next (if 1 ≤ cause && cause ≤ 17 then s.discard sid cause else s)
/-- CLAIM_REPLY. -/
def execClaimReply (sid die : Fin 4) (s : State) : Res := .next (s.claimReplied sid die)
/-- SPECULATION_MERGE. -/
def execSpeculationMerge (sid : Fin 4) (s : State) : Res := .next (s.merge sid)
/-- QUIESCENCE_WAVE. -/
def execQuiescenceWave (lid : Nat) (s : State) : Res := .next (s.quiescenceWave lid)
/-- LAUNCH_COMPLETION. -/
def execLaunchCompletion (lid : Nat) (s : State) : Res := .next (s.completeLaunch lid)
/-- WATCHDOG_PREEMPT. -/
def execWatchdogPreempt (lid : Nat) (s : State) : Res := .next (s.watchdogStop lid)
/-- WATCHDOG_KILL. -/
def execWatchdogKill (lid : Nat) (s : State) : Res := .next (s.watchdogEnd lid)

end Sys2Proof.Machine
end

