-- ==== Sys2Proof/Machine/Switch.lean ====
section
/-! DEFINITION. Clusters and cores that change hands: assignment to a partition (15 R397, 03 R70, R88, 01 R30, 16 R407), the
context image (R412-R414), the partition context switch (R410, R411, R415-R417), migration and fencing (R418-R420). -/

namespace Sys2Proof.Machine

/-! ### The image of a cluster's context (R412-R414) -/

/-- A region as blocks of 64 bytes. -/
def blocks64 : Nat → List Byte → List (List Byte)
  | 0, _ => []
  | n + 1, l => l.take 64 :: blocks64 n (l.drop 64)
/-- The tag of a block after the block before it: the first that fits (R414); 3 for all with LIT. -/
def blockTag (lit : Bool) (prev b : List Byte) : Nat :=
  if lit then 3
  else if b.all (· = 0) then 0
  else if b = prev then 1
  else if (List.range 8).all fun i => (b.drop (8 * i)).take 8 = b.take 8 then 2
  else 3
/-- Tags with the payloads of a region's blocks, in order. -/
def codeBlocks (lit : Bool) : List Byte → List (List Byte) → List (Nat × List Byte)
  | _, [] => []
  | prev, b :: bs =>
    let t := blockTag lit prev b
    (t, if t = 3 then b else if t = 2 then b.take 8 else []) :: codeBlocks lit b bs
/-- The coded stream of a region: tag words, then the payloads. -/
def codeRegion (lit : Bool) (bytes : List Byte) : List Byte :=
  let n := bytes.length / 64
  let cs := codeBlocks lit (List.replicate 64 0) (blocks64 n bytes)
  let word := fun (i : Nat) => ((cs.map (·.1)).drop (32 * i)).take 32 |>.zipIdx.foldl (fun w t => w + t.1 * 4 ^ t.2) 0
  ((List.range ((n + 31) / 32)).flatMap fun i => natLe (word i) 8) ++ cs.flatMap (·.2)
/-- The 64-byte header of a region slot (R413). -/
def regionHeader (kind : Nat) (lit : Bool) (len tstate gran : Nat) (valid : Bool) : List Byte :=
  natLe (b2n valid * 2 ^ 63 + kind * 2 ^ 60 + b2n lit * 2 ^ 59 + len) 8 ++ natLe tstate 8 ++ natLe gran 32 ++ List.replicate 16 0
/-- The virtual base of a cluster's section of a partition's image (R412). -/
def sectionOf (r : PartRec) (cl : Nat) : Nat :=
  r.imgbase.toNat + ((List.range cl).filter fun c => r.cmask.getLsbD c).length * 0x600000
/-- Writes bytes of the image in the partition's system ASID; a page that does not translate is left (log 12). -/
def State.imageWrite (s : State) (cl : Nat) (r : PartRec) (va : Nat) (bs : List Byte) : State :=
  (pagesOf va bs.length).foldl (fun s p =>
    match s.translateNow cl r.sasid.toNat (p.1 % 2 ^ 64) .write false with
    | (s, .ok t) => s.writeHome none t.1 (((bs.drop (p.1 - va)).take p.2).map some)
    | (s, .error _) => s) s
/-- A region slot: the header, and with data the coded stream. -/
def State.imageRegion (s : State) (cl : Nat) (r : PartRec) (off kind : Nat) (lit : Bool) (tstate gran : Nat) (bytes : List Byte) : State :=
  let st := codeRegion lit bytes
  s.imageWrite cl r (sectionOf r cl + off) (regionHeader kind lit st.length tstate gran true ++ st)
/-- Whether an engine request in flight writes into [a, a + n) on chip (R416). -/
def State.landsIn (s : State) (cl a n : Nat) : Bool :=
  (s.cluster cl).engines.any fun r => match r.dest.map fun d => EngAddr.place r.asid d 0 with
    | some (Place.chip b) => b < a + n && a < b + r.destLen
    | _ => false
/-- The granule states of a page: bit g set if granule g is FULL. -/
def State.granBits (s : State) (a : Nat) : Nat :=
  (List.range 256).foldl (fun n g => n + b2n (!mapGet false s.grans (chipKey a / 16 + g)) * 2 ^ g) 0
/-- The live regions of a cluster whose context bit is set go to the image, every tile's header with them (R410 step 4, R415);
the context bits clear. -/
def State.saveRegions (s : State) (cl : Nat) (r : PartRec) : State :=
  let region := fun (s : State) (bit : Bool) (off kind a n gran : Nat) =>
    if bit then s.imageRegion cl r off kind (s.landsIn cl a n) 0 gran (readList s.mem (chipKey a) n) else s
  let s := (List.range 8).foldl (fun s c =>
    let k := s.core (cl * 8 + c)
    let s := (List.range 64).foldl (fun s p =>
      let a := coreWin (cl * 8 + c) 0 + p * 0x1000
      region s (mapGet false k.ctxBits p) ((64 * c + p) * 4224) 0 a 0x1000 (s.granBits a)) s
    let s := (List.range 4).foldl (fun s n =>
      region s (mapGet false k.ctxBits (64 + n)) (0x294000 + (4 * c + n) * 16512) 2 (accAddr (cl * 8 + c) n) 0x4000 0) s
    s.modCore (cl * 8 + c) fun k => { k with ctxBits := [] }) s
  let s := (List.range 128).foldl (fun s p =>
    region s (mapGet false (s.cluster cl).ctxBits p) (0x210000 + p * 4224) 1 (sharedWin cl 2 + p * 0x1000) 0x1000 0) s
  let s := s.modCluster cl fun c => { c with ctxBits := [] }
  let s := (List.range 512).foldl (fun s i =>
    let t := s.tile cl i
    let off := 0x315000 + i * 4352
    let parts := tileParts cl i
    let bytes := parts.flatMap fun p => readList s.mem (chipKey p.1) p.2
    let lit := parts.any fun p => s.landsIn cl p.1 p.2
    if t.ctxBit then s.imageRegion cl r off 3 lit t.word 0 bytes
    else
      let old := match s.translateNow cl r.sasid.toNat ((sectionOf r cl + off) % 2 ^ 64) .read false with
        | (_, .ok p) => s.readHome none p.1 8
        | _ => 0
      s.imageWrite cl r (sectionOf r cl + off) (natLe (old / 2 ^ 63 * 2 ^ 63 + 3 * 2 ^ 60 + old % 2 ^ 60) 8 ++ natLe t.word 8)) s
  s.modCluster cl fun c => { c with tiles := mapEach {} (fun t => { t with ctxBit := false }) c.tiles }
/-- The cluster header and the mailbox buffer of the image (R412). -/
def State.saveHeader (s : State) (cl : Nat) (r : PartRec) (msgs : List (Nat × MailEntry)) : State :=
  let c := s.cluster cl
  let pools := (List.range 8).flatMap fun p => natLe (c.poolWord p) 8
  let map := natLe ((c.ctrs.filter fun e => e.2 ≠ 0).foldl (fun n e => n + 2 ^ e.1) 0) 1024
  let s := s.imageWrite cl r (sectionOf r cl + 0x595000) (pools ++ natLe c.freeTiles 8)
  let s := s.imageWrite cl r (sectionOf r cl + 0x595400) map
  let entry := fun (m : MailEntry) => natLe m.w0.toNat 8 ++ natLe m.payload.toNat 8 ++ natLe m.rbase.toNat 8 ++ natLe m.rlen.toNat 8 ++
    List.replicate 32 0
  s.imageWrite cl r (sectionOf r cl + 0x596040) (msgs.flatMap fun m => entry m.2)
/-- At the assignment every VALID of a cluster's section is 0 (R415). -/
def State.clearImage (s : State) (cl : Nat) (r : PartRec) : State :=
  let zero := fun (s : State) (off : Nat) => s.imageWrite cl r (sectionOf r cl + off) (List.replicate 8 0)
  let offs := (List.range 512).map (fun i => i * 4224) ++ (List.range 128).map (fun i => 0x210000 + i * 4224) ++
    (List.range 32).map (fun i => 0x294000 + i * 16512) ++ (List.range 512).map fun i => 0x315000 + i * 4352
  offs.foldl zero s

/-! ### Assignment (15 R397, 03 R70, R88, 01 R30, 16 R407) -/

/-- A cluster's context as a partition begins with it: bytes zero, granules FULL, accumulators zero, every slot IDLE with its
tvec; ADMIT as R30 gives, the cluster mask and CPART in window 8. -/
def State.freshContext (s : State) (cl p : Nat) (r : PartRec) : Saved :=
  { part := p, slots := ((List.range 128).map fun i => (cl * 128 + i, ({ tvec := r.tvec } : Slot))).filter fun e => e.2 ≠ {},
    cores := (List.range 8).map fun i => (cl * 8 + i,
      { admission := BitVec.ofNat 64 (2 ^ p + 0x170000), cpart := BitVec.ofNat 64 (16 + p), cmask := r.cmask, poolCap := mapPut 0 [] 7 ((s.cluster cl).pool 7).cap,
        poolSet := if ((s.cluster cl).pool 7).set then [(7, true)] else [] }),
    tiles := [], pools := mapPut {} [] 7 ((s.cluster cl).pool 7), ctrs := [], msgs := [], bytes := [], grans := [], poison := [] }
/-- SYSCODE and SYSDATA of the partition that a cluster now serves. -/
def State.writeSystem (s : State) (cl : Nat) (r : PartRec) : State :=
  s.modCluster cl fun c => { c with syscode := ⟨r.syscode0, r.syscode1⟩, sysdata := ⟨r.sysdata0, r.sysdata1⟩ }
/-- The instruction caches of a cluster's cores with their fills, and their fencing, as `old` has them: they stay with the core
whatever context stands on it (03 R91, 16 R420). -/
def State.keepCores (s old : State) (cl : Nat) : State :=
  (List.range 8).foldl (fun s i =>
    let o := old.core (cl * 8 + i)
    s.modCore (cl * 8 + i) fun k => { k with fenced := o.fenced, fencing := o.fencing, icache := o.icache, ifills := o.ifills }) s
/-- The front end assigns a cluster: the fresh context; tiles and cluster SRAM, for which no rule has an effect, stay. -/
def State.assign (s : State) (cl p : Nat) (r : PartRec) : State :=
  let tiles := (s.cluster cl).tiles
  let fresh := { s.freshContext cl p r with tiles := tiles }
  let keep := mapRange s.mem (chipKey (sharedWin cl 0)) 0x3000000
  let bad := mapRange s.poison (chipKey (sharedWin cl 0) / 8) 0x600000
  let s := (s.putLive cl { fresh with bytes := keep, poison := bad }).keepCores s cl
  let s := s.modCluster cl fun c => { c with part := some p, switching := none }
  (s.writeSystem cl r).clearImage cl r

/-! ### The context switch (R410, R411) -/

/-- Whether a transaction of a cluster's slots must be over before the cluster is halted: loads, atomics and what answers
into a register. -/
def Flight.mustEnd (f : Flight) : Bool :=
  match f.kind with
  | .load (.fetch _) _ _ _ => false
  | .load _ _ _ _ | .atomic _ _ _ _ _ _ | .jnew _ | .tileRead _ _ _ | .handle _ _ | .bbwait _ _ | .accout _ _ _ _ | .accin _ _ _ _ _
  | .syncTest _ _ => !f.onlyParked
  | .steal _ _ _ _ _ _ _ _ => true
  | _ => false
/-- The cores between which a steal is under way. -/
def Flight.stealEnds (f : Flight) : List Nat := match f.kind with | .steal _ v t _ _ _ _ _ => [v / 8, t / 8] | _ => []
/-- Whether a cluster is halted (R411). A pending receive stands in the slot and is saved with it (R417, log 21). -/
def State.haltedFor (s : State) (cl : Nat) : Bool :=
  ((List.range 128).all fun i => match (s.slot (cl * 128 + i)).status with | .parked | .idle | .halted => true | _ => false) &&
    (s.cluster cl).running = [] &&
    !s.flights.any (fun f => (clusterOf f.thr = cl && f.mustEnd) || f.stealEnds.contains cl) &&
    ((List.range 8).all fun i => (s.core (cl * 8 + i)).sb = []) &&
    !s.dies.any fun d => d.2.coll.any fun c => c.thr / 128 = cl && c.steps.any fun x => match x.2 with | some y => y.st = .running | none => false
/-- The slots' mailbox entries, oldest first within each slot. -/
def State.mailOf (s : State) (cl : Nat) : List (Nat × MailEntry) :=
  (List.range 128).flatMap fun i => (s.slot (cl * 128 + i)).mail.map fun m => (cl * 128 + i, m)
/-- A saved context as it is kept: mailboxes in the buffer; instruction caches, which stay with the core, are no part of it. -/
def Saved.stowed (sv : Saved) (msgs : List (Nat × MailEntry)) : Saved :=
  { sv with msgs := msgs,
            slots := mapEach {} (fun x => { x with mail := [] }) sv.slots,
            cores := mapEach {} (fun k => { k with icache := [], ifills := [] }) sv.cores }
/-- A context comes live: FREE tiles have ZF = 1, and slots that the watchdog has not stopped return to rotation. -/
def State.wakeContext (s : State) (cl : Nat) : State :=
  let s := s.modCluster cl fun c => { c with tiles := mapEach {} (fun t => if t.st = .free then { t with zf := true } else t) c.tiles }
  let s := (List.range 128).foldl (fun s i =>
    let x := s.slot (cl * 128 + i)
    let stopped := match x.task.bind s.launch with | some l => l.stopped | none => false
    if stopped || (s.core (cl * 8 + i / 16)).fenced then s else s.setSlot (cl * 128 + i) x.resume) s
  let s := (List.range 8).foldl (fun s i => s.postNow (.dispatch (cl * 8 + i))) s
  (s.postNow (.matrixSelect cl)).postNow (.allocationGrant cl)
/-- The buffered messages of a context that has come live are delivered in order as mailboxes have room (R417). -/
def State.replayMail (s : State) (cl : Nat) : List (Nat × MailEntry) → State
  | [] => s
  | (t, m) :: rest =>
    if (s.slot t).mail.length < 8 then (s.acceptMail t m).replayMail cl rest
    else s.modCluster cl fun c => { c with replay := c.replay ++ (t, m) :: rest }
/-- The packets of a partition's launches that a cluster has sent and received (07 R208). -/
def State.packetsAt (s : State) (cl p : Nat) : Nat × Nat :=
  let of := fun (m : SMap Nat) => m.foldl (fun n e =>
    match s.launch e.1 with | some l => if l.part = p then n + e.2 else n | none => n) 0
  (of (s.cluster cl).sent, of (s.cluster cl).recvd)
/-- Steps 3 to 5 of R410 for a halted cluster. -/
def State.swap (s : State) (cl p q : Nat) (rq : PartRec) : State :=
  let old := s
  let msgs := s.mailOf cl ++ (s.cluster cl).replay
  let s := match mapGet none s.parts p with | some r => (s.saveRegions cl r).saveHeader cl r msgs | none => s
  let out := (s.liveOf p cl).stowed msgs
  let s := match (s.cluster cl).shadow with
    | some sv => if sv.part = q then s else { s with images := mapPut none s.images (imageKey sv.part cl) (some sv) }
    | none => s
  let back := match (s.cluster cl).shadow with
    | some sv => if sv.part = q then sv else (mapGet none s.images (imageKey q cl)).getD (s.freshContext cl q rq)
    | none => (mapGet none s.images (imageKey q cl)).getD (s.freshContext cl q rq)
  let s := { s with images := mapPut none s.images (imageKey q cl) none }
  let s := (s.putLive cl back).keepCores old cl
  let s := s.modCluster cl fun c => { c with part := some q, switching := none, shadow := some out, replay := [] }
  let s := (s.writeSystem cl rq).wakeContext cl
  s.replayMail cl back.msgs
/-- CONTEXT_SWAP: waits until two waves, one after the other, find the cluster halted and the packets of the partition's launches
that it has sent and received unchanged (07 R209), then swaps; with a replay under way it goes on with that. -/
def State.contextStep (s : State) (cl : Nat) : State :=
  let c := s.cluster cl
  match c.switching, c.part with
  | some q, some p =>
    (match mapGet none s.parts q with
     | none => s.modCluster cl fun c => { c with switching := none, wave := none }
     | some rq =>
       let s := (List.range 128).foldl (fun s i => s.drainThread (cl * 128 + i)) s
       let n := s.packetsAt cl p
       if s.haltedFor cl && c.wave = some n then
         let s := (s.modCluster cl fun c => { c with wave := none }).swap cl p q rq
         if (s.cluster cl).replay = [] then s else s.poll s.nextId (.contextSwap cl)
       else
         (s.modCluster cl fun c => { c with wave := if s.haltedFor cl then some n else none }).postLat s.nextId (.contextSwap cl))
  | _, _ =>
    if c.replay = [] then s
    else
      let s := (s.modCluster cl fun c => { c with replay := [] }).replayMail cl c.replay
      if (s.cluster cl).replay = [] then s else s.poll s.nextId (.contextSwap cl)
/-- PARTITION_CONTEXT_SWITCH, step 1 of R410: dispatch and stealing stop, the slots are pre-empted, unclaimed speculations of
the partition are discarded (06 R175). -/
def State.beginSwitch (s : State) (cl q : Nat) : State :=
  let c := s.cluster cl
  match c.part with
  | none => s
  | some p =>
    if c.switching.isSome || p = q || (mapGet none s.parts q).isNone || c.replay ≠ [] then s
    else
      let s := (List.range 4).foldl (fun s i =>
        match mapGet none s.specs i with
        | some sp => if !sp.claimed && (match s.launch sp.lid with | some x => x.part = p | none => false) then s.discard (Fin.ofNat 4 i) 15 else s
        | none => s) s
      let s := s.modCluster cl fun c => { c with switching := some q }
      let s := (List.range 8).foldl (fun s i => s.calm (cl * 8 + i)) s
      let s := (List.range 128).foldl (fun s i => s.preemptSlot (cl * 128 + i)) s
      s.postNow (.contextSwap cl)

/-! ### Migration (R418, R419) -/

/-- A slot image as it arrives in another slot: an instruction under way issues again from its start. -/
def Slot.moved (x : Slot) : Slot :=
  match x.status with
  | .blocked _ => { x with status := if x.acqReg.isSome then .blocked .release else .ready, relFrom := none, fetched := none }
  | _ => { x with fetched := none }
/-- Whether a slot may be moved: it holds a task and is not between deque and first issue. -/
def Slot.movable (x : Slot) : Bool := x.status ≠ .idle && x.status ≠ .dispatching && x.task.isSome
/-- The transactions of thread `t` belong to slot `u` from now on; an instruction fill stays with the core that fetches. -/
def State.moveFlights (s : State) (t u : Nat) : State :=
  { s with flights := s.flights.map fun f =>
      match f.kind with
      | .load (.fetch _) _ _ _ => f
      | _ => if f.owner = t then { f with moved := some u } else f }
/-- THREAD_MIGRATION: one thread whose sbcnt is zero moves to an IDLE slot of another core of its partition; the old slot
keeps a forwarding entry. With sbcnt not zero it waits. -/
def State.moveThread (s : State) (t u : Nat) : State :=
  let x := s.slot t
  let c := coreOf t
  let d := coreOf u
  if !(x.movable && (s.slot u).status = .idle && c ≠ d && s.partOf c = s.partOf d && s.inPart c (clusterOf u) && !(s.core d).fenced &&
      (s.cluster (clusterOf u)).part = (s.cluster (clusterOf t)).part && (s.cluster (clusterOf u)).switching.isNone) then s
  else if x.sbcnt ≠ 0 || x.unaccepted ≠ 0 then (s.drainThread t).poll s.nextId (.threadMigration t u)
  else
    let lid := x.task.getD 0
    let s := s.claimSlot lid u
    if (s.launch lid).isNone then s
    else
      let s := s.modCluster (clusterOf t) fun k => { k with allocQ := k.allocQ.filter fun r => r.who ≠ .thread t }
      let s := s.setSlot u { x.moved with tvec := (s.slot u).tvec }
      let s := (s.setSlot t { x.toIdle with mail := [] }).moveFlights t u
      let s := s.modCore d fun k => { k with forward := k.forward.filter fun f => !(f.launch = lid && f.slot = some (u % 16)) }
      let e : Forward := { launch := lid, since := s.nextId, slot := some (t % 16), toCore := d, toSlot := u % 16 }
      ((s.modCore c fun k => { k with forward := k.forward ++ [e] }).calm d).postNow (.dispatch c)
/-- The launches that a core holds: tasks, entries, parked frames, commands and requests. -/
def State.launchesOn (s : State) (c : Nat) : List Nat :=
  let k := s.core c
  distinct (((List.range 16).filterMap fun i => (s.slot (c * 16 + i)).task) ++ k.entries.map (·.launch) ++
    (k.parked.filterMap fun e => e.2.map (·.launch)) ++ k.mq.map (·.lid) ++ k.fifo.map (·.lid))
/-- Whether a core is free: no slot, entry, frame, command or request. -/
def State.coreFree (s : State) (c : Nat) : Bool :=
  let k := s.core c
  (List.range 16).all (fun i => (s.slot (c * 16 + i)).status = .idle) && k.entries = [] && k.parked = [] && k.mq = [] && k.fifo = [] &&
    !k.fenced && !k.probing
/-- Bytes, poison and granules of [a, a + n) on chip move to b; what stood at b goes. -/
def State.moveBytes (s : State) (a b n : Nat) (zero : Bool) : State :=
  let shift := fun {α : Type} (m : SMap α) (u : Nat) =>
    mapReplace m (chipKey b / u) (n / u) ((mapRange m (chipKey a / u) (n / u)).map fun e => (e.1 - chipKey a / u + chipKey b / u, e.2))
  let clear := fun {α : Type} (m : SMap α) (u : Nat) => if zero then mapReplace m (chipKey a / u) (n / u) [] else m
  { s with mem := clear (shift s.mem 1) 1, poison := clear (shift s.poison 8) 8, grans := clear (shift s.grans 16) 16 }
/-- A core's context streams to a free core: slots, deque and spill places at the same indices, rings, mailboxes, FIFO,
command queue, scratchpad with granules, accumulators; the old core keeps forwarding entries (R419). What R419 does not name
stays: ADMIT (01 R30), the instruction cache (03 R91), the copies of SET and CAP (13 R343), the steal engine; a queued TALLOC issues
again (04 R108). -/
def State.moveCore (s : State) (c d : Nat) : State :=
  let old := s.core c
  let new := s.core d
  let s := (List.range 16).foldl (fun s i => s.drainThread (c * 16 + i)) s
  let s := s.modCluster (c / 8) fun k =>
    { k with allocQ := k.allocQ.filter fun r => !(List.range 16).any fun i => r.who = .thread (c * 16 + i) }
  let lids := s.launchesOn c
  let entries := lids.map fun l => ({ launch := l, since := s.nextId, slot := none, toCore := d, toSlot := 0 } : Forward)
  let thr := fun (t : Nat) => if coreOf t = c then d * 16 + t % 16 else t
  let req := fun (r : EngReq) => { r with core := d, thr := thr r.thr }
  let s := (List.range 16).foldl (fun s i =>
    let x := s.slot (c * 16 + i)
    let s := s.setSlot (d * 16 + i) { x.moved with tvec := (s.slot (d * 16 + i)).tvec }
    (s.setSlot (c * 16 + i) { x.toIdle with mail := [], sbcnt := 0, unaccepted := 0 }).moveFlights (c * 16 + i) (d * 16 + i)) s
  let k := s.core c
  let s := s.modCore d fun _ =>
    { k with mq := k.mq.map fun m => { m with thr := thr m.thr }, fifo := k.fifo.map req, cpart := new.cpart, cmask := new.cmask,
             admission := new.admission, icache := new.icache, ifills := new.ifills, poolSet := new.poolSet, poolCap := new.poolCap,
             sb := [], probing := false, pausing := new.pausing, round := new.round, failed := new.failed, ladder := 0,
             fenced := new.fenced, fencing := false,
             forward := new.forward.filter fun f => !(lids.contains f.launch && f.slot = none) }
  let s := s.modCore c fun k =>
    { admission := old.admission, cpart := k.cpart, cmask := k.cmask, fenced := k.fenced, fencing := k.fencing, sb := k.sb, poolSet := k.poolSet,
      poolCap := k.poolCap, icache := k.icache, ifills := k.ifills, round := k.round, failed := k.failed, pausing := k.pausing,
      forward := k.forward ++ entries }
  let s := s.moveBytes (coreWin c 0) (coreWin d 0) 0x40000 true
  let s := s.moveBytes (coreWin c 4) (coreWin d 4) 0x10000 true
  let s := s.moveBytes (placeAddr c 0) (placeAddr d 0) 0x8000 true
  let s := if c / 8 = d / 8 then
      s.modCluster (c / 8) fun k => { k with engines := k.engines.map fun r => if r.core = c then req r else r }
    else s
  ((s.calm d).postNow (.dispatch d)).postNow (.matrixSelect (d / 8))
/-- Whether core `c` may be moved to `d` (R419). -/
def State.coreMovable (s : State) (c d : Nat) : Bool :=
  let k := s.core c
  c ≠ d && s.coreFree d && s.partOf c = s.partOf d && s.inPart c (d / 8) && (s.cluster (d / 8)).part = (s.cluster (c / 8)).part &&
    (s.cluster (d / 8)).switching.isNone &&
    (c / 8 = d / 8 || (k.mq = [] && k.rings.all fun r => r.2.handles = [])) &&
    !(s.cluster (c / 8)).running.any (fun r => r.core = c) &&
    !(List.range 16).any (fun i => (s.slot (c * 16 + i)).status = .dispatching) &&
    !s.flights.any fun f => match f.kind with | .steal _ v t _ _ _ _ _ => v = c || t = c || t = d | _ => false
/-- CORE_MIGRATION. -/
def State.migrateCore (s : State) (c d : Nat) : State := if s.coreMovable c d && !(s.core c).fenced then s.moveCore c d else s

/-! ### Fencing (R420, 15 R402) -/

/-- A slot stopped by a fence, whatever its mode: HALTED for the killed launch (07 R182), which then makes it IDLE; of another
launch it is set aside as a pre-empted one. -/
def State.fenceSlot (s : State) (lid t : Nat) : State :=
  let killed := (s.slot t).task = some lid
  match (s.slot t).status with
  | .ready | .blocked _ =>
    (s.parkSlot t).modSlot t fun x => { x with preempt := false, status := if killed then .halted else .parked }
  | .dispatching => s.modSlot t fun x => if killed then { x with status := .halted } else { x with preempt := true }
  | .idle | .halted | .parked => s
/-- A core is fenced: every slot stops, what other launches hold goes to a free core, or stays set aside with the core until it
returns (log 22); the host is told. -/
def State.fenceCore (s : State) (lid c : Nat) : State :=
  let s := (List.range 16).foldl (fun (s : State) i => s.fenceSlot lid (c * 16 + i)) s
  let s := match (List.range 2048).find? fun d => s.coreMovable c d && s.partOf d = s.partOf c with
    | some d =>
      let s := s.moveCore c d
      (List.range 16).foldl (fun (s : State) i => s.modSlot (d * 16 + i) Slot.resume) s
    | none => s
  (s.modCore c fun k => { k with fenced := true, admission := 0 }).raise 0x104 (natLe c 8)
/-- WATCHDOG_FENCE: at T3 after step 2 each core with a slot of the launch that has not stopped is fenced. -/
def State.watchdogFenceAt (s : State) (lid : Nat) : State :=
  match s.launch lid with
  | none => s
  | some l =>
    let k := s.queue l.queue
    if l.stage ≠ 2 || k.t3 = 0 || s.cycle < l.stageAt + k.t3 * 1024 then s
    else
      let on := distinct ((s.slots.filter fun e => e.2.task = some lid &&
        (match e.2.status with | .ready | .blocked _ | .dispatching => true | _ => false)).map fun e => coreOf e.1)
      let s := s.modLaunch lid fun l => { l with stage := 3 }
      let s := s.raise 0x100 (watchdogBody lid l.queue 3)
      (on.foldl (fun s c => s.fenceCore lid c) s).postNow (.launchCompletion lid)
/-- The host returns a fenced core to service (17 R428). -/
def State.unfence (s : State) (c : Nat) : State :=
  let p := s.partOf c
  let s := s.modCore c fun k => { k with fenced := false, admission := BitVec.ofNat 64 (2 ^ p + 0x170000) }
  let s := (List.range 16).foldl (fun s i =>
    let x := s.slot (c * 16 + i)
    let stopped := match x.task.bind s.launch with | some l => l.stopped | none => false
    if stopped then s else s.setSlot (c * 16 + i) x.resume) s
  s.postNow (.dispatch c)

/-! ### Events -/

/-- PARTITION_CONTEXT_SWITCH. -/
def execPartitionContextSwitch (cl toPart : Nat) (s : State) : Res := .next (s.beginSwitch cl toPart)
/-- CONTEXT_SWAP. -/
def execContextSwap (cl : Nat) (s : State) : Res := .next (s.contextStep cl)
/-- THREAD_MIGRATION. -/
def execThreadMigration (thr toThr : Nat) (s : State) : Res := .next (s.moveThread thr toThr)
/-- CORE_MIGRATION. -/
def execCoreMigration (core toCore : Nat) (s : State) : Res := .next (s.migrateCore core toCore)
/-- WATCHDOG_FENCE. -/
def execWatchdogFence (lid : Nat) (s : State) : Res := .next (s.watchdogFenceAt lid)

end Sys2Proof.Machine
end

