-- ==== Sys2Proof/Machine/Host.lean ====
section
/-! DEFINITION. The host port (17 R422-R425), the management protocol with its requests (R426-R429, R442, 15 R397) and the
events sent to the host (R430). -/

namespace Sys2Proof.Machine

/-! ### RDMA (R422-R424) -/

/-- The region that a key names and that holds [addr, addr + len), if its kind and rights allow the access. -/
def State.regionFor (s : State) (key addr len : Nat) (write : Bool) : Option MemRegion :=
  s.regions.find? fun r =>
    r.key = key && r.base.toNat ≤ addr && addr + len ≤ r.base.toNat + r.len.toNat && (if write then r.wr else r.rd) &&
      (write || r.kind ≠ 0)
/-- An access outside the regions or their rights: the connection enters the error state (R423). -/
def State.accessError (s : State) (qp : Nat) : State :=
  ({ s with qpError := mapPut false s.qpError qp true }).emit (.remoteAccessError qp)
/-- A host write to die fault pages, 4 KiB each, die 0 first (02 R56, R57, log 26): whole words only. -/
def State.faultPageWrite (s : State) (o : Nat) (data : List Byte) : State :=
  (List.range ((o % 8 + data.length + 7) / 8)).foldl (fun s i =>
    let a := o / 8 * 8 + 8 * i
    if a < o || o + data.length < a + 8 then s
    else
      let v := BitVec.ofNat 64 (leNat ((data.drop (a - o)).take 8))
      let die := a / 4096
      let x := a % 4096
      if x = 0 then s.postNow (.faultResolutionWrite die v)
      else if 0x100 ≤ x && x < 0x180 then s.postNow (.faultConsWrite die ((x - 0x100) / 8) v)
      else s) s
/-- RDMA_WRITE: performed at its homes in the order the connection delivers (05 R160), watched (06 R169). -/
def State.hostWrites (s : State) (qp key addr : Nat) (data : List Byte) : State :=
  if mapGet false s.qpError qp then s
  else match s.regionFor key addr data.length true with
    | none => s.accessError qp
    | some r =>
      if r.kind = 2 then s.faultPageWrite (addr - r.base.toNat) data else s.writeHome none addr (data.map some)
/-- Bytes of die fault pages as the host reads them: zero, and in the resolution and CONS words, of which the spec gives only the
write, a free value (02 R56, R57, log 26). -/
def faultPageBytes (w o n : Nat) : List Byte :=
  (List.range n).map fun i =>
    let x := (o + i) % 4096
    if x < 8 || (0x100 ≤ x && x < 0x180) then BitVec.ofNat 8 (w / 2 ^ (8 * (x % 8))) else 0
/-- RDMA_READ; a poisoned word's bytes are a free value (log 7). -/
def State.hostReads (s : State) (qp key addr len : Nat) : State :=
  if mapGet false s.qpError qp then s
  else match s.regionFor key addr len false with
    | none => s.accessError qp
    | some r =>
      let w := (Config.freeWord s.free).toNat
      if r.kind = 2 then
        ({ s with free := s.free + 1 }).emit (.readResponse qp (faultPageBytes w (addr - r.base.toNat) len))
      else
      let bs := (s.homeBytes none addr len).zipIdx.map fun b =>
        if s.poisoned (addr + b.2) 1 then BitVec.ofNat 8 (w / 2 ^ (8 * ((addr + b.2) % 8))) else b.1
      ({ s with free := s.free + b2n (s.poisoned addr len) }).emit (.readResponse qp bs)
/-- Writes slots into a ring from index `n` on. -/
def State.putSlots (s : State) (k : Queue) : Nat → Nat → List Byte → State
  | 0, _, _ => s
  | m + 1, n, data => (s.writeHome none (k.ring + n % k.size * 256) ((data.take 256).map some)).putSlots k m (n + 1) (data.drop 256)
/-- HOST_SEND (R424): whole slots into the bound queue at WR, or a NAK. -/
def State.hostSends (s : State) (qp : Nat) (data : List Byte) : State :=
  if mapGet false s.qpError qp then s
  else
    let n := data.length / 256
    match mapGet none s.qpBind qp with
    | none => s.emit (.nak qp)
    | some q =>
      let k := s.queue q
      if !k.defined || data.length % 256 ≠ 0 || n = 0 || 8 < n || k.rd + k.size < k.wr + n then s.emit (.nak qp)
      else (s.putSlots k n k.wr data).notifyIndex q (k.wr + n)
/-- RDMA_WRITE. -/
def execRdmaWrite (qp key addr : Nat) (data : List Byte) (s : State) : Res := .next (s.hostWrites qp key addr data)
/-- RDMA_READ. -/
def execRdmaRead (qp key addr len : Nat) (s : State) : Res := .next (s.hostReads qp key addr len)
/-- HOST_SEND. -/
def execHostSend (qp : Nat) (data : List Byte) (s : State) : Res := .next (s.hostSends qp data)
/-- ECN_CONGESTION_NOTIFICATION: answered as RoCEv2 asks; rates are timing (R422). -/
def execEcnCongestionNotification (qp : Nat) (s : State) : Res := .next (s.emit (.ecnResponse qp))

/-! ### Requests and responses (R426, R427, R429) -/

/-- A source's number of kept responses. -/
def keptOf (l : List Kept) (src : Nat) : Nat := (l.filter fun k => k.src = src).length
/-- The list without its first element that satisfies `p`. -/
def removeFirst {α : Type} (p : α → Bool) : List α → List α
  | [] => []
  | x :: l => if p x then l else x :: removeFirst p l
/-- The responses kept: the last 64 of each of up to 16 sources; a further source replaces the one heard longest ago
(log 23). -/
def keepResponse (l : List Kept) (k : Kept) : List Kept :=
  let l := if 64 ≤ keptOf l k.src then removeFirst (fun x => x.src = k.src) l else l
  let l := if keptOf l k.src = 0 && 16 ≤ (distinct (l.map (·.src))).length then
      (match l with | x :: _ => l.filter fun y => y.src ≠ x.src | [] => [])
    else l
  l ++ [k]
/-- Sends a response and keeps it. -/
def State.respond (s : State) (r : Mgmt) (op status : Nat) (body : List Byte) : State :=
  let k : Kept := ⟨r.src, op, r.seq, status, body⟩
  ({ s with kept := keepResponse s.kept k }).emit (.response r.src op r.seq status body)
/-- Whether dies in recovery answer while no die leads: STATUS and FWLOAD only (20 R457, log 23). -/
def State.recoveryAnswers (s : State) (op : Nat) : Bool :=
  (op = 1 || op = 3) && (List.range 4).any fun d => (s.die d).recovery ≠ 0
/-- A request `op` (R427): answered from the kept responses, turned away, or performed by `f`, which gives the status and
the response's body. STATUS, ATTEST and FWLOAD are accepted from any source. -/
def State.request (s : State) (r : Mgmt) (op : Nat) (f : State → State × Nat × List Byte) : State :=
  match s.kept.find? fun k => k.src = r.src && k.seq = r.seq with
  | some k => s.emit (.response k.src k.op k.seq k.status k.body)
  | none =>
    if !s.led && !s.recoveryAnswers op then s.emit (.response r.src op r.seq 1 [])
    else if 3 < op && op ≠ 0x71 && !s.controllers.contains r.src then s.respond r op 4 []
    else let q := f s; q.1.respond r op q.2.1 q.2.2
/-- A request that only changes state, or fails with a status that leaves it as it was. -/
def State.change (s : State) (r : Mgmt) (op : Nat) (check : State → Nat) (f : State → State) : State :=
  s.request r op fun s => let n := check s; if n = 0 then (f s, 0, []) else (s, n, [])
/-- The status of the first condition that fails; 0 if none does. -/
def firstBad : List (Bool × Nat) → Nat
  | [] => 0
  | (b, n) :: l => if b then n else firstBad l

/-! ### STATUS, ATTEST, FWLOAD, ERRREAD -/

/-- The body of STATUS. -/
def State.statusBody (s : State) : List Byte :=
  let lead := s.leaderDie.getD 0
  let rec_ := (List.range 4).foldl (fun n d => n + b2n ((s.die d).recovery ≠ 0) * 2 ^ d) 0
  let parts := (List.range 16).foldl (fun n p => n + b2n (mapGet none s.parts p).isSome * 2 ^ p) 0
  natLe (lead + rec_ * 16 + (s.die lead).term % 2 ^ 32 * 2 ^ 32) 8 ++ natLe (s.modid.toNat % 2 ^ 16) 8 ++ natLe parts 8 ++
    (List.range 4).map fun d => BitVec.ofNat 8 (s.die d).recovery
/-- STATUS. -/
def execStatus (r : Mgmt) (s : State) : Res := .next (s.request r 0x01 fun s => (s, 0, s.statusBody))
/-- A measurement register of a die: 32 zero bytes until it is first extended (20 R458). -/
def State.pm (s : State) (d n : Nat) : List Byte :=
  match mapGet [] (s.die d).pm n with | [] => List.replicate 32 0 | l => l
/-- Exactly `n` bytes of a byte string, zeros beyond its end. -/
def fitBytes (n : Nat) (l : List Byte) : List Byte := (l ++ List.replicate n 0).take n
/-- The attestation report (20 R461). -/
def State.report (s : State) (nonce : List Byte) : List Byte :=
  let body := natLe 1 4 ++ fitBytes 16 Config.serial ++ nonce ++
    ((List.range 4).flatMap fun d => (List.range 4).flatMap fun n => s.pm d n) ++
    natLe ((List.range 4).foldl (fun n d => n + b2n ((s.die d).recovery ≠ 0) * 2 ^ d) 0) 4 ++
    fitBytes 48 (Config.identityKey s.idDigest)
  body ++ fitBytes 16224 (Config.sign body)
/-- ATTEST. -/
def execAttest (r : Mgmt) (nonce : List Byte) (s : State) : Res :=
  .next (s.request r 0x02 fun s => if nonce.length = 32 then (s, 0, s.report nonce) else (s, 2, []))
/-- A request whose work goes on: WORKDONE reports its end (R427). -/
def State.startWork (s : State) (r : Mgmt) (op status : Nat) : State :=
  ({ s with works := s.works ++ [(op, r.seq)] }).postLat s.nextId (.workdone (BitVec.ofNat 16 op) r.seq (BitVec.ofNat 16 status))
/-- Bytes replaced from offset `o`, zeros filling a gap. -/
def patchBytes (l : List Byte) (o : Nat) (d : List Byte) : List Byte :=
  fitBytes o l ++ d ++ l.drop (o + d.length)
/-- FWLOAD (R428): the flash of every die, in effect at the next reset (20 R458). -/
def execFwload (r : Mgmt) (image : Fin 4) (off : Nat) (data : List Byte) (s : State) : Res :=
  .next (s.request r 0x03 fun s =>
    if 32768 < data.length then (s, 6, [])
    else
      (({ s with flash := mapPut [] s.flash image.val (patchBytes (mapGet [] s.flash image.val) off data) }).startWork r 3 0, 0, []))
/-- ERRREAD: corrected and uncorrected counts, in the order of 03 R95's table. -/
def execErrread (r : Mgmt) (die : Fin 4) (s : State) : Res :=
  .next (s.request r 0x71 fun s =>
    let d := s.die die.val
    if d.recovery ≠ 0 then (s, 7, [])
    else (s, 0, (List.range 7).flatMap fun i => natLe (mapGet 0 d.corrected i) 8 ++ natLe (mapGet 0 d.uncorrected i) 8))

/-! ### ASIDSET, DFSET, POOL7 -/

/-- ASIDSET (02 R40): until an invalidation, walks may still use what the entry held. -/
def execAsidset (r : Mgmt) (asid : BitVec 12) (entry : Word) (s : State) : Res :=
  .next (s.change r 0x10 (fun _ => firstBad [(bits entry.toNat 62 52 ≠ 0 || bits entry.toNat 11 0 ≠ 0, 6)]) fun s =>
    let a := asid.toNat
    { s with asidRoots := mapPut 0 s.asidRoots a entry,
             asidOld := mapPut [] s.asidOld a (mapGet 0 s.asidRoots a :: mapGet [] s.asidOld a) })
/-- DFSET (06 R162). -/
def execDfset (r : Mgmt) (w0 w1 : Word) (s : State) : Res :=
  .next (s.change r 0x11 (fun s => firstBad
      [((List.range 4).any (fun i => (mapGet none s.specs i).isSome), 5),
       (w0.toNat / 2 ^ 52 ≠ 0 || bits w0.toNat 17 0 ≠ 0 || bits w1.toNat 62 16 ≠ 0, 6),
       (hbmSize < w0.toNat + w1.toNat % 2 ^ 16 * 2 ^ 18, 6)])
    fun s => { s with dfarea0 := w0, dfarea1 := w1 })
/-- Applies `f` to a cluster as a partition's context stands on it: live, in the shadow store, or in the image. -/
def State.atContext (s : State) (p cl : Nat) (f : State → State) : State :=
  let c := s.cluster cl
  if c.part = some p then f s
  else match c.shadow with
    | some sv =>
      if sv.part = p then
        let r := s.inSaved cl sv fun s => (f s, ()); r.1.modCluster cl fun c => { c with shadow := some r.2.1 }
      else s
    | none =>
      match mapGet none s.images (imageKey p cl) with
      | some sv => let r := s.inSaved cl sv fun s => (f s, ()); { r.1 with images := mapPut none r.1.images (imageKey p cl) (some r.2.1) }
      | none => s
/-- Whether a die that holds a cluster of a set is in recovery. -/
def State.recoveryIn (s : State) (m : BitVec 256) : Bool :=
  (List.range 256).any fun c => m.getLsbD c && (s.die (dieOfCluster c)).recovery ≠ 0
/-- The clusters of a partition; none if it is not defined. -/
def State.cmaskOf (s : State) (p : Nat) : BitVec 256 := match mapGet none s.parts p with | some r => r.cmask | none => 0
/-- POOL7 (04 R104, R107). -/
def execPool7 (r : Mgmt) (part : Fin 16) (value : Word) (s : State) : Res :=
  .next (s.change r 0x12 (fun s => firstBad
      [((mapGet none s.parts part.val).isNone, 6), (!storeDataOk (sharedWin 0 4 + 0x38) value.toNat, 6),
       (s.recoveryIn (s.cmaskOf part.val), 7)])
    fun s => (s.partClusters part.val).foldl (fun s cl => s.atContext part.val cl fun s => s.setPool cl 7 value.toNat) s)

/-! ### Partitions (15 R397, 20 R462, R463) -/

/-- Power-up of one cluster (20 R462): quarter rate, then half, then full. -/
def State.powerUp (s : State) (cl : Nat) : State :=
  if (s.cluster cl).powered then s
  else ((s.modCluster cl fun c => { c with powered := true, ramp := 2 }).post (s.cycle + 14000) (.matrixRateRamp cl)).post
    (s.cycle + 28000) (.matrixRateRamp cl)
/-- A cluster whose power-up has finished is assigned to the partition that names it. -/
def State.assignReady (s : State) (cl : Nat) : State :=
  let c := s.cluster cl
  if !c.powered || c.ramp ≠ 0 || c.part.isSome then s
  else
    match s.parts.find? fun e => match e.2 with | some r => r.cmask.getLsbD cl | none => false with
    | some (p, some r) => s.assign cl p r
    | _ => s
/-- A cluster leaves its partition: ADMIT 0, PERSISTENT tiles freed (04 R113), pool partitions 0-6 cleared (04 R107). -/
def State.release (s : State) (cl : Nat) : State :=
  let s := (List.range 8).foldl (fun s i => s.modCore (cl * 8 + i) fun k => { k with admission := 0, cpart := 0, cmask := 0 }) s
  let s := (s.cluster cl).tiles.foldl (fun s t => if t.2.st = .persistent then s.freeTile cl t.1 false else s) s
  let s := (List.range 7).foldl (fun s p => s.setPool cl p 0) s
  s.modCluster cl fun c => { c with part := none }
/-- Frees the PERSISTENT tiles of an ASID on a cluster; their handles stay in the rings (04 R119). -/
def State.dropAsid (s : State) (cl asid : Nat) : State :=
  (s.cluster cl).tiles.foldl (fun s t => if t.2.st = .persistent && t.2.asid = asid then s.freeTile cl t.1 false else s) s
/-- Whether an uncompleted packet names a partition. -/
def Packet.namesPart (p : Packet) (part : Nat) : Bool :=
  !p.done && ((p.ty = 0 && (launchHeader p.slots).part = part) || (p.ty = 4 && p.num 0x18 8 = part))
/-- Clusters and ASIDs of a partition that a new record drops. -/
def State.lostClusters (s : State) (p : Nat) (m : BitVec 256) : List Nat := (s.partClusters p).filter fun c => !m.getLsbD c
/-- The ASIDs dropped. -/
def State.lostAsids (s : State) (p : Nat) (l : List (BitVec 12)) : List Nat :=
  match mapGet none s.parts p with | some r => (r.asids.filter fun a => !l.contains a).map (·.toNat) | none => []
/-- The status of a PARTDEF (R397). -/
def State.partdefCheck (s : State) (p : Nat) (r : PartRec) : Nat :=
  let lost := s.lostClusters p r.cmask
  let asids := s.lostAsids p r.asids
  firstBad
    [(r.reserved || r.asids = [] || 64 < r.asids.length || r.imgbase.toNat % 65536 ≠ 0 || r.frbase.toNat % 32 ≠ 0 ||
        r.frlog2.toNat < 4 || 16 < r.frlog2.toNat, 6),
     (!bit (mapGet 0 s.asidRoots r.sasid.toNat).toNat 63, 6),
     (s.parts.any (fun e => e.1 ≠ p && (match e.2 with | some x => x.cmask &&& r.cmask ≠ 0 | none => false)), 6),
     (s.recoveryIn r.cmask, 7),
     (lost ≠ [] && s.launches.any (fun e => match e.2 with | some l => l.part = p | none => false), 5),
     (lost.any (fun c => (s.cluster c).shadow.isSome || (s.cluster c).switching.isSome), 5),
     (s.queues.any (fun e => asids.contains e.2.asid && e.2.packets.any fun x => x.namesPart p), 5)]
/-- PARTDEF's effects: removed clusters and ASIDs, then added clusters in ascending order, gated ones powered up first; the
partition's mask reaches every core of it. A fresh definition resets PROD and CONS (02 R57); a new record of a partition that is
defined already keeps them (DESIGN CHOICE, log 65). -/
def State.definePart (s : State) (p : Nat) (r : PartRec) : State :=
  let fresh := (mapGet none s.parts p).isNone
  let lost := s.lostClusters p r.cmask
  let asids := s.lostAsids p r.asids
  let s := lost.foldl (fun (s : State) c =>
    let s := if (s.cluster c).part = some p then s.release c else s
    { s with images := mapPut none s.images (imageKey p c) none }) s
  let s := { s with parts := mapPut none s.parts p (some r) }
  let s := if fresh then
      { s with dies := mapEach {} (fun d => { d with prod := mapPut 0 d.prod p 0, cons := mapPut 0 d.cons p 0 }) s.dies }
    else s
  let s := (s.partClusters p).foldl (fun s c => asids.foldl (fun s a => s.atContext p c fun s => s.dropAsid c a) s) s
  let s := (s.partClusters p).foldl (fun s c => s.atContext p c fun s =>
    (List.range 8).foldl (fun s i => s.modCore (c * 8 + i) fun k => { k with cpart := BitVec.ofNat 64 (16 + p), cmask := r.cmask }) s) s
  (s.partClusters p).foldl (fun s c => if (s.cluster c).powered then s.assignReady c else s.powerUp c) s
/-- PARTDEF. -/
def execPartdef (r : Mgmt) (part : Fin 16) (record : PartRec) (s : State) : Res :=
  .next (s.change r 0x20 (fun s => s.partdefCheck part.val record) fun s => s.definePart part.val record)
/-- PARTDEL. -/
def execPartdel (r : Mgmt) (part : Fin 16) (s : State) : Res :=
  .next (s.change r 0x21 (fun s => firstBad
      [((mapGet none s.parts part.val).isNone, 6), (s.cmaskOf part.val ≠ 0, 5),
       (s.queues.any (fun e => e.2.packets.any fun x => x.namesPart part.val), 5)])
    fun s => { s with parts := mapPut none s.parts part.val none })

/-! ### Queues (15 R379, R391) -/

/-- Whether descriptor words have a reserved bit set or an invalid LOG2 or ring (R379). -/
def State.descriptorBad (s : State) (w0 w1 w2 w4 : Nat) : Bool :=
  let ring := bits w0 51 12 * 4096
  let n := 2 ^ (w0 % 32) * 256
  let lo := s.dfarea0.toNat
  let hi := lo + s.dfarea1.toNat % 2 ^ 16 * 2 ^ 18
  w0 / 2 ^ 52 ≠ 0 || bits w0 11 5 ≠ 0 || 20 < w0 % 32 || bits w1 47 36 ≠ 0 || bits w1 23 2 ≠ 0 || w2 / 2 ^ 52 ≠ 0 ||
    w2 % 4096 ≠ 0 || w4 / 2 ^ 32 ≠ 0 || !populated ring n || (ring < hi && lo < ring + n)
/-- Whether a queue is neither idle nor halted, or a speculation of it runs. -/
def Queue.inUse (k : Queue) : Bool := k.defined && ((!k.idle && k.state ≠ 4) || k.spec.isSome)
/-- QSET. -/
def execQset (r : Mgmt) (q : BitVec 16) (w0 w1 w2 w3 w4 : Word) (s : State) : Res :=
  .next (s.change r 0x30 (fun s => firstBad
      [(s.descriptorBad w0.toNat w1.toNat w2.toNat w4.toNat, 6), ((s.queue q.toNat).inUse, 5)])
    fun s => s.modQueue q.toNat fun k => { k with defined := true, w0 := w0, w1 := w1, w2 := w2, w3 := w3, w4 := w4 })
/-- QRESTART: a halted queue goes on at a slot index; packets that had not started are gone (R391, log 20). -/
def execQrestart (r : Mgmt) (q : BitVec 16) (index : Word) (s : State) : Res :=
  .next (s.change r 0x31 (fun s => firstBad [((s.queue q.toNat).defined && (s.queue q.toNat).state = 4 |> (! ·), 5)]) fun s =>
    let i := index.toNat
    let s := s.modQueue q.toNat fun k =>
      { k with packets := k.packets.filter fun p => p.started && !p.waits, next := i, wr := max k.wr i, err := 0, state := 0,
               hold := none, stale := none, got := [], claiming := none, lastKey := none, since := s.nextId }
    ({ s with nextId := s.nextId + 1 }.settleQueue q.toNat).postNow (.queueResidency q.toNat))
/-- QDEL. -/
def execQdel (r : Mgmt) (q : BitVec 16) (s : State) : Res :=
  .next (s.change r 0x32 (fun s => firstBad [(!(s.queue q.toNat).defined, 6), ((s.queue q.toNat).inUse, 5)]) fun s =>
    { s with queues := mapPut {} s.queues q.toNat {} })
/-- DONMAP (R441). -/
def execDonmap (r : Mgmt) (dq : BitVec 8) (q : BitVec 16) (unmap : Bool) (s : State) : Res :=
  .next (s.change r 0x33 (fun s => firstBad [(!unmap && !(s.queue q.toNat).defined, 6)]) fun s =>
    { s with donMap := mapPut none s.donMap dq.toNat (if unmap then none else some q.toNat) })
/-- MRREG (R423): the response holds the remote key. -/
def execMrreg (r : Mgmt) (kind : Fin 4) (base len : Word) (rd wr : Bool) (s : State) : Res :=
  .next (s.request r 0x40 fun s =>
    if !populated base.toNat len.toNat || (kind = 2 && 0x4000 < len.toNat) then (s, 6, [])
    else
      let key := Config.remoteKey s.regions.length % 2 ^ 32
      ({ s with regions := s.regions ++ [⟨kind, base, len, rd, wr, key⟩] }, 0, natLe key 8))
/-- QPBIND (R424). -/
def execQpbind (r : Mgmt) (qp : BitVec 24) (q : BitVec 16) (unbind : Bool) (s : State) : Res :=
  .next (s.change r 0x41 (fun s => firstBad [(!unbind && !(s.queue q.toNat).defined, 6)]) fun s =>
    { s with qpBind := mapPut none s.qpBind qp.toNat (if unbind then none else some q.toNat) })

/-! ### RESUME, KILL, SLOTGO, COREBACK -/

/-- A launch that the watchdog stopped resumes: its parked slots return to rotation (15 R402). -/
def State.resumeLaunch (s : State) (lid : Nat) : State :=
  match s.launch lid with
  | none => s
  | some l =>
    let s := s.modLaunch lid fun l => { l with stopped := false }
    (s.partClusters l.part).foldl (fun s cl =>
      if (s.cluster cl).part = some l.part && (s.cluster cl).switching.isNone then
        let s := (List.range 128).foldl (fun (s : State) i => s.modSlot (cl * 128 + i) fun x =>
          if x.task = some lid && !(s.core (cl * 8 + i / 16)).fenced then { x.resume with preempt := false } else x) s
        (List.range 8).foldl (fun s i => s.postNow (.dispatch (cl * 8 + i))) s
      else s) s
/-- RESUME. -/
def execResume (r : Mgmt) (lid : BitVec 12) (s : State) : Res :=
  .next (s.change r 0x50 (fun s => firstBad
      [(match s.launch lid.toNat with | some l => !l.stopped | none => true, 5)]) fun s => s.resumeLaunch lid.toNat)
/-- KILL (15 R402 step 2): record status 7. -/
def execKill (r : Mgmt) (lid : BitVec 12) (s : State) : Res :=
  .next (s.change r 0x51 (fun s => firstBad [(match s.launch lid.toNat with | some l => l.killed || 8 ≤ l.phase | none => true, 5)])
    fun s => s.killLaunch lid.toNat 7)
/-- SLOTGO: a HALTED slot becomes READY at a PC in a mode (16 R409). -/
def execSlotgo (r : Mgmt) (thr : BitVec 15) (pc : Word) (sys : Bool) (s : State) : Res :=
  .next (s.change r 0x52 (fun s => firstBad
      [(pc.toNat % 4 ≠ 0, 6), ((s.die (thr.toNat / 8192)).recovery ≠ 0, 7), ((s.slot thr.toNat).status ≠ .halted, 5)])
    fun s => s.modSlot thr.toNat fun x =>
      { x with status := .ready, pc := pc, mode := if sys then .system else .user, fetched := none })
/-- COREBACK: a fenced core returns to service (16 R420). -/
def execCoreback (r : Mgmt) (core : BitVec 11) (s : State) : Res :=
  .next (s.change r 0x53 (fun s => firstBad
      [((s.die (core.toNat / 512)).recovery ≠ 0, 7), (!(s.core core.toNat).fenced, 5)])
    fun s => s.unfence core.toNat)

/-! ### CHECKPOINT, RESTORE (R442) -/

/-- Whether every partition is halted: every cluster that one is resident on (16 R411). -/
def State.allHalted (s : State) : Bool :=
  (List.range 256).all fun cl => (s.cluster cl).part.isNone || s.haltedFor cl
/-- The stripes of populated HBM, 64 KiB each, in ascending address. -/
def hbmStripes : Nat := hbmSize / 65536
/-- Streams stripe `i` and `n` more, each to the destinations in turn. -/
def State.streamOut (s : State) (l : List Stream) (i : Nat) : Nat → State
  | 0 => s
  | n + 1 =>
    match l[i % l.length]? with
    | some d => (s.emit (.stream d (i * 65536) (s.homeBytes none (i * 65536) 65536))).streamOut l (i + 1) n
    | none => s
/-- `n` words that come from outside: free values (log 27). -/
def State.outsideWords (s : State) : Nat → State × List Byte
  | 0 => (s, [])
  | n + 1 => let w := s.drawWord; let r := w.1.outsideWords n; (r.1, natLe w.2 8 ++ r.2)
/-- Writes stripe `i` and `n` more back, each write watched (06 R169). -/
def State.streamIn (s : State) (i : Nat) : Nat → State
  | 0 => s
  | n + 1 => let r := s.outsideWords 8192; (r.1.writeHome none (i * 65536) (r.2.map some)).streamIn (i + 1) n
/-- The status of both requests. -/
def State.streamCheck (s : State) (l : List Stream) : Nat :=
  firstBad [(l = [] || 9 < l.length, 6), (!s.allHalted, 5), ((List.range 4).any (fun d => (s.die d).recovery ≠ 0), 7)]
/-- CHECKPOINT. -/
def execCheckpoint (r : Mgmt) (streams : List Stream) (s : State) : Res :=
  .next (s.change r 0x60 (fun s => s.streamCheck streams) fun s => (s.streamOut streams 0 hbmStripes).startWork r 0x60 0)
/-- RESTORE. -/
def execRestore (r : Mgmt) (streams : List Stream) (s : State) : Res :=
  .next (s.change r 0x61 (fun s => s.streamCheck streams) fun s => (s.streamIn 0 hbmStripes).startWork r 0x61 0)

/-! ### MODSET, EVTREG and events (R430) -/

/-- MODSET (R431). -/
def execModset (r : Mgmt) (modid : BitVec 16) (s : State) : Res :=
  .next (s.change r 0x70 (fun _ => 0) fun s => { s with modid := BitVec.ofNat 64 modid.toNat })
/-- EVTREG: events held until now are sent. -/
def execEvtreg (r : Mgmt) (v6 : Bool) (addr : List Byte) (port : BitVec 16) (s : State) : Res :=
  .next (s.change r 0x80 (fun _ => firstBad [(addr.length ≠ 16, 2)]) fun s =>
    let first := s.endpoint.isNone
    let s := { s with endpoint := some (v6, addr, port) }
    if first then s.events.foldl (fun s e => s.emit (.event e.n e.code e.body)) s else s)
/-- EVENT_ACKNOWLEDGEMENT. -/
def execEventAcknowledgement (n : Nat) (s : State) : Res := .next { s with events := s.events.filter fun e => e.n ≠ n }
/-- EVENT_RESEND: every 1 ms until it is acknowledged. -/
def execEventResend (n : Nat) (s : State) : Res :=
  .next (match s.events.find? fun e => e.n = n with
    | none => s
    | some e =>
      let s := if s.endpoint.isSome then s.emit (.event e.n e.code e.body) else s
      s.post (s.cycle + 1750000) (.eventResend n))
/-- WORKDONE: the end of a request whose work went on. -/
def execWorkdone (op : BitVec 16) (seq : Word) (status : BitVec 16) (s : State) : Res :=
  .next (if s.works.contains (op.toNat, seq) then
    ({ s with works := removeFirst (fun x => x = (op.toNat, seq)) s.works }).raise 0x107
      (natLe op.toNat 8 ++ natLe seq.toNat 8 ++ natLe status.toNat 8)
  else s)

end Sys2Proof.Machine
end

