-- ==== Sys2Proof/Machine/Sha.lean ====
section
/-! DEFINITION. SHA-256 (20, "Signatures, measurements") on lists of bytes. The spec names the function only; its definition is that
of FIPS 180-4, whose constants are computed here from the roots of primes that they stand for. -/

namespace Sys2Proof.Machine

/-! ### Constants -/

/-- The first primes, those below 312: there are 64. -/
def shaPrimes : List Nat :=
  ((List.range 312).drop 2).filter fun p => ((List.range p).drop 2).all fun q => p % q != 0
/-- The largest number whose `k`-th power is at most `n`, among those below `r + 2 ^ bits` that begin with `r`, one bit at a time. -/
def powerRoot (k n : Nat) : Nat → Nat → Nat
  | 0, r => r
  | bits + 1, r => powerRoot k n bits (if (r + 2 ^ bits) ^ k ≤ n then r + 2 ^ bits else r)
/-- The first 32 bits of the fraction of the `k`-th root of a prime. -/
def rootFraction (k p : Nat) : Word32 := BitVec.ofNat 32 (powerRoot k (p * 2 ^ (32 * k)) 37 0)

/-! ### Blocks -/

/-- The eight words of a hash value, and of a block's working variables. -/
structure ShaWords where
  a : Word32
  b : Word32
  c : Word32
  d : Word32
  e : Word32
  f : Word32
  g : Word32
  h : Word32
  deriving DecidableEq, Repr

/-- The hash value before the first block, from the square roots of eight primes. -/
def shaStart : ShaWords :=
  let r := fun (p : Nat) => rootFraction 2 p
  ⟨r 2, r 3, r 5, r 7, r 11, r 13, r 17, r 19⟩
/-- The exclusive or of a word rotated right by each of some distances. -/
def spin (x : Word32) (l : List Nat) : Word32 := (l.map x.rotateRight).foldl (· ^^^ ·) 0
/-- The working variables after a round that adds `kw`, the sum of a constant and a message word: the last variable leaves, a new
first one enters, and the fifth takes the mixed sum as well. -/
def ShaWords.round (v : ShaWords) (kw : Word32) : ShaWords :=
  let pick := (v.e &&& v.f) ||| (~~~v.e &&& v.g)
  let most := (v.a &&& (v.b ||| v.c)) ||| (v.b &&& v.c)
  let sum := kw + v.h + pick + spin v.e [6, 11, 25]
  ⟨sum + most + spin v.a [2, 13, 22], v.a, v.b, v.c, v.d + sum, v.e, v.f, v.g⟩
/-- One round with its constant on the variables and the sixteen message words that come next. -/
def shaTurn (x : ShaWords × List Word32) (k : Word32) : ShaWords × List Word32 :=
  let w := fun (i : Nat) => x.2.getD i 0
  let next := w 0 + w 9 + (spin (w 1) [7, 18] ^^^ (w 1 >>> 3)) + (spin (w 14) [17, 19] ^^^ (w 14 >>> 10))
  (x.1.round (k + w 0), x.2.drop 1 ++ [next])
/-- The number of a list of bytes, highest first. -/
def beNat (l : List Byte) : Nat := leNat l.reverse
/-- The bytes of a number, highest first. -/
def natBe (x n : Nat) : List Byte := (natLe x n).reverse
/-- The hash value after a block of 64 bytes. -/
def ShaWords.block (v : ShaWords) (bytes : List Byte) : ShaWords :=
  let words := (List.range 16).map fun i => BitVec.ofNat 32 (beNat ((bytes.drop (4 * i)).take 4))
  let r := ((shaPrimes.map (rootFraction 3)).foldl shaTurn (v, words)).1
  ⟨v.a + r.a, v.b + r.b, v.c + r.c, v.d + r.d, v.e + r.e, v.f + r.f, v.g + r.g, v.h + r.h⟩

/-! ### Messages -/

/-- A message with the bit that ends it, zeros, and its length in bits, a whole number of blocks. -/
def shaPad (m : List Byte) : List Byte :=
  m ++ 0x80 :: List.replicate ((119 - m.length % 64) % 64) 0 ++ natBe (8 * m.length) 8
/-- The SHA-256 digest of a message. -/
def sha256 (m : List Byte) : List Byte :=
  let p := shaPad m
  let v := (List.range (p.length / 64)).foldl (fun (v : ShaWords) i => v.block ((p.drop (64 * i)).take 64)) shaStart
  [v.a, v.b, v.c, v.d, v.e, v.f, v.g, v.h].flatMap fun x => natBe x.toNat 4

end Sys2Proof.Machine
end

