-- ==== Sys2Proof/Machine/Boot.lean ====
section
/-! DEFINITION. Bring-up (20): measured boot (R457, R458), the leader lease (R459, R460), power-up and power gating of
clusters (R462, R463). -/

namespace Sys2Proof.Machine

/-! ### Measured boot (R457, R458) -/

/-- Extends a measurement register with a digest. -/
def State.extendPm (s : State) (d n : Nat) (image : List Byte) : State :=
  s.modDie d fun x => { x with pm := mapPut [] x.pm n (sha256 (s.pm d n ++ sha256 image)) }
/-- A failed step stops the die in recovery; the host is told (17 R430). -/
def State.recover (s : State) (d status : Nat) : State :=
  (s.modDie d fun x => { x with recovery := status }).raise 0x108 (natLe (d + status * 256) 8)
/-- Step 3: the images in order, each verified and then measured; answers whether all were. -/
def State.measure (s : State) (d : Nat) : Nat → List (List Byte) → List Bool → State × Bool
  | 0, _, _ => (s, true)
  | n + 1, images, oks =>
    let i := 3 - (n + 1)
    if !oks.headD false then (s.recover d (2 + i), false)
    else (s.extendPm d (i + 1) (images.headD [])).measure d n images.tail oks.tail
/-- The timer of a die's lease starts anew at 10 ms (R459). -/
def State.restartTimer (s : State) (d : Nat) : State :=
  (s.modDie d fun x => { x with timer := s.cycle + 17500000 }).post (s.cycle + 17500000) (.leaseTimeout (Fin.ofNat 4 d))
/-- What a power cycle keeps: the flash, the identity, what was sent, and the model's own counter of free values. -/
def State.powerCycle (s : State) : State :=
  { State.reset with flash := s.flash, idDigest := s.idDigest, outbox := s.outbox, free := s.free }
/-- Step 4 succeeds: the die joins the lease, and its clusters power up in groups of eight, 3500 cycles apart across the
module (R462). -/
def State.joinLease (s : State) (d : Nat) (controllers : List Nat) : State :=
  let s := ({ s with controllers := controllers }).modDie d fun x => { x with booted := true }
  let s := s.restartTimer d
  (List.range 8).foldl (fun s i => s.post (s.cycle + 3500 * (8 * d + i)) (.clusterPowerUp (Fin.ofNat 32 (8 * d + i)))) s
/-- POWER_ON_RESET of one die: boot ROM and stage 1. On a die that has booted, or stopped in recovery, it begins a new power
cycle of the module. -/
def State.bootDie (s : State) (b : BootIn) : State :=
  let d := b.die.val
  let s := if (s.die d).booted || (s.die d).recovery ≠ 0 then s.powerCycle else s
  if !b.okStage1 then s.recover d 1
  else
    let s := s.extendPm d 0 b.stage1
    let s := if s.idDigest = [] then { s with idDigest := sha256 b.stage1 } else s
    let r := s.measure d 3 b.images b.okImages
    if !r.2 then r.1
    else if !b.okTrain then r.1.recover d 0x10
    else r.1.joinLease d b.controllers
/-- POWER_ON_RESET. -/
def execPowerOnReset (b : BootIn) (s : State) : Res := .next (s.bootDie b)

/-! ### The leader lease (R459, R460) -/

/-- Whether a die takes part in the lease. -/
def State.inLease (s : State) (d : Nat) : Bool := (s.die d).booted && (s.die d).recovery = 0
/-- A die begins to lead: the event, the renewals, and what waited for a leader. -/
def State.lead (s : State) (d : Nat) : State :=
  let t := (s.die d).term
  let s := s.raise 0x106 (natLe (d + t % 2 ^ 32 * 2 ^ 32) 8)
  let s := ((List.range 4).filter (· ≠ d)).foldl (fun s e => s.postLat s.nextId (.leaseRenewal (Fin.ofNat 4 e) t)) s
  s.queues.foldl (fun s q =>
    let s := if q.2.held then s.postNow (.slotReread q.1) else s
    q.2.packets.foldl (fun s p => if p.ending.isSome && !p.done then s.postNow (p.event q.1) else s) s) s
/-- The die that leads or claims under a TERM by its own record, if it still does. -/
def State.holderOf (s : State) (term : Nat) : Option Nat :=
  (List.range 4).find? fun d => (s.die d).leader = some (Fin.ofNat 4 d) && (s.die d).term = term && 3 ≤ (s.die d).votes.length
/-- LEASE_RENEWAL reaches a die: a follower accepts one that carries no lower TERM than it has seen; the leader sends the
next after 2.5 ms. -/
def State.renewal (s : State) (d : Fin 4) (term : Nat) : State :=
  match s.holderOf term with
  | none => s
  | some l =>
    if l = d.val then s
    else
      let s := s.post (s.cycle + 4375000) (.leaseRenewal d term)
      if !s.inLease d.val || term < (s.die d.val).seen then s
      else (s.modDie d.val fun x => { x with term := term, seen := term, leader := some (Fin.ofNat 4 l), votes := [] }).restartTimer d.val
/-- LEASE_TIMEOUT: a follower whose timer has lapsed claims TERM + 1. -/
def State.leaseLapses (s : State) (d : Fin 4) : State :=
  let x := s.die d.val
  if !s.inLease d.val || s.cycle < x.timer || x.leads d.val then s
  else
    let t := x.term + 1
    let s := s.modDie d.val fun x => { x with term := t, seen := max x.seen t, leader := some d, votes := [d] }
    let s := s.restartTimer d.val
    ((List.range 4).filter (· ≠ d.val)).foldl (fun s e => s.postLat s.nextId (.leaseClaim (Fin.ofNat 4 e) d t)) s
/-- A die's vote goes to a claimant; with three the claimant leads. -/
def State.grant (s : State) (d claimant : Fin 4) (term : Nat) : State :=
  let s := (List.range 4).foldl (fun (s : State) e =>
    s.modDie e fun x => if (x.leads e) || x.term ≠ term then x else { x with votes := x.votes.filter (· ≠ d) }) s
  let s := s.modDie d.val fun x => { x with term := term, seen := term, leader := some claimant, votes := [] }
  let s := s.restartTimer d.val
  let c := s.die claimant.val
  if c.term = term && c.leader = some claimant && s.inLease claimant.val && !c.votes.contains d then
    let s := s.modDie claimant.val fun x => { x with votes := d :: x.votes }
    if c.votes.length = 2 then s.lead claimant.val else s
  else s
/-- LEASE_CLAIM reaches a die: granted if its TERM is above every TERM seen; of claims of equal TERM the lower die number
wins, until one leads. -/
def State.claim (s : State) (d claimant : Fin 4) (term : Nat) : State :=
  let x := s.die d.val
  if !s.inLease d.val || d = claimant then s
  else if x.seen < term then s.grant d claimant term
  else if x.seen = term && x.term = term && (match x.leader with
      | some c => claimant < c && !(s.die c.val).leads c.val | none => false) then s.grant d claimant term
  else s
/-- LEASE_RENEWAL. -/
def execLeaseRenewal (die : Fin 4) (term : Nat) (s : State) : Res := .next (s.renewal die term)
/-- LEASE_TIMEOUT. -/
def execLeaseTimeout (die : Fin 4) (s : State) : Res := .next (s.leaseLapses die)
/-- LEASE_CLAIM. -/
def execLeaseClaim (die claimant : Fin 4) (term : Nat) (s : State) : Res := .next (s.claim die claimant term)

/-! ### Power-up and gating (R462, R463) -/

/-- CLUSTER_POWER_UP: a group of eight clusters of a die that has trained. -/
def execClusterPowerUp (group : Fin 32) (s : State) : Res :=
  .next (if s.inLease (group.val / 8) then (List.range 8).foldl (fun s i => s.powerUp (8 * group.val + i)) s else s)
/-- MATRIX_RATE_RAMP: half rate after 8 µs, full rate after 16 µs; with the ramp over the cluster may be assigned. -/
def execMatrixRateRamp (cl : Nat) (s : State) : Res :=
  .next (if (s.cluster cl).powered && (s.cluster cl).ramp ≠ 0 then (s.rateRamp cl).assignReady cl else s)
/-- Whether no partition has or names a cluster. -/
def State.unassigned (s : State) (cl : Nat) : Bool :=
  (s.cluster cl).part.isNone && !s.parts.any fun e => match e.2 with | some r => r.cmask.getLsbD cl | none => false
/-- CLUSTER_POWER_GATE: only a cluster of no partition with an empty shadow store; its contents are lost, fencing stays. -/
def State.gateCluster (s : State) (cl : Nat) : State :=
  if !((s.cluster cl).powered && s.unassigned cl && (s.cluster cl).shadow.isNone) then s
  else
    let fenced := (List.range 8).map fun i => (s.core (cl * 8 + i)).fenced
    let s := s.putLive cl
      { part := 0, slots := [], cores := [], tiles := [], pools := [], ctrs := [], msgs := [], bytes := [], grans := [], poison := [] }
    let s := { s with clusters := mapPut {} s.clusters cl {} }
    fenced.zipIdx.foldl (fun (s : State) f => if f.1 then s.modCore (cl * 8 + f.2) fun k => { k with fenced := true } else s) s
/-- CLUSTER_POWER_GATE. -/
def execClusterPowerGate (cl : Nat) (s : State) : Res := .next (s.gateCluster cl)

end Sys2Proof.Machine
end

