-- ==== Sys2Proof/Machine/Control.lean ====
section
/-! DEFINITION. Branches, jumps and constants through the PC (10 R265-R271, R279). -/

namespace Sys2Proof.Machine

/-- A compare-and-branch of two registers (R266). -/
def State.branch2 (s : State) (o : Br2) (c : Word → Word → Bool) : State :=
  s.withSrcs [.g o.a o.qa, .g o.b o.qb] fun s => s.modSlot s.cur fun x =>
    { x with pc := if c (x.rg o.a) (x.rg o.b) then x.pc + sext64 o.disp * 4 else x.pc + 4 }
/-- A compare-with-zero branch (R267). -/
def State.branchZ (s : State) (o : Brz) (c : Word → Bool) : State :=
  s.withSrcs [.g o.a o.qa] fun s => s.modSlot s.cur fun x =>
    { x with pc := if c (x.rg o.a) then x.pc + sext64 o.disp * 4 else x.pc + 4 }

/-- BEQ (R266). -/
def execBeq (o : Br2) (s : State) : Res := .next (s.branch2 o fun a b => a == b)
/-- BNE (R266). -/
def execBne (o : Br2) (s : State) : Res := .next (s.branch2 o fun a b => a != b)
/-- BLT (R266). -/
def execBlt (o : Br2) (s : State) : Res := .next (s.branch2 o fun a b => a.slt b)
/-- BGE (R266). -/
def execBge (o : Br2) (s : State) : Res := .next (s.branch2 o fun a b => !a.slt b)
/-- BLTU (R266). -/
def execBltu (o : Br2) (s : State) : Res := .next (s.branch2 o fun a b => a.ult b)
/-- BGEU (R266). -/
def execBgeu (o : Br2) (s : State) : Res := .next (s.branch2 o fun a b => !a.ult b)
/-- BEQZ (R267). -/
def execBeqz (o : Brz) (s : State) : Res := .next (s.branchZ o fun a => a == 0)
/-- BNEZ (R267). -/
def execBnez (o : Brz) (s : State) : Res := .next (s.branchZ o fun a => a != 0)
/-- BLTZ (R267). -/
def execBltz (o : Brz) (s : State) : Res := .next (s.branchZ o fun a => a.slt 0)
/-- BGEZ (R267). -/
def execBgez (o : Brz) (s : State) : Res := .next (s.branchZ o fun a => !a.slt 0)
/-- BGTZ (R267). -/
def execBgtz (o : Brz) (s : State) : Res := .next (s.branchZ o fun a => (0 : Word).slt a)
/-- BLEZ (R267). -/
def execBlez (o : Brz) (s : State) : Res := .next (s.branchZ o fun a => !(0 : Word).slt a)
/-- LDPC (R265). -/
def execLdpc (o : Ud) (s : State) : Res := .next (s.readLiteral o.d o.imm)
/-- JAL (R268). -/
def execJal (o : Ud) (s : State) : Res :=
  .next (s.modSlot s.cur fun x => { x.wg o.d (x.pc + 4) with pc := x.pc + sext64 o.imm * 4 })
/-- JALR (R269): a misaligned target traps with g[d] unchanged. -/
def execJalr (o : Ri) (s : State) : Res :=
  .next (s.withSrcs [.g o.a o.qa] fun s =>
    let t := (s.slot s.cur).rg o.a + sext64 o.imm
    if t.toNat % 4 ≠ 0 then s.trapExact 3 t
    else s.modSlot s.cur fun x => { x.wg o.d (x.pc + 4) with pc := t })
/-- SKIP (R270). -/
def execSkip (n : BitVec 20) (s : State) : Res :=
  .next (s.modSlot s.cur fun x => { x with pc := x.pc + 4 + n.setWidth 64 * 4 })
/-- NOP (R279). -/
def execNop (s : State) : Res := .next (s.finish id)
/-- HINT (09 R246): only the PC changes. -/
def execHint (_bits : BitVec 25) (s : State) : Res := .next (s.finish id)

end Sys2Proof.Machine
end

