-- ==== Sys2Proof/Machine/Vector.lean ====
section
/-! DEFINITION. Vector instructions: majors 0x30 to 0x38 (12 R307-R327). -/

namespace Sys2Proof.Machine

/-! ### Shared forms -/

/-- An instruction that keeps masked lanes (R308, R309): the sources, the mask, and the destination where it is a source;
then `f i` gives the result and the flags of lane i, and the flags of the active lanes become sticky (R226). -/
def State.vecKeep (s : State) (d : Fin 32) (m : Fin 8) (ty : ElemTy) (srcs : List Src) (f : Slot → Nat → Nat × Nat) : State :=
  s.withSrcs (srcs ++ .m m :: keepSrc d m) fun s => s.finish fun x =>
    (x.wv d (keepLanes (elemW ty) (lanesOf ty) (x.rm m) (x.rv d) fun i => (f x i).1)).addFlags
      (laneFlags (lanesOf ty) (x.rm m) fun i => (f x i).2)
/-- Two vector sources, lane by lane. -/
def State.v3 (s : State) (o : V3) (f : Slot → Nat → Nat → Nat × Nat) : State :=
  s.vecKeep o.d o.m o.ty [.v o.a, .v o.b] fun x i =>
    f x (lane (x.rv o.a) (elemW o.ty) i) (lane (x.rv o.b) (elemW o.ty) i)
/-- One vector source, lane by lane. -/
def State.v2 (s : State) (o : V2) (f : Slot → Nat → Nat × Nat) : State :=
  s.vecKeep o.d o.m o.ty [.v o.a] fun x i => f x (lane (x.rv o.a) (elemW o.ty) i)
/-- An integer lane operation (R314): `f` takes the lane width and the codes; no flag is set. -/
def State.vInt (s : State) (o : V3) (f : Nat → Nat → Nat → Nat) : State :=
  s.v3 o fun _ a b => (f (elemW o.ty) a b % 2 ^ elemW o.ty, 0)
/-- A floating-point lane operation (R310): an exact result with its flags, rounded once under fmode.RM. -/
def roundLane (t : ElemTy) (x : Slot) (r : XVal × Nat) : Nat × Nat :=
  let q := roundF t x.satinf x.rmode.arith 0 r.1
  (q.1, q.2 ||| r.2)
/-- Two floating-point sources. -/
def State.vFlt (s : State) (o : V3) (f : RMode → FVal → FVal → XVal × Nat) : State :=
  s.v3 o fun x a b => roundLane o.ty x (f x.rmode.arith (decodeIeee o.ty a) (decodeIeee o.ty b))
/-- One floating-point source. -/
def State.vFlt1 (s : State) (o : V2) (f : FVal → XVal × Nat) : State :=
  s.v2 o fun x a => roundLane o.ty x (f (decodeIeee o.ty a))
/-- A fused form (R318): the old lane of vd is a source. -/
def State.vFma (s : State) (o : V3) (f : RMode → FVal → FVal → FVal → XVal × Nat) : State :=
  s.vecKeep o.d o.m o.ty [.v o.a, .v o.b, .v o.d] fun x i =>
    let e := fun (n : Fin 32) => decodeIeee o.ty (lane (x.rv n) (elemW o.ty) i)
    roundLane o.ty x (f x.rmode.arith (e o.a) (e o.b) (e o.d))
/-- The sign bit of a floating-point code. -/
def signBit (t : ElemTy) : Nat := 2 ^ (elemW t - 1)
/-- s(a) op s(b) clamped to the signed range (R213). -/
def clampLane (w : Nat) (i : Int) : Nat := toBits w (clampInt (intRange w false) i)
/-- The value 1. -/
def oneF : FVal := .fin false 1 0


/-! ### Integer arithmetic, logic and shifts (R314, R315) -/

/-- VADD (R314). -/
def execVadd (o : V3) (s : State) : Res := .next (s.vInt o fun w a b => toBits w (a + b))
/-- VSUB (R314). -/
def execVsub (o : V3) (s : State) : Res := .next (s.vInt o fun w a b => toBits w ((a : Int) - b))
/-- VMUL (R314). -/
def execVmul (o : V3) (s : State) : Res := .next (s.vInt o fun _ a b => a * b)
/-- VMULH (R314). -/
def execVmulh (o : V3) (s : State) : Res := .next (s.vInt o fun w a b => toBits w (sInt w a * sInt w b / 2 ^ w))
/-- VMIN (R314). -/
def execVmin (o : V3) (s : State) : Res := .next (s.vInt o fun w a b => if sInt w a < sInt w b then a else b)
/-- VMAX (R314). -/
def execVmax (o : V3) (s : State) : Res := .next (s.vInt o fun w a b => if sInt w a < sInt w b then b else a)
/-- VMINU (R314). -/
def execVminu (o : V3) (s : State) : Res := .next (s.vInt o fun _ a b => if a < b then a else b)
/-- VMAXU (R314). -/
def execVmaxu (o : V3) (s : State) : Res := .next (s.vInt o fun _ a b => if a < b then b else a)
/-- VADDS (R314). -/
def execVadds (o : V3) (s : State) : Res := .next (s.vInt o fun w a b => clampLane w (sInt w a + sInt w b))
/-- VSUBS (R314). -/
def execVsubs (o : V3) (s : State) : Res := .next (s.vInt o fun w a b => clampLane w (sInt w a - sInt w b))
/-- VABS (R314). -/
def execVabs (o : V2) (s : State) : Res := .next (s.v2 o fun _ a => (toBits (elemW o.ty) (sInt (elemW o.ty) a).natAbs, 0))
/-- VNEG (R314). -/
def execVneg (o : V2) (s : State) : Res := .next (s.v2 o fun _ a => (toBits (elemW o.ty) (-(a : Int)), 0))
/-- VAND (R315). -/
def execVand (o : V3) (s : State) : Res := .next (s.vInt o fun _ a b => a &&& b)
/-- VOR (R315). -/
def execVor (o : V3) (s : State) : Res := .next (s.vInt o fun _ a b => a ||| b)
/-- VXOR (R315). -/
def execVxor (o : V3) (s : State) : Res := .next (s.vInt o fun _ a b => a ^^^ b)
/-- VANDN (R315). -/
def execVandn (o : V3) (s : State) : Res := .next (s.vInt o fun w a b => a &&& (2 ^ w - 1 - b))
/-- VSLL (R315): the amount is the low log2(w) bits. -/
def execVsll (o : V3) (s : State) : Res := .next (s.vInt o fun w a b => a * 2 ^ (b % w))
/-- VSRL (R315): the amount is the low log2(w) bits. -/
def execVsrl (o : V3) (s : State) : Res := .next (s.vInt o fun w a b => a / 2 ^ (b % w))
/-- VSRA (R315): the amount is the low log2(w) bits. -/
def execVsra (o : V3) (s : State) : Res := .next (s.vInt o fun w a b => toBits w (sInt w a / 2 ^ (b % w)))

/-! ### Floating-point arithmetic (R316, R317) -/

/-- VFADD (R316). -/
def execVfadd (o : V3) (s : State) : Res := .next (s.vFlt o addF)
/-- VFSUB (R316). -/
def execVfsub (o : V3) (s : State) : Res := .next (s.vFlt o fun m a b => addF m a b.neg)
/-- VFMUL (R316). -/
def execVfmul (o : V3) (s : State) : Res := .next (s.vFlt o fun _ a b => mulX a b)
/-- VFDIV (R316). -/
def execVfdiv (o : V3) (s : State) : Res := .next (s.vFlt o fun _ a b => divF a b)
/-- VFMIN (R317). -/
def execVfmin (o : V3) (s : State) : Res := .next (s.v3 o fun _ a b => minmaxF o.ty false a b)
/-- VFMAX (R317). -/
def execVfmax (o : V3) (s : State) : Res := .next (s.v3 o fun _ a b => minmaxF o.ty true a b)
/-- VFABS (R316): the sign bit only. -/
def execVfabs (o : V2) (s : State) : Res := .next (s.v2 o fun _ a => (a % signBit o.ty, 0))
/-- VFNEG (R316): the sign bit only. -/
def execVfneg (o : V2) (s : State) : Res := .next (s.v2 o fun _ a => (a ^^^ signBit o.ty, 0))
/-- VFSQRT (R316). -/
def execVfsqrt (o : V2) (s : State) : Res := .next (s.vFlt1 o sqrtF)
/-- VRCP (R316). -/
def execVrcp (o : V2) (s : State) : Res := .next (s.vFlt1 o fun a => divF oneF a)
/-- VRSQ (R316). -/
def execVrsq (o : V2) (s : State) : Res := .next (s.vFlt1 o rsqF)
/-- VEXP2 (R316). -/
def execVexp2 (o : V2) (s : State) : Res := .next (s.vFlt1 o exp2F)

/-! ### Fused forms and dot product (R318, R319) -/

/-- VFMA (R318). -/
def execVfma (o : V3) (s : State) : Res := .next (s.vFma o fmaF)
/-- VFMS (R318). -/
def execVfms (o : V3) (s : State) : Res := .next (s.vFma o fun m a b d => fmaF m a b d.neg)
/-- VFNMA (R318). -/
def execVfnma (o : V3) (s : State) : Res := .next (s.vFma o fun m a b d => fmaF m a.neg b d)
/-- Lane j of VDOT (R319): the accumulator lane and the exact products summed and rounded once. -/
def dotLane (o : V3) (x : Slot) (j : Nat) : Nat × Nat :=
  let w := elemW o.ty
  let q := 32 / w
  let acc := lane (x.rv o.d) 32 j
  let el := fun (n : Fin 32) r => lane (x.rv n) w (j * q + r)
  if o.ty.isInt then
    (toBits 32 ((List.range q).foldl (fun t r => t + sInt w (el o.a r) * sInt w (el o.b r)) (acc : Int)), 0)
  else
    let ps := (List.range q).map fun r => mulF (decodeF o.ty x.satinf (el o.a r)) (decodeF o.ty x.satinf (el o.b r))
    let t := decodeIeee .f32 acc
    let sum := sumX x.rmode.arith (t :: ps.map (·.1))
    roundLane .f32 x (sum.1, ps.foldl (fun f p => f ||| p.2) (sum.2 ||| t.snan))

/-- VDOT (R319): sixteen 32-bit lanes; vd is a source. -/
def execVdot (o : V3) (s : State) : Res := .next (s.vecKeep o.d o.m .i32 [.v o.a, .v o.b, .v o.d] (dotLane o))

/-! ### Compares (R320) -/

/-- An integer condition on two codes of width w. -/
def cmpInt (c : ICond) (w a b : Nat) : Bool :=
  match c with
  | .eq => a == b
  | .ne => a != b
  | .lt => sInt w a < sInt w b
  | .ge => sInt w b ≤ sInt w a
  | .ltu => a < b
  | .geu => b ≤ a
/-- The 64 mask bits whose bit i is `f i` for i < n and 0 above. -/
def maskOf (n : Nat) (f : Nat → Bool) : Word :=
  BitVec.ofNat 64 (ofLanes 1 (fun i => if f i then 1 else 0) n)
/-- A compare: active lanes give their bit, inactive bits keep, bits from L on are 0 (R320). -/
def State.vCmp (s : State) (o : V3) (f : Nat → Nat → Bool × Nat) : State :=
  let dm : Fin 8 := ⟨o.d.val % 8, Nat.mod_lt _ (by decide)⟩
  s.withSrcs ([.v o.a, .v o.b, .m o.m] ++ (if o.m.val = 0 then [] else [.m dm])) fun s => s.finish fun x =>
    let r := fun i => f (lane (x.rv o.a) (elemW o.ty) i) (lane (x.rv o.b) (elemW o.ty) i)
    let mk := x.rm o.m
    (x.wm dm (maskOf (lanesOf o.ty) fun i => if mk.getLsbD i then (r i).1 else (x.rm dm).getLsbD i)).addFlags
      (laneFlags (lanesOf o.ty) mk fun i => (r i).2)
/-- VCMP (R320). -/
def execVcmp (c : ICond) (o : V3) (s : State) : Res := .next (s.vCmp o fun a b => (cmpInt c (elemW o.ty) a b, 0))
/-- VFCMP (R320). -/
def execVfcmp (c : FCond) (o : V3) (s : State) : Res := .next (s.vCmp o fun a b => cmpF c (decodeIeee o.ty a) (decodeIeee o.ty b))

/-! ### Conversions (R321-R324) -/

/-- Elements that a descriptor converts: 512 over the wider of its two widths. -/
def cvtCount (fs : Nat) : Nat := 512 / max (elemW (fsSty fs)) (elemW (fsDty fs))
/-- Whether VCVT accepts a descriptor: valid (R228), and no per-element scales for 64 elements (R321). -/
def cvtOk (fs : Nat) : Bool := fsValid fs && !(fsScl fs == 2 && cvtCount fs == 64)
/-- Element i of VCVT and its flags. -/
def cvtElem (o : Vcvt) (fs : Nat) (x : Slot) (i : Nat) : Nat × Nat :=
  let sc : Option Nat := if fsScl fs = 0 then none else some (lane (x.rv o.s) 16 (if fsScl fs = 2 then i else 0))
  let mode := fsMode fs x.rmode
  convert (fsSty fs) (fsDty fs) (fsSat fs) x.satinf mode (srWord x.rseed.toNat i)
    (lane (x.rv o.a) (elemW (fsSty fs)) i) sc
/-- VCVT (R321, R324): lanes at the count and above are written 0. -/
def State.vcvt (s : State) (o : Vcvt) : State :=
  let fs := (((s.slot s.cur).rfs o.fs).toNat)
  s.withSrcs ((.v o.a :: if fsScl fs = 0 then [] else [.v o.s]) ++ .m o.m :: keepSrc o.d o.m) fun s =>
    if !cvtOk fs then s.trapExact 1 (BitVec.ofNat 64 fs)
    else s.finish fun x =>
      let r := cvtElem o fs x
      let n := cvtCount fs
      ((x.wv o.d (keepLanes (elemW (fsDty fs)) n (x.rm o.m) (x.rv o.d) fun i => (r i).1)).addFlags
        (laneFlags n (x.rm o.m) fun i => (r i).2)).advanceSeed (fsMode fs x.rmode)
/-- VCVT (R321). -/
def execVcvt (o : Vcvt) (s : State) : Res := .next (s.vcvt o)
/-- VCVTI and VCVTF: same width, fmode.RM, and the advance of R324. -/
def State.vCvtI (s : State) (o : Vci) (f : RMode → Bool → Nat → Nat → Nat × Nat) : State :=
  s.withSrcs (.v o.a :: .m o.m :: keepSrc o.d o.m) fun s => s.finish fun x =>
    let r := fun i => f x.rmode x.satinf (srWord x.rseed.toNat i) (lane (x.rv o.a) (elemW o.ty) i)
    ((x.wv o.d (keepLanes (elemW o.ty) (lanesOf o.ty) (x.rm o.m) (x.rv o.d) fun i => (r i).1)).addFlags
      (laneFlags (lanesOf o.ty) (x.rm o.m) fun i => (r i).2)).advanceSeed x.rmode
/-- VCVTI (R322). -/
def execVcvti (o : Vci) (s : State) : Res := .next (s.vCvtI o fun m _ rnd a =>
  let v := decodeIeee o.ty a
  let r := floatToInt (elemW o.ty) o.u m rnd v.x
  (r.1, r.2 ||| v.snan))
/-- VCVTF (R322). -/
def execVcvtf (o : Vci) (s : State) : Res := .next (s.vCvtI o fun m si rnd a =>
  intToFloat o.ty si m rnd (readInt (elemW o.ty) o.u a))
/-- One element of VPACK: destination lane `i`, source code `c` (R323). -/
def packElem (ty : ElemTy) (u : Bool) (x : Slot) (i c : Nat) : Nat × Nat :=
  if ty.isInt then
    let h := elemW ty / 2
    (if u then clampLane h (sInt (elemW ty) c) else c % 2 ^ h, 0)
  else convert .f32 (if u then .f16 else .bf16) false x.satinf x.rmode (srWord x.rseed.toNat i) c none
/-- VPACK (R323): every lane written; for f32 the advance of R324. -/
def State.vpack (s : State) (d a b : Fin 32) (ty : ElemTy) (u : Bool) : State :=
  s.withSrcs [.v a, .v b] fun s => s.finish fun x =>
    let n := lanesOf ty
    let r := fun i => packElem ty u x i (if i < n then lane (x.rv a) (elemW ty) i else lane (x.rv b) (elemW ty) (i - n))
    let y := (x.wv d (mkVec (elemW ty / 2) (2 * n) fun i => (r i).1)).addFlags
      (laneFlags (2 * n) (BitVec.allOnes 64) fun i => (r i).2)
    if ty.isInt then y else y.advanceSeed x.rmode
/-- VPACK (R323). -/
def execVpack (d a b : Fin 32) (ty : ElemTy) (u : Bool) (s : State) : Res := .next (s.vpack d a b ty u)
/-- The type VUNPK widens to: integers to twice the width, bf16 and f16 to f32, s8 to bf16 (R323). -/
def wideTy : ElemTy → ElemTy
  | .i8 => .i16
  | .i16 => .i32
  | .i32 | .i64 => .i64
  | .bf16 | .f16 | .f32 => .f32
  | .s8 => .bf16
/-- One element of VUNPK: sign extension, or an exact decode. -/
def unpkElem (ty : ElemTy) (x : Slot) (c : Nat) : Nat × Nat :=
  if ty.isInt then (toBits (2 * elemW ty) (sInt (elemW ty) c), 0)
  else convert ty (wideTy ty) false x.satinf .rne 0 c none
/-- VUNPK (R323). -/
def State.vunpk (s : State) (d a : Fin 32) (ty : ElemTy) (hi : Bool) : State :=
  s.withSrcs [.v a] fun s => s.finish fun x =>
    let n := lanesOf ty / 2
    let r := fun i => unpkElem ty x (lane (x.rv a) (elemW ty) (if hi then n + i else i))
    (x.wv d (mkVec (2 * elemW ty) n fun i => (r i).1)).addFlags (laneFlags n (BitVec.allOnes 64) fun i => (r i).2)
/-- VUNPK (R323). -/
def execVunpk (d a : Fin 32) (ty : ElemTy) (hi : Bool) (s : State) : Res := .next (s.vunpk d a ty hi)

/-! ### Reductions (R325, R231) -/

/-- The active lanes of va as leaves, combined by the tree of R231. -/
def reduceLanes {α : Type} (o : V2) (x : Slot) (leaf : Nat → α) (f : α → α → α) : Option α :=
  treeFold f 6 ((List.range (lanesOf o.ty)).map fun i =>
    if (x.rm o.m).getLsbD i then some (leaf (lane (x.rv o.a) (elemW o.ty) i)) else none)
/-- A reduction: the result in lane 0, every other bit 0. -/
def State.vRed (s : State) (o : V2) (f : Slot → Nat × Nat) : State :=
  s.withSrcs [.v o.a, .m o.m] fun s => s.finish fun x =>
    (x.wv o.d (BitVec.ofNat 512 (f x).1)).addFlags (f x).2
/-- An integer reduction with its empty result. -/
def State.vRedI (s : State) (o : V2) (empty : Int) (f : Nat → Nat → Nat → Nat) : State :=
  s.vRed o fun x => (((reduceLanes o x id (f (elemW o.ty))).getD (toBits (elemW o.ty) empty)) % 2 ^ elemW o.ty, 0)
/-- A floating-point reduction: nodes are codes with their types and the flags earned so far; the last node widens
exactly to f32, NaN canonically (R215). -/
def State.vRedF (s : State) (o : V2) (empty : Nat) (f : Slot → ElemTy × Nat → ElemTy × Nat → Nat × Nat) : State :=
  s.vRed o fun x =>
    match reduceLanes o x (fun c => ((o.ty, c), 0)) (fun a b =>
      let r := f x a.1 b.1
      ((ElemTy.f32, r.1), r.2 ||| a.2 ||| b.2)) with
    | none => (empty, 0)
    | some ((t, c), fl) => let r := convert t .f32 false x.satinf .rne 0 c none; (r.1, r.2 ||| fl)
/-- The f32 code of a node, exactly; a NaN keeps its signalling bit. -/
def nodeF32 (t : ElemTy) (c : Nat) : Nat :=
  match decodeIeee t c with
  | .nan true => 0x7F800001
  | _ => (convert t .f32 false false .rne 0 c none).1
/-- VREDADD (R325). -/
def execVredadd (o : V2) (s : State) : Res := .next (s.vRedI o 0 fun w a b => (a + b) % 2 ^ w)
/-- VFREDADD (R325): f32 sums rounded at every node. -/
def execVfredadd (o : V2) (s : State) : Res := .next (s.vRedF o 0 fun x a b =>
  roundLane .f32 x (addF x.rmode.arith (decodeIeee a.1 a.2) (decodeIeee b.1 b.2)))
/-- VREDMIN (R325). -/
def execVredmin (o : V2) (s : State) : Res := .next (s.vRedI o (intRange (elemW o.ty) false).2 fun w a b =>
  if sInt w a < sInt w b then a else b)
/-- VREDMAX (R325). -/
def execVredmax (o : V2) (s : State) : Res := .next (s.vRedI o (intRange (elemW o.ty) false).1 fun w a b =>
  if sInt w a < sInt w b then b else a)
/-- VFREDMAX (R325): R317 at every node. -/
def execVfredmax (o : V2) (s : State) : Res := .next (s.vRedF o 0xFF800000 fun _ a b =>
  minmaxF .f32 true (nodeF32 a.1 a.2) (nodeF32 b.1 b.2))

/-! ### Permutes (R326) -/

/-- VBCST (R326). -/
def execVbcst (o : V2) (s : State) : Res := .next (s.vecKeep o.d o.m o.ty [.g o.a false] fun x _ => ((x.rg o.a).toNat % 2 ^ elemW o.ty, 0))
/-- VSHUF (R326). -/
def execVshuf (o : V3) (s : State) : Res := .next (s.vecKeep o.d o.m o.ty [.v o.a, .v o.b] fun x i =>
  let j := lane (x.rv o.b) (elemW o.ty) i
  (if j < lanesOf o.ty then lane (x.rv o.a) (elemW o.ty) j else 0, 0))
/-- VSLIDE (R326). -/
def execVslide (o : V3) (s : State) : Res := .next (s.vecKeep o.d o.m o.ty [.v o.a, .g o.b false] fun x i =>
  let j : Int := i + (x.rg o.b).toInt
  (if 0 ≤ j ∧ j < lanesOf o.ty then lane (x.rv o.a) (elemW o.ty) j.toNat else 0, 0))
/-- VZIP (R326). -/
def execVzip (o : V3) (s : State) : Res := .next (s.vecKeep o.d o.m o.ty [.v o.a, .v o.b] fun x i =>
  (lane (x.rv (if i % 2 = 0 then o.a else o.b)) (elemW o.ty) (i / 2), 0))
/-- VUNZIP (R326). -/
def execVunzip (o : V3) (s : State) : Res := .next (s.vecKeep o.d o.m o.ty [.v o.a, .v o.b] fun x i =>
  let h := lanesOf o.ty / 2
  (if i < h then lane (x.rv o.a) (elemW o.ty) (2 * i) else lane (x.rv o.b) (elemW o.ty) (2 * (i - h)), 0))
/-- The value VEXT writes for a lane: i8, i16, i32 sign-extended, the others zero-extended (R326). -/
def extLane (ty : ElemTy) (c : Nat) : Word :=
  if ty.isInt then (BitVec.ofNat (elemW ty) c).signExtend 64 else BitVec.ofNat 64 c
/-- VEXT (R326). -/
def execVext (d a b : Fin 32) (ty : ElemTy) (s : State) : Res := .next (s.withSrcs [.v a, .g b false] fun s => s.finish fun x =>
  let j := (x.rg b).toNat
  x.wg d (if j < lanesOf ty then extLane ty (lane (x.rv a) (elemW ty) j) else 0))
/-- VINS (R326). -/
def execVins (d a b : Fin 32) (ty : ElemTy) (s : State) : Res := .next (s.withSrcs [.g a false, .g b false, .v d] fun s => s.finish fun x =>
  let j := (x.rg b).toNat
  x.wv d (mkVec (elemW ty) (lanesOf ty) fun i => if i = j then (x.rg a).toNat else lane (x.rv d) (elemW ty) i))

/-! ### Masks and moves (R327) -/

/-- A mask operation on all 64 bits. -/
def State.mOp (s : State) (d a b : Fin 8) (f : Word → Word → Word) : State :=
  s.withSrcs [.m a, .m b] fun s => s.finish fun x => x.wm d (f (x.rm a) (x.rm b))
/-- The lanes below L that both masks select. -/
def bothMasks (x : Slot) (a m : Fin 8) (ty : ElemTy) : Word :=
  maskOf (lanesOf ty) fun i => (x.rm a).getLsbD i && (x.rm m).getLsbD i
/-- MAND (R327). -/
def execMand (d a b : Fin 8) (s : State) : Res := .next (s.mOp d a b fun a b => a &&& b)
/-- MOR (R327). -/
def execMor (d a b : Fin 8) (s : State) : Res := .next (s.mOp d a b fun a b => a ||| b)
/-- MXOR (R327). -/
def execMxor (d a b : Fin 8) (s : State) : Res := .next (s.mOp d a b fun a b => a ^^^ b)
/-- MNOT (R327). -/
def execMnot (d a : Fin 8) (s : State) : Res := .next (s.mOp d a a fun a _ => ~~~a)
/-- MPOPC (R327). -/
def execMpopc (d : Fin 32) (a m : Fin 8) (ty : ElemTy) (s : State) : Res := .next (s.withSrcs [.m a, .m m] fun s => s.finish fun x =>
  x.wg d (BitVec.ofNat 64 (popCount (bothMasks x a m ty) 64)))
/-- MFFS (R327). -/
def execMffs (d : Fin 32) (a m : Fin 8) (ty : ElemTy) (s : State) : Res := .next (s.withSrcs [.m a, .m m] fun s => s.finish fun x =>
  let b := bothMasks x a m ty
  x.wg d (if b = 0 then BitVec.allOnes 64 else BitVec.ofNat 64 (countTrailing b 0 64)))
/-- MSET (R327). -/
def execMset (d : Fin 8) (a : Fin 32) (s : State) : Res := .next (s.withSrcs [.g a false] fun s => s.finish fun x => x.wm d (x.rg a))
/-- MGET (R327). -/
def execMget (d : Fin 32) (a : Fin 8) (s : State) : Res := .next (s.withSrcs [.m a] fun s => s.finish fun x => x.wg d (x.rm a))
/-- VSEL (R327): every lane written. -/
def execVsel (o : V3) (s : State) : Res := .next (s.withSrcs [.v o.a, .v o.b, .m o.m] fun s => s.finish fun x =>
  x.wv o.d (keepLanes (elemW o.ty) (lanesOf o.ty) (x.rm o.m) (x.rv o.b) fun i => lane (x.rv o.a) (elemW o.ty) i))
/-- VMOV (R327). -/
def execVmov (o : V2) (s : State) : Res := .next (s.v2 o fun _ a => (a, 0))

end Sys2Proof.Machine
end

