-- ==== Sys2Proof/Machine/Dispatch.lean ====
section
/-! DEFINITION. The one dispatch of the machine: one arm per constructor of Instr, each a call of its meaning. -/

namespace Sys2Proof.Machine

/-- What an instruction or event does to the module. -/
def exec (i : Instr) (s : State) : Host.Outcome State Fault Refusal :=
  match i with
  | .add o => Sys2Proof.Machine.execAdd o s
  | .sub o => Sys2Proof.Machine.execSub o s
  | .and o => Sys2Proof.Machine.execAnd o s
  | .or o => Sys2Proof.Machine.execOr o s
  | .xor o => Sys2Proof.Machine.execXor o s
  | .andn o => Sys2Proof.Machine.execAndn o s
  | .orn o => Sys2Proof.Machine.execOrn o s
  | .sll o => Sys2Proof.Machine.execSll o s
  | .srl o => Sys2Proof.Machine.execSrl o s
  | .sra o => Sys2Proof.Machine.execSra o s
  | .rol o => Sys2Proof.Machine.execRol o s
  | .ror o => Sys2Proof.Machine.execRor o s
  | .slt o => Sys2Proof.Machine.execSlt o s
  | .sltu o => Sys2Proof.Machine.execSltu o s
  | .min o => Sys2Proof.Machine.execMin o s
  | .max o => Sys2Proof.Machine.execMax o s
  | .minu o => Sys2Proof.Machine.execMinu o s
  | .maxu o => Sys2Proof.Machine.execMaxu o s
  | .mul o => Sys2Proof.Machine.execMul o s
  | .mulh o => Sys2Proof.Machine.execMulh o s
  | .mulhu o => Sys2Proof.Machine.execMulhu o s
  | .mulhmx o => Sys2Proof.Machine.execMulhmx o s
  | .div o => Sys2Proof.Machine.execDiv o s
  | .divu o => Sys2Proof.Machine.execDivu o s
  | .rem o => Sys2Proof.Machine.execRem o s
  | .remu o => Sys2Proof.Machine.execRemu o s
  | .clz o => Sys2Proof.Machine.execClz o s
  | .ctz o => Sys2Proof.Machine.execCtz o s
  | .popc o => Sys2Proof.Machine.execPopc o s
  | .bswap o => Sys2Proof.Machine.execBswap o s
  | .sextb o => Sys2Proof.Machine.execSextb o s
  | .sexth o => Sys2Proof.Machine.execSexth o s
  | .sextw o => Sys2Proof.Machine.execSextw o s
  | .zextw o => Sys2Proof.Machine.execZextw o s
  | .addw o => Sys2Proof.Machine.execAddw o s
  | .subw o => Sys2Proof.Machine.execSubw o s
  | .addi o => Sys2Proof.Machine.execAddi o s
  | .andi o => Sys2Proof.Machine.execAndi o s
  | .ori o => Sys2Proof.Machine.execOri o s
  | .xori o => Sys2Proof.Machine.execXori o s
  | .slti o => Sys2Proof.Machine.execSlti o s
  | .sltiu o => Sys2Proof.Machine.execSltiu o s
  | .addiw o => Sys2Proof.Machine.execAddiw o s
  | .slli o => Sys2Proof.Machine.execSlli o s
  | .srli o => Sys2Proof.Machine.execSrli o s
  | .srai o => Sys2Proof.Machine.execSrai o s
  | .rori o => Sys2Proof.Machine.execRori o s
  | .lih o => Sys2Proof.Machine.execLih o s
  | .pcblk o => Sys2Proof.Machine.execPcblk o s
  | .ldpc o => Sys2Proof.Machine.execLdpc o s
  | .beq o => Sys2Proof.Machine.execBeq o s
  | .bne o => Sys2Proof.Machine.execBne o s
  | .blt o => Sys2Proof.Machine.execBlt o s
  | .bge o => Sys2Proof.Machine.execBge o s
  | .bltu o => Sys2Proof.Machine.execBltu o s
  | .bgeu o => Sys2Proof.Machine.execBgeu o s
  | .beqz o => Sys2Proof.Machine.execBeqz o s
  | .bnez o => Sys2Proof.Machine.execBnez o s
  | .bltz o => Sys2Proof.Machine.execBltz o s
  | .bgez o => Sys2Proof.Machine.execBgez o s
  | .bgtz o => Sys2Proof.Machine.execBgtz o s
  | .blez o => Sys2Proof.Machine.execBlez o s
  | .jal o => Sys2Proof.Machine.execJal o s
  | .jalr o => Sys2Proof.Machine.execJalr o s
  | .skip n => Sys2Proof.Machine.execSkip n s
  | .nop => Sys2Proof.Machine.execNop s
  | .hint bits => Sys2Proof.Machine.execHint bits s
  | .crrd d cr => Sys2Proof.Machine.execCrrd d cr s
  | .crwr o => Sys2Proof.Machine.execCrwr o s
  | .crset o => Sys2Proof.Machine.execCrset o s
  | .crclr o => Sys2Proof.Machine.execCrclr o s
  | .fsset o => Sys2Proof.Machine.execFsset o s
  | .fsrd d fs => Sys2Proof.Machine.execFsrd d fs s
  | .trap o => Sys2Proof.Machine.execTrap o s
  | .tret => Sys2Proof.Machine.execTret s
  | .halt => Sys2Proof.Machine.execHalt s
  | .break o => Sys2Proof.Machine.execBreak o s
  | .deferredTrap thr => Sys2Proof.Machine.execDeferredTrap thr s
  | .ld size o => Sys2Proof.Machine.execLd size o s
  | .st size o => Sys2Proof.Machine.execSt size o s
  | .ldx u o => Sys2Proof.Machine.execLdx u o s
  | .stx o => Sys2Proof.Machine.execStx o s
  | .ldf o => Sys2Proof.Machine.execLdf o s
  | .lde o => Sys2Proof.Machine.execLde o s
  | .stf o => Sys2Proof.Machine.execStf o s
  | .sete o => Sys2Proof.Machine.execSete o s
  | .setf o => Sys2Proof.Machine.execSetf o s
  | .tstf o => Sys2Proof.Machine.execTstf o s
  | .vld o => Sys2Proof.Machine.execVld o s
  | .vst o => Sys2Proof.Machine.execVst o s
  | .vldf o => Sys2Proof.Machine.execVldf o s
  | .vlde o => Sys2Proof.Machine.execVlde o s
  | .vstf o => Sys2Proof.Machine.execVstf o s
  | .vldb o => Sys2Proof.Machine.execVldb o s
  | .vldi o => Sys2Proof.Machine.execVldi o s
  | .vsti o => Sys2Proof.Machine.execVsti o s
  | .amoadd o => Sys2Proof.Machine.execAmoadd o s
  | .amoand o => Sys2Proof.Machine.execAmoand o s
  | .amoor o => Sys2Proof.Machine.execAmoor o s
  | .amoxor o => Sys2Proof.Machine.execAmoxor o s
  | .amomin o => Sys2Proof.Machine.execAmomin o s
  | .amomax o => Sys2Proof.Machine.execAmomax o s
  | .amominu o => Sys2Proof.Machine.execAmominu o s
  | .amomaxu o => Sys2Proof.Machine.execAmomaxu o s
  | .amoswp o => Sys2Proof.Machine.execAmoswp o s
  | .amocas o => Sys2Proof.Machine.execAmocas o s
  | .fence kind scope => Sys2Proof.Machine.execFence kind scope s
  | .fencer scope o => Sys2Proof.Machine.execFencer scope o s
  | .isync => Sys2Proof.Machine.execIsync s
  | .drain => Sys2Proof.Machine.execDrain s
  | .sgset o => Sys2Proof.Machine.execSgset o s
  | .sgnarrow o => Sys2Proof.Machine.execSgnarrow o s
  | .sgrd d sg w => Sys2Proof.Machine.execSgrd d sg w s
  | .sgcpy sd sg => Sys2Proof.Machine.execSgcpy sd sg s
  | .msend o => Sys2Proof.Machine.execMsend o s
  | .msendt o => Sys2Proof.Machine.execMsendt o s
  | .mrecv d => Sys2Proof.Machine.execMrecv d s
  | .mrecvt o => Sys2Proof.Machine.execMrecvt o s
  | .waitm o => Sys2Proof.Machine.execWaitm o s
  | .mcnt d => Sys2Proof.Machine.execMcnt d s
  | .vadd o => Sys2Proof.Machine.execVadd o s
  | .vsub o => Sys2Proof.Machine.execVsub o s
  | .vmul o => Sys2Proof.Machine.execVmul o s
  | .vmulh o => Sys2Proof.Machine.execVmulh o s
  | .vmin o => Sys2Proof.Machine.execVmin o s
  | .vmax o => Sys2Proof.Machine.execVmax o s
  | .vminu o => Sys2Proof.Machine.execVminu o s
  | .vmaxu o => Sys2Proof.Machine.execVmaxu o s
  | .vabs o => Sys2Proof.Machine.execVabs o s
  | .vneg o => Sys2Proof.Machine.execVneg o s
  | .vadds o => Sys2Proof.Machine.execVadds o s
  | .vsubs o => Sys2Proof.Machine.execVsubs o s
  | .vand o => Sys2Proof.Machine.execVand o s
  | .vor o => Sys2Proof.Machine.execVor o s
  | .vxor o => Sys2Proof.Machine.execVxor o s
  | .vandn o => Sys2Proof.Machine.execVandn o s
  | .vsll o => Sys2Proof.Machine.execVsll o s
  | .vsrl o => Sys2Proof.Machine.execVsrl o s
  | .vsra o => Sys2Proof.Machine.execVsra o s
  | .vfadd o => Sys2Proof.Machine.execVfadd o s
  | .vfsub o => Sys2Proof.Machine.execVfsub o s
  | .vfmul o => Sys2Proof.Machine.execVfmul o s
  | .vfdiv o => Sys2Proof.Machine.execVfdiv o s
  | .vfmin o => Sys2Proof.Machine.execVfmin o s
  | .vfmax o => Sys2Proof.Machine.execVfmax o s
  | .vfabs o => Sys2Proof.Machine.execVfabs o s
  | .vfneg o => Sys2Proof.Machine.execVfneg o s
  | .vfsqrt o => Sys2Proof.Machine.execVfsqrt o s
  | .vrcp o => Sys2Proof.Machine.execVrcp o s
  | .vrsq o => Sys2Proof.Machine.execVrsq o s
  | .vexp2 o => Sys2Proof.Machine.execVexp2 o s
  | .vfma o => Sys2Proof.Machine.execVfma o s
  | .vfms o => Sys2Proof.Machine.execVfms o s
  | .vfnma o => Sys2Proof.Machine.execVfnma o s
  | .vdot o => Sys2Proof.Machine.execVdot o s
  | .vcmp c o => Sys2Proof.Machine.execVcmp c o s
  | .vfcmp c o => Sys2Proof.Machine.execVfcmp c o s
  | .vcvt o => Sys2Proof.Machine.execVcvt o s
  | .vcvti o => Sys2Proof.Machine.execVcvti o s
  | .vcvtf o => Sys2Proof.Machine.execVcvtf o s
  | .vpack d a b ty u => Sys2Proof.Machine.execVpack d a b ty u s
  | .vunpk d a ty hi => Sys2Proof.Machine.execVunpk d a ty hi s
  | .vredadd o => Sys2Proof.Machine.execVredadd o s
  | .vfredadd o => Sys2Proof.Machine.execVfredadd o s
  | .vredmin o => Sys2Proof.Machine.execVredmin o s
  | .vredmax o => Sys2Proof.Machine.execVredmax o s
  | .vfredmax o => Sys2Proof.Machine.execVfredmax o s
  | .vbcst o => Sys2Proof.Machine.execVbcst o s
  | .vshuf o => Sys2Proof.Machine.execVshuf o s
  | .vslide o => Sys2Proof.Machine.execVslide o s
  | .vzip o => Sys2Proof.Machine.execVzip o s
  | .vunzip o => Sys2Proof.Machine.execVunzip o s
  | .vext d a b ty => Sys2Proof.Machine.execVext d a b ty s
  | .vins d a b ty => Sys2Proof.Machine.execVins d a b ty s
  | .mand d a b => Sys2Proof.Machine.execMand d a b s
  | .mor d a b => Sys2Proof.Machine.execMor d a b s
  | .mxor d a b => Sys2Proof.Machine.execMxor d a b s
  | .mnot d a => Sys2Proof.Machine.execMnot d a s
  | .mpopc d a m ty => Sys2Proof.Machine.execMpopc d a m ty s
  | .mffs d a m ty => Sys2Proof.Machine.execMffs d a m ty s
  | .mset d a => Sys2Proof.Machine.execMset d a s
  | .mget d a => Sys2Proof.Machine.execMget d a s
  | .vsel o => Sys2Proof.Machine.execVsel o s
  | .vmov o => Sys2Proof.Machine.execVmov o s
  | .jnew d => Sys2Proof.Machine.execJnew d s
  | .jfree o => Sys2Proof.Machine.execJfree o s
  | .spawn o => Sys2Proof.Machine.execSpawn o s
  | .spawnr o => Sys2Proof.Machine.execSpawnr o s
  | .retj o => Sys2Proof.Machine.execRetj o s
  | .sync => Sys2Proof.Machine.execSync s
  | .publish o => Sys2Proof.Machine.execPublish o s
  | .rtake o => Sys2Proof.Machine.execRtake o s
  | .yield => Sys2Proof.Machine.execYield s
  | .idle => Sys2Proof.Machine.execIdle s
  | .widf o => Sys2Proof.Machine.execWidf o s
  | .talloc o => Sys2Proof.Machine.execTalloc o s
  | .tallocn o => Sys2Proof.Machine.execTallocn o s
  | .tinc o => Sys2Proof.Machine.execTinc o s
  | .tdrop o => Sys2Proof.Machine.execTdrop o s
  | .tfree o => Sys2Proof.Machine.execTfree o s
  | .tcnt o => Sys2Proof.Machine.execTcnt o s
  | .taddr o => Sys2Proof.Machine.execTaddr o s
  | .rpush ring o => Sys2Proof.Machine.execRpush ring o s
  | .rpop d ring => Sys2Proof.Machine.execRpop d ring s
  | .rpeek d ring => Sys2Proof.Machine.execRpeek d ring s
  | .rcnt d ring => Sys2Proof.Machine.execRcnt d ring s
  | .mma o => Sys2Proof.Machine.execMma o s
  | .mmar o => Sys2Proof.Machine.execMmar o s
  | .mmas o => Sys2Proof.Machine.execMmas o s
  | .mmasr o => Sys2Proof.Machine.execMmasr o s
  | .accz acc relc => Sys2Proof.Machine.execAccz acc relc s
  | .accout o => Sys2Proof.Machine.execAccout o s
  | .accin o => Sys2Proof.Machine.execAccin o s
  | .accld o => Sys2Proof.Machine.execAccld o s
  | .accst o => Sys2Proof.Machine.execAccst o s
  | .mqwait d n => Sys2Proof.Machine.execMqwait d n s
  | .mqcnt d => Sys2Proof.Machine.execMqcnt d s
  | .copyq o => Sys2Proof.Machine.execCopyq o s
  | .copyqt o => Sys2Proof.Machine.execCopyqt o s
  | .gathq o => Sys2Proof.Machine.execGathq o s
  | .gathqt o => Sys2Proof.Machine.execGathqt o s
  | .collq o => Sys2Proof.Machine.execCollq o s
  | .donate o => Sys2Proof.Machine.execDonate o s
  | .bbwait o => Sys2Proof.Machine.execBbwait o s
  | .loadCompletion id => Sys2Proof.Machine.execLoadCompletion id s
  | .storeBufferDrain core entry => Sys2Proof.Machine.execStoreBufferDrain core entry s
  | .storeAcknowledgement id => Sys2Proof.Machine.execStoreAcknowledgement id s
  | .windowWrite w => Sys2Proof.Machine.execWindowWrite w s
  | .admitWrite core value => Sys2Proof.Machine.execAdmitWrite core value s
  | .segmentTableRead id => Sys2Proof.Machine.execSegmentTableRead id s
  | .remoteWaitRetry id => Sys2Proof.Machine.execRemoteWaitRetry id s
  | .clusterCacheFill cl line => Sys2Proof.Machine.execClusterCacheFill cl line s
  | .icacheFill core key => Sys2Proof.Machine.execIcacheFill core key s
  | .releaseCompletion thr => Sys2Proof.Machine.execReleaseCompletion thr s
  | .walkStart die k => Sys2Proof.Machine.execWalkStart die k s
  | .walkCompletion die k => Sys2Proof.Machine.execWalkCompletion die k s
  | .faultRecordAppend die part => Sys2Proof.Machine.execFaultRecordAppend die part s
  | .faultResolutionWrite die word => Sys2Proof.Machine.execFaultResolutionWrite die word s
  | .faultConsWrite die part value => Sys2Proof.Machine.execFaultConsWrite die part value s
  | .faultTimeout die seq => Sys2Proof.Machine.execFaultTimeout die seq s
  | .poisonCompletion id => Sys2Proof.Machine.execPoisonCompletion id s
  | .joinCounterIncrement id => Sys2Proof.Machine.execJoinCounterIncrement id s
  | .joinCounterDecrement id => Sys2Proof.Machine.execJoinCounterDecrement id s
  | .syncTest id => Sys2Proof.Machine.execSyncTest id s
  | .byteBarrierSubtract addr amount => Sys2Proof.Machine.execByteBarrierSubtract addr amount s
  | .bbwaitRetry id => Sys2Proof.Machine.execBbwaitRetry id s
  | .eccCorrectableError die st => Sys2Proof.Machine.execEccCorrectableError die st s
  | .eccUncorrectableError die loc => Sys2Proof.Machine.execEccUncorrectableError die loc s
  | .patrolScrub die => Sys2Proof.Machine.execPatrolScrub die s
  | .flitCrcError die net link => Sys2Proof.Machine.execFlitCrcError die net link s
  | .networkStarvationGrant die net link => Sys2Proof.Machine.execNetworkStarvationGrant die net link s
  | .allocationGrant cl => Sys2Proof.Machine.execAllocationGrant cl s
  | .zeroFillDone id => Sys2Proof.Machine.execZeroFillDone id s
  | .tileDropArrival id => Sys2Proof.Machine.execTileDropArrival id s
  | .tileIncArrival id => Sys2Proof.Machine.execTileIncArrival id s
  | .tileFreeArrival id => Sys2Proof.Machine.execTileFreeArrival id s
  | .tdropSend id => Sys2Proof.Machine.execTdropSend id s
  | .deferredTileFree cl tile => Sys2Proof.Machine.execDeferredTileFree cl tile s
  | .poolpWrite cl p value => Sys2Proof.Machine.execPoolpWrite cl p value s
  | .poolstallWrite cl value => Sys2Proof.Machine.execPoolstallWrite cl value s
  | .poolStallEvent cl p => Sys2Proof.Machine.execPoolStallEvent cl p s
  | .speculationStart q => Sys2Proof.Machine.execSpeculationStart q s
  | .watchedWrite pa len => Sys2Proof.Machine.execWatchedWrite pa len s
  | .speculationDiscard sid cause => Sys2Proof.Machine.execSpeculationDiscard sid cause s
  | .claimReply sid die => Sys2Proof.Machine.execClaimReply sid die s
  | .speculationMerge sid => Sys2Proof.Machine.execSpeculationMerge sid s
  | .dispatch core => Sys2Proof.Machine.execDispatch core s
  | .headerArrival thr => Sys2Proof.Machine.execHeaderArrival thr s
  | .stealProbe core => Sys2Proof.Machine.execStealProbe core s
  | .stealGrant victim thief => Sys2Proof.Machine.execStealGrant victim thief s
  | .stealReleaseDone id => Sys2Proof.Machine.execStealReleaseDone id s
  | .stealDelivery id => Sys2Proof.Machine.execStealDelivery id s
  | .probePauseExpiry core => Sys2Proof.Machine.execProbePauseExpiry core s
  | .quiescenceWave lid => Sys2Proof.Machine.execQuiescenceWave lid s
  | .launchCompletion lid => Sys2Proof.Machine.execLaunchCompletion lid s
  | .messageArrival id => Sys2Proof.Machine.execMessageArrival id s
  | .messageRetry id => Sys2Proof.Machine.execMessageRetry id s
  | .matrixSelect cl => Sys2Proof.Machine.execMatrixSelect cl s
  | .matrixWriteback cl => Sys2Proof.Machine.execMatrixWriteback cl s
  | .selfTest cl failed => Sys2Proof.Machine.execSelfTest cl failed s
  | .mxctlWrite cl value => Sys2Proof.Machine.execMxctlWrite cl value s
  | .copyCompletion cl req => Sys2Proof.Machine.execCopyCompletion cl req s
  | .indirectCompletion cl req => Sys2Proof.Machine.execIndirectCompletion cl req s
  | .engineStateWrite cl off value => Sys2Proof.Machine.execEngineStateWrite cl off value s
  | .systemRegisterWrite cl off value => Sys2Proof.Machine.execSystemRegisterWrite cl off value s
  | .wridx q value => Sys2Proof.Machine.execWridx q value s
  | .predictionCounterWrite q word value => Sys2Proof.Machine.execPredictionCounterWrite q word value s
  | .slotReread q => Sys2Proof.Machine.execSlotReread q s
  | .staleSlotTimeout q => Sys2Proof.Machine.execStaleSlotTimeout q s
  | .launch q index => Sys2Proof.Machine.execLaunch q index s
  | .waitAll q index => Sys2Proof.Machine.execWaitAll q index s
  | .waitAny q index => Sys2Proof.Machine.execWaitAny q index s
  | .waitEvaluation q index => Sys2Proof.Machine.execWaitEvaluation q index s
  | .waitFaultTimeout q => Sys2Proof.Machine.execWaitFaultTimeout q s
  | .signal q index => Sys2Proof.Machine.execSignal q index s
  | .copy q index => Sys2Proof.Machine.execCopy q index s
  | .tlbinv q index => Sys2Proof.Machine.execTlbinv q index s
  | .tlbinvCompletion q index => Sys2Proof.Machine.execTlbinvCompletion q index s
  | .fencePacket q index => Sys2Proof.Machine.execFencePacket q index s
  | .nopPacket q index => Sys2Proof.Machine.execNopPacket q index s
  | .segtab q index => Sys2Proof.Machine.execSegtab q index s
  | .queueResidency q => Sys2Proof.Machine.execQueueResidency q s
  | .watchdogPreempt lid => Sys2Proof.Machine.execWatchdogPreempt lid s
  | .watchdogKill lid => Sys2Proof.Machine.execWatchdogKill lid s
  | .watchdogFence lid => Sys2Proof.Machine.execWatchdogFence lid s
  | .preemption thr => Sys2Proof.Machine.execPreemption thr s
  | .partitionContextSwitch cl toPart => Sys2Proof.Machine.execPartitionContextSwitch cl toPart s
  | .contextSwap cl => Sys2Proof.Machine.execContextSwap cl s
  | .threadMigration thr toThr => Sys2Proof.Machine.execThreadMigration thr toThr s
  | .coreMigration core toCore => Sys2Proof.Machine.execCoreMigration core toCore s
  | .rdmaWrite qp key addr data => Sys2Proof.Machine.execRdmaWrite qp key addr data s
  | .rdmaRead qp key addr len => Sys2Proof.Machine.execRdmaRead qp key addr len s
  | .hostSend qp data => Sys2Proof.Machine.execHostSend qp data s
  | .status r => Sys2Proof.Machine.execStatus r s
  | .attest r nonce => Sys2Proof.Machine.execAttest r nonce s
  | .fwload r image off data => Sys2Proof.Machine.execFwload r image off data s
  | .asidset r asid entry => Sys2Proof.Machine.execAsidset r asid entry s
  | .dfset r w0 w1 => Sys2Proof.Machine.execDfset r w0 w1 s
  | .pool7 r part value => Sys2Proof.Machine.execPool7 r part value s
  | .partdef r part rec => Sys2Proof.Machine.execPartdef r part rec s
  | .partdel r part => Sys2Proof.Machine.execPartdel r part s
  | .qset r q w0 w1 w2 w3 w4 => Sys2Proof.Machine.execQset r q w0 w1 w2 w3 w4 s
  | .qrestart r q index => Sys2Proof.Machine.execQrestart r q index s
  | .qdel r q => Sys2Proof.Machine.execQdel r q s
  | .donmap r dq q unmap => Sys2Proof.Machine.execDonmap r dq q unmap s
  | .mrreg r kind base len rd wr => Sys2Proof.Machine.execMrreg r kind base len rd wr s
  | .qpbind r qp q unbind => Sys2Proof.Machine.execQpbind r qp q unbind s
  | .resume r lid => Sys2Proof.Machine.execResume r lid s
  | .kill r lid => Sys2Proof.Machine.execKill r lid s
  | .slotgo r thr pc sys => Sys2Proof.Machine.execSlotgo r thr pc sys s
  | .coreback r core => Sys2Proof.Machine.execCoreback r core s
  | .checkpoint r streams => Sys2Proof.Machine.execCheckpoint r streams s
  | .restore r streams => Sys2Proof.Machine.execRestore r streams s
  | .modset r modid => Sys2Proof.Machine.execModset r modid s
  | .errread r die => Sys2Proof.Machine.execErrread r die s
  | .evtreg r v6 addr port => Sys2Proof.Machine.execEvtreg r v6 addr port s
  | .eventAcknowledgement n => Sys2Proof.Machine.execEventAcknowledgement n s
  | .eventResend n => Sys2Proof.Machine.execEventResend n s
  | .workdone op seq status => Sys2Proof.Machine.execWorkdone op seq status s
  | .collectiveData p => Sys2Proof.Machine.execCollectiveData p s
  | .collectiveAcknowledgement p => Sys2Proof.Machine.execCollectiveAcknowledgement p s
  | .donation p => Sys2Proof.Machine.execDonation p s
  | .groupWrite p => Sys2Proof.Machine.execGroupWrite p s
  | .reduceReadRequest p => Sys2Proof.Machine.execReduceReadRequest p s
  | .reduceReadReply p => Sys2Proof.Machine.execReduceReadReply p s
  | .credit p => Sys2Proof.Machine.execCredit p s
  | .collectiveStep die cmd step => Sys2Proof.Machine.execCollectiveStep die cmd step s
  | .collectiveStepCompletion die cmd step => Sys2Proof.Machine.execCollectiveStepCompletion die cmd step s
  | .linkFrameCrcError link => Sys2Proof.Machine.execLinkFrameCrcError link s
  | .linkDownTimeout link => Sys2Proof.Machine.execLinkDownTimeout link s
  | .powerOnReset b => Sys2Proof.Machine.execPowerOnReset b s
  | .leaseRenewal die term => Sys2Proof.Machine.execLeaseRenewal die term s
  | .leaseTimeout die => Sys2Proof.Machine.execLeaseTimeout die s
  | .leaseClaim die claimant term => Sys2Proof.Machine.execLeaseClaim die claimant term s
  | .clusterPowerUp group => Sys2Proof.Machine.execClusterPowerUp group s
  | .matrixRateRamp cl => Sys2Proof.Machine.execMatrixRateRamp cl s
  | .clusterPowerGate cl => Sys2Proof.Machine.execClusterPowerGate cl s
  | .illegalInstruction w => Sys2Proof.Machine.execIllegalInstruction w s
  | .fetchTrap poisoned at_ => Sys2Proof.Machine.execFetchTrap poisoned at_ s
  | .azrumLinkDown link => Sys2Proof.Machine.execAzrumLinkDown link s
  | .azrumLinkUp link => Sys2Proof.Machine.execAzrumLinkUp link s
  | .ecnCongestionNotification qp => Sys2Proof.Machine.execEcnCongestionNotification qp s
  | .waitHostReadResponse q index entry value => Sys2Proof.Machine.execWaitHostReadResponse q index entry value s

end Sys2Proof.Machine
end

