-- ==== Sys2Proof/Machine/Run.lean ====
section
/-! DEFINITION. The meaning of a scheduled event of the agenda: the same meanings that Dispatch.lean calls; and which event comes
next, the order of R26, R103, R117 and R190 within a cycle. -/

namespace Sys2Proof.Machine

/-- What a scheduled event does to the module. -/
def runEvent (e : Ev) (s : State) : Res :=
  match e with
  | .deferredTrap thr => execDeferredTrap thr s
  | .loadCompletion id => execLoadCompletion id s
  | .storeBufferDrain core entry => execStoreBufferDrain core entry s
  | .storeAcknowledgement id => execStoreAcknowledgement id s
  | .windowWrite w => execWindowWrite w s
  | .admitWrite core value => execAdmitWrite core value s
  | .segmentTableRead id => execSegmentTableRead id s
  | .remoteWaitRetry id => execRemoteWaitRetry id s
  | .clusterCacheFill cl line => execClusterCacheFill cl line s
  | .icacheFill core key => execIcacheFill core key s
  | .releaseCompletion thr => execReleaseCompletion thr s
  | .walkStart die k => execWalkStart die k s
  | .walkCompletion die k => execWalkCompletion die k s
  | .faultRecordAppend die part => execFaultRecordAppend die part s
  | .faultResolutionWrite die word => execFaultResolutionWrite die word s
  | .faultConsWrite die part value => execFaultConsWrite die part value s
  | .faultTimeout die seq => execFaultTimeout die seq s
  | .poisonCompletion id => execPoisonCompletion id s
  | .joinCounterIncrement id => execJoinCounterIncrement id s
  | .joinCounterDecrement id => execJoinCounterDecrement id s
  | .syncTest id => execSyncTest id s
  | .byteBarrierSubtract addr amount => execByteBarrierSubtract addr amount s
  | .bbwaitRetry id => execBbwaitRetry id s
  | .eccCorrectableError die st => execEccCorrectableError die st s
  | .eccUncorrectableError die loc => execEccUncorrectableError die loc s
  | .patrolScrub die => execPatrolScrub die s
  | .flitCrcError die net link => execFlitCrcError die net link s
  | .networkStarvationGrant die net link => execNetworkStarvationGrant die net link s
  | .allocationGrant cl => execAllocationGrant cl s
  | .zeroFillDone id => execZeroFillDone id s
  | .tileDropArrival id => execTileDropArrival id s
  | .tileIncArrival id => execTileIncArrival id s
  | .tileFreeArrival id => execTileFreeArrival id s
  | .tdropSend id => execTdropSend id s
  | .deferredTileFree cl tile => execDeferredTileFree cl tile s
  | .poolpWrite cl p value => execPoolpWrite cl p value s
  | .poolstallWrite cl value => execPoolstallWrite cl value s
  | .poolStallEvent cl p => execPoolStallEvent cl p s
  | .speculationStart q => execSpeculationStart q s
  | .watchedWrite pa len => execWatchedWrite pa len s
  | .speculationDiscard sid cause => execSpeculationDiscard sid cause s
  | .claimReply sid die => execClaimReply sid die s
  | .speculationMerge sid => execSpeculationMerge sid s
  | .dispatch core => execDispatch core s
  | .headerArrival thr => execHeaderArrival thr s
  | .stealProbe core => execStealProbe core s
  | .stealGrant victim thief => execStealGrant victim thief s
  | .stealReleaseDone id => execStealReleaseDone id s
  | .stealDelivery id => execStealDelivery id s
  | .probePauseExpiry core => execProbePauseExpiry core s
  | .quiescenceWave lid => execQuiescenceWave lid s
  | .launchCompletion lid => execLaunchCompletion lid s
  | .messageArrival id => execMessageArrival id s
  | .messageRetry id => execMessageRetry id s
  | .matrixSelect cl => execMatrixSelect cl s
  | .matrixWriteback cl => execMatrixWriteback cl s
  | .selfTest cl failed => execSelfTest cl failed s
  | .mxctlWrite cl value => execMxctlWrite cl value s
  | .copyCompletion cl req => execCopyCompletion cl req s
  | .indirectCompletion cl req => execIndirectCompletion cl req s
  | .engineStateWrite cl off value => execEngineStateWrite cl off value s
  | .systemRegisterWrite cl off value => execSystemRegisterWrite cl off value s
  | .wridx q value => execWridx q value s
  | .predictionCounterWrite q word value => execPredictionCounterWrite q word value s
  | .slotReread q => execSlotReread q s
  | .staleSlotTimeout q => execStaleSlotTimeout q s
  | .launch q index => execLaunch q index s
  | .waitAll q index => execWaitAll q index s
  | .waitAny q index => execWaitAny q index s
  | .waitEvaluation q index => execWaitEvaluation q index s
  | .waitFaultTimeout q => execWaitFaultTimeout q s
  | .signal q index => execSignal q index s
  | .copy q index => execCopy q index s
  | .tlbinv q index => execTlbinv q index s
  | .tlbinvCompletion q index => execTlbinvCompletion q index s
  | .fencePacket q index => execFencePacket q index s
  | .nopPacket q index => execNopPacket q index s
  | .segtab q index => execSegtab q index s
  | .queueResidency q => execQueueResidency q s
  | .watchdogPreempt lid => execWatchdogPreempt lid s
  | .watchdogKill lid => execWatchdogKill lid s
  | .watchdogFence lid => execWatchdogFence lid s
  | .preemption thr => execPreemption thr s
  | .partitionContextSwitch cl toPart => execPartitionContextSwitch cl toPart s
  | .contextSwap cl => execContextSwap cl s
  | .threadMigration thr toThr => execThreadMigration thr toThr s
  | .coreMigration core toCore => execCoreMigration core toCore s
  | .rdmaWrite qp key addr data => execRdmaWrite qp key addr data s
  | .rdmaRead qp key addr len => execRdmaRead qp key addr len s
  | .hostSend qp data => execHostSend qp data s
  | .status r => execStatus r s
  | .attest r nonce => execAttest r nonce s
  | .fwload r image off data => execFwload r image off data s
  | .asidset r asid entry => execAsidset r asid entry s
  | .dfset r w0 w1 => execDfset r w0 w1 s
  | .pool7 r part value => execPool7 r part value s
  | .partdef r part rec => execPartdef r part rec s
  | .partdel r part => execPartdel r part s
  | .qset r q w0 w1 w2 w3 w4 => execQset r q w0 w1 w2 w3 w4 s
  | .qrestart r q index => execQrestart r q index s
  | .qdel r q => execQdel r q s
  | .donmap r dq q unmap => execDonmap r dq q unmap s
  | .mrreg r kind base len rd wr => execMrreg r kind base len rd wr s
  | .qpbind r qp q unbind => execQpbind r qp q unbind s
  | .resume r lid => execResume r lid s
  | .kill r lid => execKill r lid s
  | .slotgo r thr pc sys => execSlotgo r thr pc sys s
  | .coreback r core => execCoreback r core s
  | .checkpoint r streams => execCheckpoint r streams s
  | .restore r streams => execRestore r streams s
  | .modset r modid => execModset r modid s
  | .errread r die => execErrread r die s
  | .evtreg r v6 addr port => execEvtreg r v6 addr port s
  | .eventAcknowledgement n => execEventAcknowledgement n s
  | .eventResend n => execEventResend n s
  | .workdone op seq status => execWorkdone op seq status s
  | .collectiveData p => execCollectiveData p s
  | .collectiveAcknowledgement p => execCollectiveAcknowledgement p s
  | .donation p => execDonation p s
  | .groupWrite p => execGroupWrite p s
  | .reduceReadRequest p => execReduceReadRequest p s
  | .reduceReadReply p => execReduceReadReply p s
  | .credit p => execCredit p s
  | .collectiveStep die cmd step => execCollectiveStep die cmd step s
  | .collectiveStepCompletion die cmd step => execCollectiveStepCompletion die cmd step s
  | .linkFrameCrcError link => execLinkFrameCrcError link s
  | .linkDownTimeout link => execLinkDownTimeout link s
  | .powerOnReset b => execPowerOnReset b s
  | .leaseRenewal die term => execLeaseRenewal die term s
  | .leaseTimeout die => execLeaseTimeout die s
  | .leaseClaim die claimant term => execLeaseClaim die claimant term s
  | .clusterPowerUp group => execClusterPowerUp group s
  | .matrixRateRamp cl => execMatrixRateRamp cl s
  | .clusterPowerGate cl => execClusterPowerGate cl s
  | .illegalInstruction w => execIllegalInstruction w s
  | .fetchTrap poisoned at_ => execFetchTrap poisoned at_ s
  | .azrumLinkDown link => execAzrumLinkDown link s
  | .azrumLinkUp link => execAzrumLinkUp link s
  | .ecnCongestionNotification qp => execEcnCongestionNotification qp s
  | .waitHostReadResponse q index entry value => execWaitHostReadResponse q index entry value s

/-! ### Which event is next (01 R26, 04 R103, R117, 07 R183, R190, 11 R303, 13 R347, R349; log 3) -/

/-- The transaction that an event of a core source brings to its destination. -/
def evTicket (e : Ev) : Option Nat :=
  match e with
  | .loadCompletion id | .storeAcknowledgement id | .segmentTableRead id | .remoteWaitRetry id | .poisonCompletion id |
    .joinCounterIncrement id | .joinCounterDecrement id | .syncTest id | .bbwaitRetry id | .zeroFillDone id |
    .tileDropArrival id | .tileIncArrival id | .tileFreeArrival id | .tdropSend id => some id
  | _ => none
/-- Whether an event between two cycles' issue turns counts as of the later cycle: a message's acceptance, which an MRECV of that
cycle sees (R303), and a matrix write-back, whose pops make room for an RPUSH of that cycle (R347). -/
def evEarly (e : Ev) : Bool :=
  match e with
  | .messageArrival _ | .messageRetry _ | .matrixWriteback _ => true
  | _ => false
/-- The place of an event among those due with it: takes and re-pushes of the deques first (R190), core sources in ascending core
id, then the engines in the order of R26 and R117, then steal requests; those of the later cycle last. -/
def State.rank (s : State) (e : Ev) : Nat :=
  match e with
  | .dispatch _ => 0
  | .stealDelivery _ => 1
  | .storeBufferDrain c _ => 2 + c
  | .copyCompletion _ _ => 3000
  | .indirectCompletion _ _ => 3001
  | .collectiveData _ | .groupWrite _ | .reduceReadReply _ | .collectiveStep _ _ _ | .collectiveStepCompletion _ _ _ => 3002
  | .stealProbe _ | .stealGrant _ _ | .stealReleaseDone _ => 3004
  | .messageArrival _ | .messageRetry _ | .matrixWriteback _ => 3005
  | e =>
    match (evTicket e).bind s.flight with
    | some f => 2 + coreOf f.thr
    | none => 3003
/-- The first event of the least rank among `e` and those that follow it and are due in the same cycle `d`, and the others in their
order. -/
def State.leastRank (s : State) (d : Nat) (e : Ev) : List (Nat × Ev) → Ev × List (Nat × Ev)
  | [] => (e, [])
  | (d', e') :: rest =>
    if d' ≠ d then (e, (d', e') :: rest)
    else
      let r := s.leastRank d e' rest
      if s.rank e ≤ s.rank r.1 then (e, (d', e') :: rest) else (r.1, (d, e) :: r.2)
/-- The event to run before the next issue turn, one due in an earlier cycle, with the agenda that stays. -/
def State.nextEvent (s : State) : Option (Ev × List (Nat × Ev)) :=
  match s.agenda with
  | [] => none
  | (d, e) :: rest => if d < s.cycle then some (s.leastRank d e rest) else none
/-- Runs an event. A slot of the phase of the cycle that begins, returned to rotation by an event of that cycle, waits for its next
phase (R183). -/
def State.runNext (s : State) (e : Ev) (rest : List (Nat × Ev)) : Res :=
  match runEvent e { s with agenda := rest } with
  | .next t =>
    if evEarly e then
      let now := (t.slots.filter fun x => x.1 % 16 = s.cycle % 16 && x.2.status = .ready && (s.slot x.1).status ≠ .ready).map (·.1)
      .next { t with woken := t.woken ++ now }
    else .next t
  | r => r

end Sys2Proof.Machine
end

