-- ==== Sys2Proof/Machine/Step.lean ====
section
/-! DEFINITION. One step of the module (07 R183, R184; logs 3, 4): the next event of the agenda that is due, or else the next
issue turn of the cycle. In each cycle every core gives its issue phase to slot cycle mod 16, cores in order. -/

namespace Sys2Proof.Machine

/-- The cores of a module (R1). -/
def coreCount : Nat := 2048

/-- The issue turn of the slot `s.cur`: a slot that is not READY loses its phase (R183); a held deferred trap is taken
before an instruction (R60), then a data error (03 R95); then the fetch, the note of a launch's first issue (15 R388), the
decode and the instruction. -/
def State.issue (s : State) : Res :=
  let x := s.slot s.cur
  if x.status ≠ .ready || s.woken.contains s.cur then .next s
  else if x.deferred.isSome then execDeferredTrap s.cur s
  else
    match x.dataErr with
    | some v => .next (
      match s.specOf x.lidN with
      | some sid => s.discard sid 14
      | none => s.setSlot s.cur ({ x with dataErr := none }.takeTrap 9 (BitVec.ofNat 64 v) x.pc x.pc true))
    | none =>
      match s.fetch s.cur with
      | .held s => .next s
      | .failed pc => execFetchTrap false pc s
      | .word w =>
        let s := (s.modSlot s.cur fun x => { x with fetched := none }).noteStart x.lidN
        match decode w with
        | .ok i => exec i s
        | .error _ => execIllegalInstruction (BitVec.ofNat 32 w) s

/-- One step. -/
def step (s : State) : Res :=
  if coreCount ≤ s.turn then .next { s with cycle := s.cycle + 1, turn := 0, woken := [] }
  else
    match s.nextEvent with
    | some e => s.runNext e.1 e.2
    | none => ({ s with cur := s.turn * 16 + s.cycle % 16, turn := s.turn + 1 }).issue

/-- The code descriptor of withFetchWord: CHIP, EXEC, base 0, the widest LIMIT. -/
def fetchDesc : Desc := ⟨0, 0x0024FFFFFFFFFFFF⟩

/-- The machine with an instruction word stored where `step` fetches next (log 4): thread 0 READY at PC 0 of a CHIP code
segment at its own scratchpad, the word in that memory and in the instruction cache, cluster 0 in
core 0's cluster mask, no event due, phase 0 of a cycle. -/
def State.withFetchWord (s : State) (_nbits w : Nat) : State :=
  let bytes := natLe w 4
  let s := { s with mem := writeList s.mem (chipKey 0) bytes, agenda := [], woken := [], turn := 0, cycle := s.cycle / 16 * 16 }
  let s := s.modCore 0 fun c =>
    { c with cmask := c.cmask ||| 1,
             icache := mapPut none c.icache 0 (some (BitVec.ofNat 512 (readLe s.mem (chipKey 0) 64))) }
  s.modSlot 0 fun x =>
    { x with status := .ready, pc := 0, mode := .user, deferred := none, dataErr := none, fetched := none,
             sg := mapPut {} x.sg 0 fetchDesc, sgPend := mapPut false x.sgPend 0 false }

end Sys2Proof.Machine
end

