-- ==== Sys2Proof/Safety.lean ====
section
/-! DEFINITION. What counts as a safe run and a well-kept state. The module never stops by itself: every wrong use the
spec names is a trap, a status or an ignored write (17 R449, 16 R404), so safety is that a step answers a next state. -/

namespace Sys2Proof.Machine

/-- The step from `s` answers a next state. -/
def Runs (s : State) : Prop := ∃ t, step s = .next t

/-- The memory of the module is in its canonical form. -/
def State.memOk (s : State) : Bool := s.mem.wf

end Sys2Proof.Machine
end

