-- ==== Sys2Proof/Certificates/Slice0/Obligations.lean ====
section
/-! DEFINITION. The statements for the provers, each with the rules of spec/ it formalises, over a few words of their own
(namespace Sys2Proof.Claims) that say when an instruction may go on and what it leaves. A statement about an event says what the
event does when it occurs; when it occurs, and that it is one step, is the form of the model (logs 3, 5, 11). -/

open Sys2Proof Sys2Proof.Machine

namespace Sys2Proof.Claims

/-- The slot whose phase it is. -/
abbrev me (s : State) : Slot := s.slot s.cur
/-- The listed registers of the issuing slot are FULL. -/
def full (s : State) (l : List (RegFile × Nat)) : Prop := ∀ r ∈ l, (me s).isEmpty r.1 r.2 = false
/-- The issuing slot's launch runs as no speculation (in one, a trap is the discard of cause 14, 06 R175). -/
def plain (s : State) : Prop := s.specOf (me s).lidN = none
/-- Only the issuing slot changes, to `x`: every other slot, all of memory and every other unit stay as they were. -/
def goesOn (s : State) (x : Slot) : Res := .next (s.setSlot s.cur x)
/-- g[d] receives `v` (g0 discards it), the PC advances, and nothing else changes. -/
def writesG (s : State) (d : Fin 32) (v : Word) : Res := goesOn s { (me s).wg d v with pc := (me s).pc + 4 }
/-- The machine after an exact trap of the issuing slot (16 R405). -/
def trapped (s : State) (cause : Nat) (val : Word) : Res :=
  goesOn s { me s with
    tpc := (me s).pc &&& ~~~(3 : Word), tcause := BitVec.ofNat 64 cause, tval := val,
    tstat := (me s).trapStat (me s).pc false, mode := .system, pc := (me s).tvec, status := .ready,
    relFrom := none, relWaits := [], fetched := none }

/-- The sparse maps of the live machine have their canonical form (StepKeepsMapsCanonical states that every step keeps it). -/
def canonical (s : State) : Prop :=
  s.mem.wf = true ∧ mapWf false s.grans = true ∧ mapWf false s.poison = true ∧ mapWf {} s.slots = true ∧
    mapWf {} s.cores = true ∧ mapWf {} s.clusters = true ∧ ∀ cl, mapWf {} (s.cluster cl).tiles = true
/-- Nothing of the issuing thread and its core is on its way, so a release of it is complete at once (05 R136). -/
def quiet (s : State) : Prop :=
  (me s).status = .ready ∧ (me s).relFrom = none ∧ (me s).relWaits = [] ∧ (me s).sbcnt = 0 ∧
    (s.core (coreOf s.cur)).sb = [] ∧ s.flights = []

/-- 09 R238 step 4 for an instruction whose one source is g[n], with empty-source bit `q`: an EMPTY source blocks the slot
or takes the empty-source trap. -/
def waitsFor (s : State) (i : Instr) (n : Fin 32) (q : Bool) : Prop :=
  plain s → (me s).isEmpty .g n = true →
    exec i s = if q then trapped s 6 (BitVec.ofNat 64 n.val) else goesOn s { me s with status := .blocked (.reg .g n.val) }

/-! ### Scalar results (10 R260-R267) -/

/-- The number of leading zero bits. -/
def leadingZeros (a : Word) : Nat := ((List.range 64).takeWhile fun i => !a.getLsbD (63 - i)).length
/-- The number of trailing zero bits. -/
def trailingZeros (a : Word) : Nat := ((List.range 64).takeWhile fun i => !a.getLsbD i).length
/-- The number of one bits. -/
def ones (a : Word) : Nat := ((List.range 64).filter fun i => a.getLsbD i).length
/-- The eight bytes in reverse order. -/
def bytesReversed (a : Word) : Word :=
  a.extractLsb' 0 8 ++ a.extractLsb' 8 8 ++ a.extractLsb' 16 8 ++ a.extractLsb' 24 8 ++
    a.extractLsb' 32 8 ++ a.extractLsb' 40 8 ++ a.extractLsb' 48 8 ++ a.extractLsb' 56 8
/-- Sext(x[31:0], 32). -/
def low32 (a : Word) : Word := (a.extractLsb' 0 32).signExtend 64
/-- The least 64-bit signed value, −2^63. -/
def leastWord : Word := 0x8000000000000000

/-- R260: the two-source operations with their results. -/
def aluTwo : List ((Rrr → Instr) × (Word → Word → Word)) :=
  [ (.add, fun a b => a + b), (.sub, fun a b => a - b), (.and, fun a b => a &&& b), (.or, fun a b => a ||| b),
    (.xor, fun a b => a ^^^ b), (.andn, fun a b => a &&& ~~~b), (.orn, fun a b => a ||| ~~~b),
    (.sll, fun a b => a <<< (b.extractLsb' 0 6)), (.srl, fun a b => a >>> (b.extractLsb' 0 6)),
    (.sra, fun a b => a.sshiftRight' (b.extractLsb' 0 6)), (.rol, fun a b => a.rotateLeft (b.extractLsb' 0 6).toNat),
    (.ror, fun a b => a.rotateRight (b.extractLsb' 0 6).toNat) ] ++
  [ (.slt, fun a b => if a.toInt < b.toInt then 1 else 0), (.sltu, fun a b => if a.toNat < b.toNat then 1 else 0),
    (.min, fun a b => if a.toInt ≤ b.toInt then a else b), (.max, fun a b => if a.toInt ≤ b.toInt then b else a),
    (.minu, fun a b => if a.toNat ≤ b.toNat then a else b), (.maxu, fun a b => if a.toNat ≤ b.toNat then b else a) ] ++
  [ (.mul, fun a b => a * b),
    (.mulh, fun a b => (a.signExtend 128 * b.signExtend 128).extractLsb' 64 64),
    (.mulhu, fun a b => (a.setWidth 128 * b.setWidth 128).extractLsb' 64 64),
    (.mulhmx, fun a b => (a.signExtend 128 * b.setWidth 128).extractLsb' 64 64),
    (.div, fun a b => if b = 0 then BitVec.allOnes 64 else if a = leastWord ∧ b = BitVec.allOnes 64 then a
      else BitVec.ofInt 64 (a.toInt.tdiv b.toInt)),
    (.divu, fun a b => if b = 0 then BitVec.allOnes 64 else BitVec.ofNat 64 (a.toNat / b.toNat)),
    (.rem, fun a b => if b = 0 then a else if a = leastWord ∧ b = BitVec.allOnes 64 then 0
      else BitVec.ofInt 64 (a.toInt.tmod b.toInt)),
    (.remu, fun a b => if b = 0 then a else BitVec.ofNat 64 (a.toNat % b.toNat)),
    (.addw, fun a b => low32 (a + b)), (.subw, fun a b => low32 (a - b)) ]
/-- R260: the one-source operations with their results. -/
def aluOne : List ((Rr → Instr) × (Word → Word)) :=
  [ (.clz, fun a => BitVec.ofNat 64 (leadingZeros a)), (.ctz, fun a => BitVec.ofNat 64 (trailingZeros a)),
    (.popc, fun a => BitVec.ofNat 64 (ones a)), (.bswap, bytesReversed),
    (.sextb, fun a => (a.extractLsb' 0 8).signExtend 64), (.sexth, fun a => (a.extractLsb' 0 16).signExtend 64),
    (.sextw, low32), (.zextw, fun a => (a.extractLsb' 0 32).setWidth 64) ]
/-- R261: the immediate operations, on the sign-extended immediate. -/
def aluImm : List ((Ri → Instr) × (Word → Word → Word)) :=
  [ (.addi, fun a i => a + i), (.andi, fun a i => a &&& i), (.ori, fun a i => a ||| i), (.xori, fun a i => a ^^^ i),
    (.slti, fun a i => if a.toInt < i.toInt then 1 else 0), (.sltiu, fun a i => if a.toNat < i.toNat then 1 else 0),
    (.addiw, fun a i => low32 (a + i)) ]
/-- R262: the immediate shifts. -/
def aluShift : List ((Rsh → Instr) × (Word → Nat → Word)) :=
  [ (.slli, fun a k => a <<< k), (.srli, fun a k => a >>> k), (.srai, fun a k => a.sshiftRight k),
    (.rori, fun a k => a.rotateRight k) ]
/-- R266: the two-register branches, each with the condition under which it is taken. -/
def branchesTwo : List ((Br2 → Instr) × (Word → Word → Bool)) :=
  [ (.beq, fun a b => a = b), (.bne, fun a b => a ≠ b), (.blt, fun a b => a.toInt < b.toInt),
    (.bge, fun a b => b.toInt ≤ a.toInt), (.bltu, fun a b => a.toNat < b.toNat), (.bgeu, fun a b => b.toNat ≤ a.toNat) ]
/-- R267: the compare-with-zero branches. -/
def branchesZero : List ((Brz → Instr) × (Word → Bool)) :=
  [ (.beqz, fun a => a = 0), (.bnez, fun a => a ≠ 0), (.bltz, fun a => a.toInt < 0), (.bgez, fun a => 0 ≤ a.toInt),
    (.bgtz, fun a => 0 < a.toInt), (.blez, fun a => a.toInt ≤ 0) ]

end Sys2Proof.Claims

open Sys2Proof.Claims

/-- 07 R184, 09 R238: at an issue turn, a READY slot with no trap waiting whose fetch gives a word that decodes to an
instruction executes it; a word that decodes to none executes as the illegal-instruction trap of that word (09 R246).
Around it the step takes the turn (log 3), drops the fetched line of the slot and notes the launch's first issue (15 R388
START). A fetch that fails sg0's checks executes as the trap of its PC (01 R15). A slot that is not READY, or returned to
rotation only in this cycle, loses its turn (R183). -/
def Obligations.StepRunsDecodedInstruction : Prop :=
  ∀ (s : State) (w : Nat) (i : Instr),
    s.turn < coreCount → (∀ e ∈ s.agenda.head?, s.cycle ≤ e.1) →
    let u := { s with cur := s.turn * 16 + s.cycle % 16, turn := s.turn + 1 }
    ((me u).status ≠ .ready ∨ u.cur ∈ s.woken → step s = .next u) ∧
    ((me u).status = .ready → u.cur ∉ s.woken → (me u).deferred = none → (me u).dataErr = none →
      let v := (u.modSlot u.cur fun x => { x with fetched := none }).noteStart (me u).lidN
      (u.fetch u.cur = .word w →
        (decode w = .ok i → step s = exec i v) ∧
        (∀ e, decode w = .error e → step s = exec (.illegalInstruction (BitVec.ofNat 32 w)) v)) ∧
      ∀ pc, u.fetch u.cur = .failed pc → step s = exec (.fetchTrap false pc) u)

/-- Words written out from the spec's encodings decode to the instructions they stand for (09 R235-R245; the worked words
of 10 R263, 12 R319, R325 among them). 09 R246: the words of unassigned majors are no instructions; every word of major
0x7F is NOP or a hint. -/
def Obligations.SpecWordsDecode : Prop :=
  (decode 0x1234528A = .ok (.lih ⟨5, 0x12345⟩) ∧
   decode 0x19E05282 = .ok (.addi ⟨5, 5, false, 0x678⟩) ∧
   decode 0x0000728B = .ok (.pcblk ⟨5, 7⟩) ∧
   decode 0x38441633 = .ok (.vdot ⟨12, 1, 2, 1, .bf16⟩) ∧
   decode 0x1C403136 = .ok (.vfredadd ⟨2, 3, 1, .f32⟩) ∧
   decode 0x040A4048 = .ok (.collq ⟨4, 5, false, false⟩) ∧
   decode 0x13182311 = .ok (.st .d ⟨6, false, ⟨3, 2, false, 0, 2⟩⟩) ∧
   decode 0x06061028 = .ok (.publish ⟨1, 3, false, false⟩) ∧
   decode 0x0000007F = .ok .nop) ∧
  (∀ w : Nat, w < 2 ^ 32 →
     ((w % 128 = 0 ∨ (0x0D ≤ w % 128 ∧ w % 128 ≤ 0x0F) ∨ (0x1A ≤ w % 128 ∧ w % 128 ≤ 0x1F) ∨
         (0x25 ≤ w % 128 ∧ w % 128 ≤ 0x27) ∨ (0x2C ≤ w % 128 ∧ w % 128 ≤ 0x2F) ∨ (0x39 ≤ w % 128 ∧ w % 128 ≤ 0x3F) ∨
         (0x41 ≤ w % 128 ∧ w % 128 ≤ 0x47) ∨ (0x49 ≤ w % 128 ∧ w % 128 ≤ 0x7E)) → decode w = .error .major) ∧
     (w % 128 = 0x7F → decode w = .ok .nop ∨ ∃ b, decode w = .ok (.hint b)))

/-- 09 R235-R246: decoding the word of a well-formed instruction gives the instruction back, with every operand. -/
def Obligations.DecodeEncodeRoundTrip : Prop :=
  ∀ (i : Instr) (w : Nat), i.wf = true → encode i = some w → decode w = .ok i

/-- 09 R235-R246: a word that decodes is the word of its instruction, so no bit of an accepted word is ignored and no two
words decode to one instruction. -/
def Obligations.DecodedWordIsEncoding : Prop :=
  ∀ (w : Nat) (i : Instr), w < 2 ^ 32 → decode w = .ok i → encode i = some w

/-- 09 R246: NOP and every hint word change no state other than the PC, in every mode and in every launch. 09 R238 step 4,
on the two-source operations of 10 R260: with an EMPTY source the slot is BLOCKED if no empty source has its q bit set;
otherwise the empty-source trap is taken for the one in the lowest bit position. -/
def Obligations.NopHintsAndEmptySources : Prop :=
  (∀ (s : State) (b : BitVec 25),
     exec .nop s = goesOn s { me s with pc := (me s).pc + 4 } ∧
     exec (.hint b) s = goesOn s { me s with pc := (me s).pc + 4 }) ∧
  (∀ p ∈ aluTwo, ∀ (s : State) (o : Rrr), plain s →
     let ea := (me s).isEmpty .g o.a
     let eb := (me s).isEmpty .g o.b
     ((ea = true ∧ o.qa = true) → exec (p.1 o) s = trapped s 6 (BitVec.ofNat 64 o.a.val)) ∧
     (¬(ea = true ∧ o.qa = true) → (eb = true ∧ o.qb = true) → exec (p.1 o) s = trapped s 6 (BitVec.ofNat 64 o.b.val)) ∧
     (¬(ea = true ∧ o.qa = true) → ¬(eb = true ∧ o.qb = true) → (ea = true ∨ eb = true) →
       ∃ n, (n = o.a.val ∧ ea = true ∨ n = o.b.val ∧ eb = true) ∧
         exec (p.1 o) s = goesOn s { me s with status := .blocked (.reg .g n) }))

/-- 10 R260: with its sources FULL, each register-register operation writes its result to g[d]; none traps. -/
def Obligations.IntegerOperationResults : Prop :=
  ∀ s : State,
    (∀ p ∈ aluTwo, ∀ o : Rrr, full s [(.g, o.a), (.g, o.b)] →
      exec (p.1 o) s = writesG s o.d (p.2 ((me s).rg o.a) ((me s).rg o.b))) ∧
    (∀ p ∈ aluOne, ∀ o : Rr, full s [(.g, o.a)] → exec (p.1 o) s = writesG s o.d (p.2 ((me s).rg o.a)))

/-- 10 R261-R264: the immediate operations, LIH and PCBLK. 10 R265: an LDPC whose literal's line is in the core's
instruction cache loads the 8 bytes of that line. -/
def Obligations.ImmediateAndLiteralResults : Prop :=
  (∀ s : State,
     (∀ p ∈ aluImm, ∀ o : Ri, full s [(.g, o.a)] →
       exec (p.1 o) s = writesG s o.d (p.2 ((me s).rg o.a) (o.imm.signExtend 64))) ∧
     (∀ p ∈ aluShift, ∀ o : Rsh, full s [(.g, o.a)] →
       exec (p.1 o) s = writesG s o.d (p.2 ((me s).rg o.a) o.sh.val)) ∧
     (∀ o : Ud, exec (.lih o) s = writesG s o.d (o.imm.signExtend 64 * 4096)) ∧
     (∀ o : Ud, exec (.pcblk o) s = writesG s o.d (((me s).pc &&& ~~~(0x1FFF : Word)) + o.imm.signExtend 64 * 8192))) ∧
  (∀ (s : State) (o : Ud) (line : VWord),
     let d := (me s).rsg 0
     let l := (me s).pc + o.imm.signExtend 64 * 4
     let a := (d.base.toNat + l.toNat) % 2 ^ 64
     (me s).mode = .user → mapGet false (me s).sgPend 0 = false → d.chip = false → (d.has 4 ∨ d.has 1) →
     l.toNat % 8 = 0 → a % 8 = 0 → l.toNat + 8 ≤ d.limit →
     mapGet none (s.core (coreOf s.cur)).icache (lineKey false (s.asidOf (me s).lidN) a) = some line →
     exec (.ldpc o) s = writesG s o.d (line.extractLsb' (8 * (a % 64)) 64))

/-- 10 R266, R267: a branch whose condition holds adds its displacement of words to the PC; any other goes on at PC + 4.
10 R268, R269, R270: JAL and JALR link PC + 4 into g[d], JALR from the old g[a]; SKIP passes over n words. 10 R269: a JALR
target that is no multiple of 4 takes the misaligned-access trap with tval the target; g[d] keeps its value. An EMPTY g[a]
blocks the slot or traps. -/
def Obligations.BranchesAndJumps : Prop :=
  (∀ s : State,
     (∀ p ∈ branchesTwo, ∀ o : Br2, full s [(.g, o.a), (.g, o.b)] →
       exec (p.1 o) s = goesOn s { me s with
         pc := (me s).pc + if p.2 ((me s).rg o.a) ((me s).rg o.b) then o.disp.signExtend 64 * 4 else 4 }) ∧
     (∀ p ∈ branchesZero, ∀ o : Brz, full s [(.g, o.a)] →
       exec (p.1 o) s = goesOn s { me s with
         pc := (me s).pc + if p.2 ((me s).rg o.a) then o.disp.signExtend 64 * 4 else 4 })) ∧
  (∀ s : State,
     (∀ o : Ud, exec (.jal o) s =
       goesOn s { (me s).wg o.d ((me s).pc + 4) with pc := (me s).pc + o.imm.signExtend 64 * 4 }) ∧
     (∀ o : Ri, full s [(.g, o.a)] → ((me s).rg o.a + o.imm.signExtend 64).extractLsb' 0 2 = 0 →
       exec (.jalr o) s = goesOn s { (me s).wg o.d ((me s).pc + 4) with pc := (me s).rg o.a + o.imm.signExtend 64 }) ∧
     (∀ n : BitVec 20, exec (.skip n) s = goesOn s { me s with pc := (me s).pc + 4 + n.setWidth 64 * 4 })) ∧
  (∀ (s : State) (o : Ri),
     waitsFor s (.jalr o) o.a o.qa ∧
     (plain s → full s [(.g, o.a)] → ((me s).rg o.a + o.imm.signExtend 64).extractLsb' 0 2 ≠ 0 →
       exec (.jalr o) s = trapped s 3 ((me s).rg o.a + o.imm.signExtend 64)))

namespace Sys2Proof.Claims

/-! ### Vectors (12 R307-R327) -/

/-- Lane k of width w. -/
def el (v : VWord) (w k : Nat) : BitVec w := v.extractLsb' (w * k) w
/-- Lane k is active under mask m. -/
def active (s : State) (m : Fin 8) (k : Nat) : Bool := ((me s).rm m).getLsbD k
/-- The sources of an instruction that keeps masked lanes are FULL (R308). -/
def fullKeep (s : State) (l : List (RegFile × Nat)) (d : Fin 32) (m : Fin 8) : Prop :=
  full s ((.m, m.val) :: l) ∧ (m ≠ 0 → full s [(.v, d.val)])
/-- v[d] is written whole, active lanes from `f` and the others kept; no flag changes (R309). -/
def lanesWritten (s : State) (d : Fin 32) (m : Fin 8) (w : Nat) (f : Nat → BitVec w) (r : Res) : Prop :=
  ∃ y : VWord, r = goesOn s { (me s).wv d y with pc := (me s).pc + 4 } ∧
    ∀ k, k < 512 / w → el y w k = if active s m k then f k else el ((me s).rv d) w k
/-- v[d] is written whole, active lanes from the first part of `f` and the others kept; the flags that active lanes earn are
added to fflags (R309, R310). -/
def lanesFlagged (s : State) (d : Fin 32) (m : Fin 8) (w : Nat) (f : Nat → Nat × Nat) (r : Res) : Prop :=
  ∃ (y : VWord) (fl : Word),
    r = goesOn s { (me s).wv d y with pc := (me s).pc + 4, fflags := (me s).fflags ||| fl } ∧
    (∀ k, k < 512 / w → el y w k = if active s m k then BitVec.ofNat w (f k).1 else el ((me s).rv d) w k) ∧
    ∀ j, fl.getLsbD j = true ↔ j < 5 ∧ ∃ k, k < 512 / w ∧ active s m k = true ∧ (f k).2.testBit j = true
/-- The signed value nearest to an integer. -/
def clampTo (w : Nat) (z : Int) : BitVec w := BitVec.ofInt w (max (-(2 ^ (w - 1))) (min (2 ^ (w - 1) - 1) z))

/-- R314: the two-source arithmetic lane operations. -/
def vecArith : List ((V3 → Instr) × ((w : Nat) → BitVec w → BitVec w → BitVec w)) :=
  [ (.vadd, fun _ a b => a + b), (.vsub, fun _ a b => a - b), (.vmul, fun _ a b => a * b),
    (.vmulh, fun w a b => (a.signExtend (2 * w) * b.signExtend (2 * w)).extractLsb' w w),
    (.vmin, fun _ a b => if a.toInt ≤ b.toInt then a else b), (.vmax, fun _ a b => if a.toInt ≤ b.toInt then b else a),
    (.vminu, fun _ a b => if a.toNat ≤ b.toNat then a else b), (.vmaxu, fun _ a b => if a.toNat ≤ b.toNat then b else a),
    (.vadds, fun w a b => clampTo w (a.toInt + b.toInt)), (.vsubs, fun w a b => clampTo w (a.toInt - b.toInt)) ]
/-- R315: the bitwise operations and shifts. -/
def vecBits : List ((V3 → Instr) × ((w : Nat) → BitVec w → BitVec w → BitVec w)) :=
  [ (.vand, fun _ a b => a &&& b), (.vor, fun _ a b => a ||| b), (.vxor, fun _ a b => a ^^^ b),
    (.vandn, fun _ a b => a &&& ~~~b), (.vsll, fun w a b => a <<< (b.toNat % w)), (.vsrl, fun w a b => a >>> (b.toNat % w)),
    (.vsra, fun w a b => a.sshiftRight (b.toNat % w)) ]
/-- R314, R316: the one-source lane operations on bits alone, VFABS and VFNEG among them. -/
def vecOne : List ((V2 → Instr) × ((w : Nat) → BitVec w → BitVec w)) :=
  [ (.vabs, fun w a => BitVec.ofNat w a.toInt.natAbs), (.vneg, fun _ a => -a),
    (.vfabs, fun w a => a &&& ~~~(BitVec.twoPow w (w - 1))), (.vfneg, fun w a => a ^^^ BitVec.twoPow w (w - 1)),
    (.vmov, fun _ a => a) ]
/-- R316: the rounded two-source operations, each the exact operation that RoundF rounds once. -/
def vecFloatTwo : List ((V3 → Instr) × (RMode → FVal → FVal → XVal × Nat)) :=
  [ (.vfadd, addF), (.vfsub, fun m a b => addF m a b.neg), (.vfmul, fun _ a b => mulX a b), (.vfdiv, fun _ a b => divF a b) ]
/-- R316: the rounded one-source operations. -/
def vecFloatOne : List ((V2 → Instr) × (FVal → XVal × Nat)) :=
  [ (.vfsqrt, sqrtF), (.vrcp, fun a => divF (.fin false 1 0) a), (.vrsq, rsqF), (.vexp2, exp2F) ]
/-- R318: the fused operations. -/
def vecFused : List ((V3 → Instr) × (RMode → FVal → FVal → FVal → XVal × Nat)) :=
  [ (.vfma, fmaF), (.vfms, fun m a b d => fmaF m a b d.neg), (.vfnma, fun m a b d => fmaF m a.neg b d) ]
/-- The value of lane k of v[n] as a number of a floating-point type. -/
def fl (s : State) (t : ElemTy) (n : Fin 32) (k : Nat) : FVal := decodeIeee t (el ((me s).rv n) (elemW t) k).toNat
/-- RoundF under fmode, SR as RNE, with the flags of the exact operation (R310). -/
def rounded (s : State) (t : ElemTy) (r : XVal × Nat) : Nat × Nat :=
  ((roundF t (me s).satinf (me s).rmode.arith 0 r.1).1, (roundF t (me s).satinf (me s).rmode.arith 0 r.1).2 ||| r.2)

end Sys2Proof.Claims

/-- 12 R314, R315: the integer and bitwise lane operations. 12 R314, R316, R327: VABS, VNEG, VFABS, VFNEG and VMOV act on
the bits of each active lane and set no flag. -/
def Obligations.VectorIntegerLanes : Prop :=
  (∀ (p : (V3 → Instr) × ((w : Nat) → BitVec w → BitVec w → BitVec w)) (s : State) (o : V3),
     p ∈ vecArith ++ vecBits → (p.1 o).wf = true → fullKeep s [(.v, o.a), (.v, o.b)] o.d o.m →
     lanesWritten s o.d o.m (elemW o.ty)
       (fun k => p.2 (elemW o.ty) (el ((me s).rv o.a) (elemW o.ty) k) (el ((me s).rv o.b) (elemW o.ty) k)) (exec (p.1 o) s)) ∧
  (∀ (p : (V2 → Instr) × ((w : Nat) → BitVec w → BitVec w)) (s : State) (o : V2),
     p ∈ vecOne → (p.1 o).wf = true → fullKeep s [(.v, o.a)] o.d o.m →
     lanesWritten s o.d o.m (elemW o.ty) (fun k => p.2 (elemW o.ty) (el ((me s).rv o.a) (elemW o.ty) k)) (exec (p.1 o) s))

/-- 12 R310, R316, R318: each active lane is the exact result rounded once under fmode, and its flags are added. 12 R317:
for VFMIN and VFMAX, one NaN operand gives the other operand and two give the canonical NaN; of two numbers the lane gets
one of them, −0 below +0; a signalling NaN sets NV. -/
def Obligations.VectorFloatLanes : Prop :=
  (∀ s : State,
     (∀ p ∈ vecFloatTwo, ∀ o : V3, (p.1 o).wf = true → fullKeep s [(.v, o.a), (.v, o.b)] o.d o.m →
       lanesFlagged s o.d o.m (elemW o.ty)
         (fun k => rounded s o.ty (p.2 (me s).rmode.arith (fl s o.ty o.a k) (fl s o.ty o.b k))) (exec (p.1 o) s)) ∧
     (∀ p ∈ vecFloatOne, ∀ o : V2, (p.1 o).wf = true → fullKeep s [(.v, o.a)] o.d o.m →
       lanesFlagged s o.d o.m (elemW o.ty) (fun k => rounded s o.ty (p.2 (fl s o.ty o.a k))) (exec (p.1 o) s)) ∧
     (∀ p ∈ vecFused, ∀ o : V3, (p.1 o).wf = true → fullKeep s [(.v, o.a), (.v, o.b), (.v, o.d)] o.d o.m →
       lanesFlagged s o.d o.m (elemW o.ty)
         (fun k => rounded s o.ty (p.2 (me s).rmode.arith (fl s o.ty o.a k) (fl s o.ty o.b k) (fl s o.ty o.d k)))
         (exec (p.1 o) s))) ∧
  (∀ (s : State) (o : V3) (big : Bool), o.ty.isFloat = true → fullKeep s [(.v, o.a), (.v, o.b)] o.d o.m →
     ∃ f : Nat → Nat × Nat,
       lanesFlagged s o.d o.m (elemW o.ty) f (exec (if big then .vfmax o else .vfmin o) s) ∧
       ∀ k, k < 512 / elemW o.ty →
         let a := el ((me s).rv o.a) (elemW o.ty) k
         let b := el ((me s).rv o.b) (elemW o.ty) k
         ((fl s o.ty o.a k).isNan = true → (fl s o.ty o.b k).isNan = true → (f k).1 = canonNan o.ty) ∧
         ((fl s o.ty o.a k).isNan = true → (fl s o.ty o.b k).isNan = false → (f k).1 = b.toNat) ∧
         ((fl s o.ty o.a k).isNan = false → (fl s o.ty o.b k).isNan = true → (f k).1 = a.toNat) ∧
         ((fl s o.ty o.a k).isNan = false → (fl s o.ty o.b k).isNan = false → (f k).1 = a.toNat ∨ (f k).1 = b.toNat) ∧
         ((f k).2 = 16 ∨ (f k).2 = 0))

/-- 12 R320: each active lane's condition becomes its bit of m[d]; inactive bits below L keep; bits from L on are 0; VCMP
sets no flag. 12 R327: mask operations act on all 64 bits; MPOPC and MFFS look at the bits below L that both masks select.
-/
def Obligations.VectorComparesAndMasks : Prop :=
  (∀ (s : State) (o : V3) (d : Fin 8), o.d.val = d.val → full s [(.m, o.m), (.v, o.a), (.v, o.b)] →
     (o.m ≠ 0 → full s [(.m, d)]) →
     (∀ c : ICond, (Instr.vcmp c o).wf = true →
       ∃ y : Word, exec (.vcmp c o) s = goesOn s { (me s).wm d y with pc := (me s).pc + 4 } ∧
         ∀ k, y.getLsbD k = (decide (k < 512 / elemW o.ty) && if active s o.m k then
             (let a := el ((me s).rv o.a) (elemW o.ty) k
              let b := el ((me s).rv o.b) (elemW o.ty) k
              match c with
              | .eq => a == b | .ne => a != b | .lt => a.slt b | .ge => !a.slt b | .ltu => a.ult b | .geu => !a.ult b)
           else ((me s).rm d).getLsbD k)) ∧
     (∀ c : FCond, (Instr.vfcmp c o).wf = true →
       ∃ y f : Word, exec (.vfcmp c o) s =
           goesOn s { (me s).wm d y with pc := (me s).pc + 4, fflags := (me s).fflags ||| f } ∧
         (f = 0 ∨ f = 16) ∧
         ∀ k, y.getLsbD k = (decide (k < 512 / elemW o.ty) && if active s o.m k then
             (cmpF c (fl s o.ty o.a k) (fl s o.ty o.b k)).1 else ((me s).rm d).getLsbD k))) ∧
  (∀ (s : State) (a b : Fin 8),
     let both := fun (ty : ElemTy) (k : Nat) => decide (k < 512 / elemW ty) && ((me s).rm a).getLsbD k && ((me s).rm b).getLsbD k
     (full s [(.m, a), (.m, b)] →
       (∀ d : Fin 8,
         exec (.mand d a b) s = goesOn s { (me s).wm d ((me s).rm a &&& (me s).rm b) with pc := (me s).pc + 4 } ∧
         exec (.mor d a b) s = goesOn s { (me s).wm d ((me s).rm a ||| (me s).rm b) with pc := (me s).pc + 4 } ∧
         exec (.mxor d a b) s = goesOn s { (me s).wm d ((me s).rm a ^^^ (me s).rm b) with pc := (me s).pc + 4 }) ∧
       (∀ (d : Fin 32) (ty : ElemTy),
         exec (.mpopc d a b ty) s = writesG s d (BitVec.ofNat 64 ((List.range 64).filter (both ty)).length) ∧
         exec (.mffs d a b ty) s = writesG s d
           (match (List.range 64).find? (both ty) with | some k => BitVec.ofNat 64 k | none => BitVec.allOnes 64))) ∧
     (full s [(.m, a)] →
       (∀ d : Fin 8, exec (.mnot d a) s = goesOn s { (me s).wm d (~~~(me s).rm a) with pc := (me s).pc + 4 }) ∧
       (∀ d : Fin 32, exec (.mget d a) s = writesG s d ((me s).rm a))) ∧
     (∀ (d : Fin 8) (g : Fin 32), full s [(.g, g)] →
       exec (.mset d g) s = goesOn s { (me s).wm d ((me s).rg g) with pc := (me s).pc + 4 }))

/-- 12 R319: VDOT accumulates, for each active 32-bit lane, the products of its narrow elements: exactly modulo 2^32 for
the integer types. 12 R325: a reduction leaves its result in lane 0 and zero above: the sum modulo 2^w of the active
lanes, or their signed minimum or maximum, each with its value for no active lane; the floating-point ones give +0 and −∞
for none. -/
def Obligations.VectorDotAndReductions : Prop :=
  (∀ (s : State) (o : V3), o.ty.dotOk = true → fullKeep s [(.v, o.a), (.v, o.b), (.v, o.d)] o.d o.m →
     ∃ f : Nat → Nat × Nat,
       lanesFlagged s o.d o.m 32 f (exec (.vdot o) s) ∧
       (o.ty.isInt = true → ∀ j, j < 16 →
         (f j).2 = 0 ∧
         BitVec.ofNat 32 (f j).1 = el ((me s).rv o.d) 32 j +
           BitVec.ofInt 32 (((List.range (32 / elemW o.ty)).map fun r =>
             (el ((me s).rv o.a) (elemW o.ty) (j * (32 / elemW o.ty) + r)).toInt *
               (el ((me s).rv o.b) (elemW o.ty) (j * (32 / elemW o.ty) + r)).toInt).sum)) ∧
       (o.ty.isInt = false → ∀ j, j < 16 → f j = dotLane o (me s) j)) ∧
  (∀ (s : State) (o : V2), full s [(.v, o.a), (.m, o.m)] →
     let on := fun k => k < 512 / elemW o.ty ∧ active s o.m k = true
     let x := fun k => el ((me s).rv o.a) (elemW o.ty) k
     (o.ty.isInt = true →
       exec (.vredadd o) s = goesOn s { (me s).wv o.d (((List.range (512 / elemW o.ty)).foldl (fun n k =>
           if active s o.m k then n + x k else n) 0).setWidth 512) with pc := (me s).pc + 4 } ∧
       (∃ lo hi : BitVec (elemW o.ty),
         exec (.vredmin o) s = goesOn s { (me s).wv o.d (lo.setWidth 512) with pc := (me s).pc + 4 } ∧
         exec (.vredmax o) s = goesOn s { (me s).wv o.d (hi.setWidth 512) with pc := (me s).pc + 4 } ∧
         (∀ k, on k → lo.toInt ≤ (x k).toInt ∧ (x k).toInt ≤ hi.toInt) ∧
         ((∃ k, on k) → (∃ k, on k ∧ lo = x k) ∧ ∃ k, on k ∧ hi = x k) ∧
         ((∀ k, ¬on k) → lo = BitVec.intMax (elemW o.ty) ∧ hi = BitVec.intMin (elemW o.ty)))) ∧
     (o.ty.isFloat = true →
       ∃ (y z : BitVec 32) (f g : Word),
         exec (.vfredadd o) s = goesOn s { (me s).wv o.d (y.setWidth 512) with
           pc := (me s).pc + 4, fflags := (me s).fflags ||| f } ∧
         exec (.vfredmax o) s = goesOn s { (me s).wv o.d (z.setWidth 512) with
           pc := (me s).pc + 4, fflags := (me s).fflags ||| g } ∧
         ((∀ k, ¬on k) → y = 0 ∧ z = 0xFF800000 ∧ f = 0 ∧ g = 0)))

/-- 12 R321, R322: VCVT converts each element of a valid descriptor by R224 and clears the lanes above the count; VCVTI
and VCVTF convert at one width; fflags gains the flags, and rseed advances once if the mode is SR. 12 R323: VPACK narrows
va then vb into one register and VUNPK widens one half of va, every lane written; integers keep their low bits or clamp,
and widen by their sign. -/
def Obligations.VectorConversions : Prop :=
  (∀ s : State,
     (∀ o : Vcvt, cvtOk ((me s).rfs o.fs).toNat = true →
       fullKeep s ((.v, o.a.val) :: if fsScl ((me s).rfs o.fs).toNat = 0 then [] else [(.v, o.s.val)]) o.d o.m →
       let d := ((me s).rfs o.fs).toNat
       let mode := fsMode d (me s).rmode
       ∃ (y : VWord) (f : Word),
         exec (.vcvt o) s = goesOn s { (me s).wv o.d y with
           pc := (me s).pc + 4, fflags := (me s).fflags ||| f,
           rseed := if mode = .sr then BitVec.ofNat 64 (srNext (me s).rseed.toNat) else (me s).rseed } ∧
         (∀ k, k < cvtCount d → el y (elemW (fsDty d)) k =
           if active s o.m k then BitVec.ofNat (elemW (fsDty d)) (cvtElem o d (me s) k).1
           else el ((me s).rv o.d) (elemW (fsDty d)) k) ∧
         (∀ k, cvtCount d ≤ k → el y (elemW (fsDty d)) k = 0)) ∧
     (∀ o : Vci, o.ty.isFloat = true → fullKeep s [(.v, o.a)] o.d o.m →
       ∃ (y z : VWord) (f g : Word),
         exec (.vcvti o) s = goesOn s { (me s).wv o.d y with
           pc := (me s).pc + 4, fflags := (me s).fflags ||| f,
           rseed := if (me s).rmode = .sr then BitVec.ofNat 64 (srNext (me s).rseed.toNat) else (me s).rseed } ∧
         exec (.vcvtf o) s = goesOn s { (me s).wv o.d z with
           pc := (me s).pc + 4, fflags := (me s).fflags ||| g,
           rseed := if (me s).rmode = .sr then BitVec.ofNat 64 (srNext (me s).rseed.toNat) else (me s).rseed } ∧
         ∀ k, k < 512 / elemW o.ty →
           (el y (elemW o.ty) k = if active s o.m k then
             BitVec.ofNat (elemW o.ty)
               (floatToInt (elemW o.ty) o.u (me s).rmode (srWord (me s).rseed.toNat k) (fl s o.ty o.a k).x).1
             else el ((me s).rv o.d) (elemW o.ty) k) ∧
           (el z (elemW o.ty) k = if active s o.m k then
             BitVec.ofNat (elemW o.ty)
               (intToFloat o.ty (me s).satinf (me s).rmode (srWord (me s).rseed.toNat k)
                 (if o.u then ((el ((me s).rv o.a) (elemW o.ty) k).toNat : Int) else (el ((me s).rv o.a) (elemW o.ty) k).toInt)).1
             else el ((me s).rv o.d) (elemW o.ty) k))) ∧
  (∀ (s : State) (d a b : Fin 32) (ty : ElemTy) (u : Bool),
     (ty.packOk = true → full s [(.v, a), (.v, b)] →
       ∃ (y : VWord) (f r : Word),
         exec (.vpack d a b ty u) s = goesOn s { (me s).wv d y with
           pc := (me s).pc + 4, fflags := (me s).fflags ||| f, rseed := r } ∧
         (ty.isInt = true → f = 0 ∧ r = (me s).rseed ∧ ∀ k, k < 2 * (512 / elemW ty) →
           let c := if k < 512 / elemW ty then el ((me s).rv a) (elemW ty) k
             else el ((me s).rv b) (elemW ty) (k - 512 / elemW ty)
           el y (elemW ty / 2) k = if u then clampTo (elemW ty / 2) c.toInt else c.setWidth (elemW ty / 2))) ∧
     (ty.unpkOk = true → full s [(.v, a)] →
       ∃ (y : VWord) (f : Word),
         exec (.vunpk d a ty u) s = goesOn s { (me s).wv d y with
           pc := (me s).pc + 4, fflags := (me s).fflags ||| f } ∧
         (ty.isInt = true → f = 0 ∧ ∀ k, k < 512 / elemW ty / 2 →
           el y (2 * elemW ty) k =
             (el ((me s).rv a) (elemW ty) (if u then 512 / elemW ty / 2 + k else k)).signExtend (2 * elemW ty))))

/-- 12 R326: the permutes move lanes without inspecting them; an index outside the register gives 0 and changes nothing in
VINS. -/
def Obligations.VectorPermutes : Prop :=
  ∀ s : State,
    (∀ o : V2, fullKeep s [(.g, o.a)] o.d o.m →
      lanesWritten s o.d o.m (elemW o.ty) (fun _ => ((me s).rg o.a).setWidth _) (exec (.vbcst o) s)) ∧
    (∀ o : V3,
      let w := elemW o.ty
      let a := fun k => el ((me s).rv o.a) w k
      let b := fun k => el ((me s).rv o.b) w k
      (fullKeep s [(.v, o.a), (.v, o.b)] o.d o.m →
        lanesWritten s o.d o.m w (fun k => if (b k).toNat < 512 / w then a (b k).toNat else 0) (exec (.vshuf o) s) ∧
        lanesWritten s o.d o.m w (fun k => if k % 2 = 0 then a (k / 2) else b (k / 2)) (exec (.vzip o) s) ∧
        lanesWritten s o.d o.m w (fun k => if k < 512 / w / 2 then a (2 * k) else b (2 * (k - 512 / w / 2)))
          (exec (.vunzip o) s)) ∧
      (fullKeep s [(.v, o.a), (.g, o.b)] o.d o.m →
        lanesWritten s o.d o.m w (fun k =>
          if 0 ≤ (k : Int) + ((me s).rg o.b).toInt ∧ (k : Int) + ((me s).rg o.b).toInt < (512 / w : Nat)
          then a ((k : Int) + ((me s).rg o.b).toInt).toNat else 0) (exec (.vslide o) s)) ∧
      (full s [(.v, o.a), (.v, o.b), (.m, o.m)] →
        ∃ y : VWord, exec (.vsel o) s = goesOn s { (me s).wv o.d y with pc := (me s).pc + 4 } ∧
          ∀ k, k < 512 / w → el y w k = if active s o.m k then a k else b k)) ∧
    (∀ (d a b : Fin 32) (ty : ElemTy),
      let w := elemW ty
      let j := ((me s).rg b).toNat
      (full s [(.v, a), (.g, b)] →
        exec (.vext d a b ty) s = writesG s d
          (if j < 512 / w then (if ty.isInt then (el ((me s).rv a) w j).signExtend 64 else (el ((me s).rv a) w j).setWidth 64)
           else 0)) ∧
      (full s [(.g, a), (.g, b), (.v, d)] →
        ∃ y : VWord, exec (.vins d a b ty) s = goesOn s { (me s).wv d y with pc := (me s).pc + 4 } ∧
          ∀ k, k < 512 / w → el y w k = if k = j then ((me s).rg a).setWidth w else el ((me s).rv d) w k))

namespace Sys2Proof.Claims

/-! ### Control registers and memory -/

/-- R247: what a control register of thread t reads as. -/
def crValue (s : State) (n : Nat) : Word :=
  match n with
  | 0 => (me s).tpc | 1 => (me s).tcause | 2 => (me s).tval | 3 => (me s).tstat | 4 => (me s).tvec | 5 => (me s).fflags
  | 6 => (me s).fmode | 7 => (me s).rseed | 8 => (me s).wid | 9 => (me s).lid | 10 => BitVec.ofNat 64 (s.cur % 16)
  | 11 => BitVec.ofNat 64 (s.cur / 16) | 12 => BitVec.ofNat 64 s.cycle | 13 => BitVec.ofNat 64 (me s).sbcnt
  | 14 => (me s).prio | _ => 0
/-- R273, R406: the slot with a control register written. -/
def crWritten (x : Slot) (n : Nat) (v : Word) : Slot :=
  match n with
  | 0 => { x with tpc := v &&& ~~~(3 : Word) } | 1 => { x with tcause := v &&& 0xFF } | 2 => { x with tval := v }
  | 3 => { x with tstat := v &&& 0xFFFFFFFFFFFC03C1 } | 4 => { x with tvec := v &&& ~~~(3 : Word) }
  | 5 => { x with fflags := v &&& 0x1F } | 6 => { x with fmode := v } | 7 => { x with rseed := v &&& 0xFFFFFFFF }
  | _ => x
/-- R272: CRWR, CRSET, CRCLR with what each makes of the old value and the source. -/
def crOps : List ((CrW → Instr) × (Word → Word → Word)) :=
  [ (.crwr, fun _ a => a), (.crset, fun old a => old ||| a), (.crclr, fun old a => old &&& ~~~a) ]
/-- The register may be named in the slot's mode (R247). -/
def crAllowed (s : State) (n : Nat) : Prop := 5 ≤ n ∨ (me s).mode = .system
/-- R227: a value fmode takes. -/
def fmodeTakes (v : Word) : Prop := v.toNat < 16 ∧ v.toNat % 8 < 5
/-- No speculation in flight other than that of launch `lid` has logged the state at an on-chip address (06 R172). -/
def unloggedFor (s : State) (lid a : Nat) : Prop :=
  ∀ i sp, mapGet none s.specs i = some sp → sp.lid = lid ∨ sp.undo.any (Undo.covers a) = false
/-- The same for the issuing slot's launch. -/
def unlogged (s : State) (a : Nat) : Prop := unloggedFor s (me s).lidN a
/-- An access that passes the checks of R13 as `n` unpoisoned bytes at one address of the windows of its own core that the
pipeline serves (03 R69), with no store of the core on its way that it must follow (05 R133, R134). -/
def ownBytes (s : State) (r : Req) (a n : Nat) (read write : Bool) : Prop :=
  let p : Piece := ⟨.chip a, n, 0, .new⟩
  s.check s.cur r = .ok [p] ∧ ownPipe (coreOf s.cur) p = true ∧ s.ownBehind s.cur [p] read write = false ∧ unlogged s a ∧
    (chipBytes a = true → s.poisoned (chipKey a) n = false)
/-- An access that passes the checks of R13 as pieces that the pipeline does not serve all (03 R69). -/
def awayFrom (s : State) (r : Req) (ps : List Piece) : Prop :=
  s.check s.cur r = .ok ps ∧ ps.all (ownPipe (coreOf s.cur)) = false
/-- The operand registers of an M-format access are FULL and its segment is loaded. -/
def memReady (s : State) (m : MemOp) (l : List (RegFile × Nat)) : Prop :=
  full s ((.g, m.a.val) :: l) ∧ mapGet false (me s).sgPend m.seg = false
/-- The request of an M-format load of `n` bytes. -/
def loadReq (s : State) (m : MemOp) (n need : Nat) (scratch : Bool) : Req :=
  { desc := s.segment s.cur m.seg, off := ((me s).rg m.a + m.imm.signExtend 64 * BitVec.ofNat 64 n).toNat, size := n,
    align := n, il := m.il.val, need := need, use := .load, data := 0, scratch := scratch }
/-- The request of an M-format store of the number `v` in `n` bytes. -/
def storeReq (s : State) (m : MemOp) (n v : Nat) (scratch : Bool) : Req :=
  { desc := s.segment s.cur m.seg, off := ((me s).rg m.a + m.imm.signExtend 64 * BitVec.ofNat 64 n).toNat, size := n,
    align := n, il := m.il.val, need := 2, use := .store, data := v, scratch := scratch }
/-- The request of an X-format access. -/
def indexedReq (s : State) (o : Xop) (need : Nat) (use : Use) (v : Nat) : Req :=
  { desc := s.segment s.cur o.seg,
    off := ((me s).rg o.a + if o.sc then (me s).rg o.b * BitVec.ofNat 64 (sizeBytes o.size) else (me s).rg o.b).toNat,
    size := sizeBytes o.size, align := sizeBytes o.size, il := o.il.val, need := need, use := use, data := v }
/-- The value of `n` bytes at an on-chip address, lowest address least significant. -/
def bytesAt (s : State) (a n : Nat) : Nat := readLe s.mem (chipKey a) n
/-- A loaded value extended to 64 bits. -/
def extended (n : Nat) (signed : Bool) (v : Nat) : Word :=
  if signed then (BitVec.ofNat (8 * n) v).signExtend 64 else BitVec.ofNat 64 (v % 2 ^ (8 * n))
/-- The operand registers of an X-format access are FULL and its segment is loaded. -/
def indexReady (s : State) (o : Xop) (l : List (RegFile × Nat)) : Prop :=
  full s (l ++ [(.g, o.a.val), (.g, o.b.val)]) ∧ mapGet false (me s).sgPend o.seg = false
/-- Eight copies of a 64-bit number. -/
def eightTimes (v : Nat) : VWord := BitVec.ofNat 512 ((List.range 8).foldl (fun n k => n + v * 2 ^ (64 * k)) 0)

/-- A load: the instruction, when its sources and segment are ready, its request, the slot that its number arrives in, and the
slot that waits for it. -/
structure LoadForm where
  i : Instr
  ready : Prop
  req : Req
  got : Slot → Nat → Slot
  sent : Slot → Slot
/-- R284, R286, R288: the loads that look at no granule. -/
def plainLoads (s : State) (o : MLd) (x : Xop) : List LoadForm :=
  ([.b, .h, .w, .d, .bu, .hu, .wu].map fun z => ⟨.ld z o, memReady s o.mem [], loadReq s o.mem (LdSizeBytes z) 1 false,
    fun y v => y.wg o.t (extended (LdSizeBytes z) (ldSigned z) v), (·.eg o.t)⟩) ++
  [ ⟨.vld o, memReady s o.mem [], loadReq s o.mem 64 1 false, fun y v => y.wv o.t (BitVec.ofNat 512 v), (·.ev o.t)⟩,
    ⟨.vldb o, memReady s o.mem [], loadReq s o.mem 8 1 false, fun y v => y.wv o.t (eightTimes v), (·.ev o.t)⟩ ] ++
  ([false, true].map fun u => ⟨.ldx u x, indexReady s x [], indexedReq s x 1 .load 0,
    fun y v => y.wg x.d (extended (sizeBytes x.size) (!u) v), (·.eg x.d)⟩)
/-- R287, R288: the loads that wait for their granules, each with whether it leaves them EMPTY. -/
def waitingLoads (s : State) (o : MLd) : List (LoadForm × Bool) :=
  [false, true].flatMap fun c =>
    [ (⟨if c then .lde o else .ldf o, memReady s o.mem [], loadReq s o.mem 8 (if c then 3 else 1) true,
        fun y v => y.wg o.t (BitVec.ofNat 64 v), (·.eg o.t)⟩, c),
      (⟨if c then .vlde o else .vldf o, memReady s o.mem [], loadReq s o.mem 64 (if c then 3 else 1) true,
        fun y v => y.wv o.t (BitVec.ofNat 512 v), (·.ev o.t)⟩, c) ]
/-- R287: TSTF, whose number is the full bit of its granule. -/
def testLoad (s : State) (o : MLd) : LoadForm :=
  ⟨.tstf o, memReady s o.mem [], loadReq s o.mem 16 1 true, fun y v => y.wg o.t (BitVec.ofNat 64 v), (·.eg o.t)⟩

/-- A store: the instruction, when its sources and segment are ready, its request, its bytes, what it leaves in the granules it
touches (nothing, EMPTY or FULL), and whether it releases first. -/
structure StoreForm where
  i : Instr
  ready : Prop
  req : Req
  data : Nat
  fill : Option Bool
/-- R285, R286, R288: the stores that touch no granule. -/
def plainStores (s : State) (o : MSt) (x : Xop) : List StoreForm :=
  ([.b, .h, .w, .d].map fun z =>
    let v := ((me s).rg o.t).toNat % 2 ^ (8 * sizeBytes z)
    ⟨.st z o, memReady s o.mem [(.g, o.t)], storeReq s o.mem (sizeBytes z) v false, v, none⟩) ++
  [ (let v := ((me s).rg x.d).toNat % 2 ^ (8 * sizeBytes x.size)
     ⟨.stx x, indexReady s x [(.g, x.d)], indexedReq s x 2 .store v, v, none⟩),
    (let v := ((me s).rv o.t).toNat
     ⟨.vst o, memReady s o.mem [(.v, o.t)], storeReq s o.mem 64 v false, v, none⟩) ]
/-- R287, R288: the stores that fill their granules. -/
def fillingStores (s : State) (o : MSt) : List StoreForm :=
  [ ⟨.stf o, memReady s o.mem [(.g, o.t)], storeReq s o.mem 8 ((me s).rg o.t).toNat true, ((me s).rg o.t).toNat, some true⟩,
    ⟨.vstf o, memReady s o.mem [(.v, o.t)], storeReq s o.mem 64 ((me s).rv o.t).toNat true, ((me s).rv o.t).toNat, some true⟩ ]
/-- R287: SETE and SETF, which write no byte. -/
def granuleStores (s : State) (o : MemOp) : List StoreForm :=
  [false, true].map fun f => ⟨if f then .setf o else .sete o, memReady s o [], storeReq s o 16 0 true, 0, some f⟩
/-- R287: a store that releases at the pair scope of its place; with nothing of the thread on its way the release is complete. -/
def StoreForm.released (F : StoreForm) (s : State) : Prop := F.fill.isSome = true → quiet s

/-- The instruction goes on with memory holding the low `n` bytes of `v` at `a`, and nothing else of memory changed: every
other byte reads as before; no register changes. -/
def stores (s : State) (a n v : Nat) (r : Res) : Prop :=
  ∃ t : State, r = .next t ∧ t.mem = writeLe s.mem (chipKey a) n v ∧
    (∀ b, b < chipKey a ∨ chipKey a + n ≤ b → readByte t.mem b = readByte s.mem b) ∧
    t.slots = (s.setSlot s.cur { me s with pc := (me s).pc + 4 }).slots ∧ t.grans = s.grans
/-- The same for a form that sets the granules it touches FULL, which may wake waiting slots (03 R75). -/
def storesFull (s : State) (a n : Nat) (m : Memory) (r : Res) : Prop :=
  ∃ t : State, r = .next t ∧ t.mem = m ∧ t.anyEmpty a n = false ∧
    (t.slot s.cur) = { me s with pc := (me s).pc + 4 }
/-- R291: the value an atomic leaves on w bits. -/
def amoNew (k : AmoKind) (w : Nat) (old src cmp : BitVec w) : BitVec w :=
  match k with
  | .add => old + src | .and => old &&& src | .or => old ||| src | .xor => old ^^^ src
  | .min => if old.toInt ≤ src.toInt then old else src | .max => if old.toInt ≤ src.toInt then src else old
  | .minu => if old.toNat ≤ src.toNat then old else src | .maxu => if old.toNat ≤ src.toNat then src else old
  | .swp => src | .cas => if old = cmp then src else old
/-- R291: the atomics. -/
def atomics : List ((Amo → Instr) × AmoKind) :=
  [ (.amoadd, .add), (.amoand, .and), (.amoor, .or), (.amoxor, .xor), (.amomin, .min), (.amomax, .max),
    (.amominu, .minu), (.amomaxu, .maxu), (.amoswp, .swp), (.amocas, .cas) ]

end Sys2Proof.Claims

/-- 09 R247, 10 R272: CRRD writes a readable control register's value to g[d]. 10 R272, R273: CRWR, CRSET and CRCLR
combine, write the register as its row of R273 says, and leave the old value in g[d]. 10 R274: FSSET of a valid descriptor
swaps it into fs[N]; an invalid one takes the illegal-instruction trap with tval the descriptor; FSRD reads fs[N]. -/
def Obligations.ControlAndFormatRegisters : Prop :=
  (∀ (s : State) (d cr : Fin 32), cr.val < 15 → crAllowed s cr →
     exec (.crrd d cr) s = writesG s d (crValue s cr)) ∧
  (∀ p ∈ crOps, ∀ (s : State) (o : CrW), o.cr.val < 8 → crAllowed s o.cr → full s [(.g, o.a)] →
     let old := crValue s o.cr
     let new := p.2 old ((me s).rg o.a)
     ((o.cr.val = 6 → fmodeTakes new) →
       exec (p.1 o) s = goesOn s { (crWritten (me s) o.cr new).wg o.d old with pc := (me s).pc + 4 }) ∧
     (plain s → o.cr.val = 6 → ¬fmodeTakes new → exec (p.1 o) s = trapped s 1 new)) ∧
  (∀ s : State,
     (∀ o : FsW, full s [(.g, o.a)] →
       (fsValid ((me s).rg o.a).toNat = true →
         exec (.fsset o) s =
           goesOn s { ((me s).wfs o.fs ((me s).rg o.a)).wg o.d ((me s).rfs o.fs) with pc := (me s).pc + 4 }) ∧
       (plain s → fsValid ((me s).rg o.a).toNat = false → exec (.fsset o) s = trapped s 1 ((me s).rg o.a))) ∧
     (∀ (d : Fin 32) (fs : Fin 4), exec (.fsrd d fs) s = writesG s d ((me s).rfs fs)))

/-- 09 R238 step 3, R247: in user mode a system-only instruction, and any access to control registers 0 to 4, takes the
privileged-instruction trap with tval the instruction word. -/
def Obligations.PrivilegedInUserMode : Prop :=
  ∀ (s : State) (i : Instr) (w : Nat), plain s → (me s).mode = .user → i.wf = true → encode i = some w →
    (i = .tret ∨ i = .halt ∨ (∃ o, i = .sgset o) ∨ (∃ d cr, i = .crrd d cr ∧ cr.val < 5) ∨
      ∃ o : CrW, o.cr.val < 5 ∧ (i = .crwr o ∨ i = .crset o ∨ i = .crclr o)) →
    exec i s = trapped s 2 (BitVec.ofNat 64 w)

/-- 10 R275, 16 R405: TRAP takes an exact trap with the software-trap cause and tval g[a]: the PC and mode saved, system
mode entered at tvec, in either mode. An EMPTY g[a] blocks the slot or takes the empty-source trap. 16 R405, R406: what a
trap leaves in tstat, bit by bit: RPC from the resume PC, DOVF kept, DEF as the trap is deferred, NEST kept or set by a
trap in a handler, INH set, PMODE the mode before, the reserved bits zero. -/
def Obligations.SoftwareTrapEntry : Prop :=
  (∀ (s : State) (o : Ra),
     waitsFor s (.trap o) o.a o.qa ∧
     (plain s → full s [(.g, o.a)] → exec (.trap o) s = trapped s 20 ((me s).rg o.a))) ∧
  (∀ (x : Slot) (rpc : Word) (deferred : Bool),
     let t := x.trapStat rpc deferred
     (∀ k, k < 46 → t.getLsbD (18 + k) = rpc.getLsbD (2 + k)) ∧
     (∀ k, 10 ≤ k → k ≤ 17 → t.getLsbD k = false) ∧
     t.getLsbD 9 = x.tstat.getLsbD 9 ∧ t.getLsbD 8 = deferred ∧
     t.getLsbD 7 = (x.tstat.getLsbD 7 || x.tstat.getLsbD 6) ∧ t.getLsbD 6 = true ∧
     (∀ k, 1 ≤ k → k ≤ 5 → t.getLsbD k = false) ∧
     t.getLsbD 0 = decide (x.mode = .system))

/-- 10 R276, 16 R406, R409: TRET in system mode goes to tpc in the mode of PMODE with INH cleared; a pre-emption held
until then parks the slot. 10 R277, R278: HALT in system mode and BREAK stop the slot as HALTED; BREAK fills tpc, tcause
and tval and saves the mode in PMODE, the rest of tstat kept, without entering a handler; each is told to the host as an
event (17 R430), and memory and the other slots stay. -/
def Obligations.TrapReturnHaltAndBreak : Prop :=
  (∀ s : State, (me s).status = .ready → (me s).mode = .system → (∀ l ∈ (me s).task, s.killedOf l = false) →
     let x := { me s with pc := (me s).tpc, mode := if (me s).tstat.getLsbD 0 then .system else .user,
                          tstat := (me s).tstat &&& ~~~(0x40 : Word) }
     ((me s).preempt = false → exec .tret s = goesOn s x) ∧
     ((me s).preempt = true → ∃ t, exec .tret s = .next t ∧ t.slot s.cur = { x with status := .parked, preempt := false } ∧
       t.mem = s.mem ∧ ∀ u, u ≠ s.cur → t.slot u = s.slot u)) ∧
  (∀ s : State, s.lost = 0 → s.events.length < 256 →
     ((me s).mode = .system → (∀ l ∈ (me s).task, s.killedOf l = false) →
       ∃ t, exec .halt s = .next t ∧ t.slot s.cur = { me s with status := .halted, preempt := false } ∧
         t.events = s.events ++ [⟨s.eventNo, 0x101, natLe s.cur 8 ++ natLe (me s).pc.toNat 8⟩] ∧
         t.mem = s.mem ∧ ∀ u, u ≠ s.cur → t.slot u = s.slot u) ∧
     (∀ o : Ra, plain s → full s [(.g, o.a)] → (∀ l ∈ (me s).task, s.killedOf l = false) →
       ∃ t, exec (.break o) s = .next t ∧
         t.slot s.cur = { me s with
           tpc := (me s).pc &&& ~~~(3 : Word), tcause := 21, tval := (me s).rg o.a,
           tstat := ((me s).tstat &&& ~~~(1 : Word)) ||| (if (me s).mode = .system then 1 else 0),
           status := .halted, preempt := false } ∧
         t.events = s.events ++
           [⟨s.eventNo, 0x102, natLe s.cur 8 ++ natLe (me s).pc.toNat 8 ++ natLe ((me s).rg o.a).toNat 8⟩] ∧
         t.mem = s.mem ∧ ∀ u, u ≠ s.cur → t.slot u = s.slot u))

/-- 09 R246, 01 R15, 02 R60, 16 R409: the traps taken at issue. An illegal word traps with tval the word; a failed fetch
with the PC or the word's address; a held deferred trap is taken with DEF set; a pre-empted user-mode slot parks, a
system-mode one keeps the request. -/
def Obligations.IssueTimeTraps : Prop :=
  ∀ s : State,
    (plain s →
      (∀ w : Word32, exec (.illegalInstruction w) s = trapped s 1 (w.setWidth 64)) ∧
      (∀ v : Word, exec (.fetchTrap false v) s = trapped s 4 v ∧ exec (.fetchTrap true v) s = trapped s 7 v)) ∧
    (∀ (t : Nat) (h : HeldTrap), (s.slot t).deferred = some h →
      exec (.deferredTrap t) s = .next (s.setSlot t { s.slot t with
        tpc := h.tpc &&& ~~~(3 : Word), tcause := BitVec.ofNat 64 h.cause, tval := h.tval,
        tstat := (s.slot t).trapStat (s.slot t).pc true, mode := .system, pc := (s.slot t).tvec, status := .ready,
        deferred := none, relFrom := none, relWaits := [], fetched := none })) ∧
    (∀ t : Nat, s.specOf (s.slot t).lidN = none → ((s.slot t).status = .ready ∨ ∃ b, (s.slot t).status = .blocked b) →
      ((s.slot t).mode = .user → ∃ u, exec (.preemption t) s = .next u ∧
        u.slot t = { s.slot t with status := .parked, relFrom := none, fetched := none } ∧
        u.mem = s.mem ∧ ∀ v, v ≠ t → u.slot v = s.slot v) ∧
      ((s.slot t).mode = .system → exec (.preemption t) s = .next (s.setSlot t { s.slot t with preempt := true })))

/-- 01 R13: the checks of an access in their order: alignment, rights, limit. 11 R282: a failed check is an exact trap of
the load or store with its cause and value, before any access. -/
def Obligations.AccessChecks : Prop :=
  (∀ (s : State) (t : Nat) (r : Req), r.il = 0 → r.scratch = false →
     let va := (r.desc.base.toNat + r.off) % 2 ^ 64
     (va % r.align ≠ 0 → s.check t r = .error (3, r.off)) ∧
     (va % r.align = 0 → r.desc.has r.need = false → s.check t r = .error (4, r.off)) ∧
     (va % r.align = 0 → r.desc.has r.need = true → r.desc.limit < r.off + r.size → s.check t r = .error (4, r.off)) ∧
     (va % r.align = 0 → r.desc.has r.need = true → r.off + r.size ≤ r.desc.limit → r.desc.chip = false →
       s.check t r = .ok [⟨.glob (s.asidOf (s.slot t).lidN) va, r.size, 0, .new⟩])) ∧
  (∀ (s : State) (c v : Nat), plain s →
     (∀ (z : LdSize) (o : MLd), memReady s o.mem [] → s.check s.cur (loadReq s o.mem (LdSizeBytes z) 1 false) = .error (c, v) →
       exec (.ld z o) s = trapped s c (BitVec.ofNat 64 v)) ∧
     (∀ (z : Size) (o : MSt), memReady s o.mem [(.g, o.t)] →
       s.check s.cur (storeReq s o.mem (sizeBytes z) (((me s).rg o.t).toNat % 2 ^ (8 * sizeBytes z)) false) = .error (c, v) →
       exec (.st z o) s = trapped s c (BitVec.ofNat 64 v)))

/-- 11 R283, R284, R286, R287, R288: a load from the windows of its own core writes the little-endian number it reads,
extended as its size says, to its destination before the next phase; LDE and VLDE also leave the granules EMPTY, TSTF
writes the full bit of its granule. Memory keeps every byte. 11 R287, 03 R73: a waiting load that meets an EMPTY granule
of its own scratchpad blocks the slot until one of the granules it touches becomes FULL, and changes nothing else. 11
R289: VLDI from the windows of its own core gives each active lane its element, and keeps the other lanes. -/
def Obligations.OwnScratchpadLoads : Prop :=
  (∀ (s : State) (a : Nat) (o : MLd) (x : Xop), (me s).status = .ready →
     (∀ n, chipBytes a = true → s.readChip a n = bytesAt s a n) ∧
     (∀ L ∈ plainLoads s o x, L.ready → ownBytes s L.req a L.req.size true false →
       exec L.i s = goesOn s { L.got (me s) (s.readChip a L.req.size) with pc := (me s).pc + 4 }) ∧
     (∀ L ∈ waitingLoads s o, L.1.ready → s.anyEmpty a L.1.req.size = false →
       let x := { L.1.got (me s) (s.readChip a L.1.req.size) with pc := (me s).pc + 4 }
       (L.2 = false → ownBytes s L.1.req a L.1.req.size true false → exec L.1.i s = goesOn s x) ∧
       (L.2 = true → plain s → ownBytes s L.1.req a L.1.req.size true true →
         ∃ t, exec L.1.i s = .next t ∧ t.mem = s.mem ∧ t.anyEmpty a L.1.req.size = true ∧ t.slots = (s.setSlot s.cur x).slots)) ∧
     ((testLoad s o).ready → ownBytes s (testLoad s o).req a 16 true false →
       exec (.tstf o) s = goesOn s { (testLoad s o).got (me s) (if s.anyEmpty a 16 then 0 else 1) with pc := (me s).pc + 4 })) ∧
  (∀ (s : State) (a : Nat) (o : MLd), ∀ L ∈ waitingLoads s o, L.1.ready → s.anyEmpty a L.1.req.size = true →
     ownBytes s L.1.req a L.1.req.size true L.2 →
     ∃ keys, (∀ k, k ∈ keys ↔ chipKey a / 16 ≤ k ∧ k ≤ (chipKey a + L.1.req.size - 1) / 16) ∧
       exec L.1.i s = goesOn s { me s with status := .blocked (.granule keys) }) ∧
  (∀ (s : State) (o : Vix) (ps : List Piece), (me s).status = .ready →
     full s [(.v, o.a), (.m, o.m)] → mapGet false (me s).sgPend o.seg = false → o.ty.idxOk = true →
     s.checkLanes o.seg o.ty ((me s).rv o.a) 0 false (activeLanes o.ty ((me s).rm o.m)) = .ok ps →
     ps.all (ownPipe (coreOf s.cur)) = true → s.ownBehind s.cur ps true false = false →
     (∀ p ∈ ps, ∀ b, p.place = .chip b → unlogged s b ∧ chipBytes b = true ∧ s.poisoned (chipKey b) p.len = false) →
     ∃ y : VWord, exec (.vldi o) s = goesOn s { (me s).wv o.d y with pc := (me s).pc + 4 } ∧
       ∀ k, k < 512 / elemW o.ty →
         (active s o.m k = false → el y (elemW o.ty) k = el ((me s).rv o.d) (elemW o.ty) k) ∧
         (active s o.m k = true → ∃ p ∈ ps, ∃ b, p.place = .chip b ∧ p.pos = k * elemBytes o.ty ∧
           el y (elemW o.ty) k = BitVec.ofNat (elemW o.ty) (bytesAt s b (elemBytes o.ty))))

/-- 11 R283, R285, R286, R288: a store to the own scratchpad writes exactly its bytes, little-endian, at the address its
operand gives. 11 R287, R288, 03 R71: STF and VSTF store and set the granules FULL; SETF and SETE change the granule and
no byte. 11 R289: VSTI to the own scratchpad stores its active lanes in ascending order, so the last one stands whole, and
leaves every byte outside the lanes' places alone; no register changes. -/
def Obligations.OwnScratchpadStores : Prop :=
  (∀ (s : State) (a : Nat) (o : MSt) (x : Xop), plain s → chipWin a = 0 → ∀ F ∈ plainStores s o x, F.ready →
     ownBytes s F.req a F.req.size false true → stores s a F.req.size F.data (exec F.i s)) ∧
  (∀ (s : State) (a : Nat), plain s → (me s).status = .ready → canonical s → chipWin a = 0 →
     (∀ (o : MSt), (s.core (coreOf s.cur)).remoteWait = [] → ∀ F ∈ fillingStores s o, F.ready →
       ownBytes s F.req a F.req.size false true →
       storesFull s a F.req.size (writeLe s.mem (chipKey a) F.req.size F.data) (exec F.i s)) ∧
     (∀ (o : MemOp), memReady s o [] → ownBytes s (storeReq s o 16 0 true) a 16 false true →
       ((s.core (coreOf s.cur)).remoteWait = [] → storesFull s a 16 s.mem (exec (.setf o) s)) ∧
       ∃ t, exec (.sete o) s = .next t ∧ t.mem = s.mem ∧ t.anyEmpty a 16 = true ∧
         t.slots = (s.setSlot s.cur { me s with pc := (me s).pc + 4 }).slots)) ∧
  (∀ (s : State) (o : Vix) (ps : List Piece), plain s → o.ty.idxOk = true → (activeLanes o.ty ((me s).rm o.m)).length + (me s).sbcnt ≤ 32 →
     full s [(.v, o.d), (.v, o.a), (.m, o.m)] → mapGet false (me s).sgPend o.seg = false →
     s.checkLanes o.seg o.ty ((me s).rv o.a) ((me s).rv o.d) true (activeLanes o.ty ((me s).rm o.m)) = .ok ps →
     ps.all (ownPipe (coreOf s.cur)) = true → s.ownBehind s.cur ps false true = false →
     (∀ p ∈ ps, ∀ b, p.place = .chip b → unlogged s b ∧ chipWin b = 0) → s.poison = [] →
     ∃ t, exec (.vsti o) s = .next t ∧
       t.slots = (s.setSlot s.cur { me s with pc := (me s).pc + 4 }).slots ∧
       (∀ c, (∀ p ∈ ps, ∀ b, p.place = .chip b → c < chipKey b ∨ chipKey b + p.len ≤ c) →
         readByte t.mem c = readByte s.mem c) ∧
       (∀ p b, ps.getLast? = some p → p.place = .chip b → s.mem.wf = true →
         readLe t.mem (chipKey b) p.len = ((me s).rv o.d).toNat / 2 ^ (8 * p.pos) % 2 ^ (8 * p.len)))

/-- 11 R283, R289, 03 R69: a load that leaves the core sets its destination EMPTY, its bits kept, advances the PC, and is
on its way with its pieces; memory and every other slot stay as they were. 11 R283, R285, R289, 02 R59: a store that
leaves the core is counted in sbcnt and enters the store buffer, or is already on its way, with a ticket of its own; no
byte of memory and no other slot changes. VSTI counts each active lane. With the 32 of the allowance in use the slot is
BLOCKED and the instruction issues again. -/
def Obligations.RemoteLoadsLeaveDestinationEmpty : Prop :=
  (∀ (s : State) (o : MLd) (x : Xop) (y : Vix) (ps : List Piece),
     let sent := fun (r : Res) (u : Slot) => ∃ t f, r = .next t ∧ t.mem = s.mem ∧ t.grans = s.grans ∧
       t.slots = (s.setSlot s.cur { u with pc := (me s).pc + 4 }).slots ∧ f ∈ t.flights ∧ f.thr = s.cur ∧ f.pc = (me s).pc ∧
       f.pieces.map (fun p => (p.place, p.len, p.pos)) = ps.map (fun p => (p.place, p.len, p.pos))
     (∀ L, L ∈ plainLoads s o x ∨ (∃ c, (L, c) ∈ waitingLoads s o) ∨ L = testLoad s o → L.ready → awayFrom s L.req ps →
       sent (exec L.i s) (L.sent (me s))) ∧
     (full s [(.v, y.a), (.m, y.m)] → mapGet false (me s).sgPend y.seg = false →
       s.checkLanes y.seg y.ty ((me s).rv y.a) 0 false (activeLanes y.ty ((me s).rm y.m)) = .ok ps →
       ps.all (ownPipe (coreOf s.cur)) = false → sent (exec (.vldi y) s) ((me s).ev y.d))) ∧
  (∀ (s : State) (o : MSt) (m : MemOp) (x : Xop) (y : Vix) (ps : List Piece),
     let kept := fun (t : State) (n : Nat) => t.mem = s.mem ∧ t.grans = s.grans ∧
       t.slots = (s.setSlot s.cur { me s with sbcnt := (me s).sbcnt + n, pc := (me s).pc + 4 }).slots
     let under := fun (t : State) (id : Nat) => (∃ e ∈ (t.core (coreOf s.cur)).sb, id ∈ e.ids) ∨
       ∃ f ∈ t.flights, ∃ d k fi g ids v, f.kind = .store d k fi g ids v ∧ id ∈ ids
     (∀ F, F ∈ plainStores s o x ∨ F ∈ fillingStores s o ∨ F ∈ granuleStores s m → F.ready → awayFrom s F.req ps →
       ((me s).sbcnt < 32 → F.released s → ∃ t, exec F.i s = .next t ∧ kept t 1 ∧ under t s.nextId) ∧
       (32 ≤ (me s).sbcnt → exec F.i s = goesOn s { me s with status := .blocked .allowance })) ∧
     (full s [(.v, y.d), (.v, y.a), (.m, y.m)] → mapGet false (me s).sgPend y.seg = false →
       s.checkLanes y.seg y.ty ((me s).rv y.a) ((me s).rv y.d) true (activeLanes y.ty ((me s).rm y.m)) = .ok ps →
       ps.all (fun p => !ownPipe (coreOf s.cur) p) = true → (activeLanes y.ty ((me s).rm y.m)).length + (me s).sbcnt ≤ 32 →
       ∃ t, exec (.vsti y) s = .next t ∧ kept t ps.length))

/-- 11 R290, R291: an atomic on the own scratchpad reads the old value into g[d], sign-extended from its width, and leaves
its operation's result at the location; AMOCAS writes only when the old value equals g[d]. Every other byte keeps. An
atomic that leaves the core is counted in sbcnt with g[d] EMPTY and is on its way; one with an acquire holds its slot
until it returns. -/
def Obligations.OwnScratchpadAtomics : Prop :=
  ∀ p ∈ atomics, ∀ (s : State) (o : Amo) (a : Nat), (me s).status = .ready →
    full s [(.g, o.a), (.g, o.b)] → (p.2 = .cas → full s [(.g, o.d)]) → mapGet false (me s).sgPend o.seg = false →
    let n := if o.wd then 8 else 4
    let r : Req := { desc := s.segment s.cur o.seg, off := ((me s).rg o.a).toNat, size := n, align := n, need := 8, use := .atomic }
    (plain s → chipWin a = 0 → ownBytes s r a n true true →
      let old := BitVec.ofNat (8 * n) (bytesAt s a n)
      let new := amoNew p.2 (8 * n) old (((me s).rg o.b).setWidth _) (((me s).rg o.d).setWidth _)
      ∃ t, exec (p.1 o) s = .next t ∧
        (s.mem.wf = true → readLe t.mem (chipKey a) n = new.toNat) ∧
        (∀ c, c < chipKey a ∨ chipKey a + n ≤ c → readByte t.mem c = readByte s.mem c) ∧
        t.slots = (s.setSlot s.cur { (me s).wg o.d (old.signExtend 64) with pc := (me s).pc + 4 }).slots) ∧
    (∀ q, awayFrom s r [q] → (me s).sbcnt < 32 → (o.rel = true → quiet s) →
      let x := { (me s).eg o.d with sbcnt := (me s).sbcnt + 1, pc := (me s).pc + 4 }
      ∃ t f, exec (p.1 o) s = .next t ∧ t.mem = s.mem ∧ f ∈ t.flights ∧ f.thr = s.cur ∧ f.pieces = [q] ∧
        f.kind = .atomic p.2 o.wd ((me s).rg o.b) ((me s).rg o.d) o.d o.acq ∧
        t.slots = (s.setSlot s.cur (if o.acq then
          { x with acqReg := some (o.d, f.id, if ((me s).gReg o.d).empty then 1 else 0), status := .blocked .release }
          else x)).slots)

/-- 05 R141, R143, 11 R293-R296: a fence at core or thread scope is free; an acquire up to cluster scope changes nothing;
a DRAIN with nothing outstanding goes on; ISYNC empties the core's instruction cache; FENCER acquires its range. 01 R16,
R17, 11 R298-R300: SGSET in system mode loads a descriptor whose reserved bits are zero; SGNARROW derives one with no more
rights and no wider range (its BASE modulo 2^64, log 56), and traps otherwise; SGRD and SGCPY read and copy. -/
def Obligations.FencesAndSegments : Prop :=
  (∀ s : State,
     (∀ (k : FenceKind) (sc : Scope), sc = .thread ∨ sc = .core ∨ (k = .acq ∧ sc = .cluster) →
       exec (.fence k sc) s = goesOn s { me s with pc := (me s).pc + 4 }) ∧
     (∀ sc : Scope, ∃ t, exec (.fence .acq sc) s = .next t ∧ t.mem = s.mem ∧
       t.slots = (s.setSlot s.cur { me s with pc := (me s).pc + 4 }).slots) ∧
     (quiet s → ∀ (k : FenceKind) (sc : Scope), k ≠ .acq → ∃ t, exec (.fence k sc) s = .next t ∧ t.mem = s.mem ∧
         t.slot s.cur = { me s with pc := (me s).pc + 4 }) ∧
     ((me s).sbcnt = 0 → (∀ e ∈ (s.core (coreOf s.cur)).sb, e.thr ≠ s.cur) → (∀ f ∈ s.flights, f.owner = s.cur → f.access = false) →
       exec .drain s = goesOn s { me s with pc := (me s).pc + 4 }) ∧
     (∃ t, exec .isync s = .next t ∧ t.mem = s.mem ∧
       t.cores = (s.modCore (coreOf s.cur) fun c =>
         { c with icache := [], ifills := c.ifills.map fun f => { f with install := false } }).cores ∧
       t.slots = (s.setSlot s.cur { me s with pc := (me s).pc + 4, fetched := none }).slots) ∧
     (∀ (sc : Scope) (o : Rab), sc.rangeOk = true → full s [(.g, o.a), (.g, o.b)] →
       let b := ((me s).rg o.b).toNat
       let d := s.segment s.cur (b / 2 ^ 61 % 8)
       mapGet false (me s).sgPend (b / 2 ^ 61 % 8) = false → b / 2 ^ 48 % 2 ^ 13 = 0 → d.chip = false → d.has 1 = true →
       ((me s).rg o.a).toNat + b % 2 ^ 48 ≤ d.limit →
       exec (.fencer sc o) s = .next ((s.acquireRange (clusterOf s.cur) (s.asidOf (me s).lidN)
         ((d.base + (me s).rg o.a).toNat) (b % 2 ^ 48)).finish id))) ∧
  (∀ s : State,
     (∀ o : Sgw, full s [(.g, o.a), (.g, o.b)] → mapGet false (me s).sgPend o.sd = false →
       ((me s).mode = .system → ((me s).rg o.b).extractLsb' 54 2 = 0 →
         exec (.sgset o) s = goesOn s { (me s).wsg o.sd ⟨(me s).rg o.a, (me s).rg o.b⟩ with pc := (me s).pc + 4 }) ∧
       (let src := (me s).rsg (((me s).rg o.b).toNat / 2 ^ 61)
        let lim := ((me s).rg o.b).toNat % 2 ^ 48
        let rights := ((me s).rg o.b).toNat / 2 ^ 48 % 32
        let fits := ((me s).rg o.b).extractLsb' 53 8 = 0 ∧ ((me s).rg o.a).toNat + lim ≤ src.limit ∧ src.has rights = true
        mapGet false (me s).sgPend (((me s).rg o.b).toNat / 2 ^ 61) = false →
        (fits → ∃ d : Desc, d.base = src.base + (me s).rg o.a ∧ d.limit = lim ∧ d.rights = rights ∧ d.chip = src.chip ∧
           d.sel = 0xFF ∧ exec (.sgnarrow o) s = goesOn s { (me s).wsg o.sd d with pc := (me s).pc + 4 }) ∧
        (plain s → ¬fits → exec (.sgnarrow o) s = trapped s 4 ((me s).rg o.a)))) ∧
     (∀ (d : Fin 32) (sg : Fin 8) (hi : Bool), mapGet false (me s).sgPend sg = false →
       exec (.sgrd d sg hi) s = writesG s d (if hi then ((me s).rsg sg).w1 else ((me s).rsg sg).base)) ∧
     (∀ sd sg : Fin 8, mapGet false (me s).sgPend sg = false → mapGet false (me s).sgPend sd = false →
       exec (.sgcpy sd sg) s = goesOn s { (me s).wsg sd ((me s).rsg sg) with pc := (me s).pc + 4 }))

namespace Sys2Proof.Claims

/-! ### Messages, tasks and join counters -/

/-- Of the threads and of memory, only the issuing slot changes, to `x`. -/
def becomes (s : State) (x : Slot) (t : State) : Prop :=
  t.slots = (s.setSlot s.cur x).slots ∧ t.mem = s.mem ∧ t.grans = s.grans
/-- The issuing slot goes on as `x`, and one operation of it is sent: it is on its way with its own ticket, and `e` follows
after its latency (log 3). -/
def sends (s : State) (x : Slot) (k : FlightKind) (e : Nat → Ev) (r : Res) : Prop :=
  ∃ t f, r = .next t ∧ becomes s x t ∧ t.flights = s.flights ++ [f] ∧ f.id = s.nextId ∧ f.thr = s.cur ∧ f.pc = (me s).pc ∧
    f.kind = k ∧ (s.cycle + Config.latency s.nextId, e s.nextId) ∈ t.agenda
/-- Transaction `f` is the next of its packets to reach its destination (03 R98), and its thread's launch runs live on the
thread's cluster and as no speculation. -/
def reaching (s : State) (id : Nat) (f : Flight) : Prop :=
  canonical s ∧ s.flight id = some f ∧ f.orphan = false ∧ s.specOf f.lid = none ∧ s.whereIs f.lid (clusterOf f.owner) = .live ∧
    ∀ d ∈ f.kind.heading, s.behindPacket f d = false
/-- The transactions on their way without the one of a ticket. -/
def others (s : State) (id : Nat) : List Flight := s.flights.filter fun g => g.id ≠ id
/-- R301: word 0 of a thread message. -/
def messageWord (s : State) (scope tag : Nat) : Word :=
  BitVec.ofNat 64 ((if (me s).fmode.getLsbD 3 then 2 ^ 59 else 0) + scope * 2 ^ 56 + (me s).lid.toNat % 4096 * 2 ^ 44 +
    tag * 2 ^ 28 + s.cur % 2 ^ 15)
/-- 05 R144: the code of the pair scope of two threads. -/
def pairCode (a b : Nat) : Nat :=
  if a = b then 0 else if a / 16 = b / 16 then 1 else if a / 128 = b / 128 then 2 else if a / 8192 = b / 8192 then 3 else 4
/-- R303: a message matches a launch and, where one is named, a tag. -/
def matchesMsg (lid : Nat) (tag : Option Nat) (m : MailEntry) : Prop :=
  m.w0.toNat / 2 ^ 44 % 4096 = lid ∧ ∀ n ∈ tag, m.w0.toNat / 2 ^ 28 % 65536 = n
/-- R303: what a receive does with the oldest message `m` that matches; `pre` and `post` are the others. -/
def received (s : State) (d : Fin 32) (m : MailEntry) (rest : List MailEntry) (r : Res) : Prop :=
  ∃ t, r = .next t ∧ becomes s { ((me s).wg d m.payload).wg (d.val + 1) m.w0 with mail := rest, pc := (me s).pc + 4 } t
/-- R330: the frame at FR of sg2 passes the checks. -/
def frameOk (s : State) (fr : Word) : Prop :=
  let d := s.segment s.cur 2
  (d.base + fr).toNat % 256 = 0 ∧ d.chip = false ∧ d.has 3 = true ∧ fr.toNat + 64 ≤ d.limit
/-- The virtual address of the frame at `fr`. -/
def frameVa (s : State) (fr : Word) : Nat := ((s.segment s.cur 2).base + fr).toNat
/-- R335: the store that leaves RPC, the selectors and word 56 in the frame. -/
def headerStored (s : State) (rpc : Word) (f : Flight) : Prop :=
  ∃ data ids, f.kind = .store data 0xFFFF0000000000FF none false ids (frameVa s (me s).fr) ∧
    f.pieces = [⟨.glob (s.asidOf (me s).lidN) (frameVa s (me s).fr), 64, 0, .new⟩] ∧
    data.extractLsb' 0 64 = rpc ∧ (∀ n, n < 8 → data.extractLsb' (384 + 8 * n) 8 = BitVec.ofNat 8 ((me s).rsg n).sel) ∧
    data.extractLsb' 448 32 = (me s).fmode.extractLsb' 0 32 ∧ data.extractLsb' 480 32 = (me s).rseed.extractLsb' 0 32
/-- The counter word at an on-chip address. -/
def counterWord (s : State) (a : Nat) : Nat := readLe s.mem (chipKey a) 8
/-- The number of work ids of the thread's launch. -/
def workIds (s : State) : Nat := match s.launch (me s).lidN with | some l => l.hdr.count | none => 0

end Sys2Proof.Claims

/-- 11 R302: MSEND and MSENDT to a slot of the partition send the sender's word under its tag, and count one message not
yet accepted; a target outside the partition mask, or a reserved bit, is the chip-map fault. -/
def Obligations.MessageSending : Prop :=
  ∀ (s : State) (o : Rab) (tagged : Bool), full s [(.g, o.a), (.g, o.b)] →
    let a := ((me s).rg o.a).toNat
    let i := if tagged then Instr.msendt o else Instr.msend o
    let ok := a < 2 ^ 32 ∧ a / 2 ^ 15 % 2 = 0 ∧ (tagged = false → a / 2 ^ 16 % 2 ^ 16 = 0) ∧
      s.inPart (coreOf s.cur) (clusterOf (a % 2 ^ 15)) = true
    (ok → quiet s → s.specOf (me s).lidN = none → (me s).unaccepted < 4 →
      sends s { me s with unaccepted := (me s).unaccepted + 1, pc := (me s).pc + 4 }
        (.message ⟨a % 2 ^ 15, ⟨messageWord s (pairCode s.cur (a % 2 ^ 15)) (a / 2 ^ 16 % 2 ^ 16), (me s).rg o.b, 0, 0⟩,
          s.cur, true⟩) .messageArrival (exec i s)) ∧
    (ok → 4 ≤ (me s).unaccepted → exec i s = .next s) ∧
    (plain s → ¬ok → exec i s = trapped s 5 ((me s).rg o.a))

/-- 11 R303, R304: a receive takes the oldest message that matches, or stays pending with both registers EMPTY; with the
other SATINF it is the format-mode trap. WAITM writes its count once it is reached, MCNT at once. 11 R302: a message that
reaches a mailbox with room joins its tail and is accepted, at its first arrival or sent again; a full mailbox answers
with a retry, 64 cycles later. -/
def Obligations.MessageReceivingAndDelivery : Prop :=
  (∀ s : State,
     (∀ (i : Instr) (d : Fin 32) (tag : Option Nat), (me s).recv = none → d.val % 2 = 0 →
       ((i = .mrecv d ∧ tag = none) ∨
         ∃ o : Rr, i = .mrecvt o ∧ o.d = d ∧ full s [(.g, o.a)] ∧ tag = some (((me s).rg o.a).toNat % 65536)) →
       (∀ (pre post : List MailEntry) (m : MailEntry), (me s).mail = pre ++ m :: post →
         (∀ k ∈ pre, ¬matchesMsg (me s).lidN tag k) → matchesMsg (me s).lidN tag m →
         (m.w0.getLsbD 59 = (me s).fmode.getLsbD 3 → received s d m (pre ++ post) (exec i s)) ∧
         (plain s → m.w0.getLsbD 59 ≠ (me s).fmode.getLsbD 3 → exec i s = trapped s 19 m.w0)) ∧
       ((∀ k ∈ (me s).mail, ¬matchesMsg (me s).lidN tag k) →
         exec i s = goesOn s { ((me s).eg d).eg (d.val + 1) with
           recv := some ⟨d, tag, (me s).fmode.getLsbD 3, (me s).pc⟩, pc := (me s).pc + 4 })) ∧
     (∀ n : Nat, ((me s).mail.filter fun m => m.w0.toNat / 2 ^ 44 % 4096 = (me s).lidN).length = n →
       (∀ o : Rr, full s [(.g, o.a)] → (me s).waitm = [] → (me s).status = .ready →
         exec (.waitm o) s = if min ((me s).rg o.a).toNat 8 ≤ n then writesG s o.d (BitVec.ofNat 64 n)
           else goesOn s { (me s).eg o.d with waitm := [⟨o.d, min ((me s).rg o.a).toNat 8⟩], pc := (me s).pc + 4 }) ∧
       ∀ d : Fin 32, exec (.mcnt d) s = writesG s d (BitVec.ofNat 64 n))) ∧
  (∀ (s : State) (id : Nat) (f : Flight) (m : Msg), reaching s id f → f.kind = .message m → m.counted = true →
     (∀ g ∈ s.flights, g.id < id → ∀ k, g.kind = .message k → f.sameSender m g k = false ∨ k.target ≠ m.target) →
     (s.core (coreOf m.target)).forward = [] → s.whereIs m.entry.ctx (clusterOf m.target) = .live →
     (s.slot m.target).recv = none → (s.slot m.target).waitm = [] →
     (∀ i, i = .messageArrival id ∨ i = .messageRetry id →
       ((s.cluster (clusterOf m.target)).replay = [] → (s.slot m.target).mail.length < 8 →
         ∃ t, exec i s = .next t ∧ t.mem = s.mem ∧ t.flights = others s id ∧
           t.slots = ((s.modSlot m.target fun x => { x with mail := x.mail ++ [m.entry] }).modSlot f.owner fun x =>
             { x with unaccepted := x.unaccepted - 1 }).slots) ∧
       ((s.slot m.target).mail.length = 8 →
         ∃ t, exec i s = .next t ∧ t.mem = s.mem ∧ t.slots = s.slots ∧ (s.cycle + 64, Ev.messageRetry id) ∈ t.agenda)))

/-- 13 R333, R334: JNEW and JFREE are sent to the cluster as atomics counted in sbcnt; PUBLISH stores the counter's
address in the frame and takes frame and counter for the thread. A counter operand that names none is the task-operand
fault. -/
def Obligations.CounterInstructions : Prop :=
  ∀ s : State,
    ((me s).sbcnt < 32 → ∀ d : Fin 32,
      sends s { (me s).eg d with sbcnt := (me s).sbcnt + 1, pc := (me s).pc + 4 } (.jnew d) .loadCompletion (exec (.jnew d) s)) ∧
    (∀ (a : Nat), (counterAddr a = true ↔ a < 2 ^ 40 ∧ a / 2 ^ 31 % 2 = 1 ∧ a / 2 ^ 28 % 8 = 0 ∧ a / 2 ^ 24 % 16 = 2 ∧
      a % 2 ^ 24 < 0x10000 ∧ a % 8 = 0)) ∧
    (∀ o : Ra, full s [(.g, o.a)] →
      let a := ((me s).rg o.a).toNat
      let ok := counterAddr a = true ∧ s.inPart (coreOf s.cur) (a / 2 ^ 32) = true
      (ok → (me s).sbcnt < 32 → sends s { me s with sbcnt := (me s).sbcnt + 1, pc := (me s).pc + 4 } (.jfree a)
        .storeAcknowledgement (exec (.jfree o) s)) ∧
      (plain s → ¬ok → exec (.jfree o) s = trapped s 15 ((me s).rg o.a))) ∧
    (∀ o : Rab, full s [(.g, o.a), (.g, o.b)] → (me s).frPend = false → mapGet false (me s).sgPend 2 = false →
      frameOk s ((me s).rg o.a) →
      let j := ((me s).rg o.b).toNat
      let ok := counterAddr j = true ∧ s.inPart (coreOf s.cur) (j / 2 ^ 32) = true
      (ok → (me s).sbcnt < 32 → (s.core (coreOf s.cur)).sb = [] →
        ∃ t, exec (.publish o) s = .next t ∧
          becomes s { me s with sbcnt := (me s).sbcnt + 1, fr := (me s).rg o.a, jc := j, pc := (me s).pc + 4 } t ∧
          ∃ e, (t.core (coreOf s.cur)).sb = [e] ∧ e.thr = s.cur ∧ e.blk = frameVa s ((me s).rg o.a) ∧ e.mask = 0xFF00 ∧
            e.data.extractLsb' 64 64 = (me s).rg o.b) ∧
      (plain s → ¬ok → exec (.publish o) s = trapped s 15 ((me s).rg o.b)))

/-- 13 R335, 07 R193: SPAWN sends the increment of the counter and the header's words, pushes the continuation at the
deque's tail, returns the entry's word and jumps to the child. SPAWNR (13 R336) does the same for a range and goes on. -/
def Obligations.SpawnPushesEntry : Prop :=
  ∀ s : State, quiet s → (me s).frPend = false → frameOk s (me s).fr →
    let k := s.core (coreOf s.cur)
    k.deque.length < 64 →
    (∀ o : Rr, full s [(.g, o.a)] → ((me s).rg o.a).toNat % 4 = 0 →
      ∃ t f g e, exec (.spawn o) s = .next t ∧
        becomes s { (me s).wg o.d (BitVec.ofNat 64 (2 ^ 62 + (me s).jc / 2 ^ 32 * 2 ^ 45 + (me s).jc % 2 ^ 24 / 8 * 2 ^ 32 +
          k.push)) with sbcnt := 4, pc := (me s).rg o.a } t ∧
        t.flights = [f, g] ∧ f.kind = .counterInc (me s).jc 1 ∧ headerStored s ((me s).pc + 4) g ∧
        (t.core (coreOf s.cur)).deque = k.deque ++ [e] ∧ (t.core (coreOf s.cur)).push = (k.push + 1) % 2 ^ 32 ∧
        e.kind = 0 ∧ e.seq = k.push ∧ e.frame.toNat = frameVa s (me s).fr ∧ e.slot = s.cur % 16 ∧
        e.launch = (me s).lidN ∧ e.lo = ((me s).pc + 4).toNat) ∧
    (∀ o : Rrr, full s [(.g, o.d), (.g, o.a), (.g, o.b)] → ((me s).rg o.d).toNat % 4 = 0 →
      let lo := ((me s).rg o.a).toNat
      let hi := ((me s).rg o.b).toNat
      lo < hi → hi ≤ workIds s → hi - lo < 2 ^ 32 →
      ∃ t f g e, exec (.spawnr o) s = .next t ∧ becomes s { me s with sbcnt := 4, pc := (me s).pc + 4 } t ∧
        t.flights = [f, g] ∧ f.kind = .counterInc (me s).jc (hi - lo) ∧ headerStored s ((me s).rg o.d) g ∧
        (t.core (coreOf s.cur)).deque = k.deque ++ [e] ∧ e.kind = 1 ∧ e.frame.toNat = frameVa s (me s).fr ∧
        e.launch = (me s).lidN ∧ e.lo = lo ∧ e.hi = hi)

/-- 13 R337-R341: the instructions that end or suspend a task. RETJ of a lone root retires its launch and of an id task
lowers the counter by 1 + EX, of a continuation still youngest in the deque resumes it in place; SYNC sends its test;
YIELD parks the continuation at the deque's head; IDLE only ends the task; RTAKE takes ordinals of the youngest range. -/
def Obligations.TaskEndings : Prop :=
  ∀ s : State, canonical s → quiet s →
    let k := s.core (coreOf s.cur)
    let ended := fun (t : State) => ∃ y : Slot, t.slots = (s.setSlot s.cur y).slots ∧ y.status = .idle ∧ y.task = none ∧
      y.entry = none ∧ y.g = (me s).g ∧ t.mem = s.mem
    (∃ t, exec .idle s = .next t ∧ ended t ∧ t.flights = []) ∧
    (∀ o : Ra, full s [(.g, o.a)] → (me s).rg o.a = 0 →
      (∀ l, (me s).tk = .root → s.launch (me s).lidN = some l → l.hdr.count ≤ 1 →
        ∃ t, exec (.retj o) s = .next t ∧ ended t ∧ t.launch (me s).lidN = some { l with retired := true } ∧
          (s.cycle, Ev.launchCompletion (me s).lidN) ∈ t.agenda) ∧
      ((me s).tk = .id → ∃ t f, exec (.retj o) s = .next t ∧ ended t ∧ t.flights = [f] ∧
        f.kind = .counterDec (me s).jc (1 + (me s).ex) (decide (clusterOf s.cur ≠ (me s).jc / 2 ^ 32)))) ∧
    (∀ (o : Ra) (e : DqEntry) (rest : List DqEntry), full s [(.g, o.a)] → k.spilled = [] → k.deque = rest ++ [e] →
      e.kind = 0 → e.slot = s.cur % 16 → e.inSteal = false → e.place = none →
      (∀ x ∈ rest, x.seq ≠ e.seq) →
      let w := ((me s).rg o.a).toNat
      w / 2 ^ 53 = 0x200 → w % 2 ^ 32 = e.seq →
      ∃ t f, exec (.retj o) s = .next t ∧ t.slot s.cur = { me s with pc := BitVec.ofNat 64 e.lo } ∧ t.mem = s.mem ∧
        (t.core (coreOf s.cur)).deque = rest ∧ t.flights = [f] ∧
        ∃ out, f.kind = .counterDec (w / 2 ^ 45 % 2 ^ 8 * 2 ^ 32 + 0x82000000 + w / 2 ^ 32 % 2 ^ 13 * 8) 1 out) ∧
    ((me s).frPend = false → frameOk s (me s).fr → ¬((me s).tk = .id ∧ (me s).ex ≠ 0) → k.parked = [] → k.spilled = [] →
      ∃ t f, exec .sync s = .next t ∧ t.flights = [f] ∧ f.kind = .syncTest (me s).jc 0 ∧ t.mem = s.mem ∧
        t.slots = (s.setSlot s.cur { me s with status := .blocked .release, acqReg := some (0, s.nextId, 0) }).slots) ∧
    ((me s).frPend = false → frameOk s (me s).fr → (me s).tk ≠ .id → k.spilled = [] → k.deque.length < 64 →
      ∃ t e f, exec .yield s = .next t ∧ (t.core (coreOf s.cur)).deque = e :: k.deque ∧ e.kind = 0 ∧
        e.frame.toNat = frameVa s (me s).fr ∧ e.lo = ((me s).pc + 4).toNat ∧ t.flights = [f] ∧
        headerStored s ((me s).pc + 4) f ∧ ∃ y : Slot, t.slots = (s.setSlot s.cur y).slots ∧ y.status = .idle) ∧
    (∀ (o : Rr) (e : DqEntry) (rest : List DqEntry), full s [(.g, o.a)] → o.d.val % 2 = 0 → (me s).tk = .id →
      (me s).frPend = false → k.spilled = [] → k.deque = rest ++ [e] → e.inSteal = false → e.place = none →
      e.kind = 1 → e.frame = (s.segment s.cur 2).base + (me s).fr → ((me s).rg o.a).toNat ≠ 0 →
      (∀ x ∈ rest, x.seq ≠ e.seq) →
      let n := min ((me s).rg o.a).toNat (e.hi - e.lo)
      (me s).ex + n < 2 ^ 32 →
      ∃ t, exec (.rtake o) s = .next t ∧
        t.slot s.cur = { ((me s).wg o.d (BitVec.ofNat 64 e.lo)).wg (o.d.val + 1) (BitVec.ofNat 64 n) with
          ex := (me s).ex + n, pc := (me s).pc + 4 } ∧ t.mem = s.mem ∧
        (t.core (coreOf s.cur)).deque = if e.lo + n < e.hi then rest ++ [{ e with lo := e.lo + n }] else rest)

/-- 13 R342, 07 R196: WIDF writes the packed work id of an ordinal below E, each level's digit in its own field; from E on
it is the task-operand fault. An EMPTY g[a] blocks the slot or takes the empty-source trap. -/
def Obligations.WorkIdOfOrdinal : Prop :=
  ∀ (s : State) (o : Rr) (l : Launch), s.launch (me s).lidN = some l →
    let n := ((me s).rg o.a).toNat
    waitsFor s (.widf o) o.a o.qa ∧
    (full s [(.g, o.a)] → plain s → l.hdr.count ≤ n → exec (.widf o) s = trapped s 15 ((me s).rg o.a)) ∧
    (full s [(.g, o.a)] → n < l.hdr.count → ∃ w : Nat, exec (.widf o) s = writesG s o.d (BitVec.ofNat 64 w) ∧
      (l.hdr.widths.length = 6 → l.hdr.extents.length = 6 → (∀ k, k < 6 → l.hdr.extents.getD k 1 ≤ 2 ^ l.hdr.widths.getD k 0) →
        ∀ k, k < 6 → w / 2 ^ ((l.hdr.widths.drop (k + 1)).foldl (· + ·) 0) % 2 ^ l.hdr.widths.getD k 0 =
          n / (l.hdr.extents.drop (k + 1)).foldl (· * ·) 1 % l.hdr.extents.getD k 1))

/-- 03 R84, 13 R338: at a counter's home, in the order of 03 R98, an increment without carry adds its amount and is
acknowledged, a carry is the count-overflow fault of its instruction; a decrement subtracts, sets REMOTE if it comes from
another cluster, and below zero is the join-state error; SYNC's test of a counter at zero lets the thread go on. -/
def Obligations.CounterOperationsAtHome : Prop :=
  ∀ (s : State) (id : Nat) (f : Flight) (a : Nat), reaching s id f → s.whereIs f.lid (a / 2 ^ 32) = .live → unloggedFor s f.lid a →
    let w := counterWord s a
    (∀ n, f.kind = .counterInc a n →
      (w % 2 ^ 32 + n < 2 ^ 32 → (s.slot f.owner).status = .ready → ∃ t, exec (.joinCounterIncrement id) s = .next t ∧ t.flights = others s id ∧
        t.mem = writeLe s.mem (chipKey a) 8 (w + n) ∧
        t.slots = (s.modSlot f.owner fun x => { x with sbcnt := x.sbcnt - 1 }).slots) ∧
      (2 ^ 32 ≤ w % 2 ^ 32 + n → (s.slot f.owner).deferred = none → (s.slot f.owner).tstat.getLsbD 6 = false →
        (s.slot f.owner).status = .ready → (s.slot f.owner).acqReg = none → ∃ t, exec (.joinCounterIncrement id) s = .next t ∧
        t.flights = others s id ∧ t.mem = s.mem ∧ t.slots = (s.modSlot f.owner fun x =>
          { x with sbcnt := x.sbcnt - 1, deferred := some ⟨12, f.pc, BitVec.ofNat 64 a⟩ }).slots)) ∧
    (∀ n out, f.kind = .counterDec a n out → s.counterHeld f a 8 = false →
      (n ≤ w % 2 ^ 32 → (n = w % 2 ^ 32 → w / 2 ^ 62 % 2 = 0 ∧ ∀ l, s.launch f.lid = some l → ¬(1 < l.hdr.count ∧ l.ctr = some a)) →
        ∃ t, exec (.joinCounterDecrement id) s = .next t ∧ t.flights = others s id ∧ t.slots = s.slots ∧
          t.mem = writeLe s.mem (chipKey a) 8 (if out then (w - n) ||| 2 ^ 63 else w - n)) ∧
      (w % 2 ^ 32 < n → ∀ l, s.launch f.lid = some l → l.status = 0 →
        ∃ t, exec (.joinCounterDecrement id) s = .next t ∧ t.mem = s.mem ∧ t.slots = s.slots ∧
          t.launch f.lid = some { l with status := 3, killed := true })) ∧
    (∀ i, f.kind = .syncTest a i → s.counterHeld f a 8 = false → w / 2 ^ 62 % 2 = 0 → w % 2 ^ 32 = 0 →
      (s.slot f.owner).status = .blocked .release →
      ∃ t, exec (.syncTest id) s = .next t ∧ t.flights = others s id ∧ t.mem = s.mem ∧
        t.slot f.owner = { s.slot f.owner with status := .ready, pc := f.pc + 4, acqReg := none })

namespace Sys2Proof.Claims

/-! ### Tiles and rings -/

/-- R106: `i` is the lowest-numbered FREE tile of cluster `cl`. -/
def lowestFree (s : State) (cl i : Nat) : Prop :=
  i < 512 ∧ (s.tile cl i).st = .free ∧ ∀ j, j < i → (s.tile cl j).st ≠ .free
/-- R102, R106, R109: what a grant leaves: the tile's state word for launch `lid`, its bytes zero if it was to be filled, every
byte outside the tile as before; DIRTY if the tile was filled, or written since the launch was dispatched. -/
def granted (s t : State) (cl i pool count lid : Nat) (spec : Bool) : Prop :=
  let old := s.tile cl i
  let fill := old.zf || old.asid != s.asidOf lid
  t.tile cl i = { old with
      launch := lid, asid := s.asidOf lid, ppart := pool, zf := false,
      dirty := fill || (match s.launch lid with | some l => decide (l.since < old.wrote) | none => false), spec := spec,
      st := if count = 255 then .persistent else .held, count := count, ctxBit := old.ctxBit || fill,
      wrote := if fill then s.cycle + 1 else old.wrote } ∧
    ∀ c, let a := c - 2 ^ 52
      let inside := 2 ^ 52 ≤ c ∧ a / 2 ^ 32 = cl ∧ (a / 2 ^ 24 % 256 = 128 ∧ a % 2 ^ 24 / 0x1000 = i ∨
        a / 2 ^ 24 % 256 = 129 ∧ a % 2 ^ 24 / 0x80 = i)
      (inside → fill = true → readByte t.mem c = 0) ∧ (¬inside ∨ fill = false → readByte t.mem c = readByte s.mem c)
/-- R107: the pool partition a thread's allocations are charged to, which the core's copies must admit (R343). -/
def poolFor (s : State) (p : Nat) : Prop :=
  (∃ l, s.launch (me s).lidN = some l ∧ l.specOf = none ∧ l.hdr.pool = p) ∧
    mapGet false (s.core (coreOf s.cur)).poolSet p = true ∧ mapGet 0 (s.core (coreOf s.cur)).poolCap p ≠ 0
/-- R105: an allocation for pool partition `p` of cluster `cl` is eligible. -/
def eligibleFor (s : State) (cl p : Nat) : Prop :=
  let c := s.cluster cl
  c.held p < (c.pool p).cap ∧ 1 ≤ c.freeTiles ∧
    (c.held p < (c.pool p).res ∨ ((List.range 8).map fun q => (c.pool q).res - c.held q).sum < c.freeTiles)
/-- R344: the handle in g[a] passes the checks at issue. -/
def handleAtIssue (s : State) (a : Word) : Prop :=
  a.toNat < 2 ^ 32 ∧ a ≠ 0 ∧ s.inPart (coreOf s.cur) (a.toNat / 2 ^ 24) = true
/-- R344: what each tile instruction sends, and the event that follows. -/
def tileOps : List ((Ra → Instr) × (Word32 → Word → FlightKind) × (Nat → Ev)) :=
  [ (.tdrop, (fun h a => .tdropHeld h a [] []), .tdropSend), (.tfree, .tfree, .tileFreeArrival) ]
/-- A tile operation of a thread meets its tile: the handle is current and of the thread's ASID, no transfer is in progress. -/
def atTile (s : State) (f : Flight) (h : Word32) (st : TileSt) : Prop :=
  let t := s.tile (h.toNat / 2 ^ 24) (h.toNat / 2 ^ 15 % 512)
  s.whereIs f.lid (h.toNat / 2 ^ 24) = .live ∧ s.tileHeld f h = false ∧ h ≠ 0 ∧ t.gen = h.toNat % 2 ^ 15 ∧ t.st = st ∧
    t.asid = f.asid ∧ (s.slot f.owner).status = .ready
/-- The tile as R103 leaves it when it becomes FREE. -/
def freed (t : Tile) : Tile :=
  { t with st := .free, count := 0, gen := if t.gen = 0x7FFF then 1 else t.gen + 1, spec := false }

end Sys2Proof.Claims

/-- 13 R343, 04 R105-R109: TALLOC and TALLOCN of an eligible request take the lowest-numbered free tile, and the handle is
on its way to g[d]; otherwise TALLOC queues with its slot BLOCKED and TALLOCN answers handle 0. A grant to the queue
completes the TALLOC, and the handle's arrival makes the register FULL. -/
def Obligations.TileAllocation : Prop :=
  ∀ s : State,
    (∀ (o : Rr) (p : Nat), full s [(.g, o.a)] → plain s → (me s).status = .ready → poolFor s p → (s.cluster (clusterOf s.cur)).allocQ = [] →
      let n := ((me s).rg o.a).toNat
      let cl := clusterOf s.cur
      1 ≤ n → n ≤ 255 →
      (eligibleFor s cl p → ∀ i, lowestFree s cl i → ∀ j, j = .talloc o ∨ j = .tallocn o →
        ∃ t f, exec j s = .next t ∧ t.slots = (s.setSlot s.cur { (me s).eg o.d with pc := (me s).pc + 4 }).slots ∧
          granted s t cl i p n (me s).lidN false ∧ t.flights = s.flights ++ [f] ∧
          f.kind = .handle (BitVec.ofNat 32 (cl * 2 ^ 24 + i * 2 ^ 15 + (s.tile cl i).gen)) o.d) ∧
      (¬eligibleFor s cl p →
        (∃ t q, exec (.talloc o) s = .next t ∧ becomes s { me s with status := .blocked .alloc } t ∧
          (t.cluster cl).allocQ = [q] ∧ q.who = .thread s.cur ∧ q.pool = p ∧ q.count = n ∧ q.dest = o.d) ∧
        sends s { (me s).eg o.d with pc := (me s).pc + 4 } (.handle 0 o.d) .zeroFillDone (exec (.tallocn o) s))) ∧
    (∀ (cl thr i : Nat) (q : AllocReq), (s.cluster cl).allocQ = [q] → q.who = .thread thr → eligibleFor s cl q.pool →
      s.whereIs q.lid cl = .live → lowestFree s cl i → q.asid = s.asidOf q.lid → (s.slot thr).status = .blocked .alloc →
      ∃ t f, exec (.allocationGrant cl) s = .next t ∧ granted s t cl i q.pool q.count q.lid q.spec ∧
        (t.cluster cl).allocQ = [] ∧ t.flights = s.flights ++ [f] ∧
        f.kind = .handle (BitVec.ofNat 32 (cl * 2 ^ 24 + i * 2 ^ 15 + (s.tile cl i).gen)) q.dest ∧
        t.slot thr = { (s.slot thr).eg q.dest with status := .ready, pc := (s.slot thr).pc + 4 }) ∧
    (∀ (id : Nat) (f : Flight) (h : Word32) (d : Fin 32), reaching s id f → f.kind = .handle h d → (s.slot f.owner).status = .ready →
      ∃ t, exec (.zeroFillDone id) s = .next t ∧ t.flights = others s id ∧ t.mem = s.mem ∧
        t.slots = (s.modSlot f.owner fun x => x.wg d (h.setWidth 64)).slots)

/-- 13 R344, R345, R347: TINC, TDROP and TFREE send their operation, counted in sbcnt, TCNT and TADDR their read; a handle
that fails the checks at issue is the handle fault. Ring instructions act on the core's ring in order. -/
def Obligations.TileAndRingInstructions : Prop :=
  ∀ s : State,
    (∀ o : Ra, full s [(.g, o.a)] →
      let a := (me s).rg o.a
      (∀ p ∈ tileOps, handleAtIssue s a → quiet s →
        sends s { me s with sbcnt := 1, pc := (me s).pc + 4 } (p.2.1 (a.setWidth 32) a) p.2.2 (exec (p.1 o) s)) ∧
      (plain s → ¬handleAtIssue s a →
        exec (.tdrop o) s = trapped s 10 a ∧ exec (.tfree o) s = trapped s 10 a)) ∧
    (∀ o : Rab, full s [(.g, o.a), (.g, o.b)] → handleAtIssue s ((me s).rg o.a) → (me s).sbcnt < 32 →
      1 ≤ ((me s).rg o.b).toNat → ((me s).rg o.b).toNat ≤ 254 →
      sends s { me s with sbcnt := (me s).sbcnt + 1, pc := (me s).pc + 4 }
        (.tinc (((me s).rg o.a).setWidth 32) ((me s).rg o.b).toNat ((me s).rg o.a)) .tileIncArrival (exec (.tinc o) s)) ∧
    (∀ o : Rr, full s [(.g, o.a)] → handleAtIssue s ((me s).rg o.a) →
      let x := { (me s).eg o.d with pc := (me s).pc + 4 }
      sends s x (.tileRead (((me s).rg o.a).setWidth 32) o.d false) .loadCompletion (exec (.tcnt o) s) ∧
      sends s x (.tileRead (((me s).rg o.a).setWidth 32) o.d true) .loadCompletion (exec (.taddr o) s)) ∧
    (∀ (ring : Fin 8) (r : Ring), mapGet {} (s.core (coreOf s.cur)).rings ring.val = r →
      let seen := r.handles.drop r.taken
      (∀ o : Ra, full s [(.g, o.a)] → quiet s → ((me s).rg o.a).toNat < 2 ^ 32 → (me s).rg o.a ≠ 0 → r.handles.length < 16 →
        ∃ t, exec (.rpush ring o) s = .next t ∧ becomes s { me s with pc := (me s).pc + 4 } t ∧
          mapGet {} (t.core (coreOf s.cur)).rings ring.val = { r with handles := r.handles ++ [((me s).rg o.a).setWidth 32] }) ∧
      (∀ d : Fin 32,
        (∀ h rest, seen = h :: rest →
          let x : Ring := { r with handles := r.handles.take r.taken ++ rest,
                                   head := if r.taken = 0 then (r.head + 1) % 16 else r.head }
          ∃ t, exec (.rpop d ring) s = .next t ∧ becomes s { (me s).wg d (h.setWidth 64) with pc := (me s).pc + 4 } t ∧
            t.cores = (s.modCore (coreOf s.cur) fun c => { c with rings := mapPut {} c.rings ring.val x }).cores) ∧
        (seen = [] → plain s → exec (.rpop d ring) s = trapped s 14 (BitVec.ofNat 64 ring.val)) ∧
        exec (.rpeek d ring) s = writesG s d (match seen with | h :: _ => h.setWidth 64 | [] => 0) ∧
        exec (.rcnt d ring) s = writesG s d (BitVec.ofNat 64 seen.length)))

/-- 04 R103, R104, R111, R126, 13 R346: what arrives at a tile: a drop lowers COUNT and the last one frees the tile, TINC
adds to COUNT, TFREE frees a PERSISTENT tile; each is acknowledged. A held drop leaves once what it waits for is over, and
a deferred free takes place at USE 0. The pool registers take a system write, with RES clamped to 512 in all, and a stall
is told. -/
def Obligations.TileOperationsArrive : Prop :=
  ∀ s : State,
    (∀ (id : Nat) (f : Flight) (h : Word32) (op : Word), reaching s id f →
      let cl := h.toNat / 2 ^ 24
      let i := h.toNat / 2 ^ 15 % 512
      let x := s.tile cl i
      let acked := fun (t : State) => t.flights = others s id ∧ t.mem = s.mem ∧
        t.slots = (s.modSlot f.owner fun x => { x with sbcnt := x.sbcnt - 1 }).slots
      (f.kind = .tdrop h op → atTile s f h .held →
        (1 < x.count → ∃ t, exec (.tileDropArrival id) s = .next t ∧ acked t ∧ t.tile cl i = { x with count := x.count - 1 }) ∧
        (x.count = 1 → x.use = 0 → ∃ t, exec (.tileDropArrival id) s = .next t ∧ acked t ∧ t.tile cl i = freed x)) ∧
      (∀ k, f.kind = .tinc h k op → atTile s f h .held → x.count + k ≤ 254 →
        ∃ t, exec (.tileIncArrival id) s = .next t ∧ acked t ∧ t.tile cl i = { x with count := x.count + k }) ∧
      (f.kind = .tfree h op → atTile s f h .persistent → x.use = 0 →
        ∃ t, exec (.tileFreeArrival id) s = .next t ∧ acked t ∧ t.tile cl i = freed x) ∧
      (∀ waits loads, f.kind = .tdropHeld h op waits loads → (∀ g ∈ s.flights, g.id ∉ waits ++ loads) →
        ∃ t u, exec (.tdropSend id) s = .next t ∧ t.flight id = some u ∧ u.kind = .tdrop h op ∧ u.owner = f.owner ∧ t.slots = s.slots ∧
          (s.cycle + Config.latency id, Ev.tileDropArrival id) ∈ t.agenda)) ∧
    (canonical s → ∀ cl i : Nat, (s.tile cl i).st = .held → (s.tile cl i).count = 0 → (s.tile cl i).use = 0 →
      ∃ t, exec (.deferredTileFree cl i) s = .next t ∧ t.tile cl i = freed (s.tile cl i) ∧ t.slots = s.slots ∧ t.mem = s.mem) ∧
    (∀ (cl : Nat) (p : Fin 8) (v : Word), ∃ t, exec (.poolpWrite cl p v) s = .next t ∧ t.slots = s.slots ∧ t.mem = s.mem ∧
      (v.toNat / 2 ^ 63 = 1 →
        let res := v.toNat % 2 ^ 10
        let others := (((List.range 8).filter (· ≠ p.val)).map fun q => ((s.cluster cl).pool q).res).sum
        (t.cluster cl).pool p = { (s.cluster cl).pool p with
          set := true, cap := v.toNat / 2 ^ 16 % 2 ^ 10, res := if res + others ≤ 512 then res else 512 - others })) ∧
    (canonical s → ∀ (cl : Nat) (v : Word), ∃ t, exec (.poolstallWrite cl v) s = .next t ∧ t.slots = s.slots ∧ t.mem = s.mem ∧
      t.cluster cl = { s.cluster cl with poolStall := v.toNat % 2 ^ 32 }) ∧
    (∀ (cl : Nat) (p : Fin 8), let c := s.cluster cl
      c.poolStall ≠ 0 → 0 < c.waiters p → max c.lastGrant (c.pool p).granted + c.poolStall ≤ s.cycle →
      s.lost = 0 → s.events.length < 256 →
      ∃ t, exec (.poolStallEvent cl p) s = .next t ∧ t.slots = s.slots ∧ t.mem = s.mem ∧
        t.events = s.events ++ [⟨s.eventNo, 0x105,
          natLe (cl + p.val * 2 ^ 8 + c.held p * 2 ^ 16 + c.waiters p * 2 ^ 32 + c.freeTiles * 2 ^ 48) 8⟩] ∧
        (s.cycle + c.poolStall, Ev.poolStallEvent cl p) ∈ t.agenda)

namespace Sys2Proof.Claims

/-! ### The matrix unit -/

/-- R353: the MMA family with what each queues. -/
def mmaFixed : List ((Mma → Instr) × Bool) := [ (.mma, false), (.mmas, true) ]
/-- R353: the forms that take their count from g29. -/
def mmaCounted : List ((Mmar → Instr) × Bool) := [ (.mmar, false), (.mmasr, true) ]
/-- R350: the places in use in the queue of the thread's core. -/
def placesUsed (s : State) : Nat :=
  (s.core (coreOf s.cur)).mq.length +
    ((s.cluster (clusterOf s.cur)).running.filter fun r => r.core = coreOf s.cur).length
/-- R350: the command enters the queue of the thread's core, the thread going on as `x`; with all eight places in use the
instruction issues again. -/
def queued (s : State) (op : MOp) (acc : Fin 4) (relc : Bool) (x : Slot) (r : Res) : Prop :=
  (placesUsed s < 8 → ∃ t m, r = .next t ∧ becomes s x t ∧
    (t.core (coreOf s.cur)).mq = (s.core (coreOf s.cur)).mq ++ [m] ∧
    m.op = op ∧ m.acc = acc ∧ m.relc = relc ∧ m.thr = s.cur ∧ m.pc = (me s).pc ∧ m.lid = (me s).lidN ∧
    m.satinf = (me s).fmode.getLsbD 3 ∧ (quiet s → m.waits = []) ∧ (s.cycle, Ev.matrixSelect (clusterOf s.cur)) ∈ t.agenda) ∧
  (8 ≤ placesUsed s → r = .next s)
/-- The number of elements of a type in a register. -/
def perReg (t : ElemTy) : Nat := 512 / elemW t
/-- 01 R19: the address of word `k` of accumulator `n` of a core. -/
def accWord (core n k : Nat) : Nat := core / 8 * 2 ^ 32 + core % 8 * 2 ^ 28 + 4 * 2 ^ 24 + n * 0x4000 + 4 * k
/-- R363: the row and part in g[R] are in range. -/
def rowOk (s : State) (o : AccV) : Prop :=
  ((me s).rg o.g).toNat < 256 ∧ ((me s).rg o.g).toNat / 64 * 8 < elemW o.ty
/-- R363: the number of the accumulator word that holds element `k` of the register. -/
def rowWord (s : State) (o : AccV) (k : Nat) : Nat :=
  ((me s).rg o.g).toNat % 64 * 64 + ((me s).rg o.g).toNat / 64 * perReg o.ty + k
/-- The incomplete commands of the thread (R365), with those that it pushed before a migration (16 R418). -/
def ownCommands (s : State) : List MCmd :=
  ((s.cores.flatMap fun c => c.2.mq) ++ s.clusters.flatMap fun c => c.2.running.map (·.cmd)).filter fun m =>
    s.forwarded m.id m.lid m.thr = s.cur
/-- Byte `k` of line `r` of the tile a handle names, as a signed number. -/
def tileByte (s : State) (h : Word32) (r k : Nat) : Int :=
  (readByte s.mem (2 ^ 52 + h.toNat / 2 ^ 24 * 2 ^ 32 + 2 ^ 31 + h.toNat / 2 ^ 15 % 512 * 0x1000 + 64 * r + k)).toInt

end Sys2Proof.Claims

/-- 14 R350, R353, R362, R364: the queued instructions enter the queue of their core with what they carry, or issue again
while it is full; a count above 16 in g29 is the matrix-operand fault; MQWAIT and MQCNT read the thread's commands (R365).
-/
def Obligations.MatrixCommandsQueued : Prop :=
  ∀ s : State,
    let go := { me s with pc := (me s).pc + 4 }
    (∀ p ∈ mmaFixed, ∀ o : Mma, (p.1 o).wf = true →
      queued s (.mma o.ringA o.ringB o.kc.val o.ty o.keepA o.keepB o.zi p.2) o.acc o.relc go (exec (p.1 o) s)) ∧
    (∀ p ∈ mmaCounted, ∀ o : Mmar, (p.1 o).wf = true → full s [(.g, 29)] →
      (((me s).rg 29).toNat ≤ 16 →
        queued s (.mma o.ringA o.ringB ((me s).rg 29).toNat o.ty o.keepA o.keepB o.zi p.2) o.acc o.relc go (exec (p.1 o) s)) ∧
      (plain s → 16 < ((me s).rg 29).toNat → exec (p.1 o) s = trapped s 16 ((me s).rg 29))) ∧
    (∀ (acc : Fin 4) (relc : Bool), queued s .accz acc relc go (exec (.accz acc relc) s)) ∧
    (∀ (o : AccM) (ps : List Piece), full s [(.g, o.g)] → mapGet false (me s).sgPend o.seg = false →
      let d := s.segment s.cur o.seg
      let off := ((me s).rg o.g).toNat
      (d.chip = true → (d.base.toNat + off) / 2 ^ 24 % 16 = 0) →
      ((Instr.accld o).wf = true →
        s.check s.cur { desc := d, off := off, size := 512 * elemW o.ty, align := 64, need := 1, use := .load } = .ok ps →
        queued s (.accld o.ty d off) o.acc o.relc go (exec (.accld o) s)) ∧
      ((Instr.accst o).wf = true →
        s.check s.cur { desc := d, off := off, size := 512 * elemW o.ty, align := 64, need := 2, use := .store } = .ok ps →
        (me s).sbcnt < 32 → queued s (.accst o.ty d off) o.acc o.relc { go with sbcnt := (me s).sbcnt + 1 } (exec (.accst o) s))) ∧
    (∀ (d : Fin 32) (n : Fin 16), (Instr.mqwait d n).wf = true → (me s).mqwait = [] → (me s).status = .ready →
      let k := ((ownCommands s).filter (·.relc)).length
      exec (.mqwait d n) s = if k ≤ n.val then writesG s d (BitVec.ofNat 64 k)
        else goesOn s { (me s).eg d with mqwait := [⟨d, n.val⟩], pc := (me s).pc + 4 }) ∧
    (∀ d : Fin 32, exec (.mqcnt d) s = writesG s d (BitVec.ofNat 64
      ((ownCommands s).length + ((ownCommands s).filter (·.relc)).length * 16 + placesUsed s * 256)))

/-- 14 R363, 01 R27: with no command of its accumulator queued, ACCOUT sends one part of an accumulator row on its way to
v[d] and ACCIN writes one; f32 and i32 elements are the words, i8 elements are clamped on the way out and sign-extended on
the way in. Behind queued commands both go on and wait for them. A row or part out of range is the matrix-operand fault.
-/
def Obligations.AccumulatorRows : Prop :=
  ∀ (s : State) (o : AccV), full s [(.g, o.g)] → canonical s → (∀ g ∈ s.flights, g.id < s.nextId) →
    let c := coreOf s.cur
    let addr := fun (k : Nat) => chipKey (accWord c o.acc.val (rowWord s o k))
    let word := fun (m : Memory) (k : Nat) => BitVec.ofNat 32 (readLe m (addr k) 4)
    let out := { (me s).ev o.v with pc := (me s).pc + 4 }
    (∀ k, s.lastMatrix c o.acc.val none = some k → rowOk s o →
      ((Instr.accout o).wf = true → ∃ t f, exec (.accout o) s = .next t ∧ becomes s out t ∧ t.flights = s.flights ++ [f] ∧
        f.thr = s.cur ∧ f.pieces.map (·.phase) = [.behind k]) ∧
      ((Instr.accin o).wf = true → full s [(.v, o.v)] → (me s).sbcnt < 32 → ∃ t f, exec (.accin o) s = .next t ∧
        becomes s { me s with sbcnt := (me s).sbcnt + 1, pc := (me s).pc + 4 } t ∧ t.flights = s.flights ++ [f] ∧
        f.thr = s.cur ∧ f.pieces.map (·.phase) = [.behind k])) ∧
    (s.lastMatrix c o.acc.val none = none → unlogged s (accWord c o.acc.val 0) → rowOk s o →
      ((Instr.accout o).wf = true → (∀ k, k < perReg o.ty → s.poisoned (addr k) 4 = false) →
        ∃ t f y, exec (.accout o) s = .next t ∧ becomes s out t ∧
          t.flights = s.flights ++ [f] ∧ f.thr = s.cur ∧ f.kind = .load (.v o.v) .none .read y ∧
          ∀ k, k < perReg o.ty →
            ((o.ty = .f32 ∨ o.ty = .i32) → y.extractLsb' (32 * k) 32 = word s.mem k) ∧
            (o.ty = .i8 → y.extractLsb' (8 * k) 8 = clampTo 8 (word s.mem k).toInt)) ∧
      ((Instr.accin o).wf = true → full s [(.v, o.v)] → plain s →
        ∃ t, exec (.accin o) s = .next t ∧ t.slots = (s.setSlot s.cur { me s with pc := (me s).pc + 4 }).slots ∧
          t.flights = s.flights ∧
          (∀ k, k < perReg o.ty →
            ((o.ty = .f32 ∨ o.ty = .i32) → word t.mem k = ((me s).rv o.v).extractLsb' (32 * k) 32) ∧
            (o.ty = .i8 → word t.mem k = (((me s).rv o.v).extractLsb' (8 * k) 8).signExtend 32)) ∧
          ∀ b, (∀ k, k < perReg o.ty → b < addr k ∨ addr k + 4 ≤ b) → readByte t.mem b = readByte s.mem b)) ∧
    (plain s → ¬rowOk s o → ((Instr.accout o).wf = true → exec (.accout o) s = trapped s 16 ((me s).rg o.g)) ∧
      ((Instr.accin o).wf = true → full s [(.v, o.v)] → exec (.accin o) s = trapped s 16 ((me s).rg o.g)))

/-- 14 R351, R354, R355, R358, R359, R361, R362: an eligible head command is selected; at its write-back ACCZ clears its
accumulator and an i8 MMA of one K-tile adds the products of the lines of A and B modulo 2^32, every other byte kept; a
failed self-test fences sub-arrays and lets the held command go on; a system write to MXCTL sets STINT and FENCED. -/
def Obligations.MatrixUnitEvents : Prop :=
  ∀ (s : State) (cl : Nat), canonical s →
    (∀ v : Word, exec (.mxctlWrite cl v) s =
      .next (s.modCluster cl fun c => { c with stint := v.toNat / 2 ^ 16 % 2 ^ 16, mfenced := v.extractLsb' 4 4 })) ∧
    (∀ failed : BitVec 4, (∃ r ∈ (s.cluster cl).running, r.test = 1) → s.lost = 0 → s.events.length < 256 →
      ∃ t, exec (.selfTest cl failed) s = .next t ∧ t.mem = s.mem ∧ t.slots = s.slots ∧
        (t.cluster cl).testCount = 0 ∧ (t.cluster cl).mfenced = (s.cluster cl).mfenced ||| failed ∧
        (∀ r ∈ (t.cluster cl).running, r.test ≠ 1) ∧ (s.cycle, Ev.matrixWriteback cl) ∈ t.agenda ∧
        (t.events.length = s.events.length ↔ failed = 0)) ∧
    (∀ (i : Nat) (m : MCmd) (rest : List MCmd), i < 8 → (s.cluster cl).running = [] → (s.cluster cl).mfenced ≠ 15 →
      (∀ j, j < 8 → j ≠ i → (s.core (cl * 8 + j)).mq = []) → (s.core (cl * 8 + i)).mq = m :: rest → m.op = .accz →
      (∀ f ∈ s.flights, f.id ∉ m.waits) →
      ∃ t r, exec (.matrixSelect cl) s = .next t ∧ t.mem = s.mem ∧ t.slots = s.slots ∧
        (t.cluster cl).running = [r] ∧ r.core = cl * 8 + i ∧ r.cmd = m ∧
        (t.core (cl * 8 + i)).mq = rest.filter (fun x => x.id ≠ m.id) ∧ (s.cycle + 4, Ev.matrixWriteback cl) ∈ t.agenda) ∧
    (∀ r : MRun, (s.cluster cl).running = [r] → s.specOf r.cmd.lid = none → r.core / 8 = cl → r.due ≤ s.cycle →
      unloggedFor s r.cmd.lid (accWord r.core r.cmd.acc.val 0) → (s.cluster cl).accWrites = [] →
      (∀ f ∈ s.flights, ∀ p ∈ f.pieces, ∀ k, p.phase ≠ .behind k) →
      (r.cmd.op = .accz → ∃ t, exec (.matrixWriteback cl) s = .next t ∧ (t.cluster cl).running = [] ∧
        ∀ c, readByte t.mem c =
          if chipKey (accWord r.core r.cmd.acc.val 0) ≤ c ∧ c < chipKey (accWord r.core r.cmd.acc.val 0) + 0x4000 then 0
          else readByte s.mem c) ∧
      (∀ (ra rb : Fin 8) (a b : Word32), r.cmd.op = .mma ra rb 1 .i8 true true false false →
        r.ha = [a] → r.hb = [b] → r.takenA = false → r.takenB = false → r.test = 0 → r.due ≠ 0 → s.poison = [] →
        (s.cluster cl).testCount < (s.cluster cl).stint →
        ∃ t, exec (.matrixWriteback cl) s = .next t ∧ (t.cluster cl).running = [] ∧
          (t.cluster cl).mxcnt = (s.cluster cl).mxcnt + 1 ∧
          (∀ i j, i < 64 → j < 64 →
            let w := fun (m : Memory) => BitVec.ofNat 32 (readLe m (chipKey (accWord r.core r.cmd.acc.val (64 * i + j))) 4)
            w t.mem = w s.mem + BitVec.ofInt 32 (((List.range 64).map fun k => tileByte s a i k * tileByte s b j k).sum)) ∧
          ∀ c, c < chipKey (accWord r.core r.cmd.acc.val 0) ∨ chipKey (accWord r.core r.cmd.acc.val 0) + 0x4000 ≤ c →
            readByte t.mem c = readByte s.mem c))

namespace Sys2Proof.Claims

/-! ### Copy engines and byte barriers -/

/-- R366: word `i` of the request in g[a] to g[a + n - 1]. -/
def reqWord (s : State) (a : Fin 32) (i : Nat) : Nat := ((me s).rg (a.val + i)).toNat
/-- R368: the word names a tile. -/
def tileForm (w : Nat) : Prop := w / 2 ^ 60 % 2 = 1
/-- What a request does at its address words. -/
def rolesOf (s : State) (a : Fin 32) (indirect : Bool) : List Role :=
  if indirect then gathRoles (reqWord s a) else copyRoles (reqWord s a)
/-- R367 step 2: the first word of the request that is not well formed. -/
def badWord (s : State) (a : Fin 32) (indirect : Bool) : Option Nat :=
  if indirect then s.gathBad (coreOf s.cur) (reqWord s a) else s.copyBad (coreOf s.cur) (reqWord s a)
/-- R367: every check of a push passes. -/
def pushable (s : State) (a : Fin 32) (indirect : Bool) : Prop :=
  badWord s a indirect = none ∧
    (∀ r ∈ rolesOf s a indirect, let w := reqWord s a r.word
      (¬tileForm w → mapGet false (me s).sgPend (w / 2 ^ 61) = false ∧
        s.descBad s.cur (s.segment s.cur (w / 2 ^ 61)) (w % 2 ^ 48) r = none) ∧
      (tileForm w → w % 2 ^ 32 ≠ 0 ∧ s.inPart (coreOf s.cur) (w % 2 ^ 32 / 2 ^ 24) = true ∧
        w / 2 ^ 32 % 2 ^ 13 + r.len ≤ 4224)) ∧
    (reqWord s a 0 / 2 ^ 57 % 8 = 3 →
      s.granDest s.cur (reqWord s a (if indirect ∧ reqWord s a 0 / 2 ^ 60 = 0 then 3 else 2)) = true)
/-- R366, R368: the request that a push puts at the end of the core's FIFO. -/
def isRequest (s : State) (a : Fin 32) (indirect : Bool) (r : EngReq) : Prop :=
  r.indirect = indirect ∧ r.words = (List.range (if indirect then 8 else 4)).map (fun i => (me s).rg (a.val + i)) ∧
    r.thr = s.cur ∧ r.core = coreOf s.cur ∧ r.lid = (me s).lidN ∧ r.pos = 0 ∧ r.started = false ∧ (quiet s → r.waits = [])
/-- The push: the thread goes on as `x`, the request stands last in its FIFO and its engine's event follows. -/
def pushes (s : State) (a : Fin 32) (indirect : Bool) (x : Slot) (res : Res) : Prop :=
  ∃ t r, res = .next t ∧ becomes s x t ∧
    (t.core (coreOf s.cur)).fifo = (s.core (coreOf s.cur)).fifo ++ [r] ∧ isRequest s a indirect r
/-- The 64-byte places used in the FIFO of the thread's core. -/
def fifoPlaces (s : State) : Nat := ((s.core (coreOf s.cur)).fifo.flatMap (·.words)).length / 4
/-- An address of a request that names `n` bytes from `a` on in a core's scratchpad, in whole words. -/
def atScratch (e : EngAddr) (a n : Nat) : Prop :=
  ∃ d off, e = .seg d off ∧ d.chip = true ∧ d.base.toNat + off = a ∧ a < 2 ^ 40 ∧ a / 2 ^ 31 % 2 = 0 ∧
    a / 2 ^ 24 % 16 = 0 ∧ a % 8 = 0 ∧ a % 2 ^ 24 + n ≤ 0x40000
/-- The request has begun in an engine that serves it; its launch runs live everywhere and as no speculation. -/
def runs (s : State) (r : EngReq) : Prop :=
  let c := s.cluster (r.core / 8)
  canonical s ∧ s.specOf r.lid = none ∧ (∀ a, unloggedFor s r.lid a) ∧ s.poison = [] ∧ (∀ cl, s.whereIs r.lid cl = .live) ∧
    (∀ k, (s.core k).forward = []) ∧ c.engines.find? (fun x => x.id = r.id) = some r ∧ c.stalled r.indirect = false ∧
    r.started = true ∧ r.parked = none ∧ r.packet = none ∧ r.carried = false ∧ r.off = 0 ∧ r.inUse = []
/-- The request has left its engine. -/
def left (t : State) (r : EngReq) : Prop := ∀ x ∈ (t.cluster (r.core / 8)).engines, x.id ≠ r.id
/-- What a turn of a block copy of `n` bytes leaves that came to byte `pos`: the request has left, or goes on from there. -/
def turned (s t : State) (r : EngReq) (n pos : Nat) : Prop :=
  if pos = n then left t r
  else { r with pos := pos, behind := none } ∈ (t.cluster (r.core / 8)).engines ∧ (s.cycle + 2, r.event) ∈ t.agenda
/-- The bytes [a, a + n) hold what `f` says, and every other byte of memory is as before. -/
def onlyBytes (s t : State) (a n : Nat) (f : Nat → Byte) : Prop :=
  ∀ c, readByte t.mem c = if chipKey a ≤ c ∧ c < chipKey a + n then f (c - chipKey a) else readByte s.mem c

end Sys2Proof.Claims

/-- 14 R366, R367, R370, R371: COPYQ and GATHQ push their request once its checks pass, the T forms answer 1; with the
FIFO full the first issue again and the T forms answer 0; a word that is not well formed is the engine-operand fault. -/
def Obligations.EngineRequestsPushed : Prop :=
  ∀ (s : State) (a d : Fin 32) (q : Bool),
    (∀ (indirect : Bool) (i j : Instr),
      (indirect = false ∧ i = .copyq ⟨a, q⟩ ∧ j = .copyqt ⟨d, a, q⟩ ∨ indirect = true ∧ i = .gathq ⟨a, q⟩ ∧ j = .gathqt ⟨d, a, q⟩) →
      i.wf = true → j.wf = true → (∀ k, k < (if indirect then 8 else 4) → (me s).isEmpty .g (a.val + k) = false) →
      (pushable s a indirect → fifoPlaces s + (if indirect then 2 else 1) ≤ 16 →
        pushes s a indirect { me s with pc := (me s).pc + 4 } (exec i s) ∧
        pushes s a indirect { (me s).wg d 1 with pc := (me s).pc + 4 } (exec j s)) ∧
      (pushable s a indirect → 16 < fifoPlaces s + (if indirect then 2 else 1) →
        exec i s = .next s ∧ exec j s = writesG s d 0) ∧
      (∀ k, plain s → badWord s a indirect = some k →
        exec i s = trapped s 18 ((me s).rg (a.val + k)) ∧ exec j s = trapped s 18 ((me s).rg (a.val + k)))) ∧
    (∀ o : Rr, full s [(.g, o.a)] →
      let b := ((me s).rg o.a).toNat
      let ok := b < 2 ^ 40 ∧ b / 2 ^ 28 % 16 = 8 ∧ b / 2 ^ 24 % 16 = 2 ∧ 0x10000 ≤ b % 2 ^ 24 ∧ b % 2 ^ 24 < 0x40000 ∧
        b % 8 = 0 ∧ s.inPart (coreOf s.cur) (b / 2 ^ 32) = true
      (ok → sends s { (me s).eg o.d with pc := (me s).pc + 4 } (.bbwait b o.d) .bbwaitRetry (exec (.bbwait o) s)) ∧
      (plain s → ¬ok → exec (.bbwait o) s = trapped s 5 ((me s).rg o.a)))

/-- 14 R366, R370-R372, 03 R86, 14 R375, R376, 01 R21: a turn of a block copy or a fill leaves exactly its next 256 bytes,
or those that are left, at the destination, and the last one ends the request; a gather of one row copies the row its
index names; a byte barrier falls by its amount, or to 0 with its error bit; a BBWAIT on a barrier at 0 is answered with
its word; system writes reach the engine's code table and the cluster's registers. -/
def Obligations.EngineAndBarrierEvents : Prop :=
  ∀ s : State,
    (∀ (r : EngReq) (a b n : Nat), runs s r → r.indirect = false → r.words.length = 4 → atScratch r.dst b n →
      (nthWord r.words 0) % 2 ^ 57 = n → n < 2 ^ 32 → n % 8 = 0 → (nthWord r.words 0) / 2 ^ 57 % 8 = 0 →
      r.pos % 8 = 0 → r.pos ≤ n →
      let k := min 256 (n - r.pos)
      (nthWord r.words 0 / 2 ^ 60 = 0 → atScratch r.src a n → a + n ≤ b ∨ b + n ≤ a →
        ∃ t, exec (.copyCompletion (r.core / 8) r.id) s = .next t ∧ turned s t r n (r.pos + k) ∧
          t.slots = s.slots ∧ onlyBytes s t (b + r.pos) k fun i => readByte s.mem (chipKey (a + r.pos) + i)) ∧
      (nthWord r.words 0 / 2 ^ 60 = 1 →
        ∃ t, exec (.copyCompletion (r.core / 8) r.id) s = .next t ∧ turned s t r n (r.pos + k) ∧
          t.slots = s.slots ∧ onlyBytes s t (b + r.pos) k fun i => BitVec.ofNat 8 (nthWord r.words 1 / 2 ^ (8 * (i % 8))))) ∧
    (∀ (r : EngReq) (l a b x rows : Nat), runs s r → r.pos = 0 → r.indirect = true → r.words.length = 8 →
      atScratch r.list l 8 → atScratch r.src a (rows * 64) → atScratch r.dst b 64 →
      nthWord r.words 0 = 1 → nthWord r.words 4 = 64 * 2 ^ 32 + rows → rows < 2 ^ 32 →
      readLe s.mem (chipKey l) 4 = x → x < rows → b + 64 ≤ a ∨ a + rows * 64 ≤ b →
      ∃ t, exec (.indirectCompletion (r.core / 8) r.id) s = .next t ∧ left t r ∧
        t.slots = s.slots ∧ onlyBytes s t b 64 fun k => readByte s.mem (chipKey a + x * 64 + k)) ∧
    (∀ a n : Nat, barrierAddr a = true → canonical s → unloggedFor s 4096 a → s.launch 4096 = none →
      (s.cluster (a / 2 ^ 32)).bbwaits = [] →
      let w := counterWord s a
      ∃ t, exec (.byteBarrierSubtract a n) s = .next t ∧ t.slots = s.slots ∧
        t.mem = writeLe s.mem (chipKey a) 8 (if n ≤ w % 2 ^ 48 then w - n else (w - w % 2 ^ 48) ||| 2 ^ 48)) ∧
    (∀ (id a : Nat) (d : Fin 32) (f : Flight), reaching s id f → f.kind = .bbwait a d → s.whereIs f.lid (a / 2 ^ 32) = .live →
      unloggedFor s f.lid a → (s.cluster (a / 2 ^ 32)).bbwaits = [] →
      counterWord s a % 2 ^ 48 = 0 → (s.slot f.owner).status = .ready →
      ∃ t, exec (.bbwaitRetry id) s = .next t ∧ t.flights = others s id ∧ t.mem = s.mem ∧
        t.slots = (s.modSlot f.owner fun x => x.wg d (BitVec.ofNat 64 (counterWord s a))).slots) ∧
    (∀ (cl i j : Nat) (v : Word), i < 8 → j < 4 → mapWf 0 (s.core (cl * 8 + i)).codes = true → mapWf {} s.cores = true →
      ∃ t, exec (.engineStateWrite cl (0x1900 + 0x20 * i + 8 * j) v) s = .next t ∧ t.slots = s.slots ∧ t.mem = s.mem ∧
        ∀ k, mapGet 0 (t.core (cl * 8 + i)).codes k =
          if k / 4 = j then v.extractLsb' (16 * (k % 4)) 16 else mapGet 0 (s.core (cl * 8 + i)).codes k) ∧
    (∀ (cl : Nat) (v : Word),
      exec (.systemRegisterWrite cl 0x48 v) s = exec (.poolstallWrite cl v) s ∧
      exec (.systemRegisterWrite cl 0x200 v) s = .next (s.modCluster cl fun c => { c with syscode := { c.syscode with base := v } }) ∧
      exec (.systemRegisterWrite cl 0x208 v) s = .next (s.modCluster cl fun c => { c with syscode := { c.syscode with w1 := v } }) ∧
      exec (.systemRegisterWrite cl 0x210 v) s = .next (s.modCluster cl fun c => { c with sysdata := { c.sysdata with base := v } }) ∧
      exec (.systemRegisterWrite cl 0x218 v) s = .next (s.modCluster cl fun c => { c with sysdata := { c.sysdata with w1 := v } }) ∧
      exec (.systemRegisterWrite cl 0x40 v) s = .next s)

namespace Sys2Proof.Claims

/-! ### What arrives at ports, caches and walkers -/

/-- No piece of a transaction waits for an older access or operation of its thread, its core or its cluster (02 R61, 03 R98,
05 R133, R134, 07 R193). -/
def unhindered (s : State) (f : Flight) : Prop :=
  ∀ p ∈ f.pieces, s.heldBack f p = false ∧ (∀ d ∈ p.heading, s.behindPacket f d = false) ∧
    ∀ a, p.place = .chip a → s.counterHeld f a p.len = false
/-- A piece of `n` bytes at on-chip address `a` of some core's scratchpad, which is served live, is not poisoned and is logged
for no other speculation. -/
def atScratchpad (s : State) (f : Flight) (a n : Nat) : Prop :=
  f.pieces = [⟨.chip a, n, 0, .new⟩] ∧ a < 2 ^ 40 ∧ a / 2 ^ 31 % 2 = 0 ∧ a / 2 ^ 24 % 16 = 0 ∧
    (s.core (chipCore a)).forward = [] ∧ s.whereIs f.lid (chipCluster a) = .live ∧ s.poisoned (chipKey a) n = false ∧
    unloggedFor s f.lid a
/-- A piece of `n` bytes that has been translated to physical address `pa`, of the memory type `u` (uncached or not); no queue
is defined, so no notify page is met, and none of its words is poisoned. -/
def atHome (s : State) (f : Flight) (va pa n : Nat) (u : Bool) : Prop :=
  f.pieces = [⟨.glob f.asid va, n, 0, .home pa u⟩] ∧ s.queues = [] ∧ s.poisoned pa n = false
/-- Transaction `id` is over, and the others stay. -/
def ended (s : State) (id : Nat) (t : State) : Prop := t.flights = others s id
/-- Transaction `id` has become `f`, and the others stay. -/
def turnedInto (s : State) (id : Nat) (f : Flight) (t : State) : Prop := t.flight id = some f ∧ others t id = others s id
/-- No speculation watches a granule of [pa, pa + n) (06 R169). -/
def unwatched (s : State) (pa n : Nat) : Prop :=
  ∀ i sp, mapGet none s.specs i = some sp → sp.extents.any (extentHit pa n) = false
/-- No access waits at a port or for a walk, but that of transaction `id` (02 R50). -/
def portsIdle (s : State) (id : Nat) : Prop :=
  (∀ e ∈ s.clusters, e.2.portQ = []) ∧ ∀ g ∈ others s id, ∀ p ∈ g.pieces, p.phase ≠ .walking
/-- The TLBs that serve a cluster hold nothing. -/
def coldTlbs (s : State) (cl : Nat) : Prop :=
  (s.cluster cl).tlb = [] ∧ (s.die (dieOfCluster cl)).tlb = [] ∧ (s.die (dieOfCluster cl)).large = []
/-- R55: the 32 bytes of a fault record. -/
def recordBytes (r : FRec) : List Byte :=
  natLe r.va.toNat 8 ++
    natLe (r.waiters * 2 ^ 48 + (if r.eng then 2 ^ 44 else 0) + r.acc * 2 ^ 42 + r.kind * 2 ^ 38 + r.level * 2 ^ 36 +
      r.cluster * 2 ^ 28 + r.launch % 4096 * 2 ^ 16 + r.part * 2 ^ 12 + r.asid) 8 ++ natLe r.entry 8 ++ natLe r.seq 8
/-- Nothing but transactions waits on a fault record. -/
def onlyFlights (s : State) (die key : Nat) : Prop :=
  s.frontWaits die key = false ∧ ∀ e ∈ s.clusters, e.2.engines = []
/-- The die has exactly this one record, made, with sequence number `q`. -/
def oneRecord (s : State) (die : Nat) (r : FRec) (q : Nat) : Prop :=
  (s.die die).records = [r] ∧ r.made = true ∧ r.seq = q ∧ mapWf {} s.dies = true
/-- R95: the structure number of a row of the table. -/
def errorRow : EccStruct → Nat
  | .hbm => 0 | .memCache => 1 | .clusterSide => 2 | .sramSide => 3 | .regFile => 4 | .control => 5 | .flit => 6

end Sys2Proof.Claims

/-- A load that arrives at another core's scratchpad, at its uncached home or at a line the cluster cache holds delivers
its bytes, extended, and ends; a waiting load at an EMPTY granule enters the core's remote-wait table; a rejected load
completes with zero and a deferred trap; a store at its home writes exactly its masked bytes and is acknowledged; a
segment-table read fills its register; an instruction line that has arrived is installed and goes to the slots that wait
for it. -/
def Obligations.AccessesComplete : Prop :=
  ∀ (s : State) (id : Nat) (f : Flight), reaching s id f → unhindered s f →
    let x := s.slot f.owner
    (x.status = .ready → ∀ (n : Fin 32) (size : Nat) (sext : Bool), 0 < size → size ≤ 8 →
      let got := fun (t : State) (v : Nat) => ended s id t ∧ t.mem = s.mem ∧
        t.slots = (s.modSlot f.owner fun x => x.wg n (extended size sext v)).slots
      (f.kind = .load (.g n size sext) .none .read 0 →
        (∀ a, atScratchpad s f a size → ∃ t, exec (.loadCompletion id) s = .next t ∧ got t (bytesAt s a size)) ∧
        (∀ va pa, atHome s f va pa size true →
          ∃ t, exec (.loadCompletion id) s = .next t ∧ got t (readLe s.mem pa size)) ∧
        (∀ va pa line, atHome s f va pa size false → mapGet none (s.cluster (clusterOf f.thr)).cache (pa / 128) = some line →
          ∃ t, exec (.loadCompletion id) s = .next t ∧ got t ((line.extractLsb' (8 * (pa % 128)) (8 * size)).toNat)) ∧
        (∀ va d k, f.pieces = [⟨.glob f.asid va, size, 0, .parked d k⟩] → (s.die d).records = [] → x.deferred = none →
          x.acqReg = none → x.tstat.getLsbD 6 = false →
          ∃ t, exec (.poisonCompletion id) s = .next t ∧ ended s id t ∧ t.mem = s.mem ∧
            t.slots = (s.modSlot f.owner fun x => { x.wg n 0 with deferred := some ⟨8, f.pc, BitVec.ofNat 64 va⟩ }).slots)) ∧
      (∀ a, f.kind = .load (.g n size sext) .wait .read 0 → atScratchpad s f a size →
        (s.anyEmpty a size = false → ∃ t, exec (.remoteWaitRetry id) s = .next t ∧ got t (bytesAt s a size)) ∧
        (s.anyEmpty a size = true → (s.core (chipCore a)).remoteWait.length < 32 → id ∉ (s.core (chipCore a)).remoteWait →
          ∃ t, exec (.remoteWaitRetry id) s = .next t ∧ t.slots = s.slots ∧ t.mem = s.mem ∧
            (t.core (chipCore a)).remoteWait = (s.core (chipCore a)).remoteWait ++ [id] ∧
            turnedInto s id { f with pieces := [⟨.chip a, size, 0, .waiting⟩] } t))) ∧
    (∀ (data : VWord) (mask : BitVec 64) (ids : List Nat) (first va pa : Nat) (u : Bool), x.status = .ready →
      f.kind = .store data mask none false ids first → atHome s f va pa 64 u → unwatched s pa 64 →
      s.settled id ids = ids.length →
      ∃ t, exec (.storeAcknowledgement id) s = .next t ∧ ended s id t ∧
        t.slots = (s.modSlot f.owner fun x => { x with sbcnt := x.sbcnt - ids.length }).slots ∧
        ∀ c, readByte t.mem c = if pa ≤ c ∧ c < pa + 64 ∧ mask.getLsbD (c - pa) = true
          then data.extractLsb' (8 * (c - pa)) 8 else readByte s.mem c) ∧
    (∀ (n : Fin 8) (sel va pa : Nat), n ≠ 2 → sel < 256 → x.status = .blocked (.segment n.val) →
      f.kind = .load (.seg n sel) .none .read 0 → s.queues = [] → s.poisoned pa 16 = false →
      f.pieces = [⟨.glob f.asid va, 8, 0, .home pa true⟩, ⟨.glob f.asid (va + 8), 8, 8, .home (pa + 8) true⟩] →
      let w1 := BitVec.ofNat 64 (readLe s.mem (pa + 8) 8)
      w1.extractLsb' 54 2 = 0 →
      ∃ t d, exec (.segmentTableRead id) s = .next t ∧ ended s id t ∧ t.mem = s.mem ∧
        t.slot f.owner = { x.wsg n d with status := .ready } ∧ d.base = BitVec.ofNat 64 (readLe s.mem pa 8) ∧
        d.sel = sel ∧ d.w1.extractLsb' 0 56 = w1.extractLsb' 0 56) ∧
    (∀ (key : Nat) (line : VWord), f.kind = .load (.fetch key) .none .fetch line → (∀ p ∈ f.pieces, p.phase = .done) →
      (∀ g ∈ others s id, coreOf g.thr = coreOf f.thr → ∀ gop a l, g.kind ≠ .load (.fetch key) gop a l) →
      (∀ g ∈ s.flights, ∀ p ∈ g.pieces, p.phase ≠ .icache id) →
      let k := s.core (coreOf f.thr)
      (⟨key, true, id⟩ : IFill) ∈ k.ifills → mapWf none k.icache = true →
      ∃ t, exec (.icacheFill (coreOf f.thr) key) s = .next t ∧ t.mem = s.mem ∧ ended s id t ∧
        mapGet none (t.core (coreOf f.thr)).icache key = some line ∧
        (∀ j, j ≠ key → mapGet none (t.core (coreOf f.thr)).icache j = mapGet none k.icache j ∨
          mapGet none (t.core (coreOf f.thr)).icache j = none) ∧
        ((k.icache.filter fun e => e.1 ≠ key && e.1 / 64 % 128 = key / 64 % 128).length < 4 →
          (t.core (coreOf f.thr)).icache = mapPut none k.icache key (some line)) ∧
        ∀ thr, coreOf thr = coreOf f.thr → (s.slot thr).status = .blocked (.ifetch id) →
          t.slot thr = { s.slot thr with status := .ready, fetched := some (key, line) })

/-- 03 R77, R81, 05 R136, 03 R95, R97, R98, 01 R24, R29-R31: buffers, fills and releases that end; errors that are counted
and what each strikes; a write through a window performed exactly, or refused. -/
def Obligations.BuffersErrorsAndWindows : Prop :=
  ∀ s : State, canonical s → mapWf {} s.dies = true →
    (∀ (c id : Nat) (e : SbEntry), (s.core c).sb = [e] → e.ids = [id] → e.lastUse + 64 ≤ s.cycle →
      ∃ t f, exec (.storeBufferDrain c id) s = .next t ∧ (t.core c).sb = [] ∧ t.slots = s.slots ∧ t.mem = s.mem ∧
        t.flights = s.flights ++ [f] ∧ f.kind = .store e.data e.mask e.fill e.grans [id] e.first ∧
        f.pieces = [⟨if e.chip then .chip e.blk else .glob e.asid e.blk, 64, 0, .new⟩]) ∧
    (∀ cl line id : Nat, (s.cluster cl).fills = [⟨id, line, true, []⟩] → s.queues = [] → s.poisoned (line * 128) 128 = false →
      (∀ g ∈ s.flights, clusterOf g.thr = cl → 2 ^ 20 + line ∉ g.headings) →
      (∀ g ∈ s.flights, ∀ p ∈ g.pieces, ∀ pa, p.phase ≠ .filling pa id) →
      let cache := (s.cluster cl).cache
      mapWf none cache = true → (cache.filter fun e => e.1 ≠ line && e.1 % 512 = line % 512).length < 16 →
      ∃ t, exec (.clusterCacheFill cl line) s = .next t ∧ t.slots = s.slots ∧ t.mem = s.mem ∧ (t.cluster cl).fills = [] ∧
        (t.cluster cl).cache = mapPut none cache line (some (BitVec.ofNat 1024 (readLe s.mem (line * 128) 128)))) ∧
    (∀ thr start code : Nat, (s.slot thr).status = .blocked .release → (s.slot thr).relFrom = some (start, code) →
      (s.slot thr).sbcnt = 0 → (s.core (coreOf thr)).sb = [] →
      (∀ f ∈ s.flights, coreOf f.owner ≠ coreOf thr ∧ f.id ∉ (s.slot thr).relWaits) →
      exec (.releaseCompletion thr) s = .next (s.setSlot thr { s.slot thr with status := .ready })) ∧
    (∀ (die : Nat) (st : EccStruct), exec (.eccCorrectableError die st) s =
      .next (s.modDie die fun d =>
        { d with corrected := mapPut 0 d.corrected (errorRow st) (mapGet 0 d.corrected (errorRow st) + 1) })) ∧
    (∀ die : Nat,
      (∀ pa, pa < 0x6000000000 → ∃ t, exec (.eccUncorrectableError die (.hbmWord pa)) s = .next t ∧ t.mem = s.mem ∧
        t.poison = mapPut false s.poison (pa / 8) true ∧ t.slots = s.slots) ∧
      (∀ thr (n : Fin 32), ∃ t, exec (.eccUncorrectableError die (.gReg thr n)) s = .next t ∧ t.mem = s.mem ∧
        t.slots = (s.modSlot thr fun x => { x with dataErr := some n.val }).slots) ∧
      (∀ c : Nat, (s.core c).entries = [] → ∃ t, exec (.eccUncorrectableError die (.deque c)) s = .next t ∧ t.slots = s.slots ∧
        t.launches = s.launches)) ∧
    (∀ die : Nat, exec (.patrolScrub die) s = .next (s.modDie die fun d => { d with scrubs := d.scrubs + 1 })) ∧
    (∀ (die link : Nat) (net : Fin 4),
      (∃ t, exec (.flitCrcError die net link) s = .next t ∧ t.mem = s.mem ∧ t.slots = s.slots ∧
        mapGet 0 (t.die die).corrected 6 = mapGet 0 (s.die die).corrected 6 + 1) ∧
      ∃ t, exec (.networkStarvationGrant die net link) s = .next t ∧ t.mem = s.mem ∧ t.slots = s.slots ∧
        t.flights = s.flights) ∧
    (∀ (c : Nat) (v : Word), v.toNat < 2 ^ 22 → exec (.admitWrite c v) s = .next (s.modCore c fun k => { k with admission := v })) ∧
    (∀ (w : WinWrite), winWriteOk w = true → (∀ i sp, mapGet none s.specs i = some sp → sp.undo.any (Undo.covers w.addr) = false) →
      (s.windowRefuses w = true → exec (.windowWrite w) s = .next s) ∧
      (s.windowRefuses w = false →
        (w.addr / 2 ^ 31 % 2 = 0 → w.addr / 2 ^ 24 % 16 = 0 →
          ∃ t, exec (.windowWrite w) s = .next t ∧ t.slots = s.slots ∧
            ∀ c, readByte t.mem c = if chipKey w.addr ≤ c ∧ c < chipKey w.addr + w.data.length
              then w.data.getD (c - chipKey w.addr) 0 else readByte s.mem c) ∧
        (w.addr / 2 ^ 31 % 2 = 0 → w.addr / 2 ^ 24 % 16 = 1 → w.addr % 8 = 0 →
          let thr := chipCore w.addr * 16 + w.addr % 2 ^ 24 / 0x100
          let n := w.addr % 0x100 / 8
          (s.slot thr).status = .blocked (.reg .g n) →
          ∃ t, exec (.windowWrite w) s = .next t ∧ t.mem = s.mem ∧
            t.slots = (s.setSlot thr { (s.slot thr).wg n (BitVec.ofNat 64 (leNat w.data)) with status := .ready }).slots)))

/-- 02 R41-R60: a walker takes a miss; a walk whose last table entry is a permitting leaf gives the physical address, and
one without a root entry makes a fault record and parks the access; records go to their partition's sub-ring in order; a
resolution lets the parked access walk again or rejects it, a timeout rejects it; a resolution word with a reserved bit,
and a consumer count above the producer's, are ignored. -/
def Obligations.WalksAndFaultRecords : Prop :=
  ∀ (s : State) (die : Nat), canonical s → mapWf {} s.dies = true →
    (∀ (k : WalkKey) (m : Miss), (s.die die).misses = [m] → m.key = k → m.walking = false → s.missHits m = false →
      (∀ e ∈ s.clusters, e.2.portQ = [] ∧ s.portHeads e.1 = []) →
      ∃ t, exec (.walkStart die k) s = .next t ∧ (t.die die).misses = [{ m with walking := true }] ∧ t.slots = s.slots ∧
        t.mem = s.mem ∧ (s.cycle + Config.latency s.nextId, Ev.walkCompletion die k) ∈ t.agenda) ∧
    (∀ (f : Flight) (va len : Nat) (d : Dest) (m : Miss), reaching s f.id f → f.kind = .load d .none .read 0 →
      dieOfCluster (clusterOf f.thr) = die → f.pieces = [⟨.glob f.asid va, len, 0, .walking⟩] → va < 2 ^ 64 →
      m.key = ⟨f.asid, va / 65536⟩ → (s.die die).misses = [m] → m.who = [(f.id, 0)] → m.walking = true → m.valid = true →
      coldTlbs s (clusterOf f.thr) → portsIdle s f.id →
      (∀ base e : Nat, (s.die die).wcache = [⟨f.asid, 3, va / 2 ^ 29, base⟩] → mapGet [] s.asidOld f.asid = [] →
        let ea := base + va / 2 ^ 16 % 2 ^ 13 * 8
        let pa := e / 2 ^ 16 % 2 ^ 36 * 65536 + va % 65536
        ea + 8 ≤ 0x6000000000 → s.poisoned ea 8 = false → readLe s.mem ea 8 = e →
        (e % 2 = 1 ∧ e / 2 % 2 = 1 ∧ e / 4 % 2 = 1 ∧ e / 2 ^ 7 % 2 = 1 ∧ e / 2 ^ 9 % 2 = 0 ∧ e / 2 ^ 11 % 2 ^ 5 = 0 ∧
          e < 2 ^ 63) → pa + 1 ≤ 0x6000000000 →
        ∃ t, exec (.walkCompletion die m.key) s = .next t ∧ t.mem = s.mem ∧ t.slots = s.slots ∧ (t.die die).misses = [] ∧
          ∃ n, turnedInto s f.id
            { f with pieces := [⟨.glob f.asid va, len, 0, .home pa (decide (e / 2 ^ 8 % 2 = 1))⟩], stamp := n } t) ∧
      ((s.die die).wcache = [] → mapGet 0 s.asidRoots f.asid = 0 → mapGet [] s.asidOld f.asid = [] →
        (s.die die).records = [] → s.parkedOf (clusterOf f.thr) < 512 →
        ∃ t r, exec (.walkCompletion die m.key) s = .next t ∧ t.mem = s.mem ∧ t.slots = s.slots ∧ (t.die die).records = [r] ∧
          r.va.toNat = va ∧ r.waiters = 1 ∧ r.eng = false ∧ r.acc = 0 ∧ r.kind = 3 ∧ r.cluster = clusterOf f.thr ∧
          r.launch = f.lid ∧ r.asid = f.asid ∧ r.made = true ∧ r.seq = (s.die die).seq ∧
          turnedInto s f.id { f with pieces := [⟨.glob f.asid va, len, 0, .parked die r.key⟩] } t)) ∧
    (∀ (part : Nat) (p : PartRec) (r : FRec) (q : Nat), mapGet none s.parts part = some p → oneRecord s die r q →
      r.appended = false → r.part = part →
      let n := mapGet 0 (s.die die).prod part
      let size := 2 ^ p.frlog2.toNat
      n < 2 ^ 64 - 1 → n - mapGet 0 (s.die die).cons part < size → mapGet 0 (s.die die).cons part ≤ n →
      ∃ t, exec (.faultRecordAppend die part) s = .next t ∧ t.slots = s.slots ∧ t.mem = s.mem ∧
        (t.die die).records = [{ r with appended := true }] ∧ mapGet 0 (t.die die).prod part = n + 1 ∧
        t.outbox = s.outbox ++
          [ .hostWrite part (p.frbase.toNat + die * 32 * size + n % size * 32) (recordBytes r),
            .hostWrite part (p.frprod.toNat + 8 * die) (natLe (n + 1) 8) ]) ∧
    (∀ (f : Flight) (r : FRec) (q : Nat) (va len : Nat), reaching s f.id f → f.access = true → oneRecord s die r q →
      onlyFlights s die r.key → f.pieces = [⟨.glob f.asid va, len, 0, .parked die r.key⟩] → r.who = [(f.id, 0)] →
      dieOfCluster (clusterOf f.thr) = die → portsIdle s f.id → q < 2 ^ 32 →
      ((∀ g ∈ others s f.id, ∀ p ∈ g.pieces, ∀ d k, p.phase ≠ .parked d k) → coldTlbs s (clusterOf f.thr) →
        (s.die die).misses = [] →
        ∃ t, exec (.faultResolutionWrite die (BitVec.ofNat 64 q)) s = .next t ∧ t.slots = s.slots ∧ t.mem = s.mem ∧
          (t.die die).records = [] ∧ turnedInto s f.id { f with pieces := [⟨.glob f.asid va, len, 0, .walking⟩] } t ∧
          (t.die die).misses = [⟨⟨f.asid, va / 65536⟩, false, true, clusterOf f.thr, [(f.id, 0)]⟩]) ∧
      (∃ t, exec (.faultResolutionWrite die (BitVec.ofNat 64 (2 ^ 32 + q))) s = .next t ∧ t.slots = s.slots ∧ t.mem = s.mem ∧
        (t.die die).records = [] ∧ t.flights = s.flights ∧ (s.cycle, Ev.poisonCompletion f.id) ∈ t.agenda) ∧
      (r.ftime ≠ 0 → r.born + r.ftime ≤ s.cycle →
        ∃ t, exec (.faultTimeout die q) s = .next t ∧ t.slots = s.slots ∧ t.mem = s.mem ∧ (t.die die).records = [] ∧
          (s.cycle, Ev.poisonCompletion f.id) ∈ t.agenda)) ∧
    (∀ w : Word, 2 ^ 33 ≤ w.toNat → exec (.faultResolutionWrite die w) s = .next s) ∧
    (∀ (part : Nat) (v : Word),
      (mapGet 0 (s.die die).prod part < v.toNat → exec (.faultConsWrite die part v) s = .next s) ∧
      (v.toNat ≤ mapGet 0 (s.die die).prod part → (s.die die).records = [] → exec (.faultConsWrite die part v) s =
        .next (s.modDie die fun d => { d with cons := mapPut 0 d.cons part v.toNat })))

namespace Sys2Proof.Claims

/-! ### Dispatch, stealing, launches -/

/-- The deque of core `c` holds the one entry `e` on the core. -/
def oneEntry (s : State) (c : Nat) (e : DqEntry) : Prop :=
  (s.core c).spilled = [] ∧ (s.core c).deque = [e] ∧ e.place = none ∧ e.inSteal = false
/-- Core `c` may give a slot to launch `lid`, which has the record `l` and no task on the core (R191). -/
def mayDispatch (s : State) (c lid : Nat) (l : Launch) : Prop :=
  s.launch lid = some l ∧ l.killed = false ∧ l.stopped = false ∧ l.specOf = none ∧ 0 < l.hdr.slots ∧
    (s.cluster (c / 8)).part = some l.part ∧ (s.cluster (c / 8)).switching = none ∧ (s.core c).fenced = false ∧
    ∀ i, i < 16 → (s.slot (c * 16 + i)).task ≠ some lid
/-- The slot that begins a task for the entry `e`. -/
def dispatched (x : Slot) (e : DqEntry) : Slot :=
  { x.toIdle with status := .dispatching, task := some e.launch, entry := some e, hdrWait := true,
                  lid := BitVec.ofNat 64 e.launch, mode := .user }
/-- Slot `t` is IDLE, and neither logged by a speculation in flight nor kept by one of the launch (06 R170, R173). -/
def takes (s : State) (t lid : Nat) : Prop :=
  (s.slot t).status = .idle ∧
    ∀ q ∈ s.specs, ∀ sp, q.2 = some sp → sp.lid ≠ lid ∧ sp.undo.any (Undo.same (.slot t {})) = false
/-- The one entry of core `v` is a continuation that core `c`, which has a slot for it, may steal (R202). -/
def mayBeStolen (s : State) (v : Nat) (e : DqEntry) (l : Launch) (c : Nat) : Prop :=
  oneEntry s v e ∧ e.kind = 0 ∧ e.refused = [] ∧ s.launch e.launch = some l ∧ l.killed = false ∧ l.specOf = none ∧
    l.part = s.partOf c ∧ (s.cluster (v / 8)).switching = none ∧ ∃ i, i < 16 ∧ takes s (c * 16 + i) e.launch
/-- Threads and memory stay as they were. -/
def still (s t : State) : Prop := t.slots = s.slots ∧ t.mem = s.mem

end Sys2Proof.Claims

/-- A dispatch gives the lowest IDLE slot the entry at the tail, or one ordinal of its range; the header of its frame is
read once the producer's writes are performed, and when it is there the task begins with the registers of R205. -/
def Obligations.DispatchBeginsTasks : Prop :=
  ∀ (s : State) (e : DqEntry) (l : Launch), canonical s →
    (∀ c : Nat, oneEntry s c e → mayDispatch s c e.launch l → takes s (c * 16) e.launch →
      (e.kind = 0 → ∃ t, exec (.dispatch c) s = .next t ∧ t.mem = s.mem ∧ (t.core c).deque = [] ∧
        t.slot (c * 16) = dispatched (s.slot (c * 16)) e) ∧
      (e.kind = 1 → e.lo + 2 ≤ e.hi → ∃ t, exec (.dispatch c) s = .next t ∧ t.mem = s.mem ∧
        (t.core c).deque = [{ e with lo := e.lo + 1 }] ∧
        t.slot (c * 16) = dispatched (s.slot (c * 16)) { e with hi := e.lo + 1 })) ∧
    (∀ thr : Nat, let x := s.slot thr
      x.status = .dispatching → x.entry = some e → s.launch e.launch = some l →
      ((∀ f ∈ s.flights, f.owner = thr → ∀ g a v, f.kind ≠ .load .header g a v) → e.waits = [] → x.hdrWait = true →
        ∃ t f, exec (.headerArrival thr) s = .next t ∧ t.mem = s.mem ∧ t.slots = (s.setSlot thr { x with hdrWait := false }).slots ∧
          t.flights = s.flights ++ [f] ∧ f.thr = thr ∧ f.kind = .load .header .none .read 0 ∧
          f.pieces = [⟨.glob l.asid e.frame.toNat, 64, 0, .new⟩]) ∧
      (∀ (f : Flight) (b : List Byte), s.flight f.id = some f → (∀ g ∈ others s f.id, g.owner ≠ thr) → f.owner = thr →
        f.orphan = false → (∀ p ∈ f.pieces, p.phase = .done) →
        f.kind = .load .header .none .read (BitVec.ofNat 512 (leNat b)) → b.length = 64 → x.preempt = false → e.kind = 0 →
        e.acq = false → s.headerOk l.part b = true → (b.drop 48).take 8 = List.replicate 8 0 →
        ∃ t, exec (.headerArrival thr) s = .next t ∧ t.mem = s.mem ∧ ended s f.id t ∧
          let y := t.slot thr
          y.status = .ready ∧ y.pc = BitVec.ofNat 64 e.lo ∧ y.mode = .user ∧ y.fr = e.frame ∧ y.jc = leNat ((b.drop 8).take 8) ∧
            y.fmode = BitVec.ofNat 64 (leNat ((b.drop 56).take 4)) ∧ y.rseed = BitVec.ofNat 64 (leNat ((b.drop 60).take 4)) ∧
            y.wid = 0 ∧ y.lidN = e.launch % 4096 ∧ y.fflags = 0 ∧ y.rg 1 = e.frame ∧
            (∀ n, 1 < n → n < 32 → y.gReg n = {}) ∧ (∀ n, n < 32 → y.vReg n = {}) ∧ ∀ n, 0 < n → n < 8 → y.mReg n = {}))

/-- A probe that meets a stealable entry asks for it, and one that ends the round is followed by the pause of R204; a
grant within the cluster removes the entry and moves it, one across clusters marks it and waits for the release; what
arrives begins in the thief's IDLE slot, of a range piece its first ordinal, and what no slot takes is pushed at its tail.
-/
def Obligations.StealingMovesEntries : Prop :=
  ∀ (s : State) (c : Nat), canonical s →
    (∀ (i : Instr) (e : DqEntry) (l : Launch), s.stealRuns c = true → (s.core c).ladder = 0 →
      mayBeStolen s (c / 8 * 8 + (c % 8 + 1) % 8) e l c →
      ((i = .stealProbe c ∧ (s.core c).pausing = false) ∨ i = .probePauseExpiry c) →
      ∃ t, exec i s = .next t ∧ still s t ∧ (s.cycle, Ev.stealGrant (c / 8 * 8 + (c % 8 + 1) % 8) c) ∈ t.agenda) ∧
    (s.stealRuns c = true → (s.core c).pausing = false →
      (ladderOf c (s.core c).round (s.core c).cmask).length ≤ (s.core c).ladder →
      ∃ t, exec (.stealProbe c) s = .next t ∧ still s t ∧ (t.core c).pausing = true ∧ (t.core c).ladder = 0 ∧
        (t.core c).round = ((s.core c).round + 1) % 2 ^ 32 ∧ (t.core c).failed = (s.core c).failed + 1 ∧
        (s.cycle + 64 * 2 ^ min (s.core c).failed 6, Ev.probePauseExpiry c) ∈ t.agenda) ∧
    (∀ (v : Nat) (e : DqEntry) (l : Launch), v ≠ c → mayBeStolen s v e l c → e.slot < 16 → (s.core v).sb = [] →
      ∃ t f, exec (.stealGrant v c) s = .next t ∧ t.mem = s.mem ∧ t.flights = s.flights ++ [f] ∧ f.id = s.nextId ∧
        if v / 8 = c / 8 then f.kind = .steal e v c false false [] true [] ∧ (t.core v).deque = [] ∧
          (s.cycle + Config.latency s.nextId, Ev.stealDelivery s.nextId) ∈ t.agenda
        else (∃ w, f.kind = .steal { e with inSteal := true, waits := e.waits ++ w } v c true false [] false []) ∧
          (t.core v).deque = [{ e with inSteal := true }] ∧
          (s.cycle + Config.latency s.nextId, Ev.stealReleaseDone s.nextId) ∈ t.agenda) ∧
    (∀ (id v : Nat) (f : Flight) (e : DqEntry), s.flight id = some f →
      (f.kind = .steal e v c true true [] false [] → e.waits = [] →
        ∃ t, exec (.stealReleaseDone id) s = .next t ∧ still s t ∧
          turnedInto s id { f with kind := .steal { e with acq := true } v c true true [] true [] } t ∧
          (s.cycle + Config.latency id, Ev.stealDelivery id) ∈ t.agenda) ∧
      (∀ (l : Launch) (cross : Bool), mayDispatch s c e.launch l →
        let pushed := fun (lo : Nat) => (s.core c).deque ++
          [{ e with lo := lo, refused := [], seq := (s.core c).push, place := none }]
        (f.kind = .steal e v c false false [] true [] → takes s (c * 16) e.launch →
          ∃ t, exec (.stealDelivery id) s = .next t ∧ t.mem = s.mem ∧ ended s id t ∧
            t.slots = (s.setSlot (c * 16) (dispatched (s.slot (c * 16)) { e with refused := [] })).slots) ∧
        (f.kind = .steal e v c cross true [] true [] → takes s (c * 16) e.launch → e.lo + 2 ≤ e.hi →
          (s.core c).deque.length < 64 →
          ∃ t, exec (.stealDelivery id) s = .next t ∧ t.mem = s.mem ∧ ended s id t ∧ (t.core c).deque = pushed (e.lo + 1) ∧
            t.slots = (s.setSlot (c * 16) (dispatched (s.slot (c * 16)) { e with hi := e.lo + 1, refused := [] })).slots) ∧
        (f.kind = .steal e v c false false [] true [] ∨ f.kind = .steal e v c cross true [] true [] →
          (∀ i, i < 16 → (s.slot (c * 16 + i)).status ≠ .idle) → (s.core c).deque.length < 64 →
          ∃ t, exec (.stealDelivery id) s = .next t ∧ still s t ∧ ended s id t ∧ (t.core c).deque = pushed e.lo)))

namespace Sys2Proof.Claims

/-- Queue `q` is defined, a die leads, and its one packet is the started packet `p` with nothing parked. -/
def onlyPacket (s : State) (q : Nat) (p : Packet) : Prop :=
  (s.queue q).defined = true ∧ s.led = true ∧ (s.queue q).packets = [p] ∧ (s.queue q).hold = none ∧ p.started = true ∧
    p.done = false ∧ p.ending = none ∧ p.parked = none
/-- The one packet of queue `q` has completed: RD has passed it. -/
def packetOver (s : State) (q : Nat) (t : State) : Prop :=
  (t.queue q).packets = [] ∧ (t.queue q).rd = (s.queue q).next ∧ t.slots = s.slots
/-- The one speculation in flight runs for launch `sp.lid`; nothing of it is on its way and nothing is in its undo log. -/
def oneSpec (s : State) (sid : Fin 4) (sp : Spec) : Prop :=
  s.specs = [(sid.val, some sp)] ∧ sp.claimed = false ∧ sp.asked = false ∧ sp.replies = [] ∧ sp.undo = [] ∧ s.flights = [] ∧
    s.cores = [] ∧ s.clusters = [] ∧ mapWf none s.launches = true
/-- The speculation is discarded with a cause (06 R174, R180). -/
def discarded (s : State) (sp : Spec) (cause : Nat) (t : State) : Prop :=
  t.specs = [] ∧ t.launch sp.lid = none ∧ t.mem = s.mem ∧ (t.queue sp.queue).spec = none ∧
    (t.queue sp.queue).discards = ((s.queue sp.queue).discards + 1) % 2 ^ 32 ∧ (t.queue sp.queue).lastCause = cause
/-- The record of a reclaimed launch with `k` leaked tiles (15 R388, 04 R114). -/
def reclaimed (l : Launch) (k : Nat) : Launch :=
  { l with phase := 8, leak := k, status := if l.status = 0 ∧ l.hdr.strict = true ∧ k ≠ 0 then 4 else l.status }
/-- No store of launch `lid` is buffered or on its way (05 R160). -/
def storesDone (s : State) (lid : Nat) : Prop :=
  (∀ f ∈ s.flights, f.lid = lid → f.writes = false) ∧ ∀ e ∈ s.cores, ∀ b ∈ e.2.sb, b.lid ≠ lid
/-- A management event is raised (17 R430). -/
def raised (s t : State) (code : Nat) (body : List Byte) : Prop :=
  s.lost = 0 → s.events.length < 256 → t.events = s.events ++ [⟨s.eventNo, code, body⟩] ∧ t.eventNo = s.eventNo + 1

end Sys2Proof.Claims

/-- A LAUNCH whose pieces are pushed gives its root task the first IDLE slot, with the header's registers; one with an
invalid header and no record or signal is over at once. A retired launch is asked for its quiescence in pairs of waves,
reclaimed when both agree, and its packet ends; the watchdog stops it at T1 and kills it T2 later. -/
def Obligations.LaunchesBeginAndEnd : Prop :=
  ∀ (s : State), canonical s →
    (∀ (q i lid cl : Nat) (l : Launch), s.launches = [(lid, some l)] → l.queue = q → l.index = i → l.specOf = none →
      l.phase = 6 → l.parked = none → l.hdr.sel = List.replicate 8 0 → s.partClusters l.part = [cl] →
      mayDispatch s (cl * 8) lid l → takes s (cl * 8 * 16) lid → (s.slot (cl * 8 * 16)).preempt = false →
      ∃ t, exec (.launch q i) s = .next t ∧ t.mem = s.mem ∧ t.launches = [(lid, some { l with phase := 7, since := s.cycle })] ∧
        let y := t.slot (cl * 8 * 16)
        y.status = .ready ∧ y.pc = l.hdr.entry ∧ y.mode = .user ∧ y.fr = l.hdr.rootf ∧ y.rg 1 = l.hdr.rootf ∧ y.tk = .root ∧
          y.jc = l.ctr.getD 0 ∧ y.fmode = BitVec.ofNat 64 l.hdr.fmode ∧ y.rseed = BitVec.ofNat 64 l.hdr.rseed ∧
          y.prio = BitVec.ofNat 64 l.hdr.prio ∧ y.lidN = lid % 4096 ∧ (1 < l.hdr.count → y.wid = 0)) ∧
    (∀ (q : Nat) (p : Packet), onlyPacket s q p → s.launches = [] → p.ty = 0 →
      let h := launchHeader p.slots
      s.headerValid (s.queue q) h = false → h.crec = 0 → h.csig = 0 →
      ∃ t, exec (.launch q p.index) s = .next t ∧ packetOver s q t ∧ t.mem = s.mem ∧ t.launches = []) ∧
    (∀ (lid : Nat) (l : Launch), s.launch lid = some l → l.specOf = none → l.killed = false → mapWf none s.launches = true →
      (l.retired = true → l.phase < 8 →
        (exec (.launchCompletion lid) s = .next (s.poll s.nextId (.quiescenceWave lid))) ∧
        (l.wave = none → ∃ t, exec (.quiescenceWave lid) s = .next t ∧ still s t ∧
          t.launch lid = some { l with wave := some ((s.sums (· = lid)).1, (s.sums (· = lid)).2, s.quiet lid) } ∧
          ∃ n, (n, Ev.quiescenceWave lid) ∈ t.agenda) ∧
        (∀ n : Nat, l.wave = some (n, n, true) → s.sums (· = lid) = (n, n) → s.quiet lid = true →
          (∀ cl ∈ s.partClusters l.part, (s.cluster cl).part = some l.part) →
          ∃ t k, exec (.quiescenceWave lid) s = .next t ∧ t.mem = s.mem ∧ (s.cycle, Ev.launchCompletion lid) ∈ t.agenda ∧
            t.launch lid = some (reclaimed l k))) ∧
      (∀ p : Packet, l.phase = 8 → onlyPacket s l.queue p → p.index = l.index → l.hdr.crec = 0 → l.hdr.csig = 0 →
        storesDone s lid →
        ∃ t, exec (.launchCompletion lid) s = .next t ∧ packetOver s l.queue t ∧ t.mem = s.mem ∧ t.launch lid = none) ∧
      (l.phase < 8 → l.claimed = false →
        (∀ c thr : Nat, l.start = some c → l.stage = 0 → (s.queue l.queue).t1 ≠ 0 → c + (s.queue l.queue).t1 * 1024 ≤ s.cycle →
          s.slots.map (·.1) = [thr] → (s.slot thr).task = some lid → (s.slot thr).status = .ready → (s.slot thr).mode = .user →
          s.specOf (s.slot thr).lidN = none →
          (∀ e ∈ s.specs, ∀ sp, e.2 = some sp → sp.claimed = true ∨ (s.launch sp.lid).map (·.part) ≠ some l.part) →
          ∃ t, exec (.watchdogPreempt lid) s = .next t ∧ t.mem = s.mem ∧ (t.slot thr).status = .parked ∧
            t.launch lid = some { l with stage := 1, stageAt := s.cycle, stopped := true } ∧
            raised s t 0x100 (natLe (lid + l.queue * 2 ^ 16 + 2 ^ 32) 8) ∧
            ((s.queue l.queue).t2 ≠ 0 → (s.cycle + (s.queue l.queue).t2 * 1024, Ev.watchdogKill lid) ∈ t.agenda)) ∧
        (l.stage = 1 → (s.queue l.queue).t2 ≠ 0 → l.stageAt + (s.queue l.queue).t2 * 1024 ≤ s.cycle →
          ∃ t, exec (.watchdogKill lid) s = .next t ∧ still s t ∧
            t.launch lid = some { l with stage := 2, stageAt := s.cycle, status := 1, killed := true, stopped := false } ∧
            raised s t 0x100 (natLe (lid + l.queue * 2 ^ 16 + 2 * 2 ^ 32) 8) ∧ (s.cycle, Ev.launchCompletion lid) ∈ t.agenda)))

/-- A speculation begins when every condition of R400 holds; a write to a granule its watchers hold discards it, as does
any other cause; the fourth reply without a conflict claims it; a claimed one that has ended puts its lines' bytes at
their homes. -/
def Obligations.SpeculationsRunAndEnd : Prop :=
  ∀ s : State,
    (∀ (q lid i : Nat) (e : History) (ex : List (Nat × Nat) × List TlbEntry), let k := s.queue q
      let h := launchHeader e.predict
      let cl := (s.lowCluster h.part).getD 0
      (k.defined = true ∧ k.mayPredict = true ∧ k.state ≠ 4 ∧ k.idle = true ∧ k.wr = k.rd ∧ k.spec = none ∧ k.held = true ∧
        k.lastEnd = k.wr) →
      (∃ a, k.lastKey = some a ∧ k.history.find? (fun x => x.key = a) = some e) →
      (h.speculable = true ∧ s.headerValid k h = true ∧ s.dfarea1.getLsbD 63 = true ∧ s.dfarea1.toNat % 2 ^ 16 ≠ 0 ∧
        s.quarterIdle h.part = true ∧ s.waitsDispatch h.part = false ∧ h.frameDeclared = true ∧
        (s.cluster cl).freeCounter.isSome = true) →
      i < 4 → mapGet none s.specs i = none → (∀ j, j < i → mapGet none s.specs j ≠ none) → s.freeLaunch = some lid →
      s.watchExtents cl k.asid h = some ex →
      ∃ u sp, exec (.speculationStart q) s = .next (u.launchRun lid 8) ∧ still s u ∧ u.specs = mapPut none s.specs i (some sp) ∧
        sp.lid = lid ∧ sp.queue = q ∧ sp.extents = ex.1 ∧ sp.claimed = false ∧ sp.predicted = e.predict ∧
        (u.queue q).spec = some (Fin.ofNat 4 i) ∧ (u.queue q).starts = (k.starts + 1) % 2 ^ 32 ∧
        ∃ l, u.launch lid = some l ∧ l.hdr = h ∧ l.specOf = some (Fin.ofNat 4 i) ∧ l.phase = 2) ∧
    (∀ (sid : Fin 4) (sp : Spec), oneSpec s sid sp →
      (∀ cause : Nat, 1 ≤ cause → cause ≤ 17 → ∃ t, exec (.speculationDiscard sid cause) s = .next t ∧ discarded s sp cause t) ∧
      ∀ pa n : Nat, 0 < n → (∃ e ∈ sp.extents, 0 < e.2 ∧ e.1 / 256 ≤ (pa + n - 1) / 256 ∧ pa / 256 ≤ (e.1 + e.2 - 1) / 256) →
        ∃ t, exec (.watchedWrite pa n) s = .next t ∧ discarded s sp 1 t) ∧
    (∀ pa n : Nat, (∀ i sp, mapGet none s.specs i = some sp → ∀ e ∈ sp.extents,
        (pa + n - 1) / 256 < e.1 / 256 ∨ (e.1 + e.2 - 1) / 256 < pa / 256) →
      exec (.watchedWrite pa n) s = .next s) ∧
    (∀ (sid d : Fin 4) (sp : Spec), mapGet none s.specs sid.val = some sp → sp.asked = true → sp.claimed = false →
      d ∉ sp.replies →
      (sp.replies.length < 3 → exec (.claimReply sid d) s =
        .next { s with specs := mapPut none s.specs sid.val (some { sp with replies := d :: sp.replies }) }) ∧
      (∀ (i : Nat) (l : Launch), sp.replies.length = 3 → sp.conflict = false → (s.queue sp.queue).claiming = some i →
        s.launch sp.lid = some l →
        ∃ t n, exec (.claimReply sid d) s = .next t ∧ still s t ∧
          t.specs = mapPut none s.specs sid.val (some { sp with replies := d :: sp.replies, claimed := true }) ∧ (t.queue sp.queue).claiming = none ∧
          t.launch sp.lid = some { l with claimed := true, index := i, order := n })) ∧
    (∀ (sid : Fin 4) (sp : Spec) (l : Launch), s.specs = [(sid.val, some sp)] → sp.claimed = true → sp.ended = true →
      s.launch sp.lid = some l → storesDone s sp.lid → mapWf none sp.dry = true → s.mem.wf = true →
      (∀ e ∈ sp.dry, s.notifyOf e.1 = none) →
      ∃ t, exec (.speculationMerge sid) s = .next t ∧ t.slots = s.slots ∧ t.specs = [] ∧ (t.queue sp.queue).spec = none ∧
        (t.queue sp.queue).claims = ((s.queue sp.queue).claims + 1) % 2 ^ 32 ∧ t.launch sp.lid = some { l with specOf := none } ∧
        ∀ a, readByte t.mem a = (mapGet none sp.dry a).getD (readByte s.mem a))

namespace Sys2Proof.Claims

/-! ### Queues and their packets -/

/-- R393: whether a value meets a condition code against a compare value. -/
def condMet (code : Nat) (v c : Word) : Prop :=
  (code = 0 ∧ v = c) ∨ (code = 1 ∧ v ≠ c) ∨ (code = 2 ∧ v.toInt < c.toInt) ∨ (code = 3 ∧ c.toInt ≤ v.toInt) ∨
    (code = 4 ∧ v.toNat < c.toNat) ∨ (code = 5 ∧ c.toNat ≤ v.toNat) ∨ (code = 6 ∧ v &&& c ≠ 0) ∨ (code = 7 ∧ v &&& c = c)
/-- R389: what an operation leaves in a word that held `old`. -/
def signalled (op : Nat) (old v : Word) : Word :=
  match op with
  | 0 => v
  | 1 => old + v
  | 2 => if old.toNat ≤ v.toNat then v else old
  | _ => old ||| v
/-- The queue has halted with an error, its indices kept. -/
def halted (s : State) (q err : Nat) (t : State) : Prop :=
  (t.queue q).state = 4 ∧ (t.queue q).err = err ∧ (t.queue q).wr = (s.queue q).wr ∧ still s t
/-- The partition for which a queue's own packets act. -/
def actsFor (s : State) (q : Nat) : Nat := (s.queuePart (s.queue q)).getD 16

end Sys2Proof.Claims

/-- A write of WRIDX at or below WR changes nothing, one beyond the ring halts the queue, any other becomes WR; a queue
that takes a hardware slot has its slots read, and a NOP read from its slot is admitted and started; a slot stale for 2^20
cycles halts the queue, and a fault-wait of 1 ms deschedules it; the prediction counters take the host's words. -/
def Obligations.QueuesAdmitAndHalt : Prop :=
  ∀ (s : State) (q : Nat), let k := s.queue q
    k.defined = true → k.spec = none →
    (∀ v : Word,
      (v.toNat ≤ k.wr → exec (.wridx q v) s = .next s) ∧
      (k.wr < v.toNat → k.rd + k.size < v.toNat → k.state ≠ 4 → ∃ t, exec (.wridx q v) s = .next t ∧ halted s q 3 t) ∧
      (k.wr < v.toNat → v.toNat ≤ k.rd + k.size → ∃ t, exec (.wridx q v) s = .next t ∧ still s t ∧ (t.queue q).wr = v.toNat ∧
        (t.queue q).rd = k.rd ∧ (s.cycle, Ev.queueResidency q) ∈ t.agenda)) ∧
    (k.held = false → s.firstWaiting = some q → (s.queues.filter fun e => e.2.held).length < 1024 → k.state ≠ 3 → k.packets = [] →
      exec (.queueResidency q) s = .next ((s.modQueue q fun k => { k with held := true }).pump q)) ∧
    (∀ b : List Byte, k.held = true → s.led = true → k.state ≠ 4 → k.hold = none → k.packets = [] → k.got = [] →
      k.wr = k.next + 1 → k.claiming = none → k.mayPredict = false → s.poisoned (k.ring + k.next % k.size * 256) 256 = false →
      s.homeBytes none (k.ring + k.next % k.size * 256) 256 = b → trailerBad b = false → b.getD 252 0 = 7 →
      b.getD 255 0 = (if k.next / k.size % 2 = 0 then 0x5A else 0xA5) →
      ∃ t p, exec (.slotReread q) s = .next t ∧ still s t ∧ (t.queue q).packets = [p] ∧ p.index = k.next ∧ p.slots = [b] ∧
        p.started = true ∧ p.done = false ∧ (t.queue q).next = k.next + 1 ∧ (s.cycle, Ev.nopPacket q k.next) ∈ t.agenda) ∧
    (∀ n c : Nat, k.stale = some (n, c) → k.state ≠ 4 → k.hold = none → k.packets = [] → c + 2 ^ 20 ≤ s.cycle →
      ∃ t, exec (.staleSlotTimeout q) s = .next t ∧ halted s q 4 t) ∧
    (k.state = 2 → k.faultAt + 1750000 ≤ s.cycle →
      ∃ t, exec (.waitFaultTimeout q) s = .next t ∧ still s t ∧ (t.queue q).state = 3 ∧ (t.queue q).held = false ∧
        (t.queue q).packets = k.packets) ∧
    ∀ v : Word, let half := fun (k : Nat) => v.toNat / 2 ^ (32 * k) % 2 ^ 32
      exec (.predictionCounterWrite q 0 v) s = .next (s.modQueue q fun k => { k with starts := half 1, claims := half 0 }) ∧
      exec (.predictionCounterWrite q 1 v) s = .next (s.modQueue q fun k => { k with discards := half 1, late := half 0 }) ∧
      exec (.predictionCounterWrite q 2 v) s = .next (s.modQueue q fun k => { k with lastCause := v.toNat % 256 })

/-- A WAIT_ALL completes at the evaluation in which every comparison holds, a WAIT_ANY at the first in which one does; one
that does not complete is evaluated again, and an answer from the host counts as its entry's comparison. -/
def Obligations.WaitsEvaluateSignals : Prop :=
  ∀ (s : State) (q : Nat) (p : Packet), onlyPacket s q p → (s.queue q).held = true → (s.queue q).state ≠ 4 → p.fieldBad = false →
    (p.ty = 1 ∨ p.ty = 2) →
    (∀ j, j < p.waitN → bit (p.entryAddr j) 0 = true ∧ s.windowOk (actsFor s q) (p.entryAddr j / 8 * 8) = true) →
    let met := fun (j : Nat) => p.met.find? (fun e => e.1 = j) = some (j, true)
    (∀ i : Instr, ((i = .waitAll q p.index ∨ i = .waitAny q p.index) ∨ i = .waitEvaluation q p.index) →
      ((if p.ty = 1 then ∀ j, j < p.waitN → met j else ∃ j, j < p.waitN ∧ met j) →
        ∃ t, exec i s = .next t ∧ packetOver s q t ∧ t.mem = s.mem) ∧
      (¬(if p.ty = 1 then ∀ j, j < p.waitN → met j else ∃ j, j < p.waitN ∧ met j) →
        (∀ e ∈ s.agenda, e.2 ≠ Ev.waitEvaluation q p.index) →
        ∃ t, exec i s = .next t ∧ still s t ∧ (s.cycle + 16384, Ev.waitEvaluation q p.index) ∈ t.agenda)) ∧
    (p.waitN = 1 → p.asked = [0] →
      (∀ v : Word, condMet (p.entryCond 0) v (BitVec.ofNat 64 (p.entryVal 0)) →
        ∃ t, exec (.waitHostReadResponse q p.index 0 (some v)) s = .next t ∧ packetOver s q t ∧ t.mem = s.mem) ∧
      ((s.queue q).spec = none → ∃ t, exec (.waitHostReadResponse q p.index 0 none) s = .next t ∧ halted s q 5 t))

/-- A packet with an invalid field halts its queue. SIGNAL performs its operation on the host window or at its home; COPY
gives the partition's lowest cluster a block copy and ends when that is over; TLBINV removes what its kind names and
completes when no access uses an old translation, with the changes of root entries then in effect (02 R40); FENCE, NOP and
SEGTAB complete. -/
def Obligations.PacketsTakeEffect : Prop :=
  ∀ (s : State) (q : Nat) (p : Packet), onlyPacket s q p → mapWf {} s.queues = true → (s.queue q).state ≠ 4 →
    let k := s.queue q
    (k.spec = none → p.fieldBad = true → ∀ i : Instr,
      ((((i = .waitAll q p.index ∨ i = .waitAny q p.index) ∧ (p.ty = 1 ∨ p.ty = 2)) ∨ (i = .signal q p.index ∧ p.ty = 3)) ∨
        (i = .copy q p.index ∧ p.ty = 4) ∨ (i = .tlbinv q p.index ∧ p.ty = 5) ∨ (i = .fencePacket q p.index ∧ p.ty = 6) ∨
        (i = .nopPacket q p.index ∧ p.ty = 7) ∨ (i = .segtab q p.index ∧ p.ty = 8)) →
      ∃ t, exec i s = .next t ∧ halted s q 1 t) ∧
    (p.ty = 3 → p.fieldBad = false →
      let a := p.num 0 8 / 8 * 8
      let v := BitVec.ofNat 64 (p.num 8 8)
      let op := p.num 0x10 8
      (bit (p.num 0 8) 0 = true → s.windowOk (actsFor s q) a = true →
        (op ≤ 1 → ∃ t, exec (.signal q p.index) s = .next t ∧ packetOver s q t ∧ t.mem = s.mem ∧
          t.outbox = s.outbox ++ [if op = 0 then .hostWrite (actsFor s q) a (natLe v.toNat 8) else .fetchAdd (actsFor s q) a v]) ∧
        (1 < op → k.spec = none → ∃ t, exec (.signal q p.index) s = .next t ∧ halted s q 5 t)) ∧
      (∀ pa : Nat, bit (p.num 0 8) 0 = false → s.mem.wf = true → unwatched s pa 8 → s.poisoned pa 8 = false →
        (∀ n, n < 8 → s.notifyOf (pa + n) = none) → s.feTranslate (actsFor s q) 4096 k.asid a .atomic = (s, .ok pa) →
        ∃ t, exec (.signal q p.index) s = .next t ∧ packetOver s q t ∧
          let new := signalled op (BitVec.ofNat 64 (readLe s.mem pa 8)) v
          ∀ b, readByte t.mem b = if pa ≤ b ∧ b < pa + 8 then new.extractLsb' (8 * (b - pa)) 8 else readByte s.mem b)) ∧
    (p.ty = 4 → s.copyRefused k p = false →
      let cl := (s.lowCluster (p.num 0x18 8)).getD 0
      (p.result = none → (∀ r ∈ (s.cluster cl).engines, r.packet ≠ some (q, p.index)) →
        ∃ t r, exec (.copy q p.index) s = .next t ∧ still s t ∧ (t.cluster cl).engines = (s.cluster cl).engines ++ [r] ∧
          r.packet = some (q, p.index) ∧ r.indirect = false ∧ r.words.headD 0 = BitVec.ofNat 64 (p.num 0x10 8) ∧
          r.src = .seg ⟨BitVec.ofNat 64 (p.num 0 8), 0⟩ 0 ∧ r.dst = .seg ⟨BitVec.ofNat 64 (p.num 8 8), 0⟩ 0 ∧ r.asid = k.asid ∧
          (s.cycle + Config.latency s.nextId, Ev.copyCompletion cl s.nextId) ∈ t.agenda) ∧
      (∀ st : Nat, p.result = some st → p.num 0x20 8 = 0 → p.num 0x28 8 = 0 →
        ∃ t, exec (.copy q p.index) s = .next t ∧ packetOver s q t ∧ t.mem = s.mem)) ∧
    (p.ty = 5 → p.tlbinvRefused k = false → canonical s → mapWf {} s.dies = true →
      let gone := fun (e : TlbEntry) => e.removed (p.num 0 8) (p.num 8 8) (p.num 0x10 8) (p.num 0x18 8)
      (∀ i sp, mapGet none s.specs i = some sp → ∀ e ∈ sp.used, gone e = false) →
      (∃ t, exec (.tlbinv q p.index) s = .next t ∧ still s t ∧
        (∀ cl, (t.cluster cl).tlb = (s.cluster cl).tlb.filter fun e => !gone e) ∧
        (∀ d, (t.die d).tlb = (s.die d).tlb.filter fun e => !gone e) ∧ ∀ d, (t.die d).large = (s.die d).large.filter fun e => !gone e) ∧
      ((∀ f ∈ s.flights, f.translated = false) →
        (s.asidOld = [] → ∃ t, exec (.tlbinvCompletion q p.index) s = .next t ∧ packetOver s q t ∧ t.mem = s.mem) ∧
        (s.asidOld ≠ [] → 3 ≤ p.num 0 8 → ∃ t, exec (.tlbinvCompletion q p.index) s = .next t ∧ still s t ∧ t.asidOld = []))) ∧
    (p.ty = 6 → p.fieldBad = false → (∀ f ∈ s.flights, f.writes = false) →
      ∃ t, exec (.fencePacket q p.index) s = .next t ∧ packetOver s q t ∧ t.mem = s.mem) ∧
    (p.ty = 7 → p.fieldBad = false → ∃ t, exec (.nopPacket q p.index) s = .next t ∧ packetOver s q t ∧ t.mem = s.mem) ∧
    (p.ty = 8 → p.fieldBad = false → k.sys = true → p.num 0 8 = k.asid →
      ∃ t, exec (.segtab q p.index) s = .next t ∧ packetOver s q t ∧ t.mem = s.mem ∧
        t.segtabs = mapPut none s.segtabs k.asid (some (BitVec.ofNat 64 (p.num 8 8), p.num 0x10 8)))

/-- A context switch stops its cluster and parks its user-mode slots; once two waves have found the cluster halted the
contexts change places. A thread moves to an IDLE slot and a core to a free one with everything it holds, and the place
left behind forwards; at T3 the core of a slot that has not stopped is fenced. -/
def Obligations.ContextsSwitchAndMove : Prop :=
  ∀ s : State, canonical s →
    (∀ cl p q : Nat, (s.cluster cl).part = some p → (s.cluster cl).switching = none → p ≠ q → mapGet none s.parts q ≠ none →
      (s.cluster cl).replay = [] → (∀ i, i < 128 → s.specOf (s.slot (cl * 128 + i)).lidN = none) →
      (∀ e ∈ s.specs, ∀ sp, e.2 = some sp → sp.claimed = true ∨ (s.launch sp.lid).map (·.part) ≠ some p) →
      ∃ t, exec (.partitionContextSwitch cl q) s = .next t ∧ t.mem = s.mem ∧ (t.cluster cl).switching = some q ∧
        (s.cycle, Ev.contextSwap cl) ∈ t.agenda ∧
        ∀ i, i < 128 → let x := s.slot (cl * 128 + i)
          let y := t.slot (cl * 128 + i)
          (x.status = .ready → x.mode = .user → y.status = .parked) ∧
          (x.status = .ready → x.mode = .system → y = { x with preempt := true }) ∧
          (x.status = .idle ∨ x.status = .halted → y = x)) ∧
    (∀ (cl p q : Nat) (r : PartRec), (s.cluster cl).part = some p → (s.cluster cl).switching = some q →
      mapGet none s.parts q = some r → (∀ e ∈ s.cores, e.2.sb = []) →
      (s.haltedFor cl = true → (s.cluster cl).wave = some (s.packetsAt cl p) → s.specs = [] →
        ∃ t sv, exec (.contextSwap cl) s = .next t ∧ (t.cluster cl).part = some q ∧
          (t.cluster cl).switching = none ∧ (t.cluster cl).shadow = some sv ∧ sv.part = p ∧
          (t.cluster cl).syscode = ⟨r.syscode0, r.syscode1⟩ ∧ (t.cluster cl).sysdata = ⟨r.sysdata0, r.sysdata1⟩) ∧
      (s.haltedFor cl = true → (s.cluster cl).wave ≠ some (s.packetsAt cl p) →
        ∃ t, exec (.contextSwap cl) s = .next t ∧ still s t ∧ (s.cycle + Config.latency s.nextId, Ev.contextSwap cl) ∈ t.agenda ∧
          t.cluster cl = { s.cluster cl with wave := some (s.packetsAt cl p) }) ∧
      (s.haltedFor cl = false →
        ∃ t, exec (.contextSwap cl) s = .next t ∧ still s t ∧ (s.cycle + Config.latency s.nextId, Ev.contextSwap cl) ∈ t.agenda ∧
          t.cluster cl = { s.cluster cl with wave := none })) ∧
    (∀ (thr u lid : Nat), let x := s.slot thr
      let c := coreOf thr
      let d := coreOf u
      x.status = .ready → x.task = some lid → s.launch lid ≠ none → s.specOf lid = none → takes s u lid → c ≠ d → s.partOf c = s.partOf d →
      s.inPart c (clusterOf u) = true → (s.core d).fenced = false → (s.cluster (clusterOf u)).part = (s.cluster (clusterOf thr)).part →
      (s.cluster (clusterOf u)).switching = none → x.sbcnt = 0 → x.unaccepted = 0 →
      ∃ t, exec (.threadMigration thr u) s = .next t ∧ t.mem = s.mem ∧
        t.slot u = { x with fetched := none, tvec := (s.slot u).tvec } ∧ t.slot thr = { x.toIdle with mail := [] } ∧
        (t.core c).forward = (s.core c).forward ++ [⟨lid, s.nextId, some (thr % 16), d, u % 16⟩]) ∧
    (∀ c d : Nat, s.coreMovable c d = true → (s.core c).fenced = false → (s.core c).sb = [] →
      ∃ t, exec (.coreMigration c d) s = .next t ∧ (t.core d).deque = (s.core c).deque ∧ (t.core d).spilled = (s.core c).spilled ∧
        (t.core d).rings = (s.core c).rings ∧ (t.core d).codes = (s.core c).codes ∧ (t.core c).deque = [] ∧
        (t.core d).admission = (s.core d).admission ∧ (t.core d).icache = (s.core d).icache ∧
        (∀ i, i < 16 → t.slot (d * 16 + i) = { (s.slot (c * 16 + i)).moved with tvec := (s.slot (d * 16 + i)).tvec } ∧
          t.slot (c * 16 + i) = { (s.slot (c * 16 + i)).toIdle with mail := [], sbcnt := 0, unaccepted := 0 }) ∧
        (∀ a, a < 0x40000 → readByte t.mem (chipKey (coreWin d 0 + a)) = readByte s.mem (chipKey (coreWin c 0 + a)) ∧
          readByte t.mem (chipKey (coreWin c 0 + a)) = 0) ∧
        ∀ a, a < 0x6000000000 → readByte t.mem a = readByte s.mem a) ∧
    (∀ (lid thr : Nat) (l : Launch), let k := s.queue l.queue
      let c := coreOf thr
      s.launch lid = some l → l.stage = 2 → k.t3 ≠ 0 → l.stageAt + k.t3 * 1024 ≤ s.cycle → s.slots.map (·.1) = [thr] →
      (s.slot thr).task = some lid → (s.slot thr).status = .ready → (∀ d, d ≠ c → s.partOf d ≠ s.partOf c) →
      ∃ t, exec (.watchdogFence lid) s = .next t ∧ t.mem = s.mem ∧ t.launch lid = some { l with stage := 3 } ∧
        t.slot thr = { s.slot thr with status := .halted, preempt := false, relFrom := none, fetched := none } ∧
        (t.core c).fenced = true ∧ (t.core c).admission = 0 ∧
        (s.lost = 0 → s.events.length < 255 → t.events = s.events ++
          [⟨s.eventNo, 0x100, natLe (lid + l.queue * 2 ^ 16 + 3 * 2 ^ 32) 8⟩, ⟨s.eventNo + 1, 0x104, natLe c 8⟩]))

/-- A die whose stage 1 fails its check stops in recovery; one whose images are good measures them in order and joins the
lease. Renewals, claims and lapses move the lease; clusters power up in groups of eight at quarter rate, ramp up, and a
cluster of no partition is power-gated, which leaves it as at reset. -/
def Obligations.BringUpAndLease : Prop :=
  ∀ s : State, canonical s → mapWf {} s.dies = true →
    (∀ b : BootIn, let d := b.die.val
      (s.die d).booted = false → (s.die d).recovery = 0 →
      (b.okStage1 = false → ∃ t, exec (.powerOnReset b) s = .next t ∧ still s t ∧ (t.die d).recovery = 1 ∧
        raised s t 0x108 (natLe (d + 256) 8)) ∧
      (∀ i1 i2 i3 : List Byte, b.okStage1 = true → b.images = [i1, i2, i3] → b.okImages = [true, true, true] → b.okTrain = true →
        (s.die d).pm = [] →
        let pm := fun (m : List Byte) => sha256 (List.replicate 32 0 ++ sha256 m)
        ∃ t, exec (.powerOnReset b) s = .next t ∧ still s t ∧ (t.die d).booted = true ∧ t.controllers = b.controllers ∧
          (t.die d).timer = s.cycle + 17500000 ∧ s.pm d 0 = List.replicate 32 0 ∧ t.pm d 0 = pm b.stage1 ∧ t.pm d 1 = pm i1 ∧
          t.pm d 2 = pm i2 ∧ t.pm d 3 = pm i3 ∧
          ∀ i, i < 8 → (s.cycle + 3500 * (8 * d + i), Ev.clusterPowerUp (Fin.ofNat 32 (8 * d + i))) ∈ t.agenda)) ∧
    (∀ d : Fin 4, let x := s.die d.val
      x.booted = true → x.recovery = 0 →
      (∀ l term : Nat, s.holderOf term = some l → l ≠ d.val → x.seen ≤ term →
        ∃ t, exec (.leaseRenewal d term) s = .next t ∧ still s t ∧ t.die d.val =
          { x with term := term, seen := term, leader := some (Fin.ofNat 4 l), votes := [], timer := s.cycle + 17500000 }) ∧
      (x.timer ≤ s.cycle → x.leads d.val = false →
        ∃ t, exec (.leaseTimeout d) s = .next t ∧ still s t ∧ (t.die d.val).term = x.term + 1 ∧ (t.die d.val).leader = some d ∧
          (t.die d.val).votes = [d] ∧ (t.die d.val).timer = s.cycle + 17500000 ∧
          ∀ e : Fin 4, e ≠ d → ∃ n, (n, Ev.leaseClaim e d (x.term + 1)) ∈ t.agenda) ∧
      (∀ (c : Fin 4) (term : Nat), c ≠ d →
        (x.seen < term → ∃ t, exec (.leaseClaim d c term) s = .next t ∧ still s t ∧ (t.die d.val).term = term ∧
          (t.die d.val).seen = term ∧ (t.die d.val).leader = some c) ∧
        (term < x.seen → exec (.leaseClaim d c term) s = .next s))) ∧
    (∀ g : Fin 32, (s.die (g.val / 8)).booted = true → (s.die (g.val / 8)).recovery = 0 →
      (∀ i, i < 8 → (s.cluster (8 * g.val + i)).powered = false) →
      ∃ t, exec (.clusterPowerUp g) s = .next t ∧ still s t ∧ ∀ i, i < 8 →
        t.cluster (8 * g.val + i) = { s.cluster (8 * g.val + i) with powered := true, ramp := 2 } ∧
        (s.cycle + 14000, Ev.matrixRateRamp (8 * g.val + i)) ∈ t.agenda ∧ (s.cycle + 28000, Ev.matrixRateRamp (8 * g.val + i)) ∈ t.agenda) ∧
    (∀ cl : Nat, (s.cluster cl).powered = true → (s.cluster cl).part = none →
      (∀ e ∈ s.parts, ∀ r, e.2 = some r → r.cmask.getLsbD cl = false) →
      (0 < (s.cluster cl).ramp → exec (.matrixRateRamp cl) s = .next (s.modCluster cl fun c => { c with ramp := c.ramp - 1 })) ∧
      ((s.cluster cl).shadow = none → ∃ t, exec (.clusterPowerGate cl) s = .next t ∧ t.cluster cl = {} ∧
        (∀ i, i < 128 → t.slot (cl * 128 + i) = {}) ∧
        (∀ i, i < 8 → t.core (cl * 8 + i) = { ({} : Core) with fenced := (s.core (cl * 8 + i)).fenced }) ∧
        (∀ a, a < 2 ^ 32 → readByte t.mem (chipKey (cl * 2 ^ 32 + a)) = 0) ∧ ∀ a, a < 2 ^ 52 → readByte t.mem a = readByte s.mem a))

namespace Sys2Proof.Claims

/-! ### The host port and the management protocol -/

/-- A die leads, and the request is not one whose response is still kept. -/
def arrives (s : State) (r : Mgmt) : Prop := s.led = true ∧ ∀ k ∈ s.kept, ¬(k.src = r.src ∧ k.seq = r.seq)
/-- The request is performed: it leaves `u`, and is answered with status 0 and a body. -/
def performed (i : Instr) (s : State) (r : Mgmt) (op : Nat) (body : List Byte) (u : State) : Prop :=
  exec i s = .next (u.respond r op 0 body)
/-- The request is answered with a status and changes nothing else. -/
def turnedAway (i : Instr) (s : State) (r : Mgmt) (op status : Nat) : Prop := exec i s = .next (s.respond r op status [])
/-- A host-port region of a kind and rights that holds [addr, addr + n). -/
def coversRange (r : MemRegion) (key addr n : Nat) : Prop :=
  r.key = key ∧ r.base.toNat ≤ addr ∧ addr + n ≤ r.base.toNat + r.len.toNat
/-- Memory has its canonical form, and [a, a + n) is watched by no speculation, has no poisoned word and no byte of a notify
page. -/
def plainRange (s : State) (a n : Nat) : Prop :=
  s.mem.wf = true ∧ unwatched s a n ∧ s.poisoned a n = false ∧ ∀ i, i < n → s.notifyOf (a + i) = none

end Sys2Proof.Claims

/-- A host write or read inside a region that allows it moves its bytes, a write to a die's fault page resolves, whose
other bytes read as zero; one outside puts the connection into the error state; a SEND of whole slots enters the bound
queue at WR, any other is refused. -/
def Obligations.HostPortTraffic : Prop :=
  ∀ (s : State) (qp key addr : Nat), mapGet false s.qpError qp = false →
    (∀ (data : List Byte) (r : MemRegion), s.regions = [r] → 0 < data.length →
      (coversRange r key addr data.length ∧ r.wr = true →
        (r.kind ≠ 2 → plainRange s addr data.length → ∃ t, exec (.rdmaWrite qp key addr data) s = .next t ∧ t.slots = s.slots ∧
          ∀ a, readByte t.mem a = if addr ≤ a ∧ a < addr + data.length then data.getD (a - addr) 0 else readByte s.mem a) ∧
        (r.kind = 2 → data.length = 8 → (addr - r.base.toNat) % 4096 = 0 → ∃ t, exec (.rdmaWrite qp key addr data) s = .next t ∧
          still s t ∧ (s.cycle, Ev.faultResolutionWrite ((addr - r.base.toNat) / 4096) (BitVec.ofNat 64 (leNat data))) ∈ t.agenda)) ∧
      (¬(coversRange r key addr data.length ∧ r.wr = true) → exec (.rdmaWrite qp key addr data) s =
        .next (State.emit { s with qpError := mapPut false s.qpError qp true } (.remoteAccessError qp)))) ∧
    (∀ (n : Nat) (r : MemRegion), s.regions = [r] → 0 < n →
      let may := coversRange r key addr n ∧ r.rd = true ∧ r.kind ≠ 0
      (may → (r.kind ≠ 2 → plainRange s addr n →
          exec (.rdmaRead qp key addr n) s = .next (s.emit (.readResponse qp (readList s.mem addr n)))) ∧
        (r.kind = 2 → ∃ t l, exec (.rdmaRead qp key addr n) s = .next t ∧ still s t ∧
          t.outbox = s.outbox ++ [.readResponse qp l] ∧ l.length = n ∧ ∀ i, i < n → let x := (addr - r.base.toNat + i) % 4096
          8 ≤ x → (x < 0x100 ∨ 0x180 ≤ x) → l.getD i 0 = 0)) ∧
      (¬may → exec (.rdmaRead qp key addr n) s =
        .next (State.emit { s with qpError := mapPut false s.qpError qp true } (.remoteAccessError qp)))) ∧
    (∀ data : List Byte,
      (mapGet none s.qpBind qp = none → exec (.hostSend qp data) s = .next (s.emit (.nak qp))) ∧
      (∀ q, mapGet none s.qpBind qp = some q → (s.queue q).defined = true →
        let k := s.queue q
        let a := k.ring + k.wr % k.size * 256
        (data.length % 256 ≠ 0 ∨ data.length = 0 ∨ 2048 < data.length ∨ k.rd + k.size < k.wr + data.length / 256 →
          exec (.hostSend qp data) s = .next (s.emit (.nak qp))) ∧
        (data.length = 256 → k.wr + 1 ≤ k.rd + k.size → plainRange s a 256 →
          ∃ t, exec (.hostSend qp data) s = .next t ∧ t.slots = s.slots ∧ (t.queue q).wr = k.wr + 1 ∧
            ∀ c, readByte t.mem c = if a ≤ c ∧ c < a + 256 then data.getD (c - a) 0 else readByte s.mem c))) ∧
    exec (.ecnCongestionNotification qp) s = .next (s.emit (.ecnResponse qp))

/-- Requests about the device: what is answered, and what each leaves. -/
def Obligations.DeviceRequests : Prop :=
  ∀ (s : State) (r : Mgmt), arrives s r →
    (∀ (u : State) (op st : Nat) (body : List Byte), (u.respond r op st body).outbox = u.outbox ++ [.response r.src op r.seq st body] ∧
      ⟨r.src, op, r.seq, st, body⟩ ∈ (u.respond r op st body).kept ∧
      { u.respond r op st body with outbox := u.outbox, kept := u.kept } = u) ∧
    performed (.status r) s r 0x01 s.statusBody s ∧
    (∀ nonce : List Byte, (nonce.length = 32 → performed (.attest r nonce) s r 0x02 (s.report nonce) s) ∧
      (nonce.length ≠ 32 → turnedAway (.attest r nonce) s r 0x02 2)) ∧
    (∀ (image : Fin 4) (off : Nat) (data : List Byte),
      (data.length ≤ 32768 → performed (.fwload r image off data) s r 0x03 []
        (State.startWork { s with flash := mapPut [] s.flash image.val (patchBytes (mapGet [] s.flash image.val) off data) } r 3 0)) ∧
      (32768 < data.length → turnedAway (.fwload r image off data) s r 0x03 6)) ∧
    (s.controllers.contains r.src = false → ∀ m : BitVec 16, turnedAway (.modset r m) s r 0x70 4) ∧
    (∀ d : Fin 4, let x := s.die d.val
      (x.recovery = 0 → performed (.errread r d) s r 0x71
        ((List.range 7).flatMap fun i => natLe (mapGet 0 x.corrected i) 8 ++ natLe (mapGet 0 x.uncorrected i) 8) s) ∧
      (x.recovery ≠ 0 → turnedAway (.errread r d) s r 0x71 7)) ∧
    (s.controllers.contains r.src = true →
      (∀ m : BitVec 16, performed (.modset r m) s r 0x70 [] { s with modid := BitVec.ofNat 64 m.toNat }) ∧
      (∀ (v6 : Bool) (addr : List Byte) (port : BitVec 16), addr.length = 16 → s.events = [] →
        performed (.evtreg r v6 addr port) s r 0x80 [] { s with endpoint := some (v6, addr, port) }) ∧
      (∀ (a : BitVec 12) (e : Word), (bits e.toNat 62 52 = 0 ∧ bits e.toNat 11 0 = 0 → performed (.asidset r a e) s r 0x10 []
          { s with asidRoots := mapPut 0 s.asidRoots a.toNat e,
                   asidOld := mapPut [] s.asidOld a.toNat (mapGet 0 s.asidRoots a.toNat :: mapGet [] s.asidOld a.toNat) }) ∧
        (¬(bits e.toNat 62 52 = 0 ∧ bits e.toNat 11 0 = 0) → turnedAway (.asidset r a e) s r 0x10 6)) ∧
      (∀ w0 w1 : Word, ((∃ i, i < 4 ∧ mapGet none s.specs i ≠ none) → turnedAway (.dfset r w0 w1) s r 0x11 5) ∧
        ((∀ i, i < 4 → mapGet none s.specs i = none) → w0.toNat < 2 ^ 52 → w0.toNat % 2 ^ 18 = 0 → bits w1.toNat 62 16 = 0 →
          w0.toNat + w1.toNat % 2 ^ 16 * 2 ^ 18 ≤ 0x6000000000 →
          performed (.dfset r w0 w1) s r 0x11 [] { s with dfarea0 := w0, dfarea1 := w1 })) ∧
      (∀ (p : Fin 16) (v : Word), (mapGet none s.parts p.val = none → turnedAway (.pool7 r p v) s r 0x12 6) ∧
        (∀ cl, mapGet none s.parts p.val ≠ none → storeDataOk (sharedWin 0 4 + 0x38) v.toNat = true →
          s.recoveryIn (s.cmaskOf p.val) = false → s.partClusters p.val = [cl] → (s.cluster cl).part = some p.val →
          performed (.pool7 r p v) s r 0x12 [] (s.setPool cl 7 v.toNat))) ∧
      (∀ (kind : Fin 4) (base len : Word) (rd wr : Bool), let key := Config.remoteKey s.regions.length % 2 ^ 32
        (populated base.toNat len.toNat = true → (kind = 2 → len.toNat ≤ 0x4000) →
          performed (.mrreg r kind base len rd wr) s r 0x40 (natLe key 8) { s with regions := s.regions ++ [⟨kind, base, len, rd, wr, key⟩] }) ∧
        (populated base.toNat len.toNat = false → turnedAway (.mrreg r kind base len rd wr) s r 0x40 6)))

/-- Requests about partitions, queues, launches, slots and cores. -/
def Obligations.ControlRequests : Prop :=
  ∀ (s : State) (r : Mgmt), arrives s r → s.controllers.contains r.src = true →
    (∀ (p : Fin 16) (x : PartRec), (x.reserved = true → turnedAway (.partdef r p x) s r 0x20 6) ∧
      (s.partdefCheck p.val x = 0 → mapGet none s.parts p.val = none →
        (∀ c, x.cmask.getLsbD c = true → (s.cluster c).powered = false ∧ (s.cluster c).part = none ∧ (s.cluster c).shadow = none ∧
          mapGet none s.images (imageKey p.val c) = none) →
        ∃ u, performed (.partdef r p x) s r 0x20 [] u ∧ still s u ∧ u.parts = mapPut none s.parts p.val (some x) ∧
          ∀ c, c < 256 → x.cmask.getLsbD c = true → (u.cluster c).powered = true ∧ (u.cluster c).ramp = 2)) ∧
    (∀ p : Fin 16, (mapGet none s.parts p.val = none → turnedAway (.partdel r p) s r 0x21 6) ∧
      (mapGet none s.parts p.val ≠ none → s.cmaskOf p.val ≠ 0 → turnedAway (.partdel r p) s r 0x21 5) ∧
      (mapGet none s.parts p.val ≠ none → s.cmaskOf p.val = 0 → s.queues = [] →
        performed (.partdel r p) s r 0x21 [] { s with parts := mapPut none s.parts p.val none })) ∧
    (∀ (q : BitVec 16) (w0 w1 w2 w3 w4 : Word),
      (s.descriptorBad w0.toNat w1.toNat w2.toNat w4.toNat = true → turnedAway (.qset r q w0 w1 w2 w3 w4) s r 0x30 6) ∧
      (s.descriptorBad w0.toNat w1.toNat w2.toNat w4.toNat = false →
        ((s.queue q.toNat).inUse = true → turnedAway (.qset r q w0 w1 w2 w3 w4) s r 0x30 5) ∧
        ((s.queue q.toNat).inUse = false → performed (.qset r q w0 w1 w2 w3 w4) s r 0x30 []
          (s.modQueue q.toNat fun k => { k with defined := true, w0 := w0, w1 := w1, w2 := w2, w3 := w3, w4 := w4 })))) ∧
    (∀ (q : BitVec 16) (i : Word), let k := s.queue q.toNat
      (k.state ≠ 4 → turnedAway (.qrestart r q i) s r 0x31 5) ∧
      (k.defined = true → k.state = 4 → ∃ u, performed (.qrestart r q i) s r 0x31 [] u ∧ still s u ∧ (u.queue q.toNat).next = i.toNat ∧
        (u.queue q.toNat).err = 0 ∧ (u.queue q.toNat).state ≠ 4 ∧ (u.queue q.toNat).wr = max k.wr i.toNat)) ∧
    (∀ q : BitVec 16, ((s.queue q.toNat).defined = false → turnedAway (.qdel r q) s r 0x32 6) ∧
      ((s.queue q.toNat).defined = true → (s.queue q.toNat).inUse = false →
        performed (.qdel r q) s r 0x32 [] { s with queues := mapPut {} s.queues q.toNat {} })) ∧
    (∀ (dq : BitVec 8) (q : BitVec 16) (un : Bool),
      (un = false → (s.queue q.toNat).defined = false → turnedAway (.donmap r dq q un) s r 0x33 6) ∧
      (un = true ∨ (s.queue q.toNat).defined = true → performed (.donmap r dq q un) s r 0x33 []
        { s with donMap := mapPut none s.donMap dq.toNat (if un = true then none else some q.toNat) })) ∧
    (∀ (qp : BitVec 24) (q : BitVec 16) (un : Bool),
      (un = false → (s.queue q.toNat).defined = false → turnedAway (.qpbind r qp q un) s r 0x41 6) ∧
      (un = true ∨ (s.queue q.toNat).defined = true → performed (.qpbind r qp q un) s r 0x41 []
        { s with qpBind := mapPut none s.qpBind qp.toNat (if un = true then none else some q.toNat) })) ∧
    (∀ (lid : BitVec 12) (l : Launch), s.launch lid.toNat = some l →
      (l.stopped = false → turnedAway (.resume r lid) s r 0x50 5) ∧
      (∀ cl, l.stopped = true → s.partClusters l.part = [cl] → (s.cluster cl).part = some l.part → (s.cluster cl).switching = none →
        ∃ u, performed (.resume r lid) s r 0x50 [] u ∧ u.mem = s.mem ∧ u.launch lid.toNat = some { l with stopped := false } ∧
          ∀ i, i < 128 → let x := s.slot (cl * 128 + i)
            x.task = some lid.toNat → x.status = .parked → x.acqReg = none → (s.core (cl * 8 + i / 16)).fenced = false →
            u.slot (cl * 128 + i) = { x with status := .ready, preempt := false }) ∧
      (l.killed = true ∨ 8 ≤ l.phase → turnedAway (.kill r lid) s r 0x51 5) ∧
      (l.killed = false → l.phase < 8 → l.specOf = none → ∃ u, performed (.kill r lid) s r 0x51 [] u ∧ still s u ∧
        u.launch lid.toNat = some { l with status := 7, killed := true, stopped := false } ∧
        (s.cycle, Ev.launchCompletion lid.toNat) ∈ u.agenda)) ∧
    (∀ (thr : BitVec 15) (pc : Word) (sys : Bool), let x := s.slot thr.toNat
      (pc.toNat % 4 ≠ 0 → turnedAway (.slotgo r thr pc sys) s r 0x52 6) ∧
      (pc.toNat % 4 = 0 → (s.die (thr.toNat / 8192)).recovery = 0 →
        (x.status ≠ .halted → turnedAway (.slotgo r thr pc sys) s r 0x52 5) ∧
        (x.status = .halted → performed (.slotgo r thr pc sys) s r 0x52 [] (s.setSlot thr.toNat
          { x with status := .ready, pc := pc, mode := if sys = true then .system else .user, fetched := none })))) ∧
    (∀ c : BitVec 11, (s.die (c.toNat / 512)).recovery = 0 →
      ((s.core c.toNat).fenced = false → turnedAway (.coreback r c) s r 0x53 5) ∧
      ((s.core c.toNat).fenced = true → ∃ u, performed (.coreback r c) s r 0x53 [] u ∧ u.mem = s.mem ∧
        (u.core c.toNat).fenced = false ∧ (u.core c.toNat).admission = BitVec.ofNat 64 (2 ^ s.partOf c.toNat + 0x170000)))

/-- A request resent is answered with the response kept and not performed again; one that meets no leader gets status 1, a
request that changes state from another source status 4. CHECKPOINT streams every 64 KiB of HBM to its destinations in
turn, RESTORE writes as much back; both need every partition halted. Events are held until acknowledged and sent again. -/
def Obligations.StreamsAndEvents : Prop :=
  ∀ s : State,
    (∀ (r : Mgmt) (m : BitVec 16),
      (∀ k : Kept, s.kept.find? (fun k => k.src = r.src && k.seq = r.seq) = some k →
        exec (.modset r m) s = .next (s.emit (.response k.src k.op k.seq k.status k.body))) ∧
      ((∀ k ∈ s.kept, ¬(k.src = r.src ∧ k.seq = r.seq)) → s.led = false →
        exec (.modset r m) s = .next (s.emit (.response r.src 0x70 r.seq 1 [])))) ∧
    (∀ (r : Mgmt) (l : List Stream), arrives s r → s.controllers.contains r.src = true →
      (s.allHalted = false → l ≠ [] → l.length ≤ 9 →
        turnedAway (.checkpoint r l) s r 0x60 5 ∧ turnedAway (.restore r l) s r 0x61 5) ∧
      (l ≠ [] → l.length ≤ 9 → s.allHalted = true → (∀ d, d < 4 → (s.die d).recovery = 0) →
        (∃ t, exec (.checkpoint r l) s = .next t ∧ still s t ∧ t.works = s.works ++ [(0x60, r.seq)] ∧
          t.outbox = s.outbox ++ ((List.range (0x6000000000 / 65536)).filterMap fun i => (l[i % l.length]?).map fun d =>
            Out.stream d (i * 65536) (s.homeBytes none (i * 65536) 65536)) ++ [.response r.src 0x60 r.seq 0 []]) ∧
        ((∀ i sp, mapGet none s.specs i = some sp → sp.extents = []) → s.queues = [] → ∃ t, exec (.restore r l) s = .next t ∧ t.slots = s.slots ∧
          t.works = s.works ++ [(0x61, r.seq)] ∧ t.outbox = s.outbox ++ [.response r.src 0x61 r.seq 0 []] ∧
          ∀ a, 2 ^ 52 ≤ a → readByte t.mem a = readByte s.mem a))) ∧
    (∀ n : Nat, exec (.eventAcknowledgement n) s = .next { s with events := s.events.filter fun e => e.n ≠ n }) ∧
    (∀ (n : Nat) (e : Event), s.events.find? (fun e => e.n = n) = some e →
      exec (.eventResend n) s = .next
        ((if s.endpoint.isSome then s.emit (.event n e.code e.body) else s).post (s.cycle + 1750000) (.eventResend n))) ∧
    (∀ (op : BitVec 16) (seq : Word) (st : BitVec 16), s.works = [(op.toNat, seq)] →
      ∃ t, exec (.workdone op seq st) s = .next t ∧ still s t ∧ t.works = [] ∧
        raised s t 0x107 (natLe op.toNat 8 ++ natLe seq.toNat 8 ++ natLe st.toNat 8))

namespace Sys2Proof.Claims

/-! ### Collectives -/

/-- The one command of the module's engines is `c`, on die `d`, loaded; its step that the packet names is `y`. -/
def namesStep (s : State) (p : AzPkt) (ty d : Nat) (c : CCmd) (y : CStep) : Prop :=
  (s.link p.link).down = false ∧ azOk p ty = true ∧ s.dies.map (·.1) = [d] ∧ (s.die d).coll = [c] ∧ c.loaded = true ∧ c.donate = false ∧
    c.plan = azPlan p ∧ c.step (azStep p) = some y ∧ azSeq p < y.npiece
/-- The step that the packet names becomes `y`; threads and memory stay. -/
def stepBecomes (s : State) (p : AzPkt) (d : Nat) (c : CCmd) (y : CStep) (t : State) : Prop :=
  still s t ∧ ∃ c', (t.die d).coll = [c'] ∧ c'.id = c.id ∧ c'.step (azStep p) = some y
/-- The step that the packet names looks at what it holds. -/
def stepWoken (s : State) (p : AzPkt) (d : Nat) (c : CCmd) (t : State) : Prop := (s.cycle, Ev.collectiveStep d c.id (azStep p)) ∈ t.agenda
/-- R432, R441: the acknowledgement that answers a donation. -/
def donationAnswer (s : State) (p : AzPkt) (count : Nat) : Out :=
  .azrum p.link.val (BitVec.ofNat 64 (2 ^ 60 + 2 ^ 58 + azSrc p * 2 ^ 32 + s.modid.toNat % 2 ^ 16 * 2 ^ 16 + azPlan p))
    (BitVec.ofNat 64 (count * 2 ^ 48 + azStep p * 2 ^ 36 + azSeq p)) []
/-- R301, R374: word 0 of a command's completion message. -/
def completionWord (c : CCmd) (status : Nat) : Word :=
  BitVec.ofNat 64 (2 * 2 ^ 60 + (if c.satinf = true then 2 ^ 59 else 0) + 4 * 2 ^ 56 + c.lid % 4096 * 2 ^ 44 + c.tag % 65536 * 2 ^ 28 +
    status * 2 ^ 24 + c.thr % 2 ^ 15)

end Sys2Proof.Claims

/-- 14 R374: COLLQ and DONATE put their command at the end of the die's collective engine with every descriptor of the
thread; with 64 commands they issue again; a word that is not well formed is the engine-operand fault. -/
def Obligations.CollectiveCommandsPushed : Prop :=
  ∀ (s : State) (o : Rab) (donate : Bool) (i : Instr), full s [(.g, o.a), (.g, o.b)] →
    i = (if donate then .donate o else .collq o) →
    let a := ((me s).rg o.a).toNat
    let b := ((me s).rg o.b).toNat
    let die := dieOfCluster (clusterOf s.cur)
    let okA := a / 2 ^ 48 % 2 ^ 13 = 0 ∧ a % 8 = 0
    let okB := b < 2 ^ 32 ∧ (donate = true → b < 2 ^ 24)
    (okA → okB → s.specOf (me s).lidN = none → (∀ n, n < 8 → mapGet false (me s).sgPend n = false) →
      s.roleBad s.cur a ⟨0, if donate then 320 else 64, true, false⟩ = none →
      ((s.die die).coll.length < 64 →
        ∃ t c, exec i s = .next t ∧ becomes s { me s with pc := (me s).pc + 4 } t ∧ (t.die die).coll = (s.die die).coll ++ [c] ∧
          (quiet s → c.id = s.nextId ∧ c.waits = []) ∧ c.donate = donate ∧ c.desc = s.segment s.cur (a / 2 ^ 61) ∧ c.off = a % 2 ^ 48 ∧
          c.descs = (List.range 8).map (s.segment s.cur) ∧ c.tag = b % 2 ^ 16 ∧ c.first = (if donate then 0 else b / 2 ^ 16) ∧
          (donate = true → c.dq = b / 2 ^ 16) ∧ c.thr = s.cur ∧ c.lid = (me s).lidN ∧ c.loaded = false ∧
          (s.cycle + Config.latency c.id, Ev.collectiveStep die c.id c.first) ∈ t.agenda) ∧
      (64 ≤ (s.die die).coll.length → exec i s = .next s)) ∧
    (plain s → (¬okA → exec i s = trapped s 18 ((me s).rg o.a)) ∧ (okA → ¬okB → exec i s = trapped s 18 ((me s).rg o.b)))

/-- 17 R431-R436, R439-R441: a waiting step starts when it may, and the last step's end sends the issuer its message;
pieces, credits, acknowledgements, requests and replies reach the step they name and are discarded where none fits; a
donation enters the queue it is mapped to or is refused; a link's errors ask for a resend, and its steps are looked at
when it returns or stays down for 2^20 cycles. -/
def Obligations.CollectiveEvents : Prop :=
  ∀ s : State,
    (∀ (d k : Nat) (c : CCmd) (x : CStep), mapWf {} s.dies = true → (s.die d).coll = [c] → c.loaded = true → c.donate = false →
      c.waits = [] → c.failedStep = none →
      (x.st = .waiting → c.step k = some x → s.mayStart c x = true → ∃ t c', exec (.collectiveStep d c.id k) s = .next t ∧ still s t ∧
        (t.die d).coll = [c'] ∧ c'.step k = some { x with st := .running } ∧ (s.cycle, Ev.collectiveStep d c.id k) ∈ t.agenda) ∧
      (x.st = .running → c.steps = [(k, some x)] → x.npiece ≤ x.sentPieces → ∃ t f m l, exec (.collectiveStepCompletion d c.id k) s = .next t ∧
        still s t ∧ (t.die d).coll = [] ∧ t.flights = s.flights ++ l ++ [f] ∧ f.kind = .message m ∧ m.target = c.thr ∧
        m.entry.w0 = completionWord c 0 ∧
        (x.w 5 = 0 → l = []) ∧ (x.w 5 ≠ 0 → ∃ g, l = [g] ∧ g.kind = .counterDec (x.w 5) 1 true))) ∧
    (∀ (p : AzPkt) (d : Nat) (c : CCmd) (y : CStep),
      (∀ i, ((i = .collectiveData p ∧ namesStep s p 0 d c y) ∨ (i = .groupWrite p ∧ namesStep s p 3 d c y)) → y.st ≠ .done →
        (y.op = 1 ∨ y.op = 2) → c.rankOf (azSrc p) = some y.peer → y.peer ≠ c.rank → p.data.length = 4096 →
        (∀ e ∈ y.early, ¬(e.rank = y.peer ∧ e.seq = azSeq p)) →
        ∃ t e, exec i s = .next t ∧ stepBecomes s p d c { y with early := y.early ++ [e] } t ∧ stepWoken s p d c t ∧ e.rank = y.peer ∧
          e.seq = azSeq p ∧ e.data = p.data ∧ e.satinf = p.w0.getLsbD 57 ∧ (e.group = true ↔ i = .groupWrite p)) ∧
      (namesStep s p 6 d c y → y.op = 0 → y.st = .running → ∃ t, exec (.credit p) s = .next t ∧
        stepBecomes s p d c { y with credits := y.credits + 1 } t ∧ stepWoken s p d c t) ∧
      (namesStep s p 1 d c y → y.op = 4 → y.st = .running → y.w 4 = 0 →
        let old := mapGet 0 y.acks (azSeq p)
        let n := y.w 6 / 2 ^ 16 % 2 ^ 16
        ∃ t, exec (.collectiveAcknowledgement p) s = .next t ∧ stepBecomes s p d c
          { y with acks := mapPut 0 y.acks (azSeq p) (old + azCount p),
                   sentPieces := if old < n ∧ n ≤ old + azCount p then y.sentPieces + 1 else y.sentPieces } t) ∧
      (namesStep s p 4 d c y → y.op = 5 → p.data = [] → ∃ t e, exec (.reduceReadRequest p) s = .next t ∧
        stepBecomes s p d c { y with early := y.early ++ [e] } t ∧ stepWoken s p d c t ∧ e.seq = azSeq p ∧ e.src = azSrc p ∧ e.data = []) ∧
      (namesStep s p 5 d c y → y.op = 5 → y.st = .running → azSeq p < y.next → p.data.length = 4096 →
        ∃ t e, exec (.reduceReadReply p) s = .next t ∧ stepBecomes s p d c { y with early := y.early ++ [e] } t ∧ stepWoken s p d c t ∧
          e.seq = azSeq p ∧ e.data = p.data)) ∧
    (∀ (p : AzPkt) (i : Instr) (ty : Nat), ((i = .collectiveData p ∧ ty = 0) ∨ (i = .collectiveAcknowledgement p ∧ ty = 1) ∨
        (i = .groupWrite p ∧ ty = 3) ∨ (i = .reduceReadRequest p ∧ ty = 4) ∨ (i = .reduceReadReply p ∧ ty = 5) ∨ (i = .credit p ∧ ty = 6)) →
      ((s.link p.link).down = true → exec i s = .next s) ∧
      ((s.link p.link).down = false → (azOk p ty = false ∨ ∀ e ∈ s.dies, e.2.coll = []) →
        exec i s = .next (s.modDie (p.link.val / 2) fun d => { d with discarded := d.discarded + 1 }))) ∧
    (∀ p : AzPkt, (s.link p.link).down = false → azOk p 2 = true → p.data.length = 256 →
      (mapGet none s.donMap (azStep p) = none → exec (.donation p) s = .next (s.emit (donationAnswer s p 0))) ∧
      (∀ q, mapGet none s.donMap (azStep p) = some q → (s.queue q).defined = true →
        let k := s.queue q
        let a := k.ring + k.wr % k.size * 256
        (k.rd + k.size < k.wr + 1 ∨ p.data.getD 252 0 ≠ 0 → exec (.donation p) s = .next (s.emit (donationAnswer s p 0))) ∧
        (k.wr + 1 ≤ k.rd + k.size → p.data.getD 252 0 = 0 → plainRange s a 256 →
          ∃ t, exec (.donation p) s = .next t ∧ t.slots = s.slots ∧ (t.queue q).wr = k.wr + 1 ∧
            t.outbox = s.outbox ++ [donationAnswer s p 1] ∧ ∀ b, readByte t.mem b = if a ≤ b ∧ b < a + 255 then p.data.getD (b - a) 0
              else if b = a + 255 then (if k.wr / k.size % 2 = 0 then 0x5A else 0xA5) else readByte s.mem b))) ∧
    (∀ l : Fin 8,
      ((s.link l).down = false →
        exec (.linkFrameCrcError l) s =
          .next ((s.modLink l fun x => { x with resends := x.resends + 1 }).emit (.resend l.val)) ∧
        exec (.azrumLinkDown l) s =
          .next ((s.modLink l fun x => { x with down := true, downSince := s.cycle }).post (s.cycle + 2 ^ 20) (.linkDownTimeout l))) ∧
      (∀ (d k : Nat) (c : CCmd) (x : CStep), mapWf {} s.links = true → (s.link l).down = true → s.dies.map (·.1) = [d] → (s.die d).coll = [c] → c.donate = false →
        c.steps = [(k, some x)] → x.st = .running → l ∈ c.linksOf x →
        (∃ t, exec (.azrumLinkUp l) s = .next t ∧ still s t ∧ (t.link l).down = false ∧ (s.cycle, Ev.collectiveStep d c.id k) ∈ t.agenda) ∧
        ((s.link l).downSince + 2 ^ 20 ≤ s.cycle → ∃ t, exec (.linkDownTimeout l) s = .next t ∧ still s t ∧
          (t.link l).down = true ∧ (s.cycle, Ev.collectiveStep d c.id k) ∈ t.agenda)))

namespace Sys2Proof.Claims

/-! ### Invariants -/

/-- A saved context keeps its maps in canonical form. -/
def savedCanonical (v : Saved) : Prop :=
  v.bytes.wf = true ∧ mapWf false v.grans = true ∧ mapWf false v.poison = true ∧ mapWf {} v.slots = true ∧
    mapWf {} v.cores = true ∧ mapWf {} v.tiles = true
/-- Memory, granules, poison, slots, cores, clusters and tiles are in canonical form, live and in every saved context. -/
def mapsCanonical (s : State) : Prop :=
  s.mem.wf = true ∧ mapWf false s.grans = true ∧ mapWf false s.poison = true ∧ mapWf {} s.slots = true ∧
    mapWf {} s.cores = true ∧ mapWf {} s.clusters = true ∧
    (∀ e ∈ s.clusters, mapWf {} e.2.tiles = true ∧ ∀ v, e.2.shadow = some v → savedCanonical v) ∧
    ∀ e ∈ s.images, ∀ v, e.2 = some v → savedCanonical v

end Sys2Proof.Claims

/-- Every step keeps memory and the machine's maps in their canonical form, live and saved: equal contents are equal data.
-/
def Obligations.StepKeepsMapsCanonical : Prop :=
  ∀ s t : State, mapsCanonical s → step s = .next t → mapsCanonical t

/-- The state at reset has that form, and what the spec gives for reset: no slot holds a task (07 R182), segment registers
are null (01 R6), ADMIT is 0 (01 R30), every tile is FREE with ZF = 1 and generation 1 (04 R102), POOLP 7 has CAP 64 and
the other pool partitions 0 (04 R104), STINT is 0x1000 (14 R361), DFAREA gives the top 8 GiB (06 R162), and the first
event's number is 1 (17 R430). Registers and memory the spec gives no reset value read as zero and FULL: the model's
choice (logs 1, 2). -/
def Obligations.ResetValues : Prop :=
  mapsCanonical State.reset ∧ State.reset.cycle = 0 ∧
    (∀ t : Nat, (State.reset.slot t).status = .idle ∧ (∀ n, (State.reset.slot t).rsg n = {}) ∧
      (∀ n, n ≠ 0 → (State.reset.slot t).gReg n = {}) ∧ ∀ n, (State.reset.slot t).vReg n = {}) ∧
    (∀ c : Nat, (State.reset.core c).admission = 0 ∧ (State.reset.core c).deque = []) ∧
    (∀ cl i : Nat, (State.reset.tile cl i).st = .free ∧ (State.reset.tile cl i).zf = true ∧ (State.reset.tile cl i).gen = 1) ∧
    (∀ cl : Nat, ((State.reset.cluster cl).pool 7).cap = 64 ∧ (∀ p, p < 7 → (State.reset.cluster cl).pool p = {}) ∧
      (State.reset.cluster cl).stint = 0x1000) ∧
    State.reset.dfarea0 = 0x0000005E00000000 ∧ State.reset.dfarea1 = 0x8000000000008000 ∧ State.reset.eventNo = 1 ∧
    ∀ a : Nat, readByte State.reset.mem a = 0
end

