-- ==== Sys2Proof/Laws/State.lean ====
section
/-! SUPPORT. Frame lemmas of the shared updates: one per field of State or Slot that an update leaves alone, and what the
accessors read after it. -/

namespace Sys2Proof.Machine

/-! ### Updates of State -/

@[simp] theorem State.setSlot_cycle (s : State) (t : Nat) (x : Slot) : (s.setSlot t x).cycle = s.cycle := rfl
@[simp] theorem State.setSlot_woken (s : State) (t : Nat) (x : Slot) : (s.setSlot t x).woken = s.woken := rfl
@[simp] theorem State.setSlot_free (s : State) (t : Nat) (x : Slot) : (s.setSlot t x).free = s.free := rfl
@[simp] theorem State.setSlot_parts (s : State) (t : Nat) (x : Slot) : (s.setSlot t x).parts = s.parts := rfl
@[simp] theorem State.setSlot_cur (s : State) (t : Nat) (x : Slot) : (s.setSlot t x).cur = s.cur := rfl
@[simp] theorem State.setSlot_turn (s : State) (t : Nat) (x : Slot) : (s.setSlot t x).turn = s.turn := rfl
@[simp] theorem State.setSlot_agenda (s : State) (t : Nat) (x : Slot) : (s.setSlot t x).agenda = s.agenda := rfl
@[simp] theorem State.setSlot_flights (s : State) (t : Nat) (x : Slot) : (s.setSlot t x).flights = s.flights := rfl
@[simp] theorem State.setSlot_nextId (s : State) (t : Nat) (x : Slot) : (s.setSlot t x).nextId = s.nextId := rfl
@[simp] theorem State.setSlot_mem (s : State) (t : Nat) (x : Slot) : (s.setSlot t x).mem = s.mem := rfl
@[simp] theorem State.setSlot_poison (s : State) (t : Nat) (x : Slot) : (s.setSlot t x).poison = s.poison := rfl
@[simp] theorem State.setSlot_grans (s : State) (t : Nat) (x : Slot) : (s.setSlot t x).grans = s.grans := rfl
@[simp] theorem State.setSlot_cores (s : State) (t : Nat) (x : Slot) : (s.setSlot t x).cores = s.cores := rfl
@[simp] theorem State.setSlot_clusters (s : State) (t : Nat) (x : Slot) : (s.setSlot t x).clusters = s.clusters := rfl
@[simp] theorem State.setSlot_dies (s : State) (t : Nat) (x : Slot) : (s.setSlot t x).dies = s.dies := rfl
@[simp] theorem State.setSlot_launches (s : State) (t : Nat) (x : Slot) : (s.setSlot t x).launches = s.launches := rfl
@[simp] theorem State.setSlot_queues (s : State) (t : Nat) (x : Slot) : (s.setSlot t x).queues = s.queues := rfl
@[simp] theorem State.setSlot_specs (s : State) (t : Nat) (x : Slot) : (s.setSlot t x).specs = s.specs := rfl
@[simp] theorem State.setSlot_images (s : State) (t : Nat) (x : Slot) : (s.setSlot t x).images = s.images := rfl
@[simp] theorem State.setSlot_outbox (s : State) (t : Nat) (x : Slot) : (s.setSlot t x).outbox = s.outbox := rfl
@[simp] theorem State.modSlot_cycle (s : State) (t : Nat) (f : Slot → Slot) : (s.modSlot t f).cycle = s.cycle := rfl
@[simp] theorem State.modSlot_woken (s : State) (t : Nat) (f : Slot → Slot) : (s.modSlot t f).woken = s.woken := rfl
@[simp] theorem State.modSlot_free (s : State) (t : Nat) (f : Slot → Slot) : (s.modSlot t f).free = s.free := rfl
@[simp] theorem State.modSlot_parts (s : State) (t : Nat) (f : Slot → Slot) : (s.modSlot t f).parts = s.parts := rfl
@[simp] theorem State.modSlot_cur (s : State) (t : Nat) (f : Slot → Slot) : (s.modSlot t f).cur = s.cur := rfl
@[simp] theorem State.modSlot_turn (s : State) (t : Nat) (f : Slot → Slot) : (s.modSlot t f).turn = s.turn := rfl
@[simp] theorem State.modSlot_agenda (s : State) (t : Nat) (f : Slot → Slot) : (s.modSlot t f).agenda = s.agenda := rfl
@[simp] theorem State.modSlot_flights (s : State) (t : Nat) (f : Slot → Slot) : (s.modSlot t f).flights = s.flights := rfl
@[simp] theorem State.modSlot_nextId (s : State) (t : Nat) (f : Slot → Slot) : (s.modSlot t f).nextId = s.nextId := rfl
@[simp] theorem State.modSlot_mem (s : State) (t : Nat) (f : Slot → Slot) : (s.modSlot t f).mem = s.mem := rfl
@[simp] theorem State.modSlot_poison (s : State) (t : Nat) (f : Slot → Slot) : (s.modSlot t f).poison = s.poison := rfl
@[simp] theorem State.modSlot_grans (s : State) (t : Nat) (f : Slot → Slot) : (s.modSlot t f).grans = s.grans := rfl
@[simp] theorem State.modSlot_cores (s : State) (t : Nat) (f : Slot → Slot) : (s.modSlot t f).cores = s.cores := rfl
@[simp] theorem State.modSlot_clusters (s : State) (t : Nat) (f : Slot → Slot) : (s.modSlot t f).clusters = s.clusters := rfl
@[simp] theorem State.modSlot_dies (s : State) (t : Nat) (f : Slot → Slot) : (s.modSlot t f).dies = s.dies := rfl
@[simp] theorem State.modSlot_launches (s : State) (t : Nat) (f : Slot → Slot) : (s.modSlot t f).launches = s.launches := rfl
@[simp] theorem State.modSlot_queues (s : State) (t : Nat) (f : Slot → Slot) : (s.modSlot t f).queues = s.queues := rfl
@[simp] theorem State.modSlot_specs (s : State) (t : Nat) (f : Slot → Slot) : (s.modSlot t f).specs = s.specs := rfl
@[simp] theorem State.modSlot_images (s : State) (t : Nat) (f : Slot → Slot) : (s.modSlot t f).images = s.images := rfl
@[simp] theorem State.modSlot_outbox (s : State) (t : Nat) (f : Slot → Slot) : (s.modSlot t f).outbox = s.outbox := rfl
@[simp] theorem State.modCore_cycle (s : State) (c : Nat) (f : Core → Core) : (s.modCore c f).cycle = s.cycle := rfl
@[simp] theorem State.modCore_woken (s : State) (c : Nat) (f : Core → Core) : (s.modCore c f).woken = s.woken := rfl
@[simp] theorem State.modCore_free (s : State) (c : Nat) (f : Core → Core) : (s.modCore c f).free = s.free := rfl
@[simp] theorem State.modCore_parts (s : State) (c : Nat) (f : Core → Core) : (s.modCore c f).parts = s.parts := rfl
@[simp] theorem State.modCore_cur (s : State) (c : Nat) (f : Core → Core) : (s.modCore c f).cur = s.cur := rfl
@[simp] theorem State.modCore_turn (s : State) (c : Nat) (f : Core → Core) : (s.modCore c f).turn = s.turn := rfl
@[simp] theorem State.modCore_agenda (s : State) (c : Nat) (f : Core → Core) : (s.modCore c f).agenda = s.agenda := rfl
@[simp] theorem State.modCore_flights (s : State) (c : Nat) (f : Core → Core) : (s.modCore c f).flights = s.flights := rfl
@[simp] theorem State.modCore_nextId (s : State) (c : Nat) (f : Core → Core) : (s.modCore c f).nextId = s.nextId := rfl
@[simp] theorem State.modCore_mem (s : State) (c : Nat) (f : Core → Core) : (s.modCore c f).mem = s.mem := rfl
@[simp] theorem State.modCore_poison (s : State) (c : Nat) (f : Core → Core) : (s.modCore c f).poison = s.poison := rfl
@[simp] theorem State.modCore_grans (s : State) (c : Nat) (f : Core → Core) : (s.modCore c f).grans = s.grans := rfl
@[simp] theorem State.modCore_slots (s : State) (c : Nat) (f : Core → Core) : (s.modCore c f).slots = s.slots := rfl
@[simp] theorem State.modCore_clusters (s : State) (c : Nat) (f : Core → Core) : (s.modCore c f).clusters = s.clusters := rfl
@[simp] theorem State.modCore_dies (s : State) (c : Nat) (f : Core → Core) : (s.modCore c f).dies = s.dies := rfl
@[simp] theorem State.modCore_launches (s : State) (c : Nat) (f : Core → Core) : (s.modCore c f).launches = s.launches := rfl
@[simp] theorem State.modCore_queues (s : State) (c : Nat) (f : Core → Core) : (s.modCore c f).queues = s.queues := rfl
@[simp] theorem State.modCore_specs (s : State) (c : Nat) (f : Core → Core) : (s.modCore c f).specs = s.specs := rfl
@[simp] theorem State.modCore_images (s : State) (c : Nat) (f : Core → Core) : (s.modCore c f).images = s.images := rfl
@[simp] theorem State.modCore_outbox (s : State) (c : Nat) (f : Core → Core) : (s.modCore c f).outbox = s.outbox := rfl
@[simp] theorem State.modCluster_cycle (s : State) (c : Nat) (f : Cluster → Cluster) : (s.modCluster c f).cycle = s.cycle := rfl
@[simp] theorem State.modCluster_woken (s : State) (c : Nat) (f : Cluster → Cluster) : (s.modCluster c f).woken = s.woken := rfl
@[simp] theorem State.modCluster_free (s : State) (c : Nat) (f : Cluster → Cluster) : (s.modCluster c f).free = s.free := rfl
@[simp] theorem State.modCluster_parts (s : State) (c : Nat) (f : Cluster → Cluster) : (s.modCluster c f).parts = s.parts := rfl
@[simp] theorem State.modCluster_cur (s : State) (c : Nat) (f : Cluster → Cluster) : (s.modCluster c f).cur = s.cur := rfl
@[simp] theorem State.modCluster_turn (s : State) (c : Nat) (f : Cluster → Cluster) : (s.modCluster c f).turn = s.turn := rfl
@[simp] theorem State.modCluster_agenda (s : State) (c : Nat) (f : Cluster → Cluster) : (s.modCluster c f).agenda = s.agenda := rfl
@[simp] theorem State.modCluster_flights (s : State) (c : Nat) (f : Cluster → Cluster) : (s.modCluster c f).flights = s.flights := rfl
@[simp] theorem State.modCluster_nextId (s : State) (c : Nat) (f : Cluster → Cluster) : (s.modCluster c f).nextId = s.nextId := rfl
@[simp] theorem State.modCluster_mem (s : State) (c : Nat) (f : Cluster → Cluster) : (s.modCluster c f).mem = s.mem := rfl
@[simp] theorem State.modCluster_poison (s : State) (c : Nat) (f : Cluster → Cluster) : (s.modCluster c f).poison = s.poison := rfl
@[simp] theorem State.modCluster_grans (s : State) (c : Nat) (f : Cluster → Cluster) : (s.modCluster c f).grans = s.grans := rfl
@[simp] theorem State.modCluster_slots (s : State) (c : Nat) (f : Cluster → Cluster) : (s.modCluster c f).slots = s.slots := rfl
@[simp] theorem State.modCluster_cores (s : State) (c : Nat) (f : Cluster → Cluster) : (s.modCluster c f).cores = s.cores := rfl
@[simp] theorem State.modCluster_dies (s : State) (c : Nat) (f : Cluster → Cluster) : (s.modCluster c f).dies = s.dies := rfl
@[simp] theorem State.modCluster_launches (s : State) (c : Nat) (f : Cluster → Cluster) : (s.modCluster c f).launches = s.launches := rfl
@[simp] theorem State.modCluster_queues (s : State) (c : Nat) (f : Cluster → Cluster) : (s.modCluster c f).queues = s.queues := rfl
@[simp] theorem State.modCluster_specs (s : State) (c : Nat) (f : Cluster → Cluster) : (s.modCluster c f).specs = s.specs := rfl
@[simp] theorem State.modCluster_images (s : State) (c : Nat) (f : Cluster → Cluster) : (s.modCluster c f).images = s.images := rfl
@[simp] theorem State.modCluster_outbox (s : State) (c : Nat) (f : Cluster → Cluster) : (s.modCluster c f).outbox = s.outbox := rfl
@[simp] theorem State.modDie_cycle (s : State) (d : Nat) (f : Die → Die) : (s.modDie d f).cycle = s.cycle := rfl
@[simp] theorem State.modDie_woken (s : State) (d : Nat) (f : Die → Die) : (s.modDie d f).woken = s.woken := rfl
@[simp] theorem State.modDie_free (s : State) (d : Nat) (f : Die → Die) : (s.modDie d f).free = s.free := rfl
@[simp] theorem State.modDie_parts (s : State) (d : Nat) (f : Die → Die) : (s.modDie d f).parts = s.parts := rfl
@[simp] theorem State.modDie_cur (s : State) (d : Nat) (f : Die → Die) : (s.modDie d f).cur = s.cur := rfl
@[simp] theorem State.modDie_turn (s : State) (d : Nat) (f : Die → Die) : (s.modDie d f).turn = s.turn := rfl
@[simp] theorem State.modDie_agenda (s : State) (d : Nat) (f : Die → Die) : (s.modDie d f).agenda = s.agenda := rfl
@[simp] theorem State.modDie_flights (s : State) (d : Nat) (f : Die → Die) : (s.modDie d f).flights = s.flights := rfl
@[simp] theorem State.modDie_nextId (s : State) (d : Nat) (f : Die → Die) : (s.modDie d f).nextId = s.nextId := rfl
@[simp] theorem State.modDie_mem (s : State) (d : Nat) (f : Die → Die) : (s.modDie d f).mem = s.mem := rfl
@[simp] theorem State.modDie_poison (s : State) (d : Nat) (f : Die → Die) : (s.modDie d f).poison = s.poison := rfl
@[simp] theorem State.modDie_grans (s : State) (d : Nat) (f : Die → Die) : (s.modDie d f).grans = s.grans := rfl
@[simp] theorem State.modDie_slots (s : State) (d : Nat) (f : Die → Die) : (s.modDie d f).slots = s.slots := rfl
@[simp] theorem State.modDie_cores (s : State) (d : Nat) (f : Die → Die) : (s.modDie d f).cores = s.cores := rfl
@[simp] theorem State.modDie_clusters (s : State) (d : Nat) (f : Die → Die) : (s.modDie d f).clusters = s.clusters := rfl
@[simp] theorem State.modDie_launches (s : State) (d : Nat) (f : Die → Die) : (s.modDie d f).launches = s.launches := rfl
@[simp] theorem State.modDie_queues (s : State) (d : Nat) (f : Die → Die) : (s.modDie d f).queues = s.queues := rfl
@[simp] theorem State.modDie_specs (s : State) (d : Nat) (f : Die → Die) : (s.modDie d f).specs = s.specs := rfl
@[simp] theorem State.modDie_images (s : State) (d : Nat) (f : Die → Die) : (s.modDie d f).images = s.images := rfl
@[simp] theorem State.modDie_outbox (s : State) (d : Nat) (f : Die → Die) : (s.modDie d f).outbox = s.outbox := rfl
@[simp] theorem State.modQueue_cycle (s : State) (q : Nat) (f : Queue → Queue) : (s.modQueue q f).cycle = s.cycle := rfl
@[simp] theorem State.modQueue_woken (s : State) (q : Nat) (f : Queue → Queue) : (s.modQueue q f).woken = s.woken := rfl
@[simp] theorem State.modQueue_free (s : State) (q : Nat) (f : Queue → Queue) : (s.modQueue q f).free = s.free := rfl
@[simp] theorem State.modQueue_parts (s : State) (q : Nat) (f : Queue → Queue) : (s.modQueue q f).parts = s.parts := rfl
@[simp] theorem State.modQueue_cur (s : State) (q : Nat) (f : Queue → Queue) : (s.modQueue q f).cur = s.cur := rfl
@[simp] theorem State.modQueue_turn (s : State) (q : Nat) (f : Queue → Queue) : (s.modQueue q f).turn = s.turn := rfl
@[simp] theorem State.modQueue_agenda (s : State) (q : Nat) (f : Queue → Queue) : (s.modQueue q f).agenda = s.agenda := rfl
@[simp] theorem State.modQueue_flights (s : State) (q : Nat) (f : Queue → Queue) : (s.modQueue q f).flights = s.flights := rfl
@[simp] theorem State.modQueue_nextId (s : State) (q : Nat) (f : Queue → Queue) : (s.modQueue q f).nextId = s.nextId := rfl
@[simp] theorem State.modQueue_mem (s : State) (q : Nat) (f : Queue → Queue) : (s.modQueue q f).mem = s.mem := rfl
@[simp] theorem State.modQueue_poison (s : State) (q : Nat) (f : Queue → Queue) : (s.modQueue q f).poison = s.poison := rfl
@[simp] theorem State.modQueue_grans (s : State) (q : Nat) (f : Queue → Queue) : (s.modQueue q f).grans = s.grans := rfl
@[simp] theorem State.modQueue_slots (s : State) (q : Nat) (f : Queue → Queue) : (s.modQueue q f).slots = s.slots := rfl
@[simp] theorem State.modQueue_cores (s : State) (q : Nat) (f : Queue → Queue) : (s.modQueue q f).cores = s.cores := rfl
@[simp] theorem State.modQueue_clusters (s : State) (q : Nat) (f : Queue → Queue) : (s.modQueue q f).clusters = s.clusters := rfl
@[simp] theorem State.modQueue_dies (s : State) (q : Nat) (f : Queue → Queue) : (s.modQueue q f).dies = s.dies := rfl
@[simp] theorem State.modQueue_launches (s : State) (q : Nat) (f : Queue → Queue) : (s.modQueue q f).launches = s.launches := rfl
@[simp] theorem State.modQueue_specs (s : State) (q : Nat) (f : Queue → Queue) : (s.modQueue q f).specs = s.specs := rfl
@[simp] theorem State.modQueue_images (s : State) (q : Nat) (f : Queue → Queue) : (s.modQueue q f).images = s.images := rfl
@[simp] theorem State.modQueue_outbox (s : State) (q : Nat) (f : Queue → Queue) : (s.modQueue q f).outbox = s.outbox := rfl
@[simp] theorem State.setLaunch_cycle (s : State) (l : Nat) (x : Option Launch) : (s.setLaunch l x).cycle = s.cycle := rfl
@[simp] theorem State.setLaunch_woken (s : State) (l : Nat) (x : Option Launch) : (s.setLaunch l x).woken = s.woken := rfl
@[simp] theorem State.setLaunch_free (s : State) (l : Nat) (x : Option Launch) : (s.setLaunch l x).free = s.free := rfl
@[simp] theorem State.setLaunch_parts (s : State) (l : Nat) (x : Option Launch) : (s.setLaunch l x).parts = s.parts := rfl
@[simp] theorem State.setLaunch_cur (s : State) (l : Nat) (x : Option Launch) : (s.setLaunch l x).cur = s.cur := rfl
@[simp] theorem State.setLaunch_turn (s : State) (l : Nat) (x : Option Launch) : (s.setLaunch l x).turn = s.turn := rfl
@[simp] theorem State.setLaunch_agenda (s : State) (l : Nat) (x : Option Launch) : (s.setLaunch l x).agenda = s.agenda := rfl
@[simp] theorem State.setLaunch_flights (s : State) (l : Nat) (x : Option Launch) : (s.setLaunch l x).flights = s.flights := rfl
@[simp] theorem State.setLaunch_nextId (s : State) (l : Nat) (x : Option Launch) : (s.setLaunch l x).nextId = s.nextId := rfl
@[simp] theorem State.setLaunch_mem (s : State) (l : Nat) (x : Option Launch) : (s.setLaunch l x).mem = s.mem := rfl
@[simp] theorem State.setLaunch_poison (s : State) (l : Nat) (x : Option Launch) : (s.setLaunch l x).poison = s.poison := rfl
@[simp] theorem State.setLaunch_grans (s : State) (l : Nat) (x : Option Launch) : (s.setLaunch l x).grans = s.grans := rfl
@[simp] theorem State.setLaunch_slots (s : State) (l : Nat) (x : Option Launch) : (s.setLaunch l x).slots = s.slots := rfl
@[simp] theorem State.setLaunch_cores (s : State) (l : Nat) (x : Option Launch) : (s.setLaunch l x).cores = s.cores := rfl
@[simp] theorem State.setLaunch_clusters (s : State) (l : Nat) (x : Option Launch) : (s.setLaunch l x).clusters = s.clusters := rfl
@[simp] theorem State.setLaunch_dies (s : State) (l : Nat) (x : Option Launch) : (s.setLaunch l x).dies = s.dies := rfl
@[simp] theorem State.setLaunch_queues (s : State) (l : Nat) (x : Option Launch) : (s.setLaunch l x).queues = s.queues := rfl
@[simp] theorem State.setLaunch_specs (s : State) (l : Nat) (x : Option Launch) : (s.setLaunch l x).specs = s.specs := rfl
@[simp] theorem State.setLaunch_images (s : State) (l : Nat) (x : Option Launch) : (s.setLaunch l x).images = s.images := rfl
@[simp] theorem State.setLaunch_outbox (s : State) (l : Nat) (x : Option Launch) : (s.setLaunch l x).outbox = s.outbox := rfl
@[simp] theorem State.modLaunch_cycle (s : State) (l : Nat) (f : Launch → Launch) : (s.modLaunch l f).cycle = s.cycle := rfl
@[simp] theorem State.modLaunch_woken (s : State) (l : Nat) (f : Launch → Launch) : (s.modLaunch l f).woken = s.woken := rfl
@[simp] theorem State.modLaunch_free (s : State) (l : Nat) (f : Launch → Launch) : (s.modLaunch l f).free = s.free := rfl
@[simp] theorem State.modLaunch_parts (s : State) (l : Nat) (f : Launch → Launch) : (s.modLaunch l f).parts = s.parts := rfl
@[simp] theorem State.modLaunch_cur (s : State) (l : Nat) (f : Launch → Launch) : (s.modLaunch l f).cur = s.cur := rfl
@[simp] theorem State.modLaunch_turn (s : State) (l : Nat) (f : Launch → Launch) : (s.modLaunch l f).turn = s.turn := rfl
@[simp] theorem State.modLaunch_agenda (s : State) (l : Nat) (f : Launch → Launch) : (s.modLaunch l f).agenda = s.agenda := rfl
@[simp] theorem State.modLaunch_flights (s : State) (l : Nat) (f : Launch → Launch) : (s.modLaunch l f).flights = s.flights := rfl
@[simp] theorem State.modLaunch_nextId (s : State) (l : Nat) (f : Launch → Launch) : (s.modLaunch l f).nextId = s.nextId := rfl
@[simp] theorem State.modLaunch_mem (s : State) (l : Nat) (f : Launch → Launch) : (s.modLaunch l f).mem = s.mem := rfl
@[simp] theorem State.modLaunch_poison (s : State) (l : Nat) (f : Launch → Launch) : (s.modLaunch l f).poison = s.poison := rfl
@[simp] theorem State.modLaunch_grans (s : State) (l : Nat) (f : Launch → Launch) : (s.modLaunch l f).grans = s.grans := rfl
@[simp] theorem State.modLaunch_slots (s : State) (l : Nat) (f : Launch → Launch) : (s.modLaunch l f).slots = s.slots := rfl
@[simp] theorem State.modLaunch_cores (s : State) (l : Nat) (f : Launch → Launch) : (s.modLaunch l f).cores = s.cores := rfl
@[simp] theorem State.modLaunch_clusters (s : State) (l : Nat) (f : Launch → Launch) : (s.modLaunch l f).clusters = s.clusters := rfl
@[simp] theorem State.modLaunch_dies (s : State) (l : Nat) (f : Launch → Launch) : (s.modLaunch l f).dies = s.dies := rfl
@[simp] theorem State.modLaunch_queues (s : State) (l : Nat) (f : Launch → Launch) : (s.modLaunch l f).queues = s.queues := rfl
@[simp] theorem State.modLaunch_specs (s : State) (l : Nat) (f : Launch → Launch) : (s.modLaunch l f).specs = s.specs := rfl
@[simp] theorem State.modLaunch_images (s : State) (l : Nat) (f : Launch → Launch) : (s.modLaunch l f).images = s.images := rfl
@[simp] theorem State.modLaunch_outbox (s : State) (l : Nat) (f : Launch → Launch) : (s.modLaunch l f).outbox = s.outbox := rfl
@[simp] theorem State.post_cycle (s : State) (d : Nat) (e : Ev) : (s.post d e).cycle = s.cycle := rfl
@[simp] theorem State.post_woken (s : State) (d : Nat) (e : Ev) : (s.post d e).woken = s.woken := rfl
@[simp] theorem State.post_free (s : State) (d : Nat) (e : Ev) : (s.post d e).free = s.free := rfl
@[simp] theorem State.post_parts (s : State) (d : Nat) (e : Ev) : (s.post d e).parts = s.parts := rfl
@[simp] theorem State.post_cur (s : State) (d : Nat) (e : Ev) : (s.post d e).cur = s.cur := rfl
@[simp] theorem State.post_turn (s : State) (d : Nat) (e : Ev) : (s.post d e).turn = s.turn := rfl
@[simp] theorem State.post_flights (s : State) (d : Nat) (e : Ev) : (s.post d e).flights = s.flights := rfl
@[simp] theorem State.post_nextId (s : State) (d : Nat) (e : Ev) : (s.post d e).nextId = s.nextId := rfl
@[simp] theorem State.post_mem (s : State) (d : Nat) (e : Ev) : (s.post d e).mem = s.mem := rfl
@[simp] theorem State.post_poison (s : State) (d : Nat) (e : Ev) : (s.post d e).poison = s.poison := rfl
@[simp] theorem State.post_grans (s : State) (d : Nat) (e : Ev) : (s.post d e).grans = s.grans := rfl
@[simp] theorem State.post_slots (s : State) (d : Nat) (e : Ev) : (s.post d e).slots = s.slots := rfl
@[simp] theorem State.post_cores (s : State) (d : Nat) (e : Ev) : (s.post d e).cores = s.cores := rfl
@[simp] theorem State.post_clusters (s : State) (d : Nat) (e : Ev) : (s.post d e).clusters = s.clusters := rfl
@[simp] theorem State.post_dies (s : State) (d : Nat) (e : Ev) : (s.post d e).dies = s.dies := rfl
@[simp] theorem State.post_launches (s : State) (d : Nat) (e : Ev) : (s.post d e).launches = s.launches := rfl
@[simp] theorem State.post_queues (s : State) (d : Nat) (e : Ev) : (s.post d e).queues = s.queues := rfl
@[simp] theorem State.post_specs (s : State) (d : Nat) (e : Ev) : (s.post d e).specs = s.specs := rfl
@[simp] theorem State.post_images (s : State) (d : Nat) (e : Ev) : (s.post d e).images = s.images := rfl
@[simp] theorem State.post_outbox (s : State) (d : Nat) (e : Ev) : (s.post d e).outbox = s.outbox := rfl
@[simp] theorem State.postNow_cycle (s : State) (e : Ev) : (s.postNow e).cycle = s.cycle := rfl
@[simp] theorem State.postNow_woken (s : State) (e : Ev) : (s.postNow e).woken = s.woken := rfl
@[simp] theorem State.postNow_free (s : State) (e : Ev) : (s.postNow e).free = s.free := rfl
@[simp] theorem State.postNow_parts (s : State) (e : Ev) : (s.postNow e).parts = s.parts := rfl
@[simp] theorem State.postNow_cur (s : State) (e : Ev) : (s.postNow e).cur = s.cur := rfl
@[simp] theorem State.postNow_turn (s : State) (e : Ev) : (s.postNow e).turn = s.turn := rfl
@[simp] theorem State.postNow_flights (s : State) (e : Ev) : (s.postNow e).flights = s.flights := rfl
@[simp] theorem State.postNow_nextId (s : State) (e : Ev) : (s.postNow e).nextId = s.nextId := rfl
@[simp] theorem State.postNow_mem (s : State) (e : Ev) : (s.postNow e).mem = s.mem := rfl
@[simp] theorem State.postNow_poison (s : State) (e : Ev) : (s.postNow e).poison = s.poison := rfl
@[simp] theorem State.postNow_grans (s : State) (e : Ev) : (s.postNow e).grans = s.grans := rfl
@[simp] theorem State.postNow_slots (s : State) (e : Ev) : (s.postNow e).slots = s.slots := rfl
@[simp] theorem State.postNow_cores (s : State) (e : Ev) : (s.postNow e).cores = s.cores := rfl
@[simp] theorem State.postNow_clusters (s : State) (e : Ev) : (s.postNow e).clusters = s.clusters := rfl
@[simp] theorem State.postNow_dies (s : State) (e : Ev) : (s.postNow e).dies = s.dies := rfl
@[simp] theorem State.postNow_launches (s : State) (e : Ev) : (s.postNow e).launches = s.launches := rfl
@[simp] theorem State.postNow_queues (s : State) (e : Ev) : (s.postNow e).queues = s.queues := rfl
@[simp] theorem State.postNow_specs (s : State) (e : Ev) : (s.postNow e).specs = s.specs := rfl
@[simp] theorem State.postNow_images (s : State) (e : Ev) : (s.postNow e).images = s.images := rfl
@[simp] theorem State.postNow_outbox (s : State) (e : Ev) : (s.postNow e).outbox = s.outbox := rfl
@[simp] theorem State.postLat_cycle (s : State) (i : Nat) (e : Ev) : (s.postLat i e).cycle = s.cycle := rfl
@[simp] theorem State.postLat_woken (s : State) (i : Nat) (e : Ev) : (s.postLat i e).woken = s.woken := rfl
@[simp] theorem State.postLat_free (s : State) (i : Nat) (e : Ev) : (s.postLat i e).free = s.free := rfl
@[simp] theorem State.postLat_parts (s : State) (i : Nat) (e : Ev) : (s.postLat i e).parts = s.parts := rfl
@[simp] theorem State.postLat_cur (s : State) (i : Nat) (e : Ev) : (s.postLat i e).cur = s.cur := rfl
@[simp] theorem State.postLat_turn (s : State) (i : Nat) (e : Ev) : (s.postLat i e).turn = s.turn := rfl
@[simp] theorem State.postLat_flights (s : State) (i : Nat) (e : Ev) : (s.postLat i e).flights = s.flights := rfl
@[simp] theorem State.postLat_nextId (s : State) (i : Nat) (e : Ev) : (s.postLat i e).nextId = s.nextId := rfl
@[simp] theorem State.postLat_mem (s : State) (i : Nat) (e : Ev) : (s.postLat i e).mem = s.mem := rfl
@[simp] theorem State.postLat_poison (s : State) (i : Nat) (e : Ev) : (s.postLat i e).poison = s.poison := rfl
@[simp] theorem State.postLat_grans (s : State) (i : Nat) (e : Ev) : (s.postLat i e).grans = s.grans := rfl
@[simp] theorem State.postLat_slots (s : State) (i : Nat) (e : Ev) : (s.postLat i e).slots = s.slots := rfl
@[simp] theorem State.postLat_cores (s : State) (i : Nat) (e : Ev) : (s.postLat i e).cores = s.cores := rfl
@[simp] theorem State.postLat_clusters (s : State) (i : Nat) (e : Ev) : (s.postLat i e).clusters = s.clusters := rfl
@[simp] theorem State.postLat_dies (s : State) (i : Nat) (e : Ev) : (s.postLat i e).dies = s.dies := rfl
@[simp] theorem State.postLat_launches (s : State) (i : Nat) (e : Ev) : (s.postLat i e).launches = s.launches := rfl
@[simp] theorem State.postLat_queues (s : State) (i : Nat) (e : Ev) : (s.postLat i e).queues = s.queues := rfl
@[simp] theorem State.postLat_specs (s : State) (i : Nat) (e : Ev) : (s.postLat i e).specs = s.specs := rfl
@[simp] theorem State.postLat_images (s : State) (i : Nat) (e : Ev) : (s.postLat i e).images = s.images := rfl
@[simp] theorem State.postLat_outbox (s : State) (i : Nat) (e : Ev) : (s.postLat i e).outbox = s.outbox := rfl
@[simp] theorem State.emit_cycle (s : State) (o : Out) : (s.emit o).cycle = s.cycle := rfl
@[simp] theorem State.emit_woken (s : State) (o : Out) : (s.emit o).woken = s.woken := rfl
@[simp] theorem State.emit_free (s : State) (o : Out) : (s.emit o).free = s.free := rfl
@[simp] theorem State.emit_parts (s : State) (o : Out) : (s.emit o).parts = s.parts := rfl
@[simp] theorem State.emit_cur (s : State) (o : Out) : (s.emit o).cur = s.cur := rfl
@[simp] theorem State.emit_turn (s : State) (o : Out) : (s.emit o).turn = s.turn := rfl
@[simp] theorem State.emit_agenda (s : State) (o : Out) : (s.emit o).agenda = s.agenda := rfl
@[simp] theorem State.emit_flights (s : State) (o : Out) : (s.emit o).flights = s.flights := rfl
@[simp] theorem State.emit_nextId (s : State) (o : Out) : (s.emit o).nextId = s.nextId := rfl
@[simp] theorem State.emit_mem (s : State) (o : Out) : (s.emit o).mem = s.mem := rfl
@[simp] theorem State.emit_poison (s : State) (o : Out) : (s.emit o).poison = s.poison := rfl
@[simp] theorem State.emit_grans (s : State) (o : Out) : (s.emit o).grans = s.grans := rfl
@[simp] theorem State.emit_slots (s : State) (o : Out) : (s.emit o).slots = s.slots := rfl
@[simp] theorem State.emit_cores (s : State) (o : Out) : (s.emit o).cores = s.cores := rfl
@[simp] theorem State.emit_clusters (s : State) (o : Out) : (s.emit o).clusters = s.clusters := rfl
@[simp] theorem State.emit_dies (s : State) (o : Out) : (s.emit o).dies = s.dies := rfl
@[simp] theorem State.emit_launches (s : State) (o : Out) : (s.emit o).launches = s.launches := rfl
@[simp] theorem State.emit_queues (s : State) (o : Out) : (s.emit o).queues = s.queues := rfl
@[simp] theorem State.emit_specs (s : State) (o : Out) : (s.emit o).specs = s.specs := rfl
@[simp] theorem State.emit_images (s : State) (o : Out) : (s.emit o).images = s.images := rfl
@[simp] theorem State.finish_cycle (s : State) (f : Slot → Slot) : (s.finish f).cycle = s.cycle := rfl
@[simp] theorem State.finish_woken (s : State) (f : Slot → Slot) : (s.finish f).woken = s.woken := rfl
@[simp] theorem State.finish_free (s : State) (f : Slot → Slot) : (s.finish f).free = s.free := rfl
@[simp] theorem State.finish_parts (s : State) (f : Slot → Slot) : (s.finish f).parts = s.parts := rfl
@[simp] theorem State.finish_cur (s : State) (f : Slot → Slot) : (s.finish f).cur = s.cur := rfl
@[simp] theorem State.finish_turn (s : State) (f : Slot → Slot) : (s.finish f).turn = s.turn := rfl
@[simp] theorem State.finish_agenda (s : State) (f : Slot → Slot) : (s.finish f).agenda = s.agenda := rfl
@[simp] theorem State.finish_flights (s : State) (f : Slot → Slot) : (s.finish f).flights = s.flights := rfl
@[simp] theorem State.finish_nextId (s : State) (f : Slot → Slot) : (s.finish f).nextId = s.nextId := rfl
@[simp] theorem State.finish_mem (s : State) (f : Slot → Slot) : (s.finish f).mem = s.mem := rfl
@[simp] theorem State.finish_poison (s : State) (f : Slot → Slot) : (s.finish f).poison = s.poison := rfl
@[simp] theorem State.finish_grans (s : State) (f : Slot → Slot) : (s.finish f).grans = s.grans := rfl
@[simp] theorem State.finish_cores (s : State) (f : Slot → Slot) : (s.finish f).cores = s.cores := rfl
@[simp] theorem State.finish_clusters (s : State) (f : Slot → Slot) : (s.finish f).clusters = s.clusters := rfl
@[simp] theorem State.finish_dies (s : State) (f : Slot → Slot) : (s.finish f).dies = s.dies := rfl
@[simp] theorem State.finish_launches (s : State) (f : Slot → Slot) : (s.finish f).launches = s.launches := rfl
@[simp] theorem State.finish_queues (s : State) (f : Slot → Slot) : (s.finish f).queues = s.queues := rfl
@[simp] theorem State.finish_specs (s : State) (f : Slot → Slot) : (s.finish f).specs = s.specs := rfl
@[simp] theorem State.finish_images (s : State) (f : Slot → Slot) : (s.finish f).images = s.images := rfl
@[simp] theorem State.finish_outbox (s : State) (f : Slot → Slot) : (s.finish f).outbox = s.outbox := rfl
@[simp] theorem State.modFlight_cycle (s : State) (i : Nat) (f : Flight → Flight) : (s.modFlight i f).cycle = s.cycle := rfl
@[simp] theorem State.modFlight_woken (s : State) (i : Nat) (f : Flight → Flight) : (s.modFlight i f).woken = s.woken := rfl
@[simp] theorem State.modFlight_free (s : State) (i : Nat) (f : Flight → Flight) : (s.modFlight i f).free = s.free := rfl
@[simp] theorem State.modFlight_parts (s : State) (i : Nat) (f : Flight → Flight) : (s.modFlight i f).parts = s.parts := rfl
@[simp] theorem State.modFlight_cur (s : State) (i : Nat) (f : Flight → Flight) : (s.modFlight i f).cur = s.cur := rfl
@[simp] theorem State.modFlight_turn (s : State) (i : Nat) (f : Flight → Flight) : (s.modFlight i f).turn = s.turn := rfl
@[simp] theorem State.modFlight_agenda (s : State) (i : Nat) (f : Flight → Flight) : (s.modFlight i f).agenda = s.agenda := rfl
@[simp] theorem State.modFlight_nextId (s : State) (i : Nat) (f : Flight → Flight) : (s.modFlight i f).nextId = s.nextId := rfl
@[simp] theorem State.modFlight_mem (s : State) (i : Nat) (f : Flight → Flight) : (s.modFlight i f).mem = s.mem := rfl
@[simp] theorem State.modFlight_poison (s : State) (i : Nat) (f : Flight → Flight) : (s.modFlight i f).poison = s.poison := rfl
@[simp] theorem State.modFlight_grans (s : State) (i : Nat) (f : Flight → Flight) : (s.modFlight i f).grans = s.grans := rfl
@[simp] theorem State.modFlight_slots (s : State) (i : Nat) (f : Flight → Flight) : (s.modFlight i f).slots = s.slots := rfl
@[simp] theorem State.modFlight_cores (s : State) (i : Nat) (f : Flight → Flight) : (s.modFlight i f).cores = s.cores := rfl
@[simp] theorem State.modFlight_clusters (s : State) (i : Nat) (f : Flight → Flight) : (s.modFlight i f).clusters = s.clusters := rfl
@[simp] theorem State.modFlight_dies (s : State) (i : Nat) (f : Flight → Flight) : (s.modFlight i f).dies = s.dies := rfl
@[simp] theorem State.modFlight_launches (s : State) (i : Nat) (f : Flight → Flight) : (s.modFlight i f).launches = s.launches := rfl
@[simp] theorem State.modFlight_queues (s : State) (i : Nat) (f : Flight → Flight) : (s.modFlight i f).queues = s.queues := rfl
@[simp] theorem State.modFlight_specs (s : State) (i : Nat) (f : Flight → Flight) : (s.modFlight i f).specs = s.specs := rfl
@[simp] theorem State.modFlight_images (s : State) (i : Nat) (f : Flight → Flight) : (s.modFlight i f).images = s.images := rfl
@[simp] theorem State.modFlight_outbox (s : State) (i : Nat) (f : Flight → Flight) : (s.modFlight i f).outbox = s.outbox := rfl
@[simp] theorem State.dropFlight_cycle (s : State) (i : Nat) : (s.dropFlight i).cycle = s.cycle := rfl
@[simp] theorem State.dropFlight_woken (s : State) (i : Nat) : (s.dropFlight i).woken = s.woken := rfl
@[simp] theorem State.dropFlight_free (s : State) (i : Nat) : (s.dropFlight i).free = s.free := rfl
@[simp] theorem State.dropFlight_parts (s : State) (i : Nat) : (s.dropFlight i).parts = s.parts := rfl
@[simp] theorem State.dropFlight_cur (s : State) (i : Nat) : (s.dropFlight i).cur = s.cur := rfl
@[simp] theorem State.dropFlight_turn (s : State) (i : Nat) : (s.dropFlight i).turn = s.turn := rfl
@[simp] theorem State.dropFlight_agenda (s : State) (i : Nat) : (s.dropFlight i).agenda = s.agenda := rfl
@[simp] theorem State.dropFlight_nextId (s : State) (i : Nat) : (s.dropFlight i).nextId = s.nextId := rfl
@[simp] theorem State.dropFlight_mem (s : State) (i : Nat) : (s.dropFlight i).mem = s.mem := rfl
@[simp] theorem State.dropFlight_poison (s : State) (i : Nat) : (s.dropFlight i).poison = s.poison := rfl
@[simp] theorem State.dropFlight_grans (s : State) (i : Nat) : (s.dropFlight i).grans = s.grans := rfl
@[simp] theorem State.dropFlight_slots (s : State) (i : Nat) : (s.dropFlight i).slots = s.slots := rfl
@[simp] theorem State.dropFlight_cores (s : State) (i : Nat) : (s.dropFlight i).cores = s.cores := rfl
@[simp] theorem State.dropFlight_clusters (s : State) (i : Nat) : (s.dropFlight i).clusters = s.clusters := rfl
@[simp] theorem State.dropFlight_dies (s : State) (i : Nat) : (s.dropFlight i).dies = s.dies := rfl
@[simp] theorem State.dropFlight_launches (s : State) (i : Nat) : (s.dropFlight i).launches = s.launches := rfl
@[simp] theorem State.dropFlight_queues (s : State) (i : Nat) : (s.dropFlight i).queues = s.queues := rfl
@[simp] theorem State.dropFlight_specs (s : State) (i : Nat) : (s.dropFlight i).specs = s.specs := rfl
@[simp] theorem State.dropFlight_images (s : State) (i : Nat) : (s.dropFlight i).images = s.images := rfl
@[simp] theorem State.dropFlight_outbox (s : State) (i : Nat) : (s.dropFlight i).outbox = s.outbox := rfl

/-! ### Accessors after an update of another unit -/

@[simp] theorem State.setSlot_core (s : State) (t : Nat) (x : Slot) (i : Nat) : (s.setSlot t x).core i = s.core i := rfl
@[simp] theorem State.setSlot_cluster (s : State) (t : Nat) (x : Slot) (i : Nat) : (s.setSlot t x).cluster i = s.cluster i := rfl
@[simp] theorem State.setSlot_die (s : State) (t : Nat) (x : Slot) (i : Nat) : (s.setSlot t x).die i = s.die i := rfl
@[simp] theorem State.setSlot_queue (s : State) (t : Nat) (x : Slot) (i : Nat) : (s.setSlot t x).queue i = s.queue i := rfl
@[simp] theorem State.setSlot_launch (s : State) (t : Nat) (x : Slot) (i : Nat) : (s.setSlot t x).launch i = s.launch i := rfl
@[simp] theorem State.modSlot_core (s : State) (t : Nat) (f : Slot → Slot) (i : Nat) : (s.modSlot t f).core i = s.core i := rfl
@[simp] theorem State.modSlot_cluster (s : State) (t : Nat) (f : Slot → Slot) (i : Nat) : (s.modSlot t f).cluster i = s.cluster i := rfl
@[simp] theorem State.modSlot_die (s : State) (t : Nat) (f : Slot → Slot) (i : Nat) : (s.modSlot t f).die i = s.die i := rfl
@[simp] theorem State.modSlot_queue (s : State) (t : Nat) (f : Slot → Slot) (i : Nat) : (s.modSlot t f).queue i = s.queue i := rfl
@[simp] theorem State.modSlot_launch (s : State) (t : Nat) (f : Slot → Slot) (i : Nat) : (s.modSlot t f).launch i = s.launch i := rfl
@[simp] theorem State.modCore_slot (s : State) (c : Nat) (f : Core → Core) (i : Nat) : (s.modCore c f).slot i = s.slot i := rfl
@[simp] theorem State.modCore_cluster (s : State) (c : Nat) (f : Core → Core) (i : Nat) : (s.modCore c f).cluster i = s.cluster i := rfl
@[simp] theorem State.modCore_die (s : State) (c : Nat) (f : Core → Core) (i : Nat) : (s.modCore c f).die i = s.die i := rfl
@[simp] theorem State.modCore_queue (s : State) (c : Nat) (f : Core → Core) (i : Nat) : (s.modCore c f).queue i = s.queue i := rfl
@[simp] theorem State.modCore_launch (s : State) (c : Nat) (f : Core → Core) (i : Nat) : (s.modCore c f).launch i = s.launch i := rfl
@[simp] theorem State.modCluster_slot (s : State) (c : Nat) (f : Cluster → Cluster) (i : Nat) : (s.modCluster c f).slot i = s.slot i := rfl
@[simp] theorem State.modCluster_core (s : State) (c : Nat) (f : Cluster → Cluster) (i : Nat) : (s.modCluster c f).core i = s.core i := rfl
@[simp] theorem State.modCluster_die (s : State) (c : Nat) (f : Cluster → Cluster) (i : Nat) : (s.modCluster c f).die i = s.die i := rfl
@[simp] theorem State.modCluster_queue (s : State) (c : Nat) (f : Cluster → Cluster) (i : Nat) : (s.modCluster c f).queue i = s.queue i := rfl
@[simp] theorem State.modCluster_launch (s : State) (c : Nat) (f : Cluster → Cluster) (i : Nat) : (s.modCluster c f).launch i = s.launch i := rfl
@[simp] theorem State.modDie_slot (s : State) (d : Nat) (f : Die → Die) (i : Nat) : (s.modDie d f).slot i = s.slot i := rfl
@[simp] theorem State.modDie_core (s : State) (d : Nat) (f : Die → Die) (i : Nat) : (s.modDie d f).core i = s.core i := rfl
@[simp] theorem State.modDie_cluster (s : State) (d : Nat) (f : Die → Die) (i : Nat) : (s.modDie d f).cluster i = s.cluster i := rfl
@[simp] theorem State.modDie_queue (s : State) (d : Nat) (f : Die → Die) (i : Nat) : (s.modDie d f).queue i = s.queue i := rfl
@[simp] theorem State.modDie_launch (s : State) (d : Nat) (f : Die → Die) (i : Nat) : (s.modDie d f).launch i = s.launch i := rfl
@[simp] theorem State.modQueue_slot (s : State) (q : Nat) (f : Queue → Queue) (i : Nat) : (s.modQueue q f).slot i = s.slot i := rfl
@[simp] theorem State.modQueue_core (s : State) (q : Nat) (f : Queue → Queue) (i : Nat) : (s.modQueue q f).core i = s.core i := rfl
@[simp] theorem State.modQueue_cluster (s : State) (q : Nat) (f : Queue → Queue) (i : Nat) : (s.modQueue q f).cluster i = s.cluster i := rfl
@[simp] theorem State.modQueue_die (s : State) (q : Nat) (f : Queue → Queue) (i : Nat) : (s.modQueue q f).die i = s.die i := rfl
@[simp] theorem State.modQueue_launch (s : State) (q : Nat) (f : Queue → Queue) (i : Nat) : (s.modQueue q f).launch i = s.launch i := rfl
@[simp] theorem State.setLaunch_slot (s : State) (l : Nat) (x : Option Launch) (i : Nat) : (s.setLaunch l x).slot i = s.slot i := rfl
@[simp] theorem State.setLaunch_core (s : State) (l : Nat) (x : Option Launch) (i : Nat) : (s.setLaunch l x).core i = s.core i := rfl
@[simp] theorem State.setLaunch_cluster (s : State) (l : Nat) (x : Option Launch) (i : Nat) : (s.setLaunch l x).cluster i = s.cluster i := rfl
@[simp] theorem State.setLaunch_die (s : State) (l : Nat) (x : Option Launch) (i : Nat) : (s.setLaunch l x).die i = s.die i := rfl
@[simp] theorem State.setLaunch_queue (s : State) (l : Nat) (x : Option Launch) (i : Nat) : (s.setLaunch l x).queue i = s.queue i := rfl
@[simp] theorem State.modLaunch_slot (s : State) (l : Nat) (f : Launch → Launch) (i : Nat) : (s.modLaunch l f).slot i = s.slot i := rfl
@[simp] theorem State.modLaunch_core (s : State) (l : Nat) (f : Launch → Launch) (i : Nat) : (s.modLaunch l f).core i = s.core i := rfl
@[simp] theorem State.modLaunch_cluster (s : State) (l : Nat) (f : Launch → Launch) (i : Nat) : (s.modLaunch l f).cluster i = s.cluster i := rfl
@[simp] theorem State.modLaunch_die (s : State) (l : Nat) (f : Launch → Launch) (i : Nat) : (s.modLaunch l f).die i = s.die i := rfl
@[simp] theorem State.modLaunch_queue (s : State) (l : Nat) (f : Launch → Launch) (i : Nat) : (s.modLaunch l f).queue i = s.queue i := rfl
@[simp] theorem State.post_slot (s : State) (d : Nat) (e : Ev) (i : Nat) : (s.post d e).slot i = s.slot i := rfl
@[simp] theorem State.post_core (s : State) (d : Nat) (e : Ev) (i : Nat) : (s.post d e).core i = s.core i := rfl
@[simp] theorem State.post_cluster (s : State) (d : Nat) (e : Ev) (i : Nat) : (s.post d e).cluster i = s.cluster i := rfl
@[simp] theorem State.post_die (s : State) (d : Nat) (e : Ev) (i : Nat) : (s.post d e).die i = s.die i := rfl
@[simp] theorem State.post_queue (s : State) (d : Nat) (e : Ev) (i : Nat) : (s.post d e).queue i = s.queue i := rfl
@[simp] theorem State.post_launch (s : State) (d : Nat) (e : Ev) (i : Nat) : (s.post d e).launch i = s.launch i := rfl
@[simp] theorem State.postNow_slot (s : State) (e : Ev) (i : Nat) : (s.postNow e).slot i = s.slot i := rfl
@[simp] theorem State.postNow_core (s : State) (e : Ev) (i : Nat) : (s.postNow e).core i = s.core i := rfl
@[simp] theorem State.postNow_cluster (s : State) (e : Ev) (i : Nat) : (s.postNow e).cluster i = s.cluster i := rfl
@[simp] theorem State.postNow_die (s : State) (e : Ev) (i : Nat) : (s.postNow e).die i = s.die i := rfl
@[simp] theorem State.postNow_queue (s : State) (e : Ev) (i : Nat) : (s.postNow e).queue i = s.queue i := rfl
@[simp] theorem State.postNow_launch (s : State) (e : Ev) (i : Nat) : (s.postNow e).launch i = s.launch i := rfl
@[simp] theorem State.postLat_slot (s : State) (j : Nat) (e : Ev) (i : Nat) : (s.postLat j e).slot i = s.slot i := rfl
@[simp] theorem State.postLat_core (s : State) (j : Nat) (e : Ev) (i : Nat) : (s.postLat j e).core i = s.core i := rfl
@[simp] theorem State.postLat_cluster (s : State) (j : Nat) (e : Ev) (i : Nat) : (s.postLat j e).cluster i = s.cluster i := rfl
@[simp] theorem State.postLat_die (s : State) (j : Nat) (e : Ev) (i : Nat) : (s.postLat j e).die i = s.die i := rfl
@[simp] theorem State.postLat_queue (s : State) (j : Nat) (e : Ev) (i : Nat) : (s.postLat j e).queue i = s.queue i := rfl
@[simp] theorem State.postLat_launch (s : State) (j : Nat) (e : Ev) (i : Nat) : (s.postLat j e).launch i = s.launch i := rfl
@[simp] theorem State.emit_slot (s : State) (o : Out) (i : Nat) : (s.emit o).slot i = s.slot i := rfl
@[simp] theorem State.emit_core (s : State) (o : Out) (i : Nat) : (s.emit o).core i = s.core i := rfl
@[simp] theorem State.emit_cluster (s : State) (o : Out) (i : Nat) : (s.emit o).cluster i = s.cluster i := rfl
@[simp] theorem State.emit_die (s : State) (o : Out) (i : Nat) : (s.emit o).die i = s.die i := rfl
@[simp] theorem State.emit_queue (s : State) (o : Out) (i : Nat) : (s.emit o).queue i = s.queue i := rfl
@[simp] theorem State.emit_launch (s : State) (o : Out) (i : Nat) : (s.emit o).launch i = s.launch i := rfl
@[simp] theorem State.finish_core (s : State) (f : Slot → Slot) (i : Nat) : (s.finish f).core i = s.core i := rfl
@[simp] theorem State.finish_cluster (s : State) (f : Slot → Slot) (i : Nat) : (s.finish f).cluster i = s.cluster i := rfl
@[simp] theorem State.finish_die (s : State) (f : Slot → Slot) (i : Nat) : (s.finish f).die i = s.die i := rfl
@[simp] theorem State.finish_queue (s : State) (f : Slot → Slot) (i : Nat) : (s.finish f).queue i = s.queue i := rfl
@[simp] theorem State.finish_launch (s : State) (f : Slot → Slot) (i : Nat) : (s.finish f).launch i = s.launch i := rfl
@[simp] theorem State.modFlight_slot (s : State) (j : Nat) (f : Flight → Flight) (i : Nat) : (s.modFlight j f).slot i = s.slot i := rfl
@[simp] theorem State.modFlight_core (s : State) (j : Nat) (f : Flight → Flight) (i : Nat) : (s.modFlight j f).core i = s.core i := rfl
@[simp] theorem State.modFlight_cluster (s : State) (j : Nat) (f : Flight → Flight) (i : Nat) : (s.modFlight j f).cluster i = s.cluster i := rfl
@[simp] theorem State.modFlight_die (s : State) (j : Nat) (f : Flight → Flight) (i : Nat) : (s.modFlight j f).die i = s.die i := rfl
@[simp] theorem State.modFlight_queue (s : State) (j : Nat) (f : Flight → Flight) (i : Nat) : (s.modFlight j f).queue i = s.queue i := rfl
@[simp] theorem State.modFlight_launch (s : State) (j : Nat) (f : Flight → Flight) (i : Nat) : (s.modFlight j f).launch i = s.launch i := rfl
@[simp] theorem State.dropFlight_slot (s : State) (j : Nat) (i : Nat) : (s.dropFlight j).slot i = s.slot i := rfl
@[simp] theorem State.dropFlight_core (s : State) (j : Nat) (i : Nat) : (s.dropFlight j).core i = s.core i := rfl
@[simp] theorem State.dropFlight_cluster (s : State) (j : Nat) (i : Nat) : (s.dropFlight j).cluster i = s.cluster i := rfl
@[simp] theorem State.dropFlight_die (s : State) (j : Nat) (i : Nat) : (s.dropFlight j).die i = s.die i := rfl
@[simp] theorem State.dropFlight_queue (s : State) (j : Nat) (i : Nat) : (s.dropFlight j).queue i = s.queue i := rfl
@[simp] theorem State.dropFlight_launch (s : State) (j : Nat) (i : Nat) : (s.dropFlight j).launch i = s.launch i := rfl

/-! ### Updates of Slot -/

@[simp] theorem Slot.wg_status (x : Slot) (n : Nat) (v : Word) : (x.wg n v).status = x.status := by unfold Slot.wg; split <;> rfl
@[simp] theorem Slot.wg_v (x : Slot) (n : Nat) (v : Word) : (x.wg n v).v = x.v := by unfold Slot.wg; split <;> rfl
@[simp] theorem Slot.wg_m (x : Slot) (n : Nat) (v : Word) : (x.wg n v).m = x.m := by unfold Slot.wg; split <;> rfl
@[simp] theorem Slot.wg_sg (x : Slot) (n : Nat) (v : Word) : (x.wg n v).sg = x.sg := by unfold Slot.wg; split <;> rfl
@[simp] theorem Slot.wg_sgPend (x : Slot) (n : Nat) (v : Word) : (x.wg n v).sgPend = x.sgPend := by unfold Slot.wg; split <;> rfl
@[simp] theorem Slot.wg_fs (x : Slot) (n : Nat) (v : Word) : (x.wg n v).fs = x.fs := by unfold Slot.wg; split <;> rfl
@[simp] theorem Slot.wg_pc (x : Slot) (n : Nat) (v : Word) : (x.wg n v).pc = x.pc := by unfold Slot.wg; split <;> rfl
@[simp] theorem Slot.wg_mode (x : Slot) (n : Nat) (v : Word) : (x.wg n v).mode = x.mode := by unfold Slot.wg; split <;> rfl
@[simp] theorem Slot.wg_tpc (x : Slot) (n : Nat) (v : Word) : (x.wg n v).tpc = x.tpc := by unfold Slot.wg; split <;> rfl
@[simp] theorem Slot.wg_tcause (x : Slot) (n : Nat) (v : Word) : (x.wg n v).tcause = x.tcause := by unfold Slot.wg; split <;> rfl
@[simp] theorem Slot.wg_tval (x : Slot) (n : Nat) (v : Word) : (x.wg n v).tval = x.tval := by unfold Slot.wg; split <;> rfl
@[simp] theorem Slot.wg_tstat (x : Slot) (n : Nat) (v : Word) : (x.wg n v).tstat = x.tstat := by unfold Slot.wg; split <;> rfl
@[simp] theorem Slot.wg_tvec (x : Slot) (n : Nat) (v : Word) : (x.wg n v).tvec = x.tvec := by unfold Slot.wg; split <;> rfl
@[simp] theorem Slot.wg_fflags (x : Slot) (n : Nat) (v : Word) : (x.wg n v).fflags = x.fflags := by unfold Slot.wg; split <;> rfl
@[simp] theorem Slot.wg_fmode (x : Slot) (n : Nat) (v : Word) : (x.wg n v).fmode = x.fmode := by unfold Slot.wg; split <;> rfl
@[simp] theorem Slot.wg_rseed (x : Slot) (n : Nat) (v : Word) : (x.wg n v).rseed = x.rseed := by unfold Slot.wg; split <;> rfl
@[simp] theorem Slot.wg_wid (x : Slot) (n : Nat) (v : Word) : (x.wg n v).wid = x.wid := by unfold Slot.wg; split <;> rfl
@[simp] theorem Slot.wg_lid (x : Slot) (n : Nat) (v : Word) : (x.wg n v).lid = x.lid := by unfold Slot.wg; split <;> rfl
@[simp] theorem Slot.wg_prio (x : Slot) (n : Nat) (v : Word) : (x.wg n v).prio = x.prio := by unfold Slot.wg; split <;> rfl
@[simp] theorem Slot.wg_sbcnt (x : Slot) (n : Nat) (v : Word) : (x.wg n v).sbcnt = x.sbcnt := by unfold Slot.wg; split <;> rfl
@[simp] theorem Slot.wg_mail (x : Slot) (n : Nat) (v : Word) : (x.wg n v).mail = x.mail := by unfold Slot.wg; split <;> rfl
@[simp] theorem Slot.wg_task (x : Slot) (n : Nat) (v : Word) : (x.wg n v).task = x.task := by unfold Slot.wg; split <;> rfl
@[simp] theorem Slot.wg_deferred (x : Slot) (n : Nat) (v : Word) : (x.wg n v).deferred = x.deferred := by unfold Slot.wg; split <;> rfl
@[simp] theorem Slot.wv_status (x : Slot) (n : Nat) (v : VWord) : (x.wv n v).status = x.status := rfl
@[simp] theorem Slot.wv_g (x : Slot) (n : Nat) (v : VWord) : (x.wv n v).g = x.g := rfl
@[simp] theorem Slot.wv_m (x : Slot) (n : Nat) (v : VWord) : (x.wv n v).m = x.m := rfl
@[simp] theorem Slot.wv_sg (x : Slot) (n : Nat) (v : VWord) : (x.wv n v).sg = x.sg := rfl
@[simp] theorem Slot.wv_sgPend (x : Slot) (n : Nat) (v : VWord) : (x.wv n v).sgPend = x.sgPend := rfl
@[simp] theorem Slot.wv_fs (x : Slot) (n : Nat) (v : VWord) : (x.wv n v).fs = x.fs := rfl
@[simp] theorem Slot.wv_pc (x : Slot) (n : Nat) (v : VWord) : (x.wv n v).pc = x.pc := rfl
@[simp] theorem Slot.wv_mode (x : Slot) (n : Nat) (v : VWord) : (x.wv n v).mode = x.mode := rfl
@[simp] theorem Slot.wv_tpc (x : Slot) (n : Nat) (v : VWord) : (x.wv n v).tpc = x.tpc := rfl
@[simp] theorem Slot.wv_tcause (x : Slot) (n : Nat) (v : VWord) : (x.wv n v).tcause = x.tcause := rfl
@[simp] theorem Slot.wv_tval (x : Slot) (n : Nat) (v : VWord) : (x.wv n v).tval = x.tval := rfl
@[simp] theorem Slot.wv_tstat (x : Slot) (n : Nat) (v : VWord) : (x.wv n v).tstat = x.tstat := rfl
@[simp] theorem Slot.wv_tvec (x : Slot) (n : Nat) (v : VWord) : (x.wv n v).tvec = x.tvec := rfl
@[simp] theorem Slot.wv_fflags (x : Slot) (n : Nat) (v : VWord) : (x.wv n v).fflags = x.fflags := rfl
@[simp] theorem Slot.wv_fmode (x : Slot) (n : Nat) (v : VWord) : (x.wv n v).fmode = x.fmode := rfl
@[simp] theorem Slot.wv_rseed (x : Slot) (n : Nat) (v : VWord) : (x.wv n v).rseed = x.rseed := rfl
@[simp] theorem Slot.wv_wid (x : Slot) (n : Nat) (v : VWord) : (x.wv n v).wid = x.wid := rfl
@[simp] theorem Slot.wv_lid (x : Slot) (n : Nat) (v : VWord) : (x.wv n v).lid = x.lid := rfl
@[simp] theorem Slot.wv_prio (x : Slot) (n : Nat) (v : VWord) : (x.wv n v).prio = x.prio := rfl
@[simp] theorem Slot.wv_sbcnt (x : Slot) (n : Nat) (v : VWord) : (x.wv n v).sbcnt = x.sbcnt := rfl
@[simp] theorem Slot.wv_mail (x : Slot) (n : Nat) (v : VWord) : (x.wv n v).mail = x.mail := rfl
@[simp] theorem Slot.wv_task (x : Slot) (n : Nat) (v : VWord) : (x.wv n v).task = x.task := rfl
@[simp] theorem Slot.wv_deferred (x : Slot) (n : Nat) (v : VWord) : (x.wv n v).deferred = x.deferred := rfl
@[simp] theorem Slot.wm_status (x : Slot) (n : Nat) (v : Word) : (x.wm n v).status = x.status := by unfold Slot.wm; split <;> rfl
@[simp] theorem Slot.wm_g (x : Slot) (n : Nat) (v : Word) : (x.wm n v).g = x.g := by unfold Slot.wm; split <;> rfl
@[simp] theorem Slot.wm_v (x : Slot) (n : Nat) (v : Word) : (x.wm n v).v = x.v := by unfold Slot.wm; split <;> rfl
@[simp] theorem Slot.wm_sg (x : Slot) (n : Nat) (v : Word) : (x.wm n v).sg = x.sg := by unfold Slot.wm; split <;> rfl
@[simp] theorem Slot.wm_sgPend (x : Slot) (n : Nat) (v : Word) : (x.wm n v).sgPend = x.sgPend := by unfold Slot.wm; split <;> rfl
@[simp] theorem Slot.wm_fs (x : Slot) (n : Nat) (v : Word) : (x.wm n v).fs = x.fs := by unfold Slot.wm; split <;> rfl
@[simp] theorem Slot.wm_pc (x : Slot) (n : Nat) (v : Word) : (x.wm n v).pc = x.pc := by unfold Slot.wm; split <;> rfl
@[simp] theorem Slot.wm_mode (x : Slot) (n : Nat) (v : Word) : (x.wm n v).mode = x.mode := by unfold Slot.wm; split <;> rfl
@[simp] theorem Slot.wm_tpc (x : Slot) (n : Nat) (v : Word) : (x.wm n v).tpc = x.tpc := by unfold Slot.wm; split <;> rfl
@[simp] theorem Slot.wm_tcause (x : Slot) (n : Nat) (v : Word) : (x.wm n v).tcause = x.tcause := by unfold Slot.wm; split <;> rfl
@[simp] theorem Slot.wm_tval (x : Slot) (n : Nat) (v : Word) : (x.wm n v).tval = x.tval := by unfold Slot.wm; split <;> rfl
@[simp] theorem Slot.wm_tstat (x : Slot) (n : Nat) (v : Word) : (x.wm n v).tstat = x.tstat := by unfold Slot.wm; split <;> rfl
@[simp] theorem Slot.wm_tvec (x : Slot) (n : Nat) (v : Word) : (x.wm n v).tvec = x.tvec := by unfold Slot.wm; split <;> rfl
@[simp] theorem Slot.wm_fflags (x : Slot) (n : Nat) (v : Word) : (x.wm n v).fflags = x.fflags := by unfold Slot.wm; split <;> rfl
@[simp] theorem Slot.wm_fmode (x : Slot) (n : Nat) (v : Word) : (x.wm n v).fmode = x.fmode := by unfold Slot.wm; split <;> rfl
@[simp] theorem Slot.wm_rseed (x : Slot) (n : Nat) (v : Word) : (x.wm n v).rseed = x.rseed := by unfold Slot.wm; split <;> rfl
@[simp] theorem Slot.wm_wid (x : Slot) (n : Nat) (v : Word) : (x.wm n v).wid = x.wid := by unfold Slot.wm; split <;> rfl
@[simp] theorem Slot.wm_lid (x : Slot) (n : Nat) (v : Word) : (x.wm n v).lid = x.lid := by unfold Slot.wm; split <;> rfl
@[simp] theorem Slot.wm_prio (x : Slot) (n : Nat) (v : Word) : (x.wm n v).prio = x.prio := by unfold Slot.wm; split <;> rfl
@[simp] theorem Slot.wm_sbcnt (x : Slot) (n : Nat) (v : Word) : (x.wm n v).sbcnt = x.sbcnt := by unfold Slot.wm; split <;> rfl
@[simp] theorem Slot.wm_mail (x : Slot) (n : Nat) (v : Word) : (x.wm n v).mail = x.mail := by unfold Slot.wm; split <;> rfl
@[simp] theorem Slot.wm_task (x : Slot) (n : Nat) (v : Word) : (x.wm n v).task = x.task := by unfold Slot.wm; split <;> rfl
@[simp] theorem Slot.wm_deferred (x : Slot) (n : Nat) (v : Word) : (x.wm n v).deferred = x.deferred := by unfold Slot.wm; split <;> rfl
@[simp] theorem Slot.wsg_status (x : Slot) (n : Nat) (d : Desc) : (x.wsg n d).status = x.status := rfl
@[simp] theorem Slot.wsg_g (x : Slot) (n : Nat) (d : Desc) : (x.wsg n d).g = x.g := rfl
@[simp] theorem Slot.wsg_v (x : Slot) (n : Nat) (d : Desc) : (x.wsg n d).v = x.v := rfl
@[simp] theorem Slot.wsg_m (x : Slot) (n : Nat) (d : Desc) : (x.wsg n d).m = x.m := rfl
@[simp] theorem Slot.wsg_fs (x : Slot) (n : Nat) (d : Desc) : (x.wsg n d).fs = x.fs := rfl
@[simp] theorem Slot.wsg_pc (x : Slot) (n : Nat) (d : Desc) : (x.wsg n d).pc = x.pc := rfl
@[simp] theorem Slot.wsg_mode (x : Slot) (n : Nat) (d : Desc) : (x.wsg n d).mode = x.mode := rfl
@[simp] theorem Slot.wsg_tpc (x : Slot) (n : Nat) (d : Desc) : (x.wsg n d).tpc = x.tpc := rfl
@[simp] theorem Slot.wsg_tcause (x : Slot) (n : Nat) (d : Desc) : (x.wsg n d).tcause = x.tcause := rfl
@[simp] theorem Slot.wsg_tval (x : Slot) (n : Nat) (d : Desc) : (x.wsg n d).tval = x.tval := rfl
@[simp] theorem Slot.wsg_tstat (x : Slot) (n : Nat) (d : Desc) : (x.wsg n d).tstat = x.tstat := rfl
@[simp] theorem Slot.wsg_tvec (x : Slot) (n : Nat) (d : Desc) : (x.wsg n d).tvec = x.tvec := rfl
@[simp] theorem Slot.wsg_fflags (x : Slot) (n : Nat) (d : Desc) : (x.wsg n d).fflags = x.fflags := rfl
@[simp] theorem Slot.wsg_fmode (x : Slot) (n : Nat) (d : Desc) : (x.wsg n d).fmode = x.fmode := rfl
@[simp] theorem Slot.wsg_rseed (x : Slot) (n : Nat) (d : Desc) : (x.wsg n d).rseed = x.rseed := rfl
@[simp] theorem Slot.wsg_wid (x : Slot) (n : Nat) (d : Desc) : (x.wsg n d).wid = x.wid := rfl
@[simp] theorem Slot.wsg_lid (x : Slot) (n : Nat) (d : Desc) : (x.wsg n d).lid = x.lid := rfl
@[simp] theorem Slot.wsg_prio (x : Slot) (n : Nat) (d : Desc) : (x.wsg n d).prio = x.prio := rfl
@[simp] theorem Slot.wsg_sbcnt (x : Slot) (n : Nat) (d : Desc) : (x.wsg n d).sbcnt = x.sbcnt := rfl
@[simp] theorem Slot.wsg_mail (x : Slot) (n : Nat) (d : Desc) : (x.wsg n d).mail = x.mail := rfl
@[simp] theorem Slot.wsg_task (x : Slot) (n : Nat) (d : Desc) : (x.wsg n d).task = x.task := rfl
@[simp] theorem Slot.wsg_deferred (x : Slot) (n : Nat) (d : Desc) : (x.wsg n d).deferred = x.deferred := rfl
@[simp] theorem Slot.wfs_status (x : Slot) (n : Nat) (v : Word) : (x.wfs n v).status = x.status := rfl
@[simp] theorem Slot.wfs_g (x : Slot) (n : Nat) (v : Word) : (x.wfs n v).g = x.g := rfl
@[simp] theorem Slot.wfs_v (x : Slot) (n : Nat) (v : Word) : (x.wfs n v).v = x.v := rfl
@[simp] theorem Slot.wfs_m (x : Slot) (n : Nat) (v : Word) : (x.wfs n v).m = x.m := rfl
@[simp] theorem Slot.wfs_sg (x : Slot) (n : Nat) (v : Word) : (x.wfs n v).sg = x.sg := rfl
@[simp] theorem Slot.wfs_sgPend (x : Slot) (n : Nat) (v : Word) : (x.wfs n v).sgPend = x.sgPend := rfl
@[simp] theorem Slot.wfs_pc (x : Slot) (n : Nat) (v : Word) : (x.wfs n v).pc = x.pc := rfl
@[simp] theorem Slot.wfs_mode (x : Slot) (n : Nat) (v : Word) : (x.wfs n v).mode = x.mode := rfl
@[simp] theorem Slot.wfs_tpc (x : Slot) (n : Nat) (v : Word) : (x.wfs n v).tpc = x.tpc := rfl
@[simp] theorem Slot.wfs_tcause (x : Slot) (n : Nat) (v : Word) : (x.wfs n v).tcause = x.tcause := rfl
@[simp] theorem Slot.wfs_tval (x : Slot) (n : Nat) (v : Word) : (x.wfs n v).tval = x.tval := rfl
@[simp] theorem Slot.wfs_tstat (x : Slot) (n : Nat) (v : Word) : (x.wfs n v).tstat = x.tstat := rfl
@[simp] theorem Slot.wfs_tvec (x : Slot) (n : Nat) (v : Word) : (x.wfs n v).tvec = x.tvec := rfl
@[simp] theorem Slot.wfs_fflags (x : Slot) (n : Nat) (v : Word) : (x.wfs n v).fflags = x.fflags := rfl
@[simp] theorem Slot.wfs_fmode (x : Slot) (n : Nat) (v : Word) : (x.wfs n v).fmode = x.fmode := rfl
@[simp] theorem Slot.wfs_rseed (x : Slot) (n : Nat) (v : Word) : (x.wfs n v).rseed = x.rseed := rfl
@[simp] theorem Slot.wfs_wid (x : Slot) (n : Nat) (v : Word) : (x.wfs n v).wid = x.wid := rfl
@[simp] theorem Slot.wfs_lid (x : Slot) (n : Nat) (v : Word) : (x.wfs n v).lid = x.lid := rfl
@[simp] theorem Slot.wfs_prio (x : Slot) (n : Nat) (v : Word) : (x.wfs n v).prio = x.prio := rfl
@[simp] theorem Slot.wfs_sbcnt (x : Slot) (n : Nat) (v : Word) : (x.wfs n v).sbcnt = x.sbcnt := rfl
@[simp] theorem Slot.wfs_mail (x : Slot) (n : Nat) (v : Word) : (x.wfs n v).mail = x.mail := rfl
@[simp] theorem Slot.wfs_task (x : Slot) (n : Nat) (v : Word) : (x.wfs n v).task = x.task := rfl
@[simp] theorem Slot.wfs_deferred (x : Slot) (n : Nat) (v : Word) : (x.wfs n v).deferred = x.deferred := rfl
@[simp] theorem Slot.eg_status (x : Slot) (n : Nat) : (x.eg n).status = x.status := by unfold Slot.eg; split <;> rfl
@[simp] theorem Slot.eg_v (x : Slot) (n : Nat) : (x.eg n).v = x.v := by unfold Slot.eg; split <;> rfl
@[simp] theorem Slot.eg_m (x : Slot) (n : Nat) : (x.eg n).m = x.m := by unfold Slot.eg; split <;> rfl
@[simp] theorem Slot.eg_sg (x : Slot) (n : Nat) : (x.eg n).sg = x.sg := by unfold Slot.eg; split <;> rfl
@[simp] theorem Slot.eg_sgPend (x : Slot) (n : Nat) : (x.eg n).sgPend = x.sgPend := by unfold Slot.eg; split <;> rfl
@[simp] theorem Slot.eg_fs (x : Slot) (n : Nat) : (x.eg n).fs = x.fs := by unfold Slot.eg; split <;> rfl
@[simp] theorem Slot.eg_pc (x : Slot) (n : Nat) : (x.eg n).pc = x.pc := by unfold Slot.eg; split <;> rfl
@[simp] theorem Slot.eg_mode (x : Slot) (n : Nat) : (x.eg n).mode = x.mode := by unfold Slot.eg; split <;> rfl
@[simp] theorem Slot.eg_tpc (x : Slot) (n : Nat) : (x.eg n).tpc = x.tpc := by unfold Slot.eg; split <;> rfl
@[simp] theorem Slot.eg_tcause (x : Slot) (n : Nat) : (x.eg n).tcause = x.tcause := by unfold Slot.eg; split <;> rfl
@[simp] theorem Slot.eg_tval (x : Slot) (n : Nat) : (x.eg n).tval = x.tval := by unfold Slot.eg; split <;> rfl
@[simp] theorem Slot.eg_tstat (x : Slot) (n : Nat) : (x.eg n).tstat = x.tstat := by unfold Slot.eg; split <;> rfl
@[simp] theorem Slot.eg_tvec (x : Slot) (n : Nat) : (x.eg n).tvec = x.tvec := by unfold Slot.eg; split <;> rfl
@[simp] theorem Slot.eg_fflags (x : Slot) (n : Nat) : (x.eg n).fflags = x.fflags := by unfold Slot.eg; split <;> rfl
@[simp] theorem Slot.eg_fmode (x : Slot) (n : Nat) : (x.eg n).fmode = x.fmode := by unfold Slot.eg; split <;> rfl
@[simp] theorem Slot.eg_rseed (x : Slot) (n : Nat) : (x.eg n).rseed = x.rseed := by unfold Slot.eg; split <;> rfl
@[simp] theorem Slot.eg_wid (x : Slot) (n : Nat) : (x.eg n).wid = x.wid := by unfold Slot.eg; split <;> rfl
@[simp] theorem Slot.eg_lid (x : Slot) (n : Nat) : (x.eg n).lid = x.lid := by unfold Slot.eg; split <;> rfl
@[simp] theorem Slot.eg_prio (x : Slot) (n : Nat) : (x.eg n).prio = x.prio := by unfold Slot.eg; split <;> rfl
@[simp] theorem Slot.eg_sbcnt (x : Slot) (n : Nat) : (x.eg n).sbcnt = x.sbcnt := by unfold Slot.eg; split <;> rfl
@[simp] theorem Slot.eg_mail (x : Slot) (n : Nat) : (x.eg n).mail = x.mail := by unfold Slot.eg; split <;> rfl
@[simp] theorem Slot.eg_task (x : Slot) (n : Nat) : (x.eg n).task = x.task := by unfold Slot.eg; split <;> rfl
@[simp] theorem Slot.eg_deferred (x : Slot) (n : Nat) : (x.eg n).deferred = x.deferred := by unfold Slot.eg; split <;> rfl
@[simp] theorem Slot.ev_status (x : Slot) (n : Nat) : (x.ev n).status = x.status := rfl
@[simp] theorem Slot.ev_g (x : Slot) (n : Nat) : (x.ev n).g = x.g := rfl
@[simp] theorem Slot.ev_m (x : Slot) (n : Nat) : (x.ev n).m = x.m := rfl
@[simp] theorem Slot.ev_sg (x : Slot) (n : Nat) : (x.ev n).sg = x.sg := rfl
@[simp] theorem Slot.ev_sgPend (x : Slot) (n : Nat) : (x.ev n).sgPend = x.sgPend := rfl
@[simp] theorem Slot.ev_fs (x : Slot) (n : Nat) : (x.ev n).fs = x.fs := rfl
@[simp] theorem Slot.ev_pc (x : Slot) (n : Nat) : (x.ev n).pc = x.pc := rfl
@[simp] theorem Slot.ev_mode (x : Slot) (n : Nat) : (x.ev n).mode = x.mode := rfl
@[simp] theorem Slot.ev_tpc (x : Slot) (n : Nat) : (x.ev n).tpc = x.tpc := rfl
@[simp] theorem Slot.ev_tcause (x : Slot) (n : Nat) : (x.ev n).tcause = x.tcause := rfl
@[simp] theorem Slot.ev_tval (x : Slot) (n : Nat) : (x.ev n).tval = x.tval := rfl
@[simp] theorem Slot.ev_tstat (x : Slot) (n : Nat) : (x.ev n).tstat = x.tstat := rfl
@[simp] theorem Slot.ev_tvec (x : Slot) (n : Nat) : (x.ev n).tvec = x.tvec := rfl
@[simp] theorem Slot.ev_fflags (x : Slot) (n : Nat) : (x.ev n).fflags = x.fflags := rfl
@[simp] theorem Slot.ev_fmode (x : Slot) (n : Nat) : (x.ev n).fmode = x.fmode := rfl
@[simp] theorem Slot.ev_rseed (x : Slot) (n : Nat) : (x.ev n).rseed = x.rseed := rfl
@[simp] theorem Slot.ev_wid (x : Slot) (n : Nat) : (x.ev n).wid = x.wid := rfl
@[simp] theorem Slot.ev_lid (x : Slot) (n : Nat) : (x.ev n).lid = x.lid := rfl
@[simp] theorem Slot.ev_prio (x : Slot) (n : Nat) : (x.ev n).prio = x.prio := rfl
@[simp] theorem Slot.ev_sbcnt (x : Slot) (n : Nat) : (x.ev n).sbcnt = x.sbcnt := rfl
@[simp] theorem Slot.ev_mail (x : Slot) (n : Nat) : (x.ev n).mail = x.mail := rfl
@[simp] theorem Slot.ev_task (x : Slot) (n : Nat) : (x.ev n).task = x.task := rfl
@[simp] theorem Slot.ev_deferred (x : Slot) (n : Nat) : (x.ev n).deferred = x.deferred := rfl
@[simp] theorem Slot.next_status (x : Slot) : (x.next).status = x.status := rfl
@[simp] theorem Slot.next_g (x : Slot) : (x.next).g = x.g := rfl
@[simp] theorem Slot.next_v (x : Slot) : (x.next).v = x.v := rfl
@[simp] theorem Slot.next_m (x : Slot) : (x.next).m = x.m := rfl
@[simp] theorem Slot.next_sg (x : Slot) : (x.next).sg = x.sg := rfl
@[simp] theorem Slot.next_sgPend (x : Slot) : (x.next).sgPend = x.sgPend := rfl
@[simp] theorem Slot.next_fs (x : Slot) : (x.next).fs = x.fs := rfl
@[simp] theorem Slot.next_mode (x : Slot) : (x.next).mode = x.mode := rfl
@[simp] theorem Slot.next_tpc (x : Slot) : (x.next).tpc = x.tpc := rfl
@[simp] theorem Slot.next_tcause (x : Slot) : (x.next).tcause = x.tcause := rfl
@[simp] theorem Slot.next_tval (x : Slot) : (x.next).tval = x.tval := rfl
@[simp] theorem Slot.next_tstat (x : Slot) : (x.next).tstat = x.tstat := rfl
@[simp] theorem Slot.next_tvec (x : Slot) : (x.next).tvec = x.tvec := rfl
@[simp] theorem Slot.next_fflags (x : Slot) : (x.next).fflags = x.fflags := rfl
@[simp] theorem Slot.next_fmode (x : Slot) : (x.next).fmode = x.fmode := rfl
@[simp] theorem Slot.next_rseed (x : Slot) : (x.next).rseed = x.rseed := rfl
@[simp] theorem Slot.next_wid (x : Slot) : (x.next).wid = x.wid := rfl
@[simp] theorem Slot.next_lid (x : Slot) : (x.next).lid = x.lid := rfl
@[simp] theorem Slot.next_prio (x : Slot) : (x.next).prio = x.prio := rfl
@[simp] theorem Slot.next_sbcnt (x : Slot) : (x.next).sbcnt = x.sbcnt := rfl
@[simp] theorem Slot.next_mail (x : Slot) : (x.next).mail = x.mail := rfl
@[simp] theorem Slot.next_task (x : Slot) : (x.next).task = x.task := rfl
@[simp] theorem Slot.next_deferred (x : Slot) : (x.next).deferred = x.deferred := rfl
@[simp] theorem Slot.block_g (x : Slot) (b : Block) : (x.block b).g = x.g := rfl
@[simp] theorem Slot.block_v (x : Slot) (b : Block) : (x.block b).v = x.v := rfl
@[simp] theorem Slot.block_m (x : Slot) (b : Block) : (x.block b).m = x.m := rfl
@[simp] theorem Slot.block_sg (x : Slot) (b : Block) : (x.block b).sg = x.sg := rfl
@[simp] theorem Slot.block_sgPend (x : Slot) (b : Block) : (x.block b).sgPend = x.sgPend := rfl
@[simp] theorem Slot.block_fs (x : Slot) (b : Block) : (x.block b).fs = x.fs := rfl
@[simp] theorem Slot.block_pc (x : Slot) (b : Block) : (x.block b).pc = x.pc := rfl
@[simp] theorem Slot.block_mode (x : Slot) (b : Block) : (x.block b).mode = x.mode := rfl
@[simp] theorem Slot.block_tpc (x : Slot) (b : Block) : (x.block b).tpc = x.tpc := rfl
@[simp] theorem Slot.block_tcause (x : Slot) (b : Block) : (x.block b).tcause = x.tcause := rfl
@[simp] theorem Slot.block_tval (x : Slot) (b : Block) : (x.block b).tval = x.tval := rfl
@[simp] theorem Slot.block_tstat (x : Slot) (b : Block) : (x.block b).tstat = x.tstat := rfl
@[simp] theorem Slot.block_tvec (x : Slot) (b : Block) : (x.block b).tvec = x.tvec := rfl
@[simp] theorem Slot.block_fflags (x : Slot) (b : Block) : (x.block b).fflags = x.fflags := rfl
@[simp] theorem Slot.block_fmode (x : Slot) (b : Block) : (x.block b).fmode = x.fmode := rfl
@[simp] theorem Slot.block_rseed (x : Slot) (b : Block) : (x.block b).rseed = x.rseed := rfl
@[simp] theorem Slot.block_wid (x : Slot) (b : Block) : (x.block b).wid = x.wid := rfl
@[simp] theorem Slot.block_lid (x : Slot) (b : Block) : (x.block b).lid = x.lid := rfl
@[simp] theorem Slot.block_prio (x : Slot) (b : Block) : (x.block b).prio = x.prio := rfl
@[simp] theorem Slot.block_sbcnt (x : Slot) (b : Block) : (x.block b).sbcnt = x.sbcnt := rfl
@[simp] theorem Slot.block_mail (x : Slot) (b : Block) : (x.block b).mail = x.mail := rfl
@[simp] theorem Slot.block_task (x : Slot) (b : Block) : (x.block b).task = x.task := rfl
@[simp] theorem Slot.block_deferred (x : Slot) (b : Block) : (x.block b).deferred = x.deferred := rfl
@[simp] theorem Slot.wake_g (x : Slot) (b : Block) : (x.wake b).g = x.g := by unfold Slot.wake; split <;> rfl
@[simp] theorem Slot.wake_v (x : Slot) (b : Block) : (x.wake b).v = x.v := by unfold Slot.wake; split <;> rfl
@[simp] theorem Slot.wake_m (x : Slot) (b : Block) : (x.wake b).m = x.m := by unfold Slot.wake; split <;> rfl
@[simp] theorem Slot.wake_sg (x : Slot) (b : Block) : (x.wake b).sg = x.sg := by unfold Slot.wake; split <;> rfl
@[simp] theorem Slot.wake_sgPend (x : Slot) (b : Block) : (x.wake b).sgPend = x.sgPend := by unfold Slot.wake; split <;> rfl
@[simp] theorem Slot.wake_fs (x : Slot) (b : Block) : (x.wake b).fs = x.fs := by unfold Slot.wake; split <;> rfl
@[simp] theorem Slot.wake_pc (x : Slot) (b : Block) : (x.wake b).pc = x.pc := by unfold Slot.wake; split <;> rfl
@[simp] theorem Slot.wake_mode (x : Slot) (b : Block) : (x.wake b).mode = x.mode := by unfold Slot.wake; split <;> rfl
@[simp] theorem Slot.wake_tpc (x : Slot) (b : Block) : (x.wake b).tpc = x.tpc := by unfold Slot.wake; split <;> rfl
@[simp] theorem Slot.wake_tcause (x : Slot) (b : Block) : (x.wake b).tcause = x.tcause := by unfold Slot.wake; split <;> rfl
@[simp] theorem Slot.wake_tval (x : Slot) (b : Block) : (x.wake b).tval = x.tval := by unfold Slot.wake; split <;> rfl
@[simp] theorem Slot.wake_tstat (x : Slot) (b : Block) : (x.wake b).tstat = x.tstat := by unfold Slot.wake; split <;> rfl
@[simp] theorem Slot.wake_tvec (x : Slot) (b : Block) : (x.wake b).tvec = x.tvec := by unfold Slot.wake; split <;> rfl
@[simp] theorem Slot.wake_fflags (x : Slot) (b : Block) : (x.wake b).fflags = x.fflags := by unfold Slot.wake; split <;> rfl
@[simp] theorem Slot.wake_fmode (x : Slot) (b : Block) : (x.wake b).fmode = x.fmode := by unfold Slot.wake; split <;> rfl
@[simp] theorem Slot.wake_rseed (x : Slot) (b : Block) : (x.wake b).rseed = x.rseed := by unfold Slot.wake; split <;> rfl
@[simp] theorem Slot.wake_wid (x : Slot) (b : Block) : (x.wake b).wid = x.wid := by unfold Slot.wake; split <;> rfl
@[simp] theorem Slot.wake_lid (x : Slot) (b : Block) : (x.wake b).lid = x.lid := by unfold Slot.wake; split <;> rfl
@[simp] theorem Slot.wake_prio (x : Slot) (b : Block) : (x.wake b).prio = x.prio := by unfold Slot.wake; split <;> rfl
@[simp] theorem Slot.wake_sbcnt (x : Slot) (b : Block) : (x.wake b).sbcnt = x.sbcnt := by unfold Slot.wake; split <;> rfl
@[simp] theorem Slot.wake_mail (x : Slot) (b : Block) : (x.wake b).mail = x.mail := by unfold Slot.wake; split <;> rfl
@[simp] theorem Slot.wake_task (x : Slot) (b : Block) : (x.wake b).task = x.task := by unfold Slot.wake; split <;> rfl
@[simp] theorem Slot.wake_deferred (x : Slot) (b : Block) : (x.wake b).deferred = x.deferred := by unfold Slot.wake; split <;> rfl

/-! ### What an update writes -/

@[simp] theorem Slot.next_pc (x : Slot) : x.next.pc = x.pc + 4 := rfl
@[simp] theorem Slot.block_status (x : Slot) (b : Block) : (x.block b).status = .blocked b := rfl
@[simp] theorem Slot.wg_zero (x : Slot) (v : Word) : x.wg 0 v = x := rfl
@[simp] theorem Slot.wm_zero (x : Slot) (v : Word) : x.wm 0 v = x := rfl
@[simp] theorem Slot.eg_zero (x : Slot) : x.eg 0 = x := rfl
@[simp] theorem Slot.rg_zero (x : Slot) : x.rg 0 = 0 := rfl
@[simp] theorem Slot.rm_zero (x : Slot) : x.rm 0 = BitVec.allOnes 64 := rfl
@[simp] theorem State.dropFlight_flights (s : State) (i : Nat) :
    (s.dropFlight i).flights = s.flights.filter fun f => f.id ≠ i := rfl

end Sys2Proof.Machine
end

