-- ==== Sys2Proof/Laws/Map.lean ====
section
/-! SUPPORT. Sparse maps: read after write, and every operation on memory keeps the canonical form. -/

namespace Sys2Proof.Machine

/-! ### Reading after writing -/

/-- What holds of the default and of every listed value holds of every value. -/
theorem mapGet_of_all {α : Type} (P : α → Prop) {d : α} {m : SMap α} (hd : P d) (h : ∀ e ∈ m, P e.2) (k : Nat) : P (mapGet d m k) := by
  induction m with
  | nil => exact hd
  | cons e rest ih =>
    simp only [mapGet]
    split
    · exact h e (by simp)
    · exact ih fun x hx => h x (by simp [hx])
/-- A write leaves every other key alone. -/
theorem mapGet_mapPut_other {α : Type} [DecidableEq α] (d : α) (m : SMap α) {k j : Nat} (v : α) (h : j ≠ k) :
    mapGet d (mapPut d m k v) j = mapGet d m j := by
  induction m with
  | nil => unfold mapPut; split <;> simp [mapGet, Ne.symm h]
  | cons e rest ih =>
    obtain ⟨i, w⟩ := e
    unfold mapPut
    split
    · simp [mapGet, ih]
    · split
      · subst i; split <;> simp [mapGet, Ne.symm h]
      · split
        · rfl
        · simp [mapGet, Ne.symm h]

/-- A key below every listed one reads as the default. -/
theorem mapGet_below {α : Type} [DecidableEq α] (d : α) (m : SMap α) {lo k : Nat} (h : mapWfFrom d lo m = true) (hk : k < lo) :
    mapGet d m k = d := by
  induction m generalizing lo with
  | nil => rfl
  | cons e rest ih =>
    obtain ⟨j, v⟩ := e
    simp only [mapWfFrom, Bool.and_eq_true, decide_eq_true_eq] at h
    have : j ≠ k := by omega
    simp [mapGet, this, ih h.2 (by omega)]

/-- In canonical form a key reads as what was written last. -/
theorem mapGet_mapPut_from {α : Type} [DecidableEq α] (d : α) (m : SMap α) (lo k : Nat) (v : α) (h : mapWfFrom d lo m = true) :
    mapGet d (mapPut d m k v) k = v := by
  induction m generalizing lo with
  | nil => unfold mapPut; split <;> simp_all [mapGet]
  | cons e rest ih =>
    obtain ⟨j, w⟩ := e
    simp only [mapWfFrom, Bool.and_eq_true, decide_eq_true_eq] at h
    unfold mapPut
    split
    · next hj => simp [mapGet, Nat.ne_of_lt hj, ih _ h.2]
    · split
      · next hj =>
        subst j
        split
        · next hv => rw [hv]; exact mapGet_below d rest h.2 (by omega)
        · simp [mapGet]
      · next h1 h2 =>
        split
        · next hv => rw [hv]; simp [mapGet, h2, mapGet_below d rest h.2 (show k < j + 1 by omega)]
        · simp [mapGet]
theorem mapGet_mapPut_same {α : Type} [DecidableEq α] (d : α) (m : SMap α) (k : Nat) (v : α) (h : mapWf d m = true) :
    mapGet d (mapPut d m k v) k = v := mapGet_mapPut_from d m 0 k v h
/-- A value that is not the default reads back whatever the form of the map. -/
theorem mapGet_mapPut_listed {α : Type} [DecidableEq α] (d : α) (m : SMap α) (k : Nat) (v : α) (h : v ≠ d) :
    mapGet d (mapPut d m k v) k = v := by
  induction m with
  | nil => simp [mapPut, h, mapGet]
  | cons e rest ih =>
    obtain ⟨j, w⟩ := e
    unfold mapPut
    split
    · next hj => simp [mapGet, Nat.ne_of_lt hj, ih]
    · split <;> simp_all [mapGet]

/-! ### The canonical form -/

theorem mapWfFrom_mono {α : Type} [DecidableEq α] (d : α) {a b : Nat} (m : SMap α) (h : mapWfFrom d b m = true) (hab : a ≤ b) :
    mapWfFrom d a m = true := by
  cases m with
  | nil => rfl
  | cons e rest =>
    simp only [mapWfFrom, Bool.and_eq_true, decide_eq_true_eq] at h ⊢
    exact ⟨⟨by omega, h.1.2⟩, h.2⟩
theorem mapPut_wfFrom {α : Type} [DecidableEq α] (d : α) (m : SMap α) (lo k : Nat) (v : α) (h : mapWfFrom d lo m = true)
    (hk : lo ≤ k) : mapWfFrom d lo (mapPut d m k v) = true := by
  induction m generalizing lo with
  | nil => unfold mapPut; split <;> simp_all [mapWfFrom]
  | cons e rest ih =>
    obtain ⟨j, w⟩ := e
    simp only [mapWfFrom, Bool.and_eq_true, decide_eq_true_eq] at h
    unfold mapPut
    split
    · next hj =>
      simp only [mapWfFrom, Bool.and_eq_true, decide_eq_true_eq]
      exact ⟨h.1, ih _ h.2 hj⟩
    · split
      · next hj =>
        subst j
        split
        · exact mapWfFrom_mono d rest h.2 (by omega)
        · next hv => simp [mapWfFrom, hv, h.2, hk]
      · next h1 h2 =>
        split
        · simp [mapWfFrom, h.1.1, h.1.2, h.2]
        · next hv =>
          have : k + 1 ≤ j := by omega
          simp [mapWfFrom, hv, h.1.2, h.2, hk, this]
/-- A write keeps the canonical form. -/
theorem mapPut_wf {α : Type} [DecidableEq α] (d : α) (m : SMap α) (k : Nat) (v : α) (h : mapWf d m = true) :
    mapWf d (mapPut d m k v) = true := mapPut_wfFrom d m 0 k v h (Nat.zero_le k)
theorem filter_wfFrom {α : Type} [DecidableEq α] (d : α) (p : Nat × α → Bool) (m : SMap α) (lo : Nat)
    (h : mapWfFrom d lo m = true) : mapWfFrom d lo (m.filter p) = true := by
  induction m generalizing lo with
  | nil => rfl
  | cons e rest ih =>
    simp only [mapWfFrom, Bool.and_eq_true, decide_eq_true_eq] at h
    rw [List.filter_cons]
    split
    · simp only [mapWfFrom, Bool.and_eq_true, decide_eq_true_eq]
      exact ⟨h.1, ih _ h.2⟩
    · exact mapWfFrom_mono d _ (ih _ h.2) (by omega)
/-- Leaving entries out keeps the canonical form. -/
theorem filter_wf {α : Type} [DecidableEq α] (d : α) (p : Nat × α → Bool) (m : SMap α) (h : mapWf d m = true) :
    mapWf d (m.filter p) = true := filter_wfFrom d p m 0 h
theorem mapClear_wf {α : Type} [DecidableEq α] (d : α) (m : SMap α) (lo n : Nat) (h : mapWf d m = true) :
    mapWf d (mapClear m lo n) = true := filter_wf d _ m h
theorem mapRange_wf {α : Type} [DecidableEq α] (d : α) (m : SMap α) (lo n : Nat) (h : mapWf d m = true) :
    mapWf d (mapRange m lo n) = true := filter_wf d _ m h
/-- Entries rise and end below `hi`. -/
theorem append_wfFrom {α : Type} [DecidableEq α] (d : α) (m r : SMap α) {lo hi : Nat} (hm : mapWfFrom d lo m = true)
    (hi' : ∀ e ∈ m, e.1 < hi) (hr : mapWfFrom d hi r = true) (hl : lo ≤ hi) : mapWfFrom d lo (m ++ r) = true := by
  induction m generalizing lo with
  | nil => exact mapWfFrom_mono d r hr hl
  | cons e rest ih =>
    simp only [mapWfFrom, Bool.and_eq_true, decide_eq_true_eq, List.cons_append] at hm ⊢
    exact ⟨hm.1, ih hm.2 (fun x hx => hi' x (List.mem_cons_of_mem _ hx)) (hi' e (List.mem_cons_self ..))⟩
/-- Entries at or above `hi` are in canonical form from `hi`. -/
theorem filter_from {α : Type} [DecidableEq α] (d : α) (m : SMap α) (p : Nat × α → Bool) {lo hi : Nat}
    (h : mapWfFrom d lo m = true) (hp : ∀ e, p e = true → hi ≤ e.1) : mapWfFrom d hi (m.filter p) = true := by
  induction m generalizing lo with
  | nil => rfl
  | cons e rest ih =>
    simp only [mapWfFrom, Bool.and_eq_true, decide_eq_true_eq] at h
    rw [List.filter_cons]
    split
    · next he =>
      simp only [mapWfFrom, Bool.and_eq_true, decide_eq_true_eq]
      exact ⟨⟨hp e he, h.1.2⟩, filter_wfFrom d p rest _ h.2⟩
    · exact ih h.2
/-- Replacing a range of keys by entries in canonical form keeps it. -/
theorem mapReplace_wf {α : Type} [DecidableEq α] (d : α) (m r : SMap α) (lo n : Nat) (h : mapWf d m = true)
    (hr : mapWf d r = true) : mapWf d (mapReplace m lo n r) = true := by
  unfold mapReplace mapWf
  rw [List.append_assoc]
  refine append_wfFrom d _ _ (filter_wfFrom d _ m 0 h) (hi := lo) ?_ ?_ (Nat.zero_le _)
  · intro e he; simpa using (List.mem_filter.mp he).2
  · refine append_wfFrom d _ _ (hi := lo + n) (filter_from d r _ hr ?_) ?_ (filter_from d m _ h ?_) (Nat.le_add_right ..)
    · intro e he; simp at he; exact he.1
    · intro e he; have := (List.mem_filter.mp he).2; simp at this; exact this.2
    · intro e he; simpa using he

/-! ### Memory -/

theorem writeByte_wf {m : Memory} (h : m.wf = true) (a : Nat) (b : Byte) : (writeByte m a b).wf = true := mapPut_wf 0 m a b h
theorem writeList_wf {m : Memory} (h : m.wf = true) (a : Nat) (bs : List Byte) : (writeList m a bs).wf = true := by
  induction bs generalizing m a with
  | nil => exact h
  | cons b bs ih => exact ih (writeByte_wf h a b) (a + 1)
theorem writeLe_wf {m : Memory} (h : m.wf = true) (a n x : Nat) : (writeLe m a n x).wf = true := writeList_wf h a _
theorem writeMasked_wf {m : Memory} (h : m.wf = true) (a : Nat) (bs : List (Option Byte)) : (writeMasked m a bs).wf = true := by
  induction bs generalizing m a with
  | nil => exact h
  | cons b bs ih =>
    cases b with
    | none => exact ih h (a + 1)
    | some b => exact ih (writeByte_wf h a b) (a + 1)
/-- A byte reads back as written. -/
theorem readByte_writeByte {m : Memory} (h : m.wf = true) (a : Nat) (b : Byte) : readByte (writeByte m a b) a = b :=
  mapGet_mapPut_same 0 m a b h
theorem readByte_writeByte_other (m : Memory) {a j : Nat} (b : Byte) (h : j ≠ a) : readByte (writeByte m a b) j = readByte m j :=
  mapGet_mapPut_other 0 m b h
/-- Writing a list leaves every byte outside it alone. -/
theorem readByte_writeList_other (m : Memory) (a : Nat) (bs : List Byte) {j : Nat} (h : j < a ∨ a + bs.length ≤ j) :
    readByte (writeList m a bs) j = readByte m j := by
  induction bs generalizing m a with
  | nil => rfl
  | cons b bs ih =>
    simp only [List.length_cons] at h
    rw [writeList, ih _ _ (by omega), readByte_writeByte_other _ _ (by omega)]
/-- A list reads back as written. -/
theorem readList_writeList {m : Memory} (h : m.wf = true) (a : Nat) (bs : List Byte) :
    readList (writeList m a bs) a bs.length = bs := by
  induction bs generalizing m a with
  | nil => rfl
  | cons b bs ih =>
    have hb : readByte (writeList (writeByte m a b) (a + 1) bs) a = b := by
      rw [readByte_writeList_other _ _ _ (by omega), readByte_writeByte h]
    simp only [writeList, List.length_cons, readList, hb, ih (writeByte_wf h a b)]

/-! ### Units -/

theorem State.slot_setSlot_other (s : State) {t u : Nat} (x : Slot) (h : u ≠ t) : (s.setSlot t x).slot u = s.slot u :=
  mapGet_mapPut_other _ s.slots x h
theorem State.slot_modSlot_other (s : State) {t u : Nat} (f : Slot → Slot) (h : u ≠ t) : (s.modSlot t f).slot u = s.slot u :=
  mapGet_mapPut_other _ s.slots _ h
theorem State.core_modCore_other (s : State) {c d : Nat} (f : Core → Core) (h : d ≠ c) : (s.modCore c f).core d = s.core d :=
  mapGet_mapPut_other _ s.cores _ h
theorem State.cluster_modCluster_other (s : State) {c d : Nat} (f : Cluster → Cluster) (h : d ≠ c) :
    (s.modCluster c f).cluster d = s.cluster d := mapGet_mapPut_other _ s.clusters _ h
theorem Slot.rg_wg_other (x : Slot) {n k : Nat} (v : Word) (h : k ≠ n) : (x.wg n v).rg k = x.rg k := by
  unfold Slot.wg Slot.rg Slot.gReg
  by_cases hn : n = 0
  · simp [hn]
  · simp only [if_neg hn]
    rw [mapGet_mapPut_other _ x.g _ h]
theorem Slot.rv_wv_other (x : Slot) {n k : Nat} (v : VWord) (h : k ≠ n) : (x.wv n v).rv k = x.rv k := by
  unfold Slot.wv Slot.rv Slot.vReg
  exact congrArg VReg.val (mapGet_mapPut_other _ x.v _ h)

end Sys2Proof.Machine
end

