-- ==== Sys2Proof/Laws/Canonical.lean ====
section
/-! SUPPORT. The canonical form of a whole state: what it says of every sparse map, live and saved, and the rules by which
the files after this one show that each operation keeps it. -/

namespace Sys2Proof.Machine

/-- A saved context keeps its maps in canonical form. -/
structure Saved.Canon (v : Saved) : Prop where
  bytes : v.bytes.wf = true
  grans : mapWf false v.grans = true
  poison : mapWf false v.poison = true
  slots : mapWf {} v.slots = true
  cores : mapWf {} v.cores = true
  tiles : mapWf {} v.tiles = true
/-- A cluster's tiles and the context in its shadow store are in canonical form. -/
structure Cluster.Canon (c : Cluster) : Prop where
  tiles : mapWf {} c.tiles = true
  shadow : ∀ v, c.shadow = some v → v.Canon
/-- The maps of a state are in canonical form, live and in every saved context. -/
structure MapsOk (m : Memory) (g p : SMap Bool) (sl : SMap Slot) (co : SMap Core) (cl : SMap Cluster)
    (im : SMap (Option Saved)) : Prop where
  mem : m.wf = true
  grans : mapWf false g = true
  poison : mapWf false p = true
  slots : mapWf {} sl = true
  cores : mapWf {} co = true
  clusters : mapWf {} cl = true
  each : ∀ e ∈ cl, e.2.Canon
  images : ∀ e ∈ im, ∀ v, e.2 = some v → v.Canon
/-- Memory, granules, poison, slots, cores, clusters and tiles are in canonical form, live and in every saved context. -/
def State.Canon (s : State) : Prop := MapsOk s.mem s.grans s.poison s.slots s.cores s.clusters s.images

/-- What a meaning answers is in canonical form. -/
def Res.Canon (r : Res) : Prop := match r with | .next t => t.Canon | _ => True
theorem Res.canon_next {t : State} (h : t.Canon) : Res.Canon (.next t) := h

theorem Cluster.canon_default : Cluster.Canon {} := ⟨rfl, by intro v hv; cases hv⟩
theorem State.canon_cluster {s : State} (h : s.Canon) (c : Nat) : (s.cluster c).Canon :=
  mapGet_of_all Cluster.Canon Cluster.canon_default h.each c

theorem mem_mapPut {α : Type} [DecidableEq α] {d : α} {m : SMap α} {k : Nat} {v : α} {e : Nat × α} (h : e ∈ mapPut d m k v) :
    e ∈ m ∨ e = (k, v) := by
  induction m with
  | nil => unfold mapPut at h; split at h <;> simp_all
  | cons x rest ih =>
    obtain ⟨j, w⟩ := x
    unfold mapPut at h
    split at h
    · rcases List.mem_cons.mp h with h | h
      · exact .inl (by simp [h])
      · rcases ih h with h | h
        · exact .inl (by simp [h])
        · exact .inr h
    · split at h
      · split at h
        · exact .inl (by simp [h])
        · rcases List.mem_cons.mp h with h | h
          · exact .inr h
          · exact .inl (by simp [h])
      · split at h
        · exact .inl h
        · rcases List.mem_cons.mp h with h | h
          · exact .inr h
          · exact .inl h

theorem map_wfFrom {α : Type} [DecidableEq α] (d : α) (f : Nat × α → α) (m : SMap α) (lo : Nat) (h : mapWfFrom d lo m = true) :
    mapWfFrom d lo ((m.map fun e => (e.1, f e)).filter fun e => e.2 ≠ d) = true := by
  induction m generalizing lo with
  | nil => rfl
  | cons e m ih =>
    obtain ⟨j, w⟩ := e
    simp only [mapWfFrom, Bool.and_eq_true, decide_eq_true_eq] at h
    have ih := ih (j + 1) h.2
    by_cases hd : f (j, w) = d
    · simp [hd]
      exact mapWfFrom_mono d _ (by simpa using ih) (by omega)
    · simp [hd, mapWfFrom]
      exact ⟨h.1.1, by simpa using ih⟩
theorem mapEach_wf {α : Type} [DecidableEq α] (d : α) (f : α → α) (m : SMap α) (h : mapWf d m = true) : mapWf d (mapEach d f m) = true :=
  map_wfFrom d (fun e => f e.2) m 0 h
theorem mem_mapEach {α : Type} [DecidableEq α] {d : α} {f : α → α} {m : SMap α} {e : Nat × α} (h : e ∈ mapEach d f m) :
    ∃ x ∈ m, e = (x.1, f x.2) := by
  obtain ⟨x, hx, hx'⟩ := List.mem_map.mp (List.mem_filter.mp h).1
  exact ⟨x, hx, hx'.symm⟩

theorem State.setSlot_canon {s : State} (h : s.Canon) (t : Nat) (x : Slot) : (s.setSlot t x).Canon :=
  { h with slots := mapPut_wf _ _ _ _ h.slots }
theorem State.modSlot_canon {s : State} (h : s.Canon) (t : Nat) (f : Slot → Slot) : (s.modSlot t f).Canon :=
  State.setSlot_canon h t _
theorem State.modCore_canon {s : State} (h : s.Canon) (t : Nat) (f : Core → Core) : (s.modCore t f).Canon :=
  { h with cores := mapPut_wf _ _ _ _ h.cores }
theorem State.putCluster_canon {s : State} (h : s.Canon) (t : Nat) (c : Cluster) (hc : c.Canon) :
    ({ s with clusters := mapPut {} s.clusters t c } : State).Canon :=
  { h with
    clusters := mapPut_wf _ _ _ _ h.clusters
    each := by
      intro e he
      rcases mem_mapPut he with he | he
      · exact h.each e he
      · rw [he]; exact hc }
theorem State.modCluster_canon {s : State} (h : s.Canon) (t : Nat) (f : Cluster → Cluster)
    (hf : ∀ c : Cluster, c.Canon → (f c).Canon) : (s.modCluster t f).Canon :=
  State.putCluster_canon h t _ (hf _ (State.canon_cluster h t))
theorem State.foldl_canon {α : Type} {f : State → α → State} (hf : ∀ s a, s.Canon → (f s a).Canon) {s : State} (h : s.Canon)
    (l : List α) : (l.foldl f s).Canon := by
  induction l generalizing s with
  | nil => exact h
  | cons a l ih => exact ih (hf s a h)
theorem State.foldr_canon {α : Type} {f : α → State → State} (hf : ∀ s a, s.Canon → (f a s).Canon) {s : State} (h : s.Canon)
    (l : List α) : (l.foldr f s).Canon := by
  induction l with
  | nil => exact h
  | cons a l ih => exact hf _ _ ih
theorem State.foldl_canon1 {α β : Type} {f : State × β → α → State × β} (hf : ∀ r a, r.1.Canon → (f r a).1.Canon) {r : State × β}
    (h : r.1.Canon) (l : List α) : (l.foldl f r).1.Canon := by
  induction l generalizing r with
  | nil => exact h
  | cons a l ih => exact ih (hf r a h)

/-- Every listed cluster gets `f`. -/
theorem State.eachCluster_canon {s : State} (h : s.Canon) (f : Cluster → Cluster) (hf : ∀ c : Cluster, c.Canon → (f c).Canon) :
    ({ s with clusters := mapEach {} f s.clusters } : State).Canon :=
  { h with
    clusters := mapEach_wf _ _ _ h.clusters
    each := by
      intro e he
      obtain ⟨x, hx, rfl⟩ := mem_mapEach he
      exact hf _ (h.each x hx) }


/-- The canonical form: keys rising, no entry at the default. -/
theorem mapWfFrom_iff {α : Type} [DecidableEq α] (d : α) (m : SMap α) (lo : Nat) :
    mapWfFrom d lo m = true ↔ (∀ e ∈ m, lo ≤ e.1 ∧ e.2 ≠ d) ∧ m.Pairwise fun a b => a.1 < b.1 := by
  induction m generalizing lo with
  | nil => simp [mapWfFrom]
  | cons e m ih =>
    obtain ⟨j, w⟩ := e
    simp only [mapWfFrom, Bool.and_eq_true, decide_eq_true_eq, ih, List.pairwise_cons, List.forall_mem_cons]
    constructor
    · rintro ⟨⟨h1, h2⟩, h3, h4⟩
      exact ⟨⟨⟨h1, h2⟩, fun e he => ⟨by have := (h3 e he).1; omega, (h3 e he).2⟩⟩, fun e he => (h3 e he).1, h4⟩
    · rintro ⟨⟨⟨h1, h2⟩, h3⟩, h4, h5⟩
      exact ⟨⟨h1, h2⟩, fun e he => ⟨h4 e he, (h3 e he).2⟩, h5⟩
theorem mapWf_iff {α : Type} [DecidableEq α] (d : α) (m : SMap α) :
    mapWf d m = true ↔ (∀ e ∈ m, e.2 ≠ d) ∧ m.Pairwise fun a b => a.1 < b.1 := by
  simp [mapWf, mapWfFrom_iff]
/-- A table of consecutive keys, its default entries left out. -/
theorem table_wf {α : Type} [DecidableEq α] (d : α) (b n : Nat) (f : Nat → α) :
    mapWf d (((List.range n).map fun i => (b + i, f i)).filter fun e => e.2 ≠ d) = true := by
  rw [mapWf_iff]
  refine ⟨fun e he => by simpa using (List.mem_filter.mp he).2, List.Pairwise.filter _ ?_⟩
  rw [List.pairwise_map]
  exact List.Pairwise.imp (fun h => by simpa using h) List.pairwise_lt_range
theorem table_wf_all {α : Type} [DecidableEq α] (d : α) (b n : Nat) (f : Nat → α) (hf : ∀ i, f i ≠ d) :
    mapWf d ((List.range n).map fun i => (b + i, f i)) = true := by
  rw [mapWf_iff]
  constructor
  · intro e he
    obtain ⟨i, -, rfl⟩ := List.mem_map.mp he
    exact hf i
  · rw [List.pairwise_map]
    exact List.Pairwise.imp (fun h => by simpa using h) List.pairwise_lt_range
/-- A range of a map moved to other keys. -/
theorem shift_wf {α : Type} [DecidableEq α] (d : α) (m : SMap α) (a n b : Nat) (h : mapWf d m = true) :
    mapWf d ((mapRange m a n).map fun e => (e.1 - a + b, e.2)) = true := by
  have h' := (mapWf_iff d _).mp (mapRange_wf d m a n h)
  rw [mapWf_iff]
  constructor
  · intro e he
    obtain ⟨x, hx, rfl⟩ := List.mem_map.mp he
    exact h'.1 x hx
  · rw [List.pairwise_map]
    refine List.Pairwise.imp_of_mem ?_ h'.2
    intro x y hx hy hxy
    have := (List.mem_filter.mp hx).2
    simp at this
    simp only
    omega

/-! ### Rules -/

theorem State.Canon.out {s : State} (h : s.Canon) : MapsOk s.mem s.grans s.poison s.slots s.cores s.clusters s.images := h
theorem State.canon_mk {s : State} (h : MapsOk s.mem s.grans s.poison s.slots s.cores s.clusters s.images) : s.Canon := h
theorem canon_fst {α : Type} {r : State × α} {a : State} {b : α} (h : r = (a, b)) (hr : r.1.Canon) : a.Canon := by
  rw [h] at hr; exact hr
theorem canon_snd {α : Type} {r : α × State} {a : State} {b : α} (h : r = (b, a)) (hr : r.2.Canon) : a.Canon := by
  rw [h] at hr; exact hr
theorem canon_mem {s : State} (h : s.Canon) {m : Memory} (hm : m.wf = true) :
    MapsOk m s.grans s.poison s.slots s.cores s.clusters s.images := { h.out with mem := hm }
theorem canon_grans {s : State} (h : s.Canon) {m : SMap Bool} (hm : mapWf false m = true) :
    MapsOk s.mem m s.poison s.slots s.cores s.clusters s.images := { h.out with grans := hm }
theorem canon_poison {s : State} (h : s.Canon) {m : SMap Bool} (hm : mapWf false m = true) :
    MapsOk s.mem s.grans m s.slots s.cores s.clusters s.images := { h.out with poison := hm }
theorem canon_slots {s : State} (h : s.Canon) {m : SMap Slot} (hm : mapWf {} m = true) :
    MapsOk s.mem s.grans s.poison m s.cores s.clusters s.images := { h.out with slots := hm }
theorem canon_cores {s : State} (h : s.Canon) {m : SMap Core} (hm : mapWf {} m = true) :
    MapsOk s.mem s.grans s.poison s.slots m s.clusters s.images := { h.out with cores := hm }
theorem canon_clusters {s : State} (h : s.Canon) {m : SMap Cluster} (hm : mapWf {} m = true) (he : ∀ e ∈ m, e.2.Canon) :
    MapsOk s.mem s.grans s.poison s.slots s.cores m s.images := { h.out with clusters := hm, each := he }
theorem canon_images {s : State} (h : s.Canon) {m : SMap (Option Saved)} (he : ∀ e ∈ m, ∀ v, e.2 = some v → v.Canon) :
    MapsOk s.mem s.grans s.poison s.slots s.cores s.clusters m := { h.out with images := he }
theorem canon_each {s : State} (h : s.Canon) {f : Cluster → Cluster} (hf : ∀ c : Cluster, c.Canon → (f c).Canon) :
    MapsOk s.mem s.grans s.poison s.slots s.cores (mapEach {} f s.clusters) s.images := State.eachCluster_canon h f hf
theorem Cluster.canon_same {c d : Cluster} (h : c.Canon) (h1 : d.tiles = c.tiles) (h2 : d.shadow = c.shadow) : d.Canon :=
  ⟨h1 ▸ h.tiles, h2 ▸ h.shadow⟩
theorem Cluster.canon_tiles {c : Cluster} (h : c.Canon) (n : Nat) (t : Tile) : mapWf {} (mapPut {} c.tiles n t) = true :=
  mapPut_wf _ _ _ _ h.tiles
theorem Cluster.canon_of {c : Cluster} (h : mapWf {} c.tiles = true) (h' : ∀ v, c.shadow = some v → v.Canon) : c.Canon := ⟨h, h'⟩
theorem Cluster.Canon.tiles_wf {c : Cluster} (h : c.Canon) : mapWf {} c.tiles = true := h.tiles
theorem Cluster.Canon.shadow_ok {c : Cluster} (h : c.Canon) : ∀ v, c.shadow = some v → v.Canon := h.shadow
theorem Cluster.canon_shadow {c : Cluster} {v : Saved} (hv : c.shadow = some v) (h : c.Canon) : v.Canon := h.shadow v hv
theorem Saved.Canon.bytes_wf {v : Saved} (h : v.Canon) : v.bytes.wf = true := h.bytes
theorem Saved.Canon.grans_wf {v : Saved} (h : v.Canon) : mapWf false v.grans = true := h.grans
theorem Saved.Canon.poison_wf {v : Saved} (h : v.Canon) : mapWf false v.poison = true := h.poison
theorem Saved.Canon.slots_wf {v : Saved} (h : v.Canon) : mapWf {} v.slots = true := h.slots
theorem Saved.Canon.cores_wf {v : Saved} (h : v.Canon) : mapWf {} v.cores = true := h.cores
theorem Saved.Canon.tiles_wf {v : Saved} (h : v.Canon) : mapWf {} v.tiles = true := h.tiles
theorem Saved.canon_of {v : Saved} (h1 : v.bytes.wf = true) (h2 : mapWf false v.grans = true) (h3 : mapWf false v.poison = true)
    (h4 : mapWf {} v.slots = true) (h5 : mapWf {} v.cores = true) (h6 : mapWf {} v.tiles = true) : v.Canon := ⟨h1, h2, h3, h4, h5, h6⟩
theorem State.Canon.each_ok {s : State} (h : s.Canon) : ∀ e ∈ s.clusters, e.2.Canon := h.each
theorem State.Canon.images_ok {s : State} (h : s.Canon) : ∀ e ∈ s.images, ∀ v, e.2 = some v → v.Canon := h.images
theorem canon_imagesPut {s : State} (h : s.Canon) {k : Nat} {w : Option Saved} (hw : ∀ v, w = some v → v.Canon) :
    ∀ e ∈ mapPut none s.images k w, ∀ v, e.2 = some v → v.Canon := by
  intro e he
  rcases mem_mapPut he with he | rfl
  · exact h.images e he
  · exact hw
theorem mapGet_image {s : State} (h : s.Canon) {k : Nat} {v : Saved} (hv : mapGet none s.images k = some v) : v.Canon :=
  mapGet_of_all (fun x : Option Saved => ∀ v, x = some v → v.Canon) (d := none) (by intro v hv; cases hv) h.images k v hv
theorem each_mapEach {m : SMap Cluster} {f : Cluster → Cluster} (h : ∀ e ∈ m, e.2.Canon) (hf : ∀ c : Cluster, c.Canon → (f c).Canon) :
    ∀ e ∈ mapEach {} f m, e.2.Canon := by
  intro e he
  obtain ⟨x, hx, rfl⟩ := mem_mapEach he
  exact hf _ (h x hx)
theorem each_mapPut {m : SMap Cluster} {k : Nat} {c : Cluster} (h : ∀ e ∈ m, e.2.Canon) (hc : c.Canon) :
    ∀ e ∈ mapPut {} m k c, e.2.Canon := by
  intro e he
  rcases mem_mapPut he with he | rfl
  · exact h e he
  · exact hc
theorem map_canon {o : Option Saved} {f : Saved → Saved} (hf : ∀ v : Saved, v.Canon → (f v).Canon) (h : ∀ v, o = some v → v.Canon) :
    ∀ v, o.map f = some v → v.Canon := by
  intro v hv
  obtain ⟨w, hw, rfl⟩ := Option.map_eq_some_iff.mp hv
  exact hf w (h w hw)
theorem images_mapEach {m : SMap (Option Saved)} {f : Saved → Saved} (hf : ∀ v : Saved, v.Canon → (f v).Canon)
    (h : ∀ e ∈ m, ∀ v, e.2 = some v → v.Canon) : ∀ e ∈ mapEach none (fun o => o.map f) m, ∀ v, e.2 = some v → v.Canon := by
  intro e he
  obtain ⟨x, hx, rfl⟩ := mem_mapEach he
  exact map_canon hf (h x hx)
theorem Saved.canon_filter {o : Option Saved} {p : Saved → Bool} (h : ∀ v, o = some v → v.Canon) : ∀ v, o.filter p = some v → v.Canon :=
  fun v hv => h v (Option.filter_eq_some_iff.mp hv).1
theorem Saved.canon_getD {o : Option Saved} {v : Saved} (h : ∀ w, o = some w → w.Canon) (hv : v.Canon) : (o.getD v).Canon := by
  cases o with
  | none => exact hv
  | some w => exact h w rfl
theorem memClear_wf {m : Memory} (h : m.wf = true) (lo n : Nat) : Memory.wf (mapClear m lo n) = true := mapClear_wf _ _ _ _ h
theorem memRange_wf {m : Memory} (h : m.wf = true) (lo n : Nat) : Memory.wf (mapRange m lo n) = true := mapRange_wf _ _ _ _ h
theorem memReplace_wf {m r : Memory} (h : m.wf = true) (hr : r.wf = true) (lo n : Nat) : Memory.wf (mapReplace m lo n r) = true :=
  mapReplace_wf _ _ _ _ _ h hr
theorem Saved.canon_some {v w : Saved} (h : some w = some v) (hw : w.Canon) : v.Canon := by cases h; exact hw
theorem Saved.canon_none {v : Saved} (h : none = some v) : v.Canon := by cases h
theorem canon_pair {α : Type} {s : State} {a : α} (h : s.Canon) : ((s, a) : State × α).1.Canon := h
theorem image_canon {s : State} {k : Nat} {v : Saved} (hv : mapGet none s.images k = some v) (h : s.Canon) : v.Canon := mapGet_image h hv
theorem State.canon_reset : State.reset.Canon := by
  refine ⟨by decide, by decide, by decide, by decide, by decide, by decide, ?_, ?_⟩
  · intro e he; simp [State.reset] at he
  · intro e he; simp [State.reset] at he
theorem canon_ite {c : Prop} [Decidable c] {a b : State} (ha : c → a.Canon) (hb : ¬c → b.Canon) : (if c then a else b).Canon := by
  split
  · exact ha ‹_›
  · exact hb ‹_›
theorem canon_cut {p : Prop} {s : State} (h : s.Canon) (k : s.Canon → p) : p := k h
theorem canon_cut1 {p : Prop} {α : Type} {s : State × α} (h : s.1.Canon) (k : s.1.Canon → p) : p := k h
theorem grans_foldl {α : Type} (f : SMap Bool → α → SMap Bool) (hf : ∀ g a, mapWf false g = true → mapWf false (f g a) = true) (l : List α)
    (g : SMap Bool) (h : mapWf false g = true) : mapWf false (l.foldl f g) = true := by
  induction l generalizing g with
  | nil => exact h
  | cons a l ih => exact ih _ (hf g a h)
theorem State.Canon.mem_wf {s : State} (h : s.Canon) : s.mem.wf = true := h.mem
theorem State.Canon.grans_wf {s : State} (h : s.Canon) : mapWf false s.grans = true := h.grans
theorem State.Canon.poison_wf {s : State} (h : s.Canon) : mapWf false s.poison = true := h.poison
theorem State.Canon.slots_wf {s : State} (h : s.Canon) : mapWf {} s.slots = true := h.slots
theorem State.Canon.cores_wf {s : State} (h : s.Canon) : mapWf {} s.cores = true := h.cores
theorem State.Canon.clusters_wf {s : State} (h : s.Canon) : mapWf {} s.clusters = true := h.clusters

end Sys2Proof.Machine
end

