-- ==== Sys2Proof/Laws/CanonicalMemory.lean ====
section
/-! SUPPORT. What keeps the maps of a state canonical: the shared operations, the chip fabric, the cluster ports, memory accesses,
instruction fetch, and the arithmetic, memory and atomic instructions. -/

namespace Sys2Proof.Machine

/-! ### Ops -/

theorem State.modDie_canon {s : State} (h : s.Canon) (d : Nat) (f : Die → Die) : (State.modDie s d f).Canon := by
  unfold State.modDie
  with_reducible repeat' first | assumption | apply State.Canon.out | (apply State.canon_mk; dsimp only)
theorem State.modQueue_canon {s : State} (h : s.Canon) (q : Nat) (f : Queue → Queue) : (State.modQueue s q f).Canon := by
  unfold State.modQueue
  with_reducible repeat' first | assumption | apply State.Canon.out | (apply State.canon_mk; dsimp only)
theorem State.setLaunch_canon {s : State} (h : s.Canon) (l : Nat) (x : Option Launch) : (State.setLaunch s l x).Canon := by
  unfold State.setLaunch
  with_reducible repeat' first | assumption | apply State.Canon.out | (apply State.canon_mk; dsimp only)
theorem State.modLaunch_canon {s : State} (h : s.Canon) (l : Nat) (f : Launch → Launch) : (State.modLaunch s l f).Canon := by
  unfold State.modLaunch
  with_reducible repeat' first | assumption | apply State.setLaunch_canon
theorem State.post_canon {s : State} (h : s.Canon) (d : Nat) (i : Ev) : (State.post s d i).Canon := by
  unfold State.post
  with_reducible repeat' first | assumption | apply State.Canon.out | (apply State.canon_mk; dsimp only)
theorem State.postNow_canon {s : State} (h : s.Canon) (i : Ev) : (State.postNow s i).Canon := by
  unfold State.postNow
  with_reducible repeat' first | assumption | apply State.post_canon
theorem State.postLat_canon {s : State} (h : s.Canon) (id : Nat) (i : Ev) : (State.postLat s id i).Canon := by
  unfold State.postLat
  with_reducible repeat' first | assumption | apply State.post_canon
theorem State.fresh_canon {s : State} (h : s.Canon) : (State.fresh s).2.Canon := by
  unfold State.fresh
  with_reducible repeat' first | assumption | apply State.Canon.out | dsimp only | (apply State.canon_mk; dsimp only)
theorem State.poll_canon {s : State} (h : s.Canon) (id : Nat) (i : Ev) : (State.poll s id i).Canon := by
  unfold State.poll
  with_reducible repeat' first | assumption | apply State.postLat_canon | apply canon_ite | intro _
theorem State.pollNow_canon {s : State} (h : s.Canon) (i : Ev) : (State.pollNow s i).Canon := by
  unfold State.pollNow
  with_reducible repeat' first | assumption | apply State.postNow_canon | apply canon_ite | intro _
theorem State.draw_canon {s : State} (h : s.Canon) : (State.draw s).2.Canon := by
  unfold State.draw
  with_reducible repeat' first | assumption | apply State.Canon.out | dsimp only | (apply State.canon_mk; dsimp only)
theorem State.emit_canon {s : State} (h : s.Canon) (o : Out) : (State.emit s o).Canon := by
  unfold State.emit
  with_reducible repeat' first | assumption | apply State.Canon.out | (apply State.canon_mk; dsimp only)
theorem State.holdEvent_canon {s : State} (h : s.Canon) (code : Nat) (body : List Byte) : (State.holdEvent s code body).Canon := by
  unfold State.holdEvent
  with_reducible repeat' first
    | assumption | apply State.emit_canon | apply State.post_canon | apply canon_ite | apply State.Canon.out | intro _
    | (apply State.canon_mk; dsimp only)
theorem State.raise_canon {s : State} (h : s.Canon) (code : Nat) (body : List Byte) : (State.raise s code body).Canon := by
  unfold State.raise
  with_reducible repeat' first
    | assumption | apply State.holdEvent_canon | apply canon_ite | apply State.Canon.out | intro _
    | (apply State.canon_mk; dsimp only)
theorem State.wakeCore_canon {s : State} (h : s.Canon) (c : Nat) (why : Block) : (s.wakeCore c why).Canon := by
  have e : (s.wakeCore c why) = { s with slots := (s.slots.map fun e => (e.1, if coreOf e.1 = c then e.2.wake why else e.2)).filter fun e => e.2 ≠ {} } := by
    unfold State.wakeCore
    congr 2
    refine List.map_congr_left fun e _ => ?_
    split <;> rfl
  rw [e]
  exact canon_slots h (map_wfFrom _ _ _ _ h.slots)
theorem State.wakeGrans_canon {s : State} (h : s.Canon) (c lo hi : Nat) : (s.wakeGrans c lo hi).Canon := by
  unfold State.wakeGrans
  extract_lets f
  have e : (s.slots.map fun e => if coreOf e.1 = c then (e.1, f e.2) else e) =
      s.slots.map fun e => (e.1, if coreOf e.1 = c then f e.2 else e.2) := by
    refine List.map_congr_left fun e _ => ?_
    split <;> rfl
  rw [e]
  exact canon_slots h (map_wfFrom _ _ _ _ h.slots)
theorem State.blockCur_canon {s : State} (h : s.Canon) (why : Block) : (State.blockCur s why).Canon := by
  unfold State.blockCur
  with_reducible repeat' first | assumption | apply State.modSlot_canon
theorem State.putLive_canon {s : State} (h : s.Canon) (cl : Nat) {sv : Saved} (hv : sv.Canon) : (s.putLive cl sv).Canon := by
  have h0 : (s.modCluster cl fun c => { c with tiles := sv.tiles, pools := sv.pools, ctrs := sv.ctrs }).Canon :=
    State.modCluster_canon h _ _ fun c hc => ⟨hv.tiles, hc.shadow⟩
  unfold State.putLive
  generalize (s.modCluster cl fun c => { c with tiles := sv.tiles, pools := sv.pools, ctrs := sv.ctrs }) = t at h0 ⊢
  exact ⟨mapReplace_wf _ _ _ _ _ h0.mem hv.bytes, mapReplace_wf _ _ _ _ _ h0.grans hv.grans, mapReplace_wf _ _ _ _ _ h0.poison hv.poison,
    mapReplace_wf _ _ _ _ _ h0.slots hv.slots, mapReplace_wf _ _ _ _ _ h0.cores hv.cores, h0.clusters, h0.each, h0.images⟩
theorem State.liveOf_canon {s : State} (h : s.Canon) (p cl : Nat) : (s.liveOf p cl).Canon :=
  ⟨mapRange_wf _ _ _ _ h.mem, mapRange_wf _ _ _ _ h.grans, mapRange_wf _ _ _ _ h.poison, mapRange_wf _ _ _ _ h.slots,
    mapRange_wf _ _ _ _ h.cores, (State.canon_cluster h cl).tiles⟩
theorem State.inSaved_canon {α : Type} {s : State} (h : s.Canon) (cl : Nat) {sv : Saved} (hv : sv.Canon) (f : State → State × α)
    (hf : ∀ a : State, a.Canon → (f a).1.Canon) : (s.inSaved cl sv f).1.Canon ∧ (s.inSaved cl sv f).2.1.Canon := by
  unfold State.inSaved
  extract_lets part key live t r live2 saved t2
  have ht : t.Canon := State.modCluster_canon (State.putLive_canon h cl hv) _ _ fun c hc => ⟨hc.tiles, Saved.canon_filter hc.shadow⟩
  have hlive : live.Canon := State.liveOf_canon h _ cl
  have hr : r.1.Canon := hf _ (canon_images ht (canon_imagesPut ht (by intro v hv; cases hv; exact hlive)))
  have hl := State.liveOf_canon hr sv.part cl
  have h2 : t2.Canon := State.modCluster_canon (State.putLive_canon hr cl (Saved.canon_getD (fun w hw => mapGet_image (k := key) hr hw) hlive)) cl
    (fun c => { c with part := part })
    fun c hc => ⟨hc.tiles, hc.shadow⟩
  exact ⟨canon_images h2 (canon_imagesPut h2 fun v hv => mapGet_image h hv),
    ⟨hl.bytes, hl.grans, hl.poison, hl.slots, hl.cores, hl.tiles⟩⟩
theorem State.atPartR_canon {α : Type} {s : State} (h : s.Canon) (lid cl : Nat) (f : State → State × α)
    (hf : ∀ a : State, a.Canon → (f a).1.Canon) : (s.atPartR lid cl f).1.Canon := by
  unfold State.atPartR
  split
  · exact hf s h
  · split
    · exact hf s h
    · rename_i sv hv
      have := State.inSaved_canon h cl (Cluster.canon_shadow hv (State.canon_cluster h cl)) f hf
      exact State.modCluster_canon this.1 _ _ fun c hc => ⟨hc.tiles, by intro v h; cases h; exact this.2⟩
  · split
    · exact hf s h
    · rename_i sv hv
      have := State.inSaved_canon h cl (mapGet_image h hv) f hf
      exact canon_images this.1 (canon_imagesPut this.1 (by intro v h; cases h; exact this.2))
theorem State.atPart_canon {s : State} (h : s.Canon) (lid cl : Nat) (f : State → State) (hf : ∀ (a0 : State), a0.Canon → (f
    a0).Canon) : (State.atPart s lid cl f).Canon := by
  unfold State.atPart
  with_reducible repeat' first | assumption | apply State.atPartR_canon
theorem State.onThread_canon {s : State} (h : s.Canon) (lid t : Nat) (f : Slot → Slot) : (State.onThread s lid t f).Canon := by
  unfold State.onThread
  with_reducible repeat' first | assumption | apply State.atPart_canon | apply State.modSlot_canon | intro _
theorem State.modTile_canon {s : State} (h : s.Canon) (cl i : Nat) (f : Tile → Tile) : (State.modTile s cl i f).Canon := by
  unfold State.modTile
  with_reducible repeat' first
    | assumption | refine Cluster.Canon.shadow_ok ?_ | apply State.modCluster_canon | apply mapPut_wf | apply Cluster.Canon.tiles_wf
    | intro _ | (apply Cluster.canon_of <;> dsimp only)
theorem Saved.unmark_canon (cl : Nat) {v : Saved} (h : v.Canon) : (v.unmark cl).Canon :=
  { h with cores := mapEach_wf _ _ _ h.cores }
theorem State.unmark_canon {s : State} (h : s.Canon) (cl : Nat) : (s.unmark cl).Canon :=
  { h with
    cores := mapEach_wf _ (Core.unmark cl) _ h.cores
    clusters := mapEach_wf _ (fun c : Cluster => { c with shadow := c.shadow.map (Saved.unmark cl) }) _ h.clusters
    each := each_mapEach (f := fun c => { c with shadow := c.shadow.map (Saved.unmark cl) }) h.each fun c hc =>
      ⟨hc.tiles, map_canon (fun _ => Saved.unmark_canon cl) hc.shadow⟩
    images := images_mapEach (fun _ => Saved.unmark_canon cl) h.images }
theorem State.freeTile_canon {s : State} (h : s.Canon) (cl i : Nat) (zf : Bool) : (State.freeTile s cl i zf).Canon := by
  unfold State.freeTile
  with_reducible repeat' first
    | assumption | refine Cluster.Canon.shadow_ok ?_ | apply State.modCluster_canon | apply State.modTile_canon
    | apply State.postNow_canon | apply State.unmark_canon | apply canon_ite | apply Cluster.Canon.tiles_wf | intro _
    | (apply Cluster.canon_of <;> dsimp only)
theorem State.keepHandles_canon {s : State} (h : s.Canon) (cl : Nat) (p : Word32 → Bool) : (State.keepHandles s cl p).Canon := by
  unfold State.keepHandles
  with_reducible repeat' first | assumption | apply State.foldl_canon | apply State.modCore_canon | intro _
theorem State.purgeRings_canon {s : State} (h : s.Canon) (cl : Nat) : (s.purgeRings cl).Canon := 
  State.foldl_canon (fun _ _ h => State.modCore_canon h _ _) h _
theorem State.lowerUse_canon {s : State} (h : s.Canon) (h : Word32) : (State.lowerUse s h).Canon := by
  unfold State.lowerUse
  with_reducible repeat' first | assumption | apply State.modTile_canon | apply State.postNow_canon | apply canon_ite | intro _
theorem State.countSent_canon {s : State} (h : s.Canon) (lid cl : Nat) : (State.countSent s lid cl).Canon := by
  unfold State.countSent
  with_reducible repeat' first
    | assumption | refine Cluster.Canon.shadow_ok ?_ | apply State.modCluster_canon | apply Cluster.Canon.tiles_wf | intro _
    | (apply Cluster.canon_of <;> dsimp only)
theorem State.countRecvd_canon {s : State} (h : s.Canon) (lid cl : Nat) : (State.countRecvd s lid cl).Canon := by
  unfold State.countRecvd
  with_reducible repeat' first
    | assumption | refine Cluster.Canon.shadow_ok ?_ | apply State.modCluster_canon | apply Cluster.Canon.tiles_wf | intro _
    | (apply Cluster.canon_of <;> dsimp only)
theorem State.putPoison_canon {s : State} (h : s.Canon) (k n : Nat) (bad : List Nat) : (State.putPoison s k n bad).Canon := by
  unfold State.putPoison
  with_reducible repeat' first
    | assumption | apply canon_poison | apply grans_foldl | apply mapPut_wf | apply mapClear_wf | apply State.Canon.poison_wf
    | intro _ | (apply State.canon_mk; dsimp only)
theorem State.restore_canon {s : State} (h : s.Canon) (x0 : Undo) : (State.restore s x0).Canon := by
  unfold State.restore
  with_reducible repeat' first
    | assumption | refine Cluster.Canon.shadow_ok ?_ | apply State.modCluster_canon | apply State.modSlot_canon
    | apply State.putPoison_canon | apply canon_mem | apply canon_grans | apply grans_foldl | apply mapPut_wf | apply writeList_wf
    | apply Cluster.Canon.tiles_wf | apply State.Canon.mem_wf | apply State.Canon.grans_wf | intro _ | dsimp only
    | (apply State.canon_mk; dsimp only) | split | (apply Cluster.canon_of <;> dsimp only)
theorem State.modFlight_canon {s : State} (h : s.Canon) (id : Nat) (f : Flight → Flight) : (State.modFlight s id f).Canon := by
  unfold State.modFlight
  with_reducible repeat' first | assumption | apply State.Canon.out | (apply State.canon_mk; dsimp only)
theorem State.dropFlight_canon {s : State} (h : s.Canon) (id : Nat) : (State.dropFlight s id).Canon := by
  unfold State.dropFlight
  with_reducible repeat' first | assumption | apply State.Canon.out | (apply State.canon_mk; dsimp only)
theorem State.ack_canon {s : State} (h : s.Canon) (lid t n : Nat) : (State.ack s lid t n).Canon := by
  unfold State.ack
  with_reducible repeat' first | assumption | apply State.onThread_canon
theorem State.forget_canon {s : State} (h : s.Canon) (f : Flight) : (State.forget s f).Canon := by
  unfold State.forget
  with_reducible repeat' first
    | assumption | apply State.ack_canon | apply State.dropFlight_canon | apply State.onThread_canon | apply canon_ite | intro _
    | dsimp only | split
theorem State.forgetBuffered_canon {s : State} (h : s.Canon) (lid : Nat) : (State.forgetBuffered s lid).Canon := by
  unfold State.forgetBuffered
  with_reducible repeat' first
    | assumption | apply State.ack_canon | apply State.foldl_canon | apply canon_cores | apply mapEach_wf
    | apply State.Canon.cores_wf | intro _ | (apply State.canon_mk; dsimp only)
theorem State.forgetCommands_canon {s : State} (h : s.Canon) (lid : Nat) : (State.forgetCommands s lid).Canon := by
  unfold State.forgetCommands
  with_reducible repeat' first | assumption | apply State.ack_canon | apply State.foldl_canon | intro _
theorem State.lowerUseOf_canon {s : State} (h : s.Canon) (lid : Nat) (h : Word32) : (State.lowerUseOf s lid h).Canon := by
  unfold State.lowerUseOf
  with_reducible repeat' first | assumption | apply State.atPart_canon | apply State.lowerUse_canon | intro _
theorem State.letTilesGo_canon {s : State} (h : s.Canon) (lid : Nat) : (State.letTilesGo s lid).Canon := by
  unfold State.letTilesGo
  with_reducible repeat' first
    | assumption | apply State.foldl_canon | apply State.lowerUseOf_canon | apply State.modCore_canon | intro _
theorem Cluster.giveContexts_canon {c : Cluster} (h : c.Canon) : c.giveContexts.Canon := by
  unfold Cluster.giveContexts
  generalize c.engines = l
  induction l generalizing c with
  | nil => exact h
  | cons r l ih =>
    rw [List.foldl_cons]
    refine ih ?_
    dsimp only
    split
    · split
      · exact ⟨h.tiles, h.shadow⟩
      · exact h
    · exact h
theorem Saved.dropLaunch_canon (lid : Nat) (all : Bool) (dead ids : List Nat) {v : Saved} (h : v.Canon) :
    (v.dropLaunch lid all dead ids).Canon :=
  { h with slots := mapEach_wf _ (Slot.dropLaunch lid all ids) _ h.slots
           cores := mapEach_wf _ (fun c : Core => (c.dropLaunch lid).dropFills dead) _ h.cores }
theorem images_dropLaunch {m : SMap (Option Saved)} (lid : Nat) (all : Bool) (dead ids : List Nat)
    (h : ∀ e ∈ m, ∀ v, e.2 = some v → v.Canon) :
    ∀ e ∈ mapEach none (fun o => o.map (Saved.dropLaunch lid all dead ids)) m, ∀ v, e.2 = some v → v.Canon :=
  images_mapEach (fun _ => Saved.dropLaunch_canon lid all dead ids) h
theorem Cluster.dropLaunch_canon (lid : Nat) (all : Bool) (dead ids : List Nat) {c : Cluster} (h : c.Canon) :
    (c.dropLaunch lid all dead ids).Canon :=
  Cluster.giveContexts_canon ⟨h.tiles, map_canon (fun _ => Saved.dropLaunch_canon lid all dead ids) h.shadow⟩
theorem State.dropLaunchWork_canon {s : State} (h : s.Canon) (lid : Nat) (all : Bool) : (State.dropLaunchWork s lid all).Canon := by
  unfold State.dropLaunchWork
  with_reducible repeat' first
    | apply images_dropLaunch | apply Cluster.dropLaunch_canon | assumption | refine State.Canon.images_ok ?_
    | refine State.Canon.each_ok ?_ | refine each_mapEach ?_ ?_ | intro _
    | (extract_lets +onlyGivenNames s1; refine canon_cut (s := s1) ?_ ?_; rotate_left; intro hs1; clear_value s1; rotate_left; subst s1)
    | (extract_lets +onlyGivenNames s1; clear_value s1) | apply State.foldl_canon | apply State.forget_canon
    | apply State.forgetBuffered_canon | apply State.forgetCommands_canon | apply State.letTilesGo_canon | apply State.modCore_canon
    | apply State.postNow_canon | apply canon_ite | apply mapEach_wf | apply State.Canon.mem_wf | apply State.Canon.grans_wf
    | apply State.Canon.poison_wf | apply State.Canon.slots_wf | apply State.Canon.cores_wf | apply State.Canon.clusters_wf
    | (apply State.canon_mk; dsimp -zeta only) | apply MapsOk.mk
theorem State.freeTilesWhere_canon {s : State} (h : s.Canon) (cl : Nat) (p : Tile → Bool) : (State.freeTilesWhere s cl p).Canon :=
    by
  unfold State.freeTilesWhere
  with_reducible repeat' first
    | assumption | apply State.foldl_canon | apply State.freeTile_canon | apply State.keepHandles_canon | intro _
theorem State.freeLid_canon {s : State} (h : s.Canon) (lid : Nat) : (State.freeLid s lid).Canon := by
  unfold State.freeLid
  with_reducible repeat' first
    | assumption | apply State.setLaunch_canon | apply canon_ite | apply canon_cores | apply mapEach_wf | apply State.Canon.cores_wf
    | intro _ | dsimp only | (apply State.canon_mk; dsimp only) | split
theorem State.discardNow_canon {s : State} (h : s.Canon) (sid : Fin 4) (cause : Nat) : (State.discardNow s sid cause).Canon := by
  unfold State.discardNow
  with_reducible repeat' first
    | assumption | apply State.atPart_canon | apply State.dropLaunchWork_canon | apply State.foldl_canon | apply State.freeLid_canon
    | apply State.freeTilesWhere_canon | apply State.modQueue_canon | apply State.postNow_canon | apply State.restore_canon
    | apply State.Canon.out | intro _ | dsimp only | (apply State.canon_mk; dsimp only) | split
theorem State.discard_canon {s : State} (h : s.Canon) (sid : Fin 4) (cause : Nat) : (State.discard s sid cause).Canon := by
  unfold State.discard
  with_reducible repeat' first | assumption | intro _ | apply State.discardNow_canon | apply canon_ite | split
theorem State.logUndo_canon {s : State} (h : s.Canon) (sid : Fin 4) (u : Undo) : (State.logUndo s sid u).Canon := by
  unfold State.logUndo
  with_reducible repeat' first
    | assumption | apply State.discard_canon | apply canon_ite | apply State.Canon.out | intro _ | dsimp only
    | (apply State.canon_mk; dsimp only) | split
theorem State.stillRuns_canon {s : State} (h : s.Canon) (before : State) (lid : Nat) (k : State → State) (hk : ∀ (a0 : State),
    a0.Canon → (k a0).Canon) : (State.stillRuns s before lid k).Canon := by
  unfold State.stillRuns
  with_reducible repeat' first | assumption | apply hk | apply canon_ite | intro _
theorem State.trapExact_canon {s : State} (h : s.Canon) (cause : Nat) (val : Word) : (State.trapExact s cause val).Canon := by
  unfold State.trapExact
  with_reducible repeat' first | assumption | apply State.discard_canon | apply State.setSlot_canon | dsimp only | split
theorem State.abandon_canon {s : State} (h : s.Canon) (t : Nat) : (State.abandon s t).Canon := by
  unfold State.abandon
  with_reducible repeat' first
    | assumption | refine Cluster.Canon.shadow_ok ?_ | apply State.dropFlight_canon | apply State.modCluster_canon
    | apply State.modCore_canon | apply State.modSlot_canon | apply State.wakeCore_canon | apply canon_ite
    | apply Cluster.Canon.tiles_wf | intro _ | dsimp only | split | (apply Cluster.canon_of <;> dsimp only)
theorem State.holdTrap_canon {s : State} (h : s.Canon) (t : Nat) (h : HeldTrap) : (State.holdTrap s t h).Canon := by
  unfold State.holdTrap
  with_reducible repeat' first | assumption | apply State.abandon_canon | apply State.modSlot_canon | apply canon_ite | intro _
theorem State.deferTrap_canon {s : State} (h : s.Canon) (lid t cause : Nat) (tpc tval : Word) : (State.deferTrap s lid t cause tpc
    tval).Canon := by
  unfold State.deferTrap
  with_reducible repeat' first
    | assumption | apply State.atPart_canon | apply State.discard_canon | apply State.holdTrap_canon | intro _ | split
theorem State.withSrcs_canon {s : State} (h : s.Canon) (srcs : List Src) (k : State → State) (hk : ∀ (a0 : State), a0.Canon → (k
    a0).Canon) : (State.withSrcs s srcs k).Canon := by
  unfold State.withSrcs
  with_reducible repeat' first
    | assumption | apply State.blockCur_canon | apply State.trapExact_canon | apply hk | dsimp only | split
theorem State.privileged_canon {s : State} (h : s.Canon) (word : Nat) (k : State → State) (hk : ∀ (a0 : State), a0.Canon → (k
    a0).Canon) : (State.privileged s word k).Canon := by
  unfold State.privileged
  with_reducible repeat' first | assumption | apply State.trapExact_canon | apply hk | apply canon_ite | intro _
theorem State.withSeg_canon {s : State} (h : s.Canon) (n : Nat) (k : State → State) (hk : ∀ (a0 : State), a0.Canon → (k a0).Canon)
    : (State.withSeg s n k).Canon := by
  unfold State.withSeg
  with_reducible repeat' first | assumption | apply State.blockCur_canon | apply hk | apply canon_ite | intro _
theorem State.finish_canon {s : State} (h : s.Canon) (f : Slot → Slot) : (State.finish s f).Canon := by
  unfold State.finish
  with_reducible repeat' first | assumption | apply State.modSlot_canon
theorem State.noteStart_canon {s : State} (h : s.Canon) (lid : Nat) : (State.noteStart s lid).Canon := by
  unfold State.noteStart
  with_reducible repeat' first
    | assumption | apply State.post_canon | apply State.setLaunch_canon | apply canon_ite | intro _ | dsimp only | split
theorem State.launchError_canon {s : State} (h : s.Canon) (lid status : Nat) : (State.launchError s lid status).Canon := by
  unfold State.launchError
  with_reducible repeat' first
    | assumption | apply State.discard_canon | apply State.postNow_canon | apply State.setLaunch_canon | apply canon_ite | intro _
    | dsimp only | split

/-! ### Chip -/

theorem State.clearPoison_canon {s : State} (h : s.Canon) (k n : Nat) : (State.clearPoison s k n).Canon := by
  unfold State.clearPoison
  with_reducible repeat' first
    | assumption | apply canon_poison | apply filter_wf | apply State.Canon.poison_wf | (apply State.canon_mk; dsimp only)
theorem State.setPoison_canon {s : State} (h : s.Canon) (k : Nat) : (State.setPoison s k).Canon := by
  unfold State.setPoison
  with_reducible repeat' first
    | assumption | apply canon_poison | apply mapPut_wf | apply State.Canon.poison_wf | (apply State.canon_mk; dsimp only)
theorem State.touchPage_canon {s : State} (h : s.Canon) (a : Nat) : (State.touchPage s a).Canon := by
  unfold State.touchPage
  with_reducible repeat' first
    | assumption | refine Cluster.Canon.shadow_ok ?_ | apply State.modCluster_canon | apply State.modCore_canon
    | apply State.modTile_canon | apply canon_ite | apply Cluster.Canon.tiles_wf | intro _ | dsimp only | split
    | (apply Cluster.canon_of <;> dsimp only)
theorem State.writeChipBytes_canon {s : State} (h : s.Canon) (a n v : Nat) : (State.writeChipBytes s a n v).Canon := by
  unfold State.writeChipBytes
  with_reducible repeat' first
    | assumption | apply State.clearPoison_canon | apply State.touchPage_canon | apply canon_mem | apply writeLe_wf
    | apply State.Canon.mem_wf | (apply State.canon_mk; dsimp only)
theorem State.watchPool_canon {s : State} (h : s.Canon) (cl : Nat) (p : Fin 8) : (State.watchPool s cl p).Canon := by
  unfold State.watchPool
  with_reducible repeat' first | assumption | apply State.post_canon | apply canon_ite | intro _
theorem State.setPoolStall_canon {s : State} (h : s.Canon) (cl v : Nat) : (State.setPoolStall s cl v).Canon := by
  unfold State.setPoolStall
  with_reducible repeat' first
    | assumption | refine Cluster.Canon.shadow_ok ?_ | apply State.foldl_canon | apply State.modCluster_canon
    | apply State.watchPool_canon | apply canon_ite | apply State.Canon.out | apply Cluster.Canon.tiles_wf | intro _
    | (apply State.canon_mk; dsimp only) | (apply Cluster.canon_of <;> dsimp only)
theorem State.setPool_canon {s : State} (h : s.Canon) (cl p v : Nat) : (State.setPool s cl p v).Canon := by
  unfold State.setPool
  with_reducible repeat' first
    | assumption | refine Cluster.Canon.shadow_ok ?_ | apply State.foldl_canon | apply State.modCluster_canon
    | apply State.modCore_canon | apply State.postNow_canon | apply Cluster.Canon.tiles_wf | intro _ | dsimp only
    | (apply Cluster.canon_of <;> dsimp only)
theorem State.setMxctl_canon {s : State} (h : s.Canon) (cl v : Nat) : (State.setMxctl s cl v).Canon := by
  unfold State.setMxctl
  with_reducible repeat' first
    | assumption | refine Cluster.Canon.shadow_ok ?_ | apply State.modCluster_canon | apply Cluster.Canon.tiles_wf | intro _
    | (apply Cluster.canon_of <;> dsimp only)
theorem State.engineStore_canon {s : State} (h : s.Canon) (cl o v : Nat) : (State.engineStore s cl o v).Canon := by
  unfold State.engineStore
  with_reducible repeat' first
    | assumption | refine Cluster.Canon.shadow_ok ?_ | apply State.modCluster_canon | apply State.modCore_canon | apply canon_ite
    | apply Cluster.Canon.tiles_wf | intro _ | split | (apply Cluster.canon_of <;> dsimp only)
theorem State.ctrlStore_canon {s : State} (h : s.Canon) (cl o v : Nat) : (State.ctrlStore s cl o v).Canon := by
  unfold State.ctrlStore
  with_reducible repeat' first
    | assumption | refine Cluster.Canon.shadow_ok ?_ | apply State.modCluster_canon | apply State.setMxctl_canon
    | apply State.setPool_canon | apply State.setPoolStall_canon | apply canon_ite | apply Cluster.Canon.tiles_wf | intro _
    | dsimp only | (apply Cluster.canon_of <;> dsimp only)
theorem State.writeChip_canon {s : State} (h : s.Canon) (a n v : Nat) : (State.writeChip s a n v).Canon := by
  unfold State.writeChip
  with_reducible repeat' first
    | assumption | apply State.ctrlStore_canon | apply State.engineStore_canon | apply State.modCore_canon
    | apply State.modSlot_canon | apply State.writeChipBytes_canon | apply canon_ite | intro _ | dsimp only | split
theorem State.guardLogged_canon {s : State} (h : s.Canon) (lid : Option Nat) (a : Nat) : (State.guardLogged s lid a).Canon := by
  unfold State.guardLogged
  with_reducible repeat' first
    | assumption | apply State.discard_canon | apply State.foldl_canon | apply canon_ite | intro _ | split
theorem State.beforeChange_canon {s : State} (h : s.Canon) (lid : Nat) (a : Nat) : (State.beforeChange s lid a).Canon := by
  unfold State.beforeChange
  with_reducible repeat' first
    | assumption | apply State.discard_canon | apply State.guardLogged_canon | apply State.logUndo_canon | apply canon_ite | intro _
    | dsimp only | split
theorem State.changing_canon {s : State} (h : s.Canon) (lid a : Nat) (k : State → State) (hk : ∀ (a0 : State), a0.Canon → (k
    a0).Canon) : (State.changing s lid a k).Canon := by
  unfold State.changing
  with_reducible repeat' first | assumption | apply State.beforeChange_canon | apply hk | apply canon_ite | intro _

/-! ### Port -/

theorem State.watch_canon {s : State} (h : s.Canon) (own : Option (Fin 4)) (pa n : Nat) : (State.watch s own pa n).Canon := by
  unfold State.watch
  with_reducible repeat' first
    | assumption | apply State.discard_canon | apply State.foldl_canon | apply canon_ite | apply State.Canon.out | intro _
    | dsimp only | (apply State.canon_mk; dsimp only) | split
theorem State.notifyWrite_canon {s : State} (h : s.Canon) (q o : Nat) (bs : List (Option Byte)) : (State.notifyWrite s q o
    bs).Canon := by
  unfold State.notifyWrite
  with_reducible repeat' first | assumption | apply State.foldl_canon | apply State.postNow_canon | intro _ | dsimp only | split
theorem State.wakeWaits_canon {s : State} (h : s.Canon) (pa n : Nat) : (State.wakeWaits s pa n).Canon := by
  unfold State.wakeWaits
  with_reducible repeat' first | assumption | apply State.foldl_canon | apply State.pollNow_canon | apply canon_ite | intro _
theorem State.writeHome_canon {s : State} (h : s.Canon) (own : Option (Fin 4)) (pa : Nat) (bs : List (Option Byte)) :
    (State.writeHome s own pa bs).Canon := by
  unfold State.writeHome
  with_reducible repeat' first
    | assumption | apply State.clearPoison_canon | apply State.foldl_canon | apply State.notifyWrite_canon
    | apply State.wakeWaits_canon | apply State.watch_canon | apply canon_mem | apply writeMasked_wf | apply State.Canon.mem_wf
    | intro _ | dsimp only | (apply State.canon_mk; dsimp only) | split
theorem State.writeHomeNat_canon {s : State} (h : s.Canon) (own : Option (Fin 4)) (pa n v : Nat) : (State.writeHomeNat s own pa n
    v).Canon := by
  unfold State.writeHomeNat
  with_reducible repeat' first | assumption | apply State.writeHome_canon
theorem State.pickRoot_canon {s : State} (h : s.Canon) (asid : Nat) : (State.pickRoot s asid).1.Canon := by
  unfold State.pickRoot
  with_reducible repeat' first | assumption | apply State.draw_canon | dsimp only | split
theorem State.makeRoom_canon {α : Type} [DecidableEq α] {s : State} (h : s.Canon) (l : List α) (inSet : α → Bool) (ways : Nat) :
    (s.makeRoom l inSet ways).1.Canon := by
  unfold State.makeRoom
  dsimp only
  split
  · exact h
  · exact h
theorem State.installCluster_canon {s : State} (h : s.Canon) (cl : Nat) (t : TlbEntry) : (State.installCluster s cl t).Canon := by
  unfold State.installCluster
  with_reducible repeat' first
    | assumption | refine Cluster.Canon.shadow_ok ?_ | apply State.makeRoom_canon | apply State.modCluster_canon
    | apply Cluster.Canon.tiles_wf | intro _ | (apply Cluster.canon_of <;> dsimp only)
theorem State.installDie_canon {s : State} (h : s.Canon) (die : Nat) (t : TlbEntry) : (State.installDie s die t).Canon := by
  unfold State.installDie
  with_reducible repeat' first | assumption | apply State.makeRoom_canon | apply State.modDie_canon | apply canon_ite | intro _
theorem State.installWalk_canon {s : State} (h : s.Canon) (die asid va : Nat) (e : Nat × Nat) : (State.installWalk s die asid va
    e).Canon := by
  unfold State.installWalk
  with_reducible repeat' first | assumption | apply State.makeRoom_canon | apply State.modDie_canon
theorem State.lookup_canon {s : State} (h : s.Canon) (cl asid va : Nat) (a : Acc) : (State.lookup s cl asid va a).1.Canon := by
  unfold State.lookup
  with_reducible repeat' first | assumption | apply State.installCluster_canon | dsimp only | split
theorem State.walkInstall_canon {s : State} (h : s.Canon) (cl asid va : Nat) (a : Acc) (dirty spec : Bool) : (State.walkInstall s
    cl asid va a dirty spec).1.Canon := by
  unfold State.walkInstall
  with_reducible repeat' first
    | assumption | apply State.foldl_canon | apply State.installCluster_canon | apply State.installDie_canon
    | apply State.installWalk_canon | apply State.pickRoot_canon | apply State.writeHomeNat_canon | apply canon_ite | intro _
    | dsimp only | split
theorem State.translateNow_canon {s : State} (h : s.Canon) (cl asid va : Nat) (a : Acc) (spec : Bool) : (State.translateNow s cl
    asid va a spec).1.Canon := by
  unfold State.translateNow
  with_reducible repeat' first
    | assumption | apply State.lookup_canon | apply State.walkInstall_canon | (apply canon_fst; assumption) | split
theorem State.noteUsed_canon {s : State} (h : s.Canon) (sid : Fin 4) (cl asid va : Nat) : (State.noteUsed s sid cl asid va).Canon
    := by
  unfold State.noteUsed
  with_reducible repeat' first
    | assumption | apply canon_ite | apply State.Canon.out | intro _ | (apply State.canon_mk; dsimp only) | split
theorem State.writeDry_canon {s : State} (h : s.Canon) (sid : Fin 4) (pa : Nat) (bs : List (Option Byte)) : (State.writeDry s sid
    pa bs).Canon := by
  unfold State.writeDry
  with_reducible repeat' first
    | assumption | apply State.discard_canon | apply canon_ite | apply State.Canon.out | intro _ | dsimp only
    | (apply State.canon_mk; dsimp only) | split
theorem State.makeRecord_canon {s : State} (h : s.Canon) (die key : Nat) : (State.makeRecord s die key).Canon := by
  unfold State.makeRecord
  with_reducible repeat' first
    | assumption | apply State.modDie_canon | apply State.post_canon | apply State.postLat_canon | apply canon_ite | intro _
    | dsimp only | split
theorem State.attach_canon {s : State} (h : s.Canon) (die key : Nat) (who : Option (Nat × Nat)) : (State.attach s die key
    who).Canon := by
  unfold State.attach
  with_reducible repeat' first | assumption | apply State.modDie_canon
theorem State.recordFault_canon {s : State} (h : s.Canon) (cl lid part asid va : Nat) (eng : Bool) (a : Acc) (f : TFault) (who :
    Option (Nat × Nat)) : (State.recordFault s cl lid part asid va eng a f who).1.Canon := by
  unfold State.recordFault
  with_reducible repeat' first
    | assumption | apply State.attach_canon | apply State.makeRecord_canon | apply State.modDie_canon | apply canon_ite
    | apply State.Canon.out | intro _ | dsimp only | (apply State.canon_mk; dsimp only) | split
theorem State.portStore_canon {s : State} (h : s.Canon) (cl pa : Nat) (bs : List (Option Byte)) : (State.portStore s cl pa
    bs).Canon := by
  unfold State.portStore
  with_reducible repeat' first
    | assumption | refine Cluster.Canon.shadow_ok ?_ | apply State.modCluster_canon | apply Cluster.Canon.tiles_wf | intro _
    | dsimp only | split | (apply Cluster.canon_of <;> dsimp only)
theorem State.portAtomic_canon {s : State} (h : s.Canon) (cl pa : Nat) : (State.portAtomic s cl pa).Canon := by
  unfold State.portAtomic
  with_reducible repeat' first
    | assumption | refine Cluster.Canon.shadow_ok ?_ | apply State.modCluster_canon | apply Cluster.Canon.tiles_wf | intro _
    | (apply Cluster.canon_of <;> dsimp only)
theorem State.installLine_canon {s : State} (h : s.Canon) (cl line : Nat) (bytes : BitVec 1024) : (State.installLine s cl line
    bytes).Canon := by
  unfold State.installLine
  with_reducible repeat' first
    | assumption | refine Cluster.Canon.shadow_ok ?_ | apply State.makeRoom_canon | apply State.modCluster_canon
    | apply Cluster.Canon.tiles_wf | intro _ | (apply Cluster.canon_of <;> dsimp only)
theorem State.acquireAll_canon {s : State} (h : s.Canon) (cl : Nat) : (State.acquireAll s cl).Canon := by
  unfold State.acquireAll
  with_reducible repeat' first
    | assumption | refine Cluster.Canon.shadow_ok ?_ | apply State.modCluster_canon | apply Cluster.Canon.tiles_wf | intro _
    | (apply Cluster.canon_of <;> dsimp only)
theorem State.acquirePhys_canon {s : State} (h : s.Canon) (cl pa n : Nat) : (State.acquirePhys s cl pa n).Canon := by
  unfold State.acquirePhys
  with_reducible repeat' first
    | assumption | refine Cluster.Canon.shadow_ok ?_ | apply State.modCluster_canon | apply Cluster.Canon.tiles_wf | intro _
    | dsimp only | (apply Cluster.canon_of <;> dsimp only)
theorem State.acquireRange_canon {s : State} (h : s.Canon) (cl asid va n : Nat) : (State.acquireRange s cl asid va n).Canon := by
  unfold State.acquireRange
  with_reducible repeat' first
    | assumption | apply State.acquireAll_canon | apply State.acquirePhys_canon | apply State.foldl_canon | apply canon_ite
    | intro _ | split
theorem State.acquire_canon {s : State} (h : s.Canon) (cl : Nat) (sc : Scope) : (State.acquire s cl sc).Canon := by
  unfold State.acquire
  with_reducible repeat' first | assumption | apply State.acquireAll_canon | split

/-! ### Access -/

theorem State.setGrans_canon {s : State} (h : s.Canon) (a n : Nat) (empty : Bool) : (State.setGrans s a n empty).Canon := by
  unfold State.setGrans
  with_reducible repeat' first
    | assumption | apply State.modCore_canon | apply canon_ite | apply canon_grans | apply grans_foldl | apply mapPut_wf
    | apply State.Canon.grans_wf | intro _ | (apply State.canon_mk; dsimp only)
theorem State.setPhase_canon {s : State} (h : s.Canon) (id i : Nat) (ph : Phase) : (State.setPhase s id i ph).Canon := by
  unfold State.setPhase
  with_reducible repeat' first | assumption | apply State.modFlight_canon
theorem State.gotPiece_canon {s : State} (h : s.Canon) (id i pos len x : Nat) : (State.gotPiece s id i pos len x).Canon := by
  unfold State.gotPiece
  with_reducible repeat' first | assumption | apply State.modFlight_canon
theorem State.send_canon {s : State} (h : s.Canon) (t : Nat) (pc : Word) (pieces : List Piece) (kind : FlightKind) : (State.send s
    t pc pieces kind).1.Canon := by
  unfold State.send
  with_reducible repeat' first | assumption | apply State.postLat_canon | apply State.Canon.out | (apply State.canon_mk; dsimp only)
theorem State.arrive_canon {s : State} (h : s.Canon) (f : Flight) (g : Slot → Slot) : (State.arrive s f g).Canon := by
  unfold State.arrive
  with_reducible repeat' first | assumption | apply State.onThread_canon
theorem State.deferFlight_canon {s : State} (h : s.Canon) (f : Flight) (cause : Nat) (tval : Word) : (State.deferFlight s f cause
    tval).Canon := by
  unfold State.deferFlight
  with_reducible repeat' first | assumption | apply State.deferTrap_canon | apply canon_ite | intro _
theorem State.poisonAccess_canon {s : State} (h : s.Canon) (f : Flight) (cause : Nat) (tval : Word) : (State.poisonAccess s f
    cause tval).Canon := by
  unfold State.poisonAccess
  with_reducible repeat' first
    | assumption | apply State.ack_canon | apply State.arrive_canon | apply State.deferFlight_canon | apply State.discard_canon
    | apply State.dropFlight_canon | apply State.launchError_canon | dsimp only | split
theorem State.rejectWords_canon {s : State} (h : s.Canon) (f : Flight) (lo n cause : Nat) : (State.rejectWords s f lo n
    cause).Canon := by
  unfold State.rejectWords
  with_reducible repeat' first
    | assumption | apply State.discard_canon | apply State.foldl_canon | apply State.modCore_canon | apply State.poisonAccess_canon
    | apply State.setSlot_canon | apply canon_ite | intro _ | split
theorem State.poisonFlight_canon {s : State} (h : s.Canon) (id cause : Nat) (tval : Word) : (State.poisonFlight s id cause
    tval).Canon := by
  unfold State.poisonFlight
  with_reducible repeat' first
    | assumption | apply State.dropFlight_canon | apply State.modCore_canon | apply State.poisonAccess_canon
    | apply State.rejectWords_canon | dsimp only | split
theorem State.readTarget_canon {s : State} (h : s.Canon) (lid asid a n : Nat) (sys : Bool) (gop : GranOp) (ph : Phase) :
    (State.readTarget s lid asid a n sys gop ph).1.Canon := by
  unfold State.readTarget
  with_reducible repeat' first
    | assumption | apply State.changing_canon | apply State.guardLogged_canon | apply State.setGrans_canon | intro _ | dsimp only
    | split
theorem State.chipFillWords_canon {s : State} (h : s.Canon) (f : Flight) (i : Nat) (p : Piece) (a : Nat) : (State.chipFillWords s
    f i p a).Canon := by
  unfold State.chipFillWords
  with_reducible repeat' first
    | assumption | apply State.atPartR_canon | apply State.foldl_canon | apply State.gotPiece_canon | apply State.rejectWords_canon
    | intro _
theorem State.loadTarget_canon {s : State} (h : s.Canon) (f : Flight) (i : Nat) (p : Piece) (a : Nat) (gop : GranOp) :
    (State.loadTarget s f i p a gop).Canon := by
  unfold State.loadTarget
  with_reducible repeat' first
    | assumption | apply State.atPartR_canon | apply State.chipFillWords_canon | apply State.gotPiece_canon
    | apply State.modCore_canon | apply State.poisonFlight_canon | apply State.post_canon | apply State.readTarget_canon
    | apply State.setPhase_canon | apply canon_ite | intro _ | dsimp only | split
theorem State.serveWaiting_canon {s : State} (h : s.Canon) (c id : Nat) : (State.serveWaiting s c id).Canon := by
  unfold State.serveWaiting
  with_reducible repeat' first
    | assumption | apply State.foldl_canon | apply State.loadTarget_canon | apply State.modCore_canon | apply State.postLat_canon
    | apply canon_ite | intro _ | dsimp only | split
theorem State.fillGrans_canon {s : State} (h : s.Canon) (a n : Nat) : (State.fillGrans s a n).Canon := by
  unfold State.fillGrans
  with_reducible repeat' first
    | assumption | apply State.foldl_canon | apply State.serveWaiting_canon | apply State.setGrans_canon
    | apply State.wakeGrans_canon | intro _
theorem State.answerBarriers_canon {s : State} (h : s.Canon) (cl : Nat) : (State.answerBarriers s cl).Canon := by
  unfold State.answerBarriers
  with_reducible repeat' first
    | assumption | refine Cluster.Canon.shadow_ok ?_ | apply State.acquireAll_canon | apply State.arrive_canon
    | apply State.dropFlight_canon | apply State.foldl_canon | apply State.modCluster_canon | apply canon_ite
    | apply Cluster.Canon.tiles_wf | intro _ | dsimp only | split | (apply Cluster.canon_of <;> dsimp only)
theorem State.writeBlock_canon {s : State} (h : s.Canon) (a : Nat) (data : VWord) (mask : BitVec 64) : (State.writeBlock s a data
    mask).Canon := by
  unfold State.writeBlock
  with_reducible repeat' first
    | assumption | apply State.answerBarriers_canon | apply State.foldl_canon | apply State.writeChip_canon
    | apply State.writeChipBytes_canon | apply canon_ite | intro _
theorem State.storeTarget_canon {s : State} (h : s.Canon) (thr lid asid a : Nat) (sys : Bool) (data : VWord) (mask : BitVec 64)
    (fill : Option Bool) (grans : Bool) (ph : Phase) : (State.storeTarget s thr lid asid a sys data mask fill grans ph).1.Canon :=
    by
  unfold State.storeTarget
  with_reducible repeat' first
    | assumption | apply State.changing_canon | apply State.fillGrans_canon | apply State.foldl_canon
    | apply State.guardLogged_canon | apply State.setGrans_canon | apply State.writeBlock_canon | apply canon_ite | intro _
    | dsimp only | split
theorem State.atomicTarget_canon {s : State} (h : s.Canon) (thr lid asid a n : Nat) (sys : Bool) (k : AmoKind) (src cmp : Nat) :
    (State.atomicTarget s thr lid asid a n sys k src cmp).1.Canon := by
  unfold State.atomicTarget
  with_reducible repeat' first
    | assumption | apply State.answerBarriers_canon | apply State.changing_canon | apply State.guardLogged_canon
    | apply State.writeChipBytes_canon | apply canon_ite | intro _ | dsimp only | split
theorem State.atomicDone_canon {s : State} (h : s.Canon) (f : Flight) (wd acq : Bool) (d : Fin 32) (old : Nat) (pl : Place) :
    (State.atomicDone s f wd acq d old pl).Canon := by
  unfold State.atomicDone
  with_reducible repeat' first
    | assumption | apply State.acquire_canon | apply State.arrive_canon | apply State.dropFlight_canon | apply canon_ite | intro _
theorem State.reaches_canon {s : State} (h : s.Canon) (f : Flight) (k : State → State) (hk : ∀ (a0 : State), a0.Canon → (k
    a0).Canon) : (State.reaches s f k).Canon := by
  unfold State.reaches
  with_reducible repeat' first
    | assumption | apply State.modFlight_canon | apply State.postLat_canon | apply hk | apply canon_ite | intro _ | split
theorem State.enqueue_canon {s : State} (h : s.Canon) (id i cl : Nat) : (State.enqueue s id i cl).Canon := by
  unfold State.enqueue
  with_reducible repeat' first
    | assumption | refine Cluster.Canon.shadow_ok ?_ | apply State.modCluster_canon | apply State.setPhase_canon
    | apply Cluster.Canon.tiles_wf | intro _ | (apply Cluster.canon_of <;> dsimp only)
theorem State.openMiss_canon {s : State} (h : s.Canon) (id i cl : Nat) (k : WalkKey) : (State.openMiss s id i cl k).Canon := by
  unfold State.openMiss
  with_reducible repeat' first
    | assumption | apply State.enqueue_canon | apply State.modDie_canon | apply State.postLat_canon | apply State.setPhase_canon
    | apply canon_ite | intro _
theorem State.passPort_canon {s : State} (h : s.Canon) (f : Flight) (i : Nat) (va pa : Nat) (uncached : Bool) : (State.passPort s
    f i va pa uncached).Canon := by
  unfold State.passPort
  with_reducible repeat' first
    | assumption | apply State.discard_canon | apply State.fresh_canon | apply State.modFlight_canon | apply State.portAtomic_canon
    | apply State.portStore_canon | apply State.setPhase_canon | apply canon_ite | intro _ | dsimp only | split
theorem State.park_canon {s : State} (h : s.Canon) (id i cl : Nat) (r : Nat × Nat) : (State.park s id i cl r).Canon := by
  unfold State.park
  with_reducible repeat' first
    | assumption | apply State.attach_canon | apply State.enqueue_canon | apply State.setPhase_canon | apply canon_ite | intro _
theorem State.portPiece_canon {s : State} (h : s.Canon) (f : Flight) (i : Nat) (asid va : Nat) : (State.portPiece s f i asid
    va).Canon := by
  unfold State.portPiece
  with_reducible repeat' first
    | assumption | apply State.discard_canon | apply State.enqueue_canon | apply State.lookup_canon | apply State.noteUsed_canon
    | apply State.openMiss_canon | apply State.park_canon | apply State.passPort_canon | apply State.translateNow_canon
    | apply canon_ite | (apply canon_fst; assumption) | intro _ | dsimp only | split
theorem State.portAgain_canon {s : State} (h : s.Canon) (e : Nat × Nat) : (State.portAgain s e).Canon := by
  unfold State.portAgain
  with_reducible repeat' first | assumption | apply State.portPiece_canon | apply State.postLat_canon | split
theorem State.servePort_canon {s : State} (h : s.Canon) (cl : Nat) : (State.servePort s cl).Canon := by
  unfold State.servePort
  with_reducible repeat' first
    | assumption | refine Cluster.Canon.shadow_ok ?_ | apply State.foldl_canon | apply State.modCluster_canon
    | apply State.portAgain_canon | apply canon_ite | apply Cluster.Canon.tiles_wf | intro _
    | (apply Cluster.canon_of <;> dsimp only)
theorem State.servePorts_canon {s : State} (h : s.Canon) (die : Nat) : (State.servePorts s die).Canon := by
  unfold State.servePorts
  with_reducible repeat' first | assumption | apply State.foldl_canon | apply State.servePort_canon | apply canon_ite | intro _
theorem State.loadHome_canon {s : State} (h : s.Canon) (f : Flight) (i : Nat) (p : Piece) (va pa : Nat) : (State.loadHome s f i p
    va pa).Canon := by
  unfold State.loadHome
  with_reducible repeat' first
    | assumption | apply State.discard_canon | apply State.foldl_canon | apply State.gotPiece_canon | apply State.poisonFlight_canon
    | apply State.rejectWords_canon | apply canon_ite | intro _ | dsimp only | split
theorem State.loadCached_canon {s : State} (h : s.Canon) (f : Flight) (i : Nat) (p : Piece) (pa : Nat) : (State.loadCached s f i p
    pa).Canon := by
  unfold State.loadCached
  with_reducible repeat' first
    | assumption | refine Cluster.Canon.shadow_ok ?_ | apply State.fresh_canon | apply State.gotPiece_canon
    | apply State.modCluster_canon | apply State.postLat_canon | apply State.setPhase_canon | apply Cluster.Canon.tiles_wf | intro _
    | dsimp only | split | (apply Cluster.canon_of <;> dsimp only)
theorem State.storeHome_canon {s : State} (h : s.Canon) (f : Flight) (pa : Nat) (data : VWord) (m : BitVec 64) (ids : List Nat)
    (first : Nat) : (State.storeHome s f pa data m ids first).Canon := by
  unfold State.storeHome
  with_reducible repeat' first
    | assumption | apply State.ack_canon | apply State.dropFlight_canon | apply State.poisonFlight_canon
    | apply State.portAtomic_canon | apply State.writeDry_canon | apply State.writeHome_canon | apply canon_ite | intro _
    | dsimp only | split
theorem State.atomicHome_canon {s : State} (h : s.Canon) (f : Flight) (pa : Nat) (k : AmoKind) (wd : Bool) (src cmp : Word) (d :
    Fin 32) (acq : Bool) (pl : Place) : (State.atomicHome s f pa k wd src cmp d acq pl).Canon := by
  unfold State.atomicHome
  with_reducible repeat' first
    | assumption | apply State.atomicDone_canon | apply State.poisonFlight_canon | apply State.writeHomeNat_canon | apply canon_ite
    | intro _
theorem State.homePiece_canon {s : State} (h : s.Canon) (f : Flight) (i : Nat) (p : Piece) (va pa : Nat) (uncached : Bool) :
    (State.homePiece s f i p va pa uncached).Canon := by
  unfold State.homePiece
  with_reducible repeat' first
    | assumption | apply State.atomicHome_canon | apply State.loadCached_canon | apply State.loadHome_canon
    | apply State.storeHome_canon | apply canon_ite | intro _ | split
theorem State.chipPiece_canon {s : State} (h : s.Canon) (f : Flight) (i : Nat) (p : Piece) (a : Nat) : (State.chipPiece s f i p
    a).Canon := by
  unfold State.chipPiece
  with_reducible repeat' first
    | assumption | apply State.ack_canon | apply State.atPartR_canon | apply State.atomicDone_canon | apply State.atomicTarget_canon
    | apply State.dropFlight_canon | apply State.loadTarget_canon | apply State.poisonFlight_canon | apply State.setPhase_canon
    | apply State.storeTarget_canon | apply canon_ite | intro _ | dsimp only | split
theorem State.stepPiece_canon {s : State} (h : s.Canon) (id i : Nat) : (State.stepPiece s id i).Canon := by
  unfold State.stepPiece
  with_reducible repeat' first
    | assumption | apply State.chipPiece_canon | apply State.homePiece_canon | apply State.portPiece_canon | apply canon_ite
    | intro _ | dsimp only | split
theorem State.finishLoad_canon {s : State} (h : s.Canon) (f : Flight) (d : Dest) (gop : GranOp) (v : VWord) : (State.finishLoad s
    f d gop v).Canon := by
  unfold State.finishLoad
  with_reducible repeat' first
    | assumption | apply State.acquire_canon | apply State.arrive_canon | apply State.dropFlight_canon | apply State.foldl_canon
    | apply canon_ite | intro _
theorem State.settle_canon {s : State} (h : s.Canon) (id : Nat) : (State.settle s id).Canon := by
  unfold State.settle
  with_reducible repeat' first
    | assumption | apply State.finishLoad_canon | apply State.postLat_canon | apply State.postNow_canon | apply canon_ite | intro _
    | split
theorem State.advance_canon {s : State} (h : s.Canon) (id : Nat) : (State.advance s id).Canon := by
  unfold State.advance
  with_reducible repeat' first
    | assumption | apply State.foldl_canon | apply State.settle_canon | apply State.stepPiece_canon | intro _ | split
theorem State.sendAgain_canon {s : State} (h : s.Canon) (id : Nat) : (State.sendAgain s id).Canon := by
  unfold State.sendAgain
  with_reducible repeat' first | assumption | apply State.advance_canon | apply State.modFlight_canon
theorem State.drainOne_canon {s : State} (h : s.Canon) (c : Nat) (e : SbEntry) : (State.drainOne s c e).Canon := by
  unfold State.drainOne
  with_reducible repeat' first
    | assumption | apply State.modCore_canon | apply State.postLat_canon | apply State.Canon.out
    | (apply State.canon_mk; dsimp only)
theorem State.drainFirst_canon {s : State} (h : s.Canon) (c t : Nat) (n : Nat) : (State.drainFirst s c t n).Canon := by
  unfold State.drainFirst
  with_reducible repeat' first | assumption | apply State.drainOne_canon | apply State.foldl_canon | intro _
theorem State.drainCore_canon {s : State} (h : s.Canon) (c : Nat) : (State.drainCore s c).Canon := by
  unfold State.drainCore
  with_reducible repeat' first | assumption | apply State.drainOne_canon | apply State.foldl_canon | intro _
theorem State.drainThread_canon {s : State} (h : s.Canon) (t : Nat) : (State.drainThread s t).Canon := by
  unfold State.drainThread
  with_reducible repeat' first | assumption | apply State.drainFirst_canon
theorem State.drainEntry_canon {s : State} (h : s.Canon) (c : Nat) (p : SbEntry → Bool) : (State.drainEntry s c p).Canon := by
  unfold State.drainEntry
  with_reducible repeat' first | assumption | apply State.drainFirst_canon | split
theorem State.pushStore_canon {s : State} (h : s.Canon) (c : Nat) (n : SbEntry) : (State.pushStore s c n).Canon := by
  unfold State.pushStore
  with_reducible repeat' first
    | assumption | apply State.drainEntry_canon | apply State.drainOne_canon | apply State.modCore_canon | apply State.post_canon
    | apply canon_ite | intro _ | dsimp only | split
theorem State.idleDrain_canon {s : State} (h : s.Canon) (c id : Nat) : (State.idleDrain s c id).Canon := by
  unfold State.idleDrain
  with_reducible repeat' first | assumption | apply State.drainEntry_canon | apply State.foldl_canon | intro _
theorem State.withRelease_canon {s : State} (h : s.Canon) (sc : Scope) (k : State → State) (hk : ∀ (a0 : State), a0.Canon → (k
    a0).Canon) : (State.withRelease s sc k).Canon := by
  unfold State.withRelease
  with_reducible repeat' first
    | assumption | apply State.blockCur_canon | apply State.drainCore_canon | apply State.modSlot_canon | apply State.postLat_canon
    | apply hk | apply canon_ite | intro _ | dsimp only | split
theorem State.releaseEvent_canon {s : State} (h : s.Canon) (t : Nat) : (State.releaseEvent s t).Canon := by
  unfold State.releaseEvent
  with_reducible repeat' first
    | assumption | apply State.postLat_canon | apply State.setSlot_canon | apply canon_ite | intro _ | dsimp only | split
theorem State.pushWaits_canon {s : State} (h : s.Canon) (t : Nat) : (State.pushWaits s t).1.Canon := by
  unfold State.pushWaits
  with_reducible repeat' first | assumption | apply State.drainCore_canon

/-! ### Alu -/

theorem State.rrr_canon {s : State} (h : s.Canon) (o : Rrr) (f : Word → Word → Word) : (State.rrr s o f).Canon := by
  unfold State.rrr
  with_reducible repeat' first | assumption | apply State.finish_canon | apply State.withSrcs_canon | intro _
theorem State.rr_canon {s : State} (h : s.Canon) (o : Rr) (f : Word → Word) : (State.rr s o f).Canon := by
  unfold State.rr
  with_reducible repeat' first | assumption | apply State.finish_canon | apply State.withSrcs_canon | intro _
theorem State.ri_canon {s : State} (h : s.Canon) (o : Ri) (f : Word → Word → Word) : (State.ri s o f).Canon := by
  unfold State.ri
  with_reducible repeat' first | assumption | apply State.finish_canon | apply State.withSrcs_canon | intro _
theorem State.rsh_canon {s : State} (h : s.Canon) (o : Rsh) (f : Word → Nat → Word) : (State.rsh s o f).Canon := by
  unfold State.rsh
  with_reducible repeat' first | assumption | apply State.finish_canon | apply State.withSrcs_canon | intro _
theorem execAdd_canon {s : State} (h : s.Canon) (o : Rrr) : Res.Canon (execAdd o s) := by
  unfold execAdd
  with_reducible repeat' first | assumption | apply State.rrr_canon | apply Res.canon_next
theorem execSub_canon {s : State} (h : s.Canon) (o : Rrr) : Res.Canon (execSub o s) := by
  unfold execSub
  with_reducible repeat' first | assumption | apply State.rrr_canon | apply Res.canon_next
theorem execAnd_canon {s : State} (h : s.Canon) (o : Rrr) : Res.Canon (execAnd o s) := by
  unfold execAnd
  with_reducible repeat' first | assumption | apply State.rrr_canon | apply Res.canon_next
theorem execOr_canon {s : State} (h : s.Canon) (o : Rrr) : Res.Canon (execOr o s) := by
  unfold execOr
  with_reducible repeat' first | assumption | apply State.rrr_canon | apply Res.canon_next
theorem execXor_canon {s : State} (h : s.Canon) (o : Rrr) : Res.Canon (execXor o s) := by
  unfold execXor
  with_reducible repeat' first | assumption | apply State.rrr_canon | apply Res.canon_next
theorem execAndn_canon {s : State} (h : s.Canon) (o : Rrr) : Res.Canon (execAndn o s) := by
  unfold execAndn
  with_reducible repeat' first | assumption | apply State.rrr_canon | apply Res.canon_next
theorem execOrn_canon {s : State} (h : s.Canon) (o : Rrr) : Res.Canon (execOrn o s) := by
  unfold execOrn
  with_reducible repeat' first | assumption | apply State.rrr_canon | apply Res.canon_next
theorem execSll_canon {s : State} (h : s.Canon) (o : Rrr) : Res.Canon (execSll o s) := by
  unfold execSll
  with_reducible repeat' first | assumption | apply State.rrr_canon | apply Res.canon_next
theorem execSrl_canon {s : State} (h : s.Canon) (o : Rrr) : Res.Canon (execSrl o s) := by
  unfold execSrl
  with_reducible repeat' first | assumption | apply State.rrr_canon | apply Res.canon_next
theorem execSra_canon {s : State} (h : s.Canon) (o : Rrr) : Res.Canon (execSra o s) := by
  unfold execSra
  with_reducible repeat' first | assumption | apply State.rrr_canon | apply Res.canon_next
theorem execRol_canon {s : State} (h : s.Canon) (o : Rrr) : Res.Canon (execRol o s) := by
  unfold execRol
  with_reducible repeat' first | assumption | apply State.rrr_canon | apply Res.canon_next
theorem execRor_canon {s : State} (h : s.Canon) (o : Rrr) : Res.Canon (execRor o s) := by
  unfold execRor
  with_reducible repeat' first | assumption | apply State.rrr_canon | apply Res.canon_next
theorem execSlt_canon {s : State} (h : s.Canon) (o : Rrr) : Res.Canon (execSlt o s) := by
  unfold execSlt
  with_reducible repeat' first | assumption | apply State.rrr_canon | apply Res.canon_next
theorem execSltu_canon {s : State} (h : s.Canon) (o : Rrr) : Res.Canon (execSltu o s) := by
  unfold execSltu
  with_reducible repeat' first | assumption | apply State.rrr_canon | apply Res.canon_next
theorem execMin_canon {s : State} (h : s.Canon) (o : Rrr) : Res.Canon (execMin o s) := by
  unfold execMin
  with_reducible repeat' first | assumption | apply State.rrr_canon | apply Res.canon_next
theorem execMax_canon {s : State} (h : s.Canon) (o : Rrr) : Res.Canon (execMax o s) := by
  unfold execMax
  with_reducible repeat' first | assumption | apply State.rrr_canon | apply Res.canon_next
theorem execMinu_canon {s : State} (h : s.Canon) (o : Rrr) : Res.Canon (execMinu o s) := by
  unfold execMinu
  with_reducible repeat' first | assumption | apply State.rrr_canon | apply Res.canon_next
theorem execMaxu_canon {s : State} (h : s.Canon) (o : Rrr) : Res.Canon (execMaxu o s) := by
  unfold execMaxu
  with_reducible repeat' first | assumption | apply State.rrr_canon | apply Res.canon_next
theorem execMul_canon {s : State} (h : s.Canon) (o : Rrr) : Res.Canon (execMul o s) := by
  unfold execMul
  with_reducible repeat' first | assumption | apply State.rrr_canon | apply Res.canon_next
theorem execMulh_canon {s : State} (h : s.Canon) (o : Rrr) : Res.Canon (execMulh o s) := by
  unfold execMulh
  with_reducible repeat' first | assumption | apply State.rrr_canon | apply Res.canon_next
theorem execMulhu_canon {s : State} (h : s.Canon) (o : Rrr) : Res.Canon (execMulhu o s) := by
  unfold execMulhu
  with_reducible repeat' first | assumption | apply State.rrr_canon | apply Res.canon_next
theorem execMulhmx_canon {s : State} (h : s.Canon) (o : Rrr) : Res.Canon (execMulhmx o s) := by
  unfold execMulhmx
  with_reducible repeat' first | assumption | apply State.rrr_canon | apply Res.canon_next
theorem execDiv_canon {s : State} (h : s.Canon) (o : Rrr) : Res.Canon (execDiv o s) := by
  unfold execDiv
  with_reducible repeat' first | assumption | apply State.rrr_canon | apply Res.canon_next
theorem execDivu_canon {s : State} (h : s.Canon) (o : Rrr) : Res.Canon (execDivu o s) := by
  unfold execDivu
  with_reducible repeat' first | assumption | apply State.rrr_canon | apply Res.canon_next
theorem execRem_canon {s : State} (h : s.Canon) (o : Rrr) : Res.Canon (execRem o s) := by
  unfold execRem
  with_reducible repeat' first | assumption | apply State.rrr_canon | apply Res.canon_next
theorem execRemu_canon {s : State} (h : s.Canon) (o : Rrr) : Res.Canon (execRemu o s) := by
  unfold execRemu
  with_reducible repeat' first | assumption | apply State.rrr_canon | apply Res.canon_next
theorem execAddw_canon {s : State} (h : s.Canon) (o : Rrr) : Res.Canon (execAddw o s) := by
  unfold execAddw
  with_reducible repeat' first | assumption | apply State.rrr_canon | apply Res.canon_next
theorem execSubw_canon {s : State} (h : s.Canon) (o : Rrr) : Res.Canon (execSubw o s) := by
  unfold execSubw
  with_reducible repeat' first | assumption | apply State.rrr_canon | apply Res.canon_next
theorem execClz_canon {s : State} (h : s.Canon) (o : Rr) : Res.Canon (execClz o s) := by
  unfold execClz
  with_reducible repeat' first | assumption | apply State.rr_canon | apply Res.canon_next
theorem execCtz_canon {s : State} (h : s.Canon) (o : Rr) : Res.Canon (execCtz o s) := by
  unfold execCtz
  with_reducible repeat' first | assumption | apply State.rr_canon | apply Res.canon_next
theorem execPopc_canon {s : State} (h : s.Canon) (o : Rr) : Res.Canon (execPopc o s) := by
  unfold execPopc
  with_reducible repeat' first | assumption | apply State.rr_canon | apply Res.canon_next
theorem execBswap_canon {s : State} (h : s.Canon) (o : Rr) : Res.Canon (execBswap o s) := by
  unfold execBswap
  with_reducible repeat' first | assumption | apply State.rr_canon | apply Res.canon_next
theorem execSextb_canon {s : State} (h : s.Canon) (o : Rr) : Res.Canon (execSextb o s) := by
  unfold execSextb
  with_reducible repeat' first | assumption | apply State.rr_canon | apply Res.canon_next
theorem execSexth_canon {s : State} (h : s.Canon) (o : Rr) : Res.Canon (execSexth o s) := by
  unfold execSexth
  with_reducible repeat' first | assumption | apply State.rr_canon | apply Res.canon_next
theorem execSextw_canon {s : State} (h : s.Canon) (o : Rr) : Res.Canon (execSextw o s) := by
  unfold execSextw
  with_reducible repeat' first | assumption | apply State.rr_canon | apply Res.canon_next
theorem execZextw_canon {s : State} (h : s.Canon) (o : Rr) : Res.Canon (execZextw o s) := by
  unfold execZextw
  with_reducible repeat' first | assumption | apply State.rr_canon | apply Res.canon_next
theorem execAddi_canon {s : State} (h : s.Canon) (o : Ri) : Res.Canon (execAddi o s) := by
  unfold execAddi
  with_reducible repeat' first | assumption | apply State.ri_canon | apply Res.canon_next
theorem execAndi_canon {s : State} (h : s.Canon) (o : Ri) : Res.Canon (execAndi o s) := by
  unfold execAndi
  with_reducible repeat' first | assumption | apply State.ri_canon | apply Res.canon_next
theorem execOri_canon {s : State} (h : s.Canon) (o : Ri) : Res.Canon (execOri o s) := by
  unfold execOri
  with_reducible repeat' first | assumption | apply State.ri_canon | apply Res.canon_next
theorem execXori_canon {s : State} (h : s.Canon) (o : Ri) : Res.Canon (execXori o s) := by
  unfold execXori
  with_reducible repeat' first | assumption | apply State.ri_canon | apply Res.canon_next
theorem execSlti_canon {s : State} (h : s.Canon) (o : Ri) : Res.Canon (execSlti o s) := by
  unfold execSlti
  with_reducible repeat' first | assumption | apply State.ri_canon | apply Res.canon_next
theorem execSltiu_canon {s : State} (h : s.Canon) (o : Ri) : Res.Canon (execSltiu o s) := by
  unfold execSltiu
  with_reducible repeat' first | assumption | apply State.ri_canon | apply Res.canon_next
theorem execAddiw_canon {s : State} (h : s.Canon) (o : Ri) : Res.Canon (execAddiw o s) := by
  unfold execAddiw
  with_reducible repeat' first | assumption | apply State.ri_canon | apply Res.canon_next
theorem execSlli_canon {s : State} (h : s.Canon) (o : Rsh) : Res.Canon (execSlli o s) := by
  unfold execSlli
  with_reducible repeat' first | assumption | apply State.rsh_canon | apply Res.canon_next
theorem execSrli_canon {s : State} (h : s.Canon) (o : Rsh) : Res.Canon (execSrli o s) := by
  unfold execSrli
  with_reducible repeat' first | assumption | apply State.rsh_canon | apply Res.canon_next
theorem execSrai_canon {s : State} (h : s.Canon) (o : Rsh) : Res.Canon (execSrai o s) := by
  unfold execSrai
  with_reducible repeat' first | assumption | apply State.rsh_canon | apply Res.canon_next
theorem execRori_canon {s : State} (h : s.Canon) (o : Rsh) : Res.Canon (execRori o s) := by
  unfold execRori
  with_reducible repeat' first | assumption | apply State.rsh_canon | apply Res.canon_next
theorem execLih_canon {s : State} (h : s.Canon) (o : Ud) : Res.Canon (execLih o s) := by
  unfold execLih
  with_reducible repeat' first | assumption | apply State.finish_canon | apply Res.canon_next
theorem execPcblk_canon {s : State} (h : s.Canon) (o : Ud) : Res.Canon (execPcblk o s) := by
  unfold execPcblk
  with_reducible repeat' first | assumption | apply State.finish_canon | apply Res.canon_next

/-! ### Fetch -/

theorem State.fillLine_canon {s : State} (h : s.Canon) (t key : Nat) (pl : Place) : (State.fillLine s t key pl).1.Canon := by
  unfold State.fillLine
  with_reducible repeat' first | assumption | apply State.modCore_canon | apply State.send_canon | dsimp only | split
theorem State.installCode_canon {s : State} (h : s.Canon) (c key : Nat) (line : VWord) : (State.installCode s c key line).Canon :=
    by
  unfold State.installCode
  with_reducible repeat' first | assumption | apply State.makeRoom_canon | apply State.modCore_canon
theorem State.fillArrives_canon {s : State} (h : s.Canon) (c key : Nat) : (State.fillArrives s c key).Canon := by
  unfold State.fillArrives
  with_reducible repeat' first
    | assumption | apply State.dropFlight_canon | apply State.foldl_canon | apply State.gotPiece_canon
    | apply State.installCode_canon | apply State.modCore_canon | apply State.setSlot_canon | apply State.settle_canon
    | apply canon_ite | intro _ | dsimp only | split
theorem State.illegal_canon {s : State} (h : s.Canon) (w : Nat) : (State.illegal s w).Canon := by
  unfold State.illegal
  with_reducible repeat' first | assumption | apply State.trapExact_canon
theorem State.readLiteral_canon {s : State} (h : s.Canon) (d : Fin 32) (imm : BitVec 20) : (State.readLiteral s d imm).Canon := by
  unfold State.readLiteral
  extract_lets t x seg l a asid word r
  have hw : ∀ r k, r.1.Canon → (word r k).1.Canon := by
    intro r k hr
    simp only [word]
    split
    · exact hr
    · exact State.fillLine_canon hr _ _ _
  have hr : r.1.Canon := hw _ _ (hw _ _ h)
  clear_value r
  repeat' first
    | with_reducible assumption
    | with_reducible apply State.blockCur_canon
    | with_reducible apply State.trapExact_canon
    | with_reducible apply State.finish_canon
    | with_reducible apply State.send_canon
    | split

/-! ### Memory -/

theorem State.drainHits_canon {s : State} (h : s.Canon) (c : Nat) (hits : List SbEntry) : (State.drainHits s c hits).Canon := by
  unfold State.drainHits
  with_reducible repeat' first | assumption | apply State.drainEntry_canon | apply State.foldl_canon | intro _
theorem State.forward_canon {s : State} (h : s.Canon) (t : Nat) (gop : GranOp) (v : VWord) (p : Piece) : (State.forward s t gop v
    p).1.Canon := by
  unfold State.forward
  with_reducible repeat' first | assumption | apply State.drainHits_canon | dsimp only | split
theorem State.inOrder_canon {s : State} (h : s.Canon) (ps : List Piece) (read write : Bool) (k : State → State) (hk : ∀ (a0 :
    State), a0.Canon → (k a0).Canon) : (State.inOrder s ps read write k).Canon := by
  unfold State.inOrder
  with_reducible repeat' first
    | assumption | apply State.blockCur_canon | apply State.drainHits_canon | apply State.drainThread_canon
    | apply State.foldl_canon | apply State.postLat_canon | apply hk | apply canon_ite | intro _
theorem State.loadAway_canon {s : State} (h : s.Canon) (ps : List Piece) (d : Dest) (gop : GranOp) (f : Slot → Slot) :
    (State.loadAway s ps d gop f).Canon := by
  unfold State.loadAway
  with_reducible repeat' first
    | assumption | apply State.finish_canon | apply State.foldl_canon1 | apply State.forward_canon | apply State.send_canon
    | intro _
theorem State.loadOwn_canon {s : State} (h : s.Canon) (ps : List Piece) (d : Dest) (gop : GranOp) : (State.loadOwn s ps d
    gop).Canon := by
  unfold State.loadOwn
  with_reducible repeat' first
    | assumption | apply State.blockCur_canon | apply State.deferTrap_canon | apply State.discard_canon | apply State.finish_canon
    | apply State.foldl_canon1 | apply State.readTarget_canon | apply State.stillRuns_canon | apply canon_ite | intro _ | dsimp only
    | split
theorem State.memLoad_canon {s : State} (h : s.Canon) (r : Req) (d : Dest) (gop : GranOp) (f : Slot → Slot) : (State.memLoad s r d
    gop f).Canon := by
  unfold State.memLoad
  with_reducible repeat' first
    | assumption | apply State.inOrder_canon | apply State.loadAway_canon | apply State.loadOwn_canon | apply State.trapExact_canon
    | apply canon_ite | intro _ | split
theorem State.storeOwn_canon {s : State} (h : s.Canon) (p : Piece) (data : VWord) (fill : Option Bool) (grans : Bool) :
    (State.storeOwn s p data fill grans).Canon := by
  unfold State.storeOwn
  with_reducible repeat' first
    | assumption | apply State.deferTrap_canon | apply State.discard_canon | apply State.storeTarget_canon | dsimp only | split
theorem State.memStore_canon {s : State} (h : s.Canon) (r : Req) (data : VWord) (fill : Option Bool) (grans rel : Bool) :
    (State.memStore s r data fill grans rel).Canon := by
  unfold State.memStore
  with_reducible repeat' first
    | assumption | apply State.blockCur_canon | apply State.finish_canon | apply State.foldl_canon | apply State.inOrder_canon
    | apply State.pushStore_canon | apply State.stillRuns_canon | apply State.storeOwn_canon | apply State.trapExact_canon
    | apply State.withRelease_canon | apply canon_ite | apply State.Canon.out | intro _ | dsimp only
    | (apply State.canon_mk; dsimp only) | split
theorem State.loadM_canon {s : State} (h : s.Canon) (o : MLd) (size align need : Nat) (scratch : Bool) (d : Dest) (gop : GranOp)
    (f : Slot → Slot) : (State.loadM s o size align need scratch d gop f).Canon := by
  unfold State.loadM
  with_reducible repeat' first
    | assumption | apply State.memLoad_canon | apply State.withSeg_canon | apply State.withSrcs_canon | intro _
theorem State.storeM_canon {s : State} (h : s.Canon) (o : MSt) (size : Nat) (scratch : Bool) (fill : Option Bool) : (State.storeM
    s o size scratch fill).Canon := by
  unfold State.storeM
  with_reducible repeat' first
    | assumption | apply State.memStore_canon | apply State.withSeg_canon | apply State.withSrcs_canon | intro _
theorem State.storeV_canon {s : State} (h : s.Canon) (o : MSt) (scratch : Bool) (fill : Option Bool) : (State.storeV s o scratch
    fill).Canon := by
  unfold State.storeV
  with_reducible repeat' first
    | assumption | apply State.memStore_canon | apply State.withSeg_canon | apply State.withSrcs_canon | intro _
theorem State.setGranule_canon {s : State} (h : s.Canon) (o : MemOp) (full : Bool) : (State.setGranule s o full).Canon := by
  unfold State.setGranule
  with_reducible repeat' first
    | assumption | apply State.memStore_canon | apply State.withSeg_canon | apply State.withSrcs_canon | intro _
theorem execLd_canon {s : State} (h : s.Canon) (size : LdSize) (o : MLd) : Res.Canon (execLd size o s) := by
  unfold execLd
  with_reducible repeat' first | assumption | apply State.loadM_canon | apply Res.canon_next
theorem execSt_canon {s : State} (h : s.Canon) (size : Size) (o : MSt) : Res.Canon (execSt size o s) := by
  unfold execSt
  with_reducible repeat' first | assumption | apply State.storeM_canon | apply Res.canon_next
theorem execLdx_canon {s : State} (h : s.Canon) (u : Bool) (o : Xop) : Res.Canon (execLdx u o s) := by
  unfold execLdx
  with_reducible repeat' first
    | assumption | apply State.memLoad_canon | apply State.withSeg_canon | apply State.withSrcs_canon | apply Res.canon_next
    | intro _
theorem execStx_canon {s : State} (h : s.Canon) (o : Xop) : Res.Canon (execStx o s) := by
  unfold execStx
  with_reducible repeat' first
    | assumption | apply State.memStore_canon | apply State.withSeg_canon | apply State.withSrcs_canon | apply Res.canon_next
    | intro _
theorem execLdf_canon {s : State} (h : s.Canon) (o : MLd) : Res.Canon (execLdf o s) := by
  unfold execLdf
  with_reducible repeat' first | assumption | apply State.loadM_canon | apply Res.canon_next
theorem execLde_canon {s : State} (h : s.Canon) (o : MLd) : Res.Canon (execLde o s) := by
  unfold execLde
  with_reducible repeat' first | assumption | apply State.loadM_canon | apply Res.canon_next
theorem execStf_canon {s : State} (h : s.Canon) (o : MSt) : Res.Canon (execStf o s) := by
  unfold execStf
  with_reducible repeat' first | assumption | apply State.storeM_canon | apply Res.canon_next
theorem execSete_canon {s : State} (h : s.Canon) (o : MemOp) : Res.Canon (execSete o s) := by
  unfold execSete
  with_reducible repeat' first | assumption | apply State.setGranule_canon | apply Res.canon_next
theorem execSetf_canon {s : State} (h : s.Canon) (o : MemOp) : Res.Canon (execSetf o s) := by
  unfold execSetf
  with_reducible repeat' first | assumption | apply State.setGranule_canon | apply Res.canon_next
theorem execTstf_canon {s : State} (h : s.Canon) (o : MLd) : Res.Canon (execTstf o s) := by
  unfold execTstf
  with_reducible repeat' first | assumption | apply State.loadM_canon | apply Res.canon_next
theorem execVld_canon {s : State} (h : s.Canon) (o : MLd) : Res.Canon (execVld o s) := by
  unfold execVld
  with_reducible repeat' first | assumption | apply State.loadM_canon | apply Res.canon_next
theorem execVst_canon {s : State} (h : s.Canon) (o : MSt) : Res.Canon (execVst o s) := by
  unfold execVst
  with_reducible repeat' first | assumption | apply State.storeV_canon | apply Res.canon_next
theorem execVldf_canon {s : State} (h : s.Canon) (o : MLd) : Res.Canon (execVldf o s) := by
  unfold execVldf
  with_reducible repeat' first | assumption | apply State.loadM_canon | apply Res.canon_next
theorem execVlde_canon {s : State} (h : s.Canon) (o : MLd) : Res.Canon (execVlde o s) := by
  unfold execVlde
  with_reducible repeat' first | assumption | apply State.loadM_canon | apply Res.canon_next
theorem execVstf_canon {s : State} (h : s.Canon) (o : MSt) : Res.Canon (execVstf o s) := by
  unfold execVstf
  with_reducible repeat' first | assumption | apply State.storeV_canon | apply Res.canon_next
theorem execVldb_canon {s : State} (h : s.Canon) (o : MLd) : Res.Canon (execVldb o s) := by
  unfold execVldb
  with_reducible repeat' first | assumption | apply State.loadM_canon | apply Res.canon_next
theorem execVldi_canon {s : State} (h : s.Canon) (o : Vix) : Res.Canon (execVldi o s) := by
  unfold execVldi
  with_reducible repeat' first
    | assumption | apply State.inOrder_canon | apply State.loadAway_canon | apply State.loadOwn_canon | apply State.trapExact_canon
    | apply State.withSeg_canon | apply State.withSrcs_canon | apply canon_ite | apply Res.canon_next | intro _ | dsimp only | split
theorem execVsti_canon {s : State} (h : s.Canon) (o : Vix) : Res.Canon (execVsti o s) := by
  unfold execVsti
  with_reducible repeat' first
    | assumption | apply State.blockCur_canon | apply State.finish_canon | apply State.foldl_canon | apply State.inOrder_canon
    | apply State.modSlot_canon | apply State.pushStore_canon | apply State.stillRuns_canon | apply State.storeOwn_canon
    | apply State.trapExact_canon | apply State.withSeg_canon | apply State.withSrcs_canon | apply canon_ite | apply State.Canon.out
    | apply Res.canon_next | intro _ | dsimp only | (apply State.canon_mk; dsimp only) | split

/-! ### Atomics -/

theorem State.amo_canon {s : State} (h : s.Canon) (o : Amo) (k : AmoKind) : (State.amo s o k).Canon := by
  unfold State.amo
  with_reducible repeat' first
    | assumption | apply State.atomicTarget_canon | apply State.blockCur_canon | apply State.deferTrap_canon
    | apply State.discard_canon | apply State.finish_canon | apply State.forward_canon | apply State.inOrder_canon
    | apply State.send_canon | apply State.stillRuns_canon | apply State.trapExact_canon | apply State.withRelease_canon
    | apply State.withSeg_canon | apply State.withSrcs_canon | apply canon_ite | intro _ | dsimp only | split
theorem execAmoadd_canon {s : State} (h : s.Canon) (o : Amo) : Res.Canon (execAmoadd o s) := by
  unfold execAmoadd
  with_reducible repeat' first | assumption | apply State.amo_canon | apply Res.canon_next
theorem execAmoand_canon {s : State} (h : s.Canon) (o : Amo) : Res.Canon (execAmoand o s) := by
  unfold execAmoand
  with_reducible repeat' first | assumption | apply State.amo_canon | apply Res.canon_next
theorem execAmoor_canon {s : State} (h : s.Canon) (o : Amo) : Res.Canon (execAmoor o s) := by
  unfold execAmoor
  with_reducible repeat' first | assumption | apply State.amo_canon | apply Res.canon_next
theorem execAmoxor_canon {s : State} (h : s.Canon) (o : Amo) : Res.Canon (execAmoxor o s) := by
  unfold execAmoxor
  with_reducible repeat' first | assumption | apply State.amo_canon | apply Res.canon_next
theorem execAmomin_canon {s : State} (h : s.Canon) (o : Amo) : Res.Canon (execAmomin o s) := by
  unfold execAmomin
  with_reducible repeat' first | assumption | apply State.amo_canon | apply Res.canon_next
theorem execAmomax_canon {s : State} (h : s.Canon) (o : Amo) : Res.Canon (execAmomax o s) := by
  unfold execAmomax
  with_reducible repeat' first | assumption | apply State.amo_canon | apply Res.canon_next
theorem execAmominu_canon {s : State} (h : s.Canon) (o : Amo) : Res.Canon (execAmominu o s) := by
  unfold execAmominu
  with_reducible repeat' first | assumption | apply State.amo_canon | apply Res.canon_next
theorem execAmomaxu_canon {s : State} (h : s.Canon) (o : Amo) : Res.Canon (execAmomaxu o s) := by
  unfold execAmomaxu
  with_reducible repeat' first | assumption | apply State.amo_canon | apply Res.canon_next
theorem execAmoswp_canon {s : State} (h : s.Canon) (o : Amo) : Res.Canon (execAmoswp o s) := by
  unfold execAmoswp
  with_reducible repeat' first | assumption | apply State.amo_canon | apply Res.canon_next
theorem execAmocas_canon {s : State} (h : s.Canon) (o : Amo) : Res.Canon (execAmocas o s) := by
  unfold execAmocas
  with_reducible repeat' first | assumption | apply State.amo_canon | apply Res.canon_next
theorem execFence_canon {s : State} (h : s.Canon) (kind : FenceKind) (scope : Scope) : Res.Canon (execFence kind scope s) := by
  unfold execFence
  with_reducible repeat' first
    | assumption | apply State.acquire_canon | apply State.finish_canon | apply State.withRelease_canon | apply Res.canon_next
    | intro _ | split
theorem execFencer_canon {s : State} (h : s.Canon) (_scope : Scope) (o : Rab) : Res.Canon (execFencer _scope o s) := by
  unfold execFencer
  with_reducible repeat' first
    | assumption | apply State.acquireRange_canon | apply State.finish_canon | apply State.trapExact_canon
    | apply State.withSeg_canon | apply State.withSrcs_canon | apply canon_ite | apply Res.canon_next | intro _
theorem execIsync_canon {s : State} (h : s.Canon) : Res.Canon (execIsync s) := by
  unfold execIsync
  with_reducible repeat' first | assumption | apply State.finish_canon | apply State.modCore_canon | apply Res.canon_next
theorem execDrain_canon {s : State} (h : s.Canon) : Res.Canon (execDrain s) := by
  unfold execDrain
  with_reducible repeat' first
    | assumption | apply State.blockCur_canon | apply State.drainThread_canon | apply State.finish_canon | apply canon_ite
    | apply Res.canon_next | intro _
theorem execSgset_canon {s : State} (h : s.Canon) (o : Sgw) : Res.Canon (execSgset o s) := by
  unfold execSgset
  with_reducible repeat' first
    | assumption | apply State.finish_canon | apply State.privileged_canon | apply State.trapExact_canon | apply State.withSeg_canon
    | apply State.withSrcs_canon | apply canon_ite | apply Res.canon_next | intro _
theorem execSgnarrow_canon {s : State} (h : s.Canon) (o : Sgw) : Res.Canon (execSgnarrow o s) := by
  unfold execSgnarrow
  with_reducible repeat' first
    | assumption | apply State.finish_canon | apply State.trapExact_canon | apply State.withSeg_canon | apply State.withSrcs_canon
    | apply Res.canon_next | intro _ | split
theorem execSgrd_canon {s : State} (h : s.Canon) (d : Fin 32) (sg : Fin 8) (w : Bool) : Res.Canon (execSgrd d sg w s) := by
  unfold execSgrd
  with_reducible repeat' first | assumption | apply State.finish_canon | apply State.withSeg_canon | apply Res.canon_next | intro _
theorem execSgcpy_canon {s : State} (h : s.Canon) (sd sg : Fin 8) : Res.Canon (execSgcpy sd sg s) := by
  unfold execSgcpy
  with_reducible repeat' first | assumption | apply State.finish_canon | apply State.withSeg_canon | apply Res.canon_next | intro _

/-! ### Agent -/

theorem State.unitTranslate_canon {s : State} (h : s.Canon) (u : Actor) (va : Nat) (a : Acc) (eng : Bool) : (State.unitTranslate s
    u va a eng).1.Canon := by
  unfold State.unitTranslate
  with_reducible repeat' first
    | assumption | apply State.attach_canon | apply State.discard_canon | apply State.lookup_canon | apply State.noteUsed_canon
    | apply State.recordFault_canon | apply State.translateNow_canon | apply State.walkInstall_canon | (apply canon_fst; assumption)
    | dsimp only | split
theorem State.unitRead_canon {s : State} (h : s.Canon) (u : Actor) (eng : Bool) (pl : Place) (n : Nat) : (State.unitRead s u eng
    pl n).1.Canon := by
  unfold State.unitRead
  with_reducible repeat' first
    | assumption | apply State.atPartR_canon | apply State.discard_canon | apply State.guardLogged_canon
    | apply State.unitTranslate_canon | (apply canon_fst; assumption) | intro _ | dsimp only | split
theorem State.unitWrite_canon {s : State} (h : s.Canon) (u : Actor) (eng port : Bool) (pl : Place) (n v : Nat) (bad : Bool) :
    (State.unitWrite s u eng port pl n v bad).1.Canon := by
  unfold State.unitWrite
  with_reducible repeat' first
    | assumption | apply State.atPartR_canon | apply State.beforeChange_canon | apply State.discard_canon
    | apply State.guardLogged_canon | apply State.portStore_canon | apply State.setPoison_canon | apply State.unitTranslate_canon
    | apply State.writeBlock_canon | apply State.writeDry_canon | apply State.writeHome_canon | apply canon_ite
    | (apply canon_fst; assumption) | intro _ | dsimp only | split
theorem State.unitReadAll_canon {s : State} (h : s.Canon) (u : Actor) (eng : Bool) (pl : Place) (x0 : Nat) (x1 : Nat) :
    (State.unitReadAll s u eng pl x0 x1).1.Canon := by
  induction x0 generalizing s x1 with
  | zero =>
    unfold State.unitReadAll
    with_reducible repeat' first | assumption
  | succ n ih =>
    unfold State.unitReadAll
    with_reducible repeat' first | apply ih | assumption | apply State.unitRead_canon | (apply canon_fst; assumption) | split
theorem State.unitWriteAll_canon {s : State} (h : s.Canon) (u : Actor) (eng port : Bool) (pl : Place) (x0 : List Nat) (x1 : Nat) :
    (State.unitWriteAll s u eng port pl x0 x1).1.Canon := by
  induction x0 generalizing s x1 with
  | nil =>
    unfold State.unitWriteAll
    with_reducible repeat' first | assumption
  | cons a l ih =>
    unfold State.unitWriteAll
    with_reducible repeat' first | apply ih | assumption | apply State.unitWrite_canon | (apply canon_fst; assumption) | split
theorem State.landWrite_canon {s : State} (h : s.Canon) (w : WinWrite) : (State.landWrite s w).Canon := by
  unfold State.landWrite
  with_reducible repeat' first
    | assumption | apply State.guardLogged_canon | apply State.writeBlock_canon | apply canon_ite | intro _

end Sys2Proof.Machine
end

