-- ==== Sys2Proof/Laws/CanonicalTasks.lean ====
section
/-! SUPPORT. What keeps the maps of a state canonical: messages, deques, tasks and join counters, tiles and rings, the copy engines
and the matrix unit. -/

namespace Sys2Proof.Machine

/-! ### Messages -/

theorem State.takeAcquire_canon {s : State} (h : s.Canon) (t : Nat) (m : MailEntry) : (State.takeAcquire s t m).Canon := by
  unfold State.takeAcquire
  with_reducible repeat' first | assumption | apply State.acquire_canon | apply State.acquireRange_canon | apply canon_ite | intro _
theorem State.completeRecv_canon {s : State} (h : s.Canon) (t : Nat) : (State.completeRecv s t).Canon := by
  unfold State.completeRecv
  with_reducible repeat' first
    | assumption | apply State.discard_canon | apply State.holdTrap_canon | apply State.modSlot_canon | apply State.setSlot_canon
    | apply State.takeAcquire_canon | apply canon_ite | intro _ | dsimp only | split
theorem State.acceptMail_canon {s : State} (h : s.Canon) (t : Nat) (m : MailEntry) : (State.acceptMail s t m).Canon := by
  unfold State.acceptMail
  with_reducible repeat' first | assumption | apply State.completeRecv_canon | apply State.modSlot_canon
theorem State.deliverMail_canon {s : State} (h : s.Canon) (t : Nat) (m : MailEntry) : (State.deliverMail s t m).1.Canon := by
  unfold State.deliverMail
  with_reducible repeat' first
    | assumption | refine canon_imagesPut ?_ ?_ | apply State.acceptMail_canon | apply State.modCluster_canon
    | apply State.canon_cluster | apply canon_images | apply Cluster.Canon.tiles_wf | apply Saved.Canon.bytes_wf
    | apply Saved.Canon.grans_wf | apply Saved.Canon.poison_wf | apply Saved.Canon.slots_wf | apply Saved.Canon.cores_wf
    | apply Saved.Canon.tiles_wf | intro _ | dsimp only | (apply State.canon_mk; dsimp only) | split
    | (apply Cluster.canon_of <;> dsimp only) | (apply Saved.canon_of <;> dsimp only) | (apply Cluster.canon_shadow; assumption)
    | (apply image_canon; assumption) | (apply Saved.canon_some; assumption)
theorem State.messageArrives_canon {s : State} (h : s.Canon) (id : Nat) : (State.messageArrives s id).Canon := by
  unfold State.messageArrives
  with_reducible repeat' first
    | assumption | apply State.countRecvd_canon | apply State.deliverMail_canon | apply State.dropFlight_canon
    | apply State.onThread_canon | apply State.post_canon | apply State.reaches_canon | apply canon_ite | intro _ | dsimp only
    | split
theorem State.sendMsg_canon {s : State} (h : s.Canon) (t : Nat) (o : Rab) (target a : Nat) : (State.sendMsg s t o target a).Canon
    := by
  unfold State.sendMsg
  with_reducible repeat' first
    | assumption | apply State.countSent_canon | apply State.finish_canon | apply State.send_canon | apply State.withRelease_canon
    | intro _
theorem State.msend_canon {s : State} (h : s.Canon) (o : Rab) (tagged : Bool) : (State.msend s o tagged).Canon := by
  unfold State.msend
  with_reducible repeat' first
    | assumption | apply State.discard_canon | apply State.sendMsg_canon | apply State.trapExact_canon | apply State.withSrcs_canon
    | apply canon_ite | intro _ | split
theorem execMsend_canon {s : State} (h : s.Canon) (o : Rab) : Res.Canon (execMsend o s) := by
  unfold execMsend
  with_reducible repeat' first | assumption | apply State.msend_canon | apply Res.canon_next
theorem execMsendt_canon {s : State} (h : s.Canon) (o : Rab) : Res.Canon (execMsendt o s) := by
  unfold execMsendt
  with_reducible repeat' first | assumption | apply State.msend_canon | apply Res.canon_next
theorem State.mrecv_canon {s : State} (h : s.Canon) (d : Fin 32) (tag : Option Nat) : (State.mrecv s d tag).Canon := by
  unfold State.mrecv
  with_reducible repeat' first
    | assumption | apply State.blockCur_canon | apply State.finish_canon | apply State.takeAcquire_canon
    | apply State.trapExact_canon | apply canon_ite | intro _ | dsimp only | split
theorem execMrecv_canon {s : State} (h : s.Canon) (d : Fin 32) : Res.Canon (execMrecv d s) := by
  unfold execMrecv
  with_reducible repeat' first
    | assumption | apply State.illegal_canon | apply State.mrecv_canon | apply canon_ite | apply Res.canon_next | intro _
theorem execMrecvt_canon {s : State} (h : s.Canon) (o : Rr) : Res.Canon (execMrecvt o s) := by
  unfold execMrecvt
  with_reducible repeat' first
    | assumption | apply State.illegal_canon | apply State.mrecv_canon | apply State.withSrcs_canon | apply canon_ite
    | apply Res.canon_next | intro _
theorem execWaitm_canon {s : State} (h : s.Canon) (o : Rr) : Res.Canon (execWaitm o s) := by
  unfold execWaitm
  with_reducible repeat' first | assumption | apply State.finish_canon | apply State.withSrcs_canon | apply Res.canon_next | intro _
theorem execMcnt_canon {s : State} (h : s.Canon) (d : Fin 32) : Res.Canon (execMcnt d s) := by
  unfold execMcnt
  with_reducible repeat' first | assumption | apply State.finish_canon | apply Res.canon_next
theorem execMessageArrival_canon {s : State} (h : s.Canon) (id : Nat) : Res.Canon (execMessageArrival id s) := by
  unfold execMessageArrival
  with_reducible repeat' first | assumption | apply State.messageArrives_canon | apply Res.canon_next
theorem execMessageRetry_canon {s : State} (h : s.Canon) (id : Nat) : Res.Canon (execMessageRetry id s) := by
  unfold execMessageRetry
  with_reducible repeat' first | assumption | apply State.messageArrives_canon | apply Res.canon_next

/-! ### Deque -/

theorem State.putPlace_canon {s : State} (h : s.Canon) (c i : Nat) (e : DqEntry) : (State.putPlace s c i e).Canon := by
  unfold State.putPlace
  with_reducible repeat' first | assumption | apply State.foldl_canon | apply State.writeChipBytes_canon | intro _
theorem State.dequeRoom_canon {s : State} (h : s.Canon) (c : Nat) : (State.dequeRoom s c).Canon := by
  unfold State.dequeRoom
  with_reducible repeat' first | assumption | apply State.wakeCore_canon
theorem State.pushTail_canon {s : State} (h : s.Canon) (c : Nat) (e : DqEntry) : (State.pushTail s c e).Canon := by
  unfold State.pushTail
  with_reducible repeat' first
    | assumption | apply State.modCore_canon | apply State.postNow_canon | apply State.putPlace_canon | apply canon_ite | intro _
    | split
theorem State.pushHead_canon {s : State} (h : s.Canon) (c : Nat) (e : DqEntry) : (State.pushHead s c e).Canon := by
  unfold State.pushHead
  with_reducible repeat' first
    | assumption | apply State.modCore_canon | apply State.postNow_canon | apply State.putPlace_canon | apply canon_ite | intro _
    | dsimp only | split
theorem State.unspill_canon {s : State} (h : s.Canon) (c : Nat) : (State.unspill s c).Canon := by
  unfold State.unspill
  with_reducible repeat' first | assumption | apply State.modCore_canon | apply State.wakeCore_canon | dsimp only | split
theorem State.removeEntry_canon {s : State} (h : s.Canon) (c : Nat) (e : DqEntry) (atHead : Bool) : (State.removeEntry s c e
    atHead).Canon := by
  unfold State.removeEntry
  with_reducible repeat' first | assumption | apply State.dequeRoom_canon | apply State.modCore_canon | apply State.postNow_canon
theorem State.replaceEntry_canon {s : State} (h : s.Canon) (c : Nat) (e e' : DqEntry) : (State.replaceEntry s c e e').Canon := by
  unfold State.replaceEntry
  with_reducible repeat' first | assumption | apply State.modCore_canon | apply State.putPlace_canon | dsimp only | split
theorem State.loadSelector_canon {s : State} (h : s.Canon) (t n sel : Nat) (pc : Word) : (State.loadSelector s t n sel pc).Canon
    := by
  unfold State.loadSelector
  with_reducible repeat' first
    | assumption | apply State.modSlot_canon | apply State.send_canon | apply canon_ite | intro _ | dsimp only | split
theorem State.setTask_canon {s : State} (h : s.Canon) (t : Nat) (a : TaskStart) (e : Option DqEntry) : (State.setTask s t a
    e).Canon := by
  unfold State.setTask
  with_reducible repeat' first
    | assumption | apply State.foldl_canon | apply State.loadSelector_canon | apply State.modSlot_canon | apply State.setSlot_canon
    | intro _
theorem State.thiefAcquire_canon {s : State} (h : s.Canon) (cl lid : Nat) (frame : Word) (size : Nat) : (State.thiefAcquire s cl
    lid frame size).Canon := by
  unfold State.thiefAcquire
  with_reducible repeat' first
    | assumption | apply State.acquireAll_canon | apply State.acquireRange_canon | apply State.foldl_canon | apply canon_ite
    | intro _ | dsimp only | split
theorem State.startTask_canon {s : State} (h : s.Canon) (t : Nat) (e : DqEntry) (b : List Byte) : (State.startTask s t e b).Canon
    := by
  unfold State.startTask
  with_reducible repeat' first
    | assumption | apply State.acquireAll_canon | apply State.launchError_canon | apply State.setTask_canon
    | apply State.thiefAcquire_canon | apply canon_ite | intro _ | dsimp only | split
theorem State.claimSlot_canon {s : State} (h : s.Canon) (lid t : Nat) : (State.claimSlot s lid t).Canon := by
  unfold State.claimSlot
  with_reducible repeat' first
    | assumption | apply State.discard_canon | apply State.foldl_canon | apply State.logUndo_canon | apply canon_ite | intro _
    | dsimp only | split
theorem State.beginTask_canon {s : State} (h : s.Canon) (t : Nat) (e : DqEntry) : (State.beginTask s t e).Canon := by
  unfold State.beginTask
  with_reducible repeat' first
    | assumption | apply State.claimSlot_canon | apply State.modSlot_canon | apply State.postNow_canon | apply canon_ite | intro _
theorem State.takeEntry_canon {s : State} (h : s.Canon) (c t : Nat) (e : DqEntry) : (State.takeEntry s c t e).Canon := by
  unfold State.takeEntry
  with_reducible repeat' first
    | assumption | apply State.beginTask_canon | apply State.removeEntry_canon | apply State.replaceEntry_canon | apply canon_ite
    | intro _
theorem State.dispatchCore_canon {s : State} (h : s.Canon) (c : Nat) : (State.dispatchCore s c).Canon := by
  unfold State.dispatchCore
  with_reducible repeat' first
    | assumption | apply State.modCore_canon | apply State.postNow_canon | apply State.takeEntry_canon | apply State.unspill_canon
    | apply canon_ite | intro _ | dsimp only | split
theorem State.headerEvent_canon {s : State} (h : s.Canon) (t : Nat) : (State.headerEvent s t).Canon := by
  unfold State.headerEvent
  with_reducible repeat' first
    | assumption | apply State.dropFlight_canon | apply State.postLat_canon | apply State.send_canon | apply State.setSlot_canon
    | apply State.startTask_canon | apply canon_ite | intro _ | dsimp only | split
theorem State.endTask_canon {s : State} (h : s.Canon) (t : Nat) : (State.endTask s t).Canon := by
  unfold State.endTask
  with_reducible repeat' first
    | assumption | refine Cluster.Canon.shadow_ok ?_ | refine State.Canon.images_ok ?_ | refine State.Canon.each_ok ?_
    | refine each_mapEach ?_ ?_ | apply State.drainThread_canon | apply State.modSlot_canon | apply State.postNow_canon
    | apply mapEach_wf | apply Cluster.Canon.tiles_wf | apply State.Canon.mem_wf | apply State.Canon.grans_wf
    | apply State.Canon.poison_wf | apply State.Canon.slots_wf | apply State.Canon.cores_wf | apply State.Canon.clusters_wf
    | intro _ | dsimp only | (apply State.canon_mk; dsimp only) | (apply Cluster.canon_of <;> dsimp only) | apply MapsOk.mk
theorem State.retire_canon {s : State} (h : s.Canon) (lid : Nat) : (State.retire s lid).Canon := by
  unfold State.retire
  with_reducible repeat' first | assumption | apply State.modLaunch_canon | apply State.postNow_canon
theorem execDispatch_canon {s : State} (h : s.Canon) (core : Nat) : Res.Canon (execDispatch core s) := by
  unfold execDispatch
  with_reducible repeat' first | assumption | apply State.dispatchCore_canon | apply Res.canon_next
theorem execHeaderArrival_canon {s : State} (h : s.Canon) (thr : Nat) : Res.Canon (execHeaderArrival thr s) := by
  unfold execHeaderArrival
  with_reducible repeat' first | assumption | apply State.headerEvent_canon | apply Res.canon_next

/-! ### Tasks -/

theorem State.atCounter_canon {s : State} (h : s.Canon) {α : Type} (lid a : Nat) (lost : α) (f : State → Nat → State × α) (hf : ∀
    (a0 : State) (a1 : Nat), a0.Canon → (f a0 a1).1.Canon) : (State.atCounter s lid a lost f).1.Canon := by
  unfold State.atCounter
  with_reducible repeat' first
    | assumption | apply State.atPartR_canon | apply State.beforeChange_canon | apply hf | intro _ | dsimp only | split
theorem State.incCounter_canon {s : State} (h : s.Canon) (id : Nat) : (State.incCounter s id).Canon := by
  unfold State.incCounter
  with_reducible repeat' first
    | assumption | apply State.ack_canon | apply State.atCounter_canon | apply State.deferFlight_canon
    | apply State.dropFlight_canon | apply State.reaches_canon | apply State.writeChipBytes_canon | apply canon_ite | intro _
    | dsimp only | split
theorem State.resumePush_canon {s : State} (h : s.Canon) (c pidx : Nat) (e : DqEntry) (remote : Bool) : (State.resumePush s c pidx
    e remote).Canon := by
  unfold State.resumePush
  with_reducible repeat' first | assumption | apply State.modCore_canon | apply State.pushTail_canon | apply State.wakeCore_canon
theorem State.decAt_canon {s : State} (h : s.Canon) (lid a n w : Nat) (outside : Bool) : (State.decAt s lid a n w outside).1.Canon
    := by
  unfold State.decAt
  with_reducible repeat' first
    | assumption | apply State.atPartR_canon | apply State.resumePush_canon | apply State.writeChipBytes_canon | intro _
    | dsimp only | split
theorem State.decCounter_canon {s : State} (h : s.Canon) (id : Nat) : (State.decCounter s id).Canon := by
  unfold State.decCounter
  with_reducible repeat' first
    | assumption | apply State.atCounter_canon | apply State.decAt_canon | apply State.dropFlight_canon
    | apply State.launchError_canon | apply State.postLat_canon | apply State.reaches_canon | apply State.retire_canon
    | apply canon_ite | intro _ | dsimp only | split
theorem State.withFrame_canon {s : State} (h : s.Canon) (k : State → State) (hk : ∀ (a0 : State), a0.Canon → (k a0).Canon) :
    (State.withFrame s k).Canon := by
  unfold State.withFrame
  with_reducible repeat' first | assumption | apply State.blockCur_canon | apply hk | apply canon_ite | intro _
theorem State.checkFrame_canon {s : State} (h : s.Canon) (fr : Word) (k : Nat → State → State) (hk : ∀ (a0 : Nat) (a1 : State),
    a1.Canon → (k a0 a1).Canon) : (State.checkFrame s fr k).Canon := by
  unfold State.checkFrame
  with_reducible repeat' first | assumption | apply State.trapExact_canon | apply hk | apply canon_ite | intro _
theorem State.withRoom_canon {s : State} (h : s.Canon) (n : Nat) (k : State → State) (hk : ∀ (a0 : State), a0.Canon → (k
    a0).Canon) : (State.withRoom s n k).Canon := by
  unfold State.withRoom
  with_reducible repeat' first | assumption | apply State.blockCur_canon | apply hk | apply canon_ite | intro _
theorem State.headerStores_canon {s : State} (h : s.Canon) (t va : Nat) (l : List (Nat × Nat)) : (State.headerStores s t va
    l).1.Canon := by
  unfold State.headerStores
  with_reducible repeat' first
    | assumption | apply State.drainThread_canon | apply State.foldl_canon1 | apply State.modSlot_canon
    | apply State.pushStore_canon | apply State.Canon.out | intro _ | dsimp only | (apply State.canon_mk; dsimp only)
theorem State.writeHeader_canon {s : State} (h : s.Canon) (t va : Nat) (rpc : Word) : (State.writeHeader s t va rpc).1.Canon := by
  unfold State.writeHeader
  with_reducible repeat' first | assumption | apply State.headerStores_canon
theorem State.addCounter_canon {s : State} (h : s.Canon) (t a n : Nat) : (State.addCounter s t a n).1.Canon := by
  unfold State.addCounter
  with_reducible repeat' first | assumption | apply State.modSlot_canon | apply State.send_canon
theorem State.subCounter_canon {s : State} (h : s.Canon) (t a n : Nat) : (State.subCounter s t a n).Canon := by
  unfold State.subCounter
  with_reducible repeat' first | assumption | apply State.send_canon
theorem State.withPush_canon {s : State} (h : s.Canon) (k : State → State) (hk : ∀ (a0 : State), a0.Canon → (k a0).Canon) :
    (State.withPush s k).Canon := by
  unfold State.withPush
  with_reducible repeat' first | assumption | apply State.blockCur_canon | apply hk | apply canon_ite | intro _
theorem execSpawn_canon {s : State} (h : s.Canon) (o : Rr) : Res.Canon (execSpawn o s) := by
  unfold execSpawn
  with_reducible repeat' first
    | assumption | apply State.addCounter_canon | apply State.checkFrame_canon | apply State.modSlot_canon
    | apply State.pushTail_canon | apply State.trapExact_canon | apply State.withFrame_canon | apply State.withPush_canon
    | apply State.withRelease_canon | apply State.withRoom_canon | apply State.withSrcs_canon | apply State.writeHeader_canon
    | apply canon_ite | apply Res.canon_next | intro _
theorem execSpawnr_canon {s : State} (h : s.Canon) (o : Rrr) : Res.Canon (execSpawnr o s) := by
  unfold execSpawnr
  with_reducible repeat' first
    | assumption | apply State.addCounter_canon | apply State.checkFrame_canon | apply State.finish_canon
    | apply State.pushTail_canon | apply State.trapExact_canon | apply State.withFrame_canon | apply State.withPush_canon
    | apply State.withRelease_canon | apply State.withRoom_canon | apply State.withSrcs_canon | apply State.writeHeader_canon
    | apply canon_ite | apply Res.canon_next | intro _
theorem State.leave_canon {s : State} (h : s.Canon) (a n : Nat) : (State.leave s a n).Canon := by
  unfold State.leave
  with_reducible repeat' first
    | assumption | apply State.endTask_canon | apply State.subCounter_canon | apply State.withRelease_canon | intro _
theorem State.reclaim_canon {s : State} (h : s.Canon) (a seq : Nat) : (State.reclaim s a seq).Canon := by
  unfold State.reclaim
  with_reducible repeat' first
    | assumption | intro _ | (extract_lets +onlyGivenNames s1; clear_value s1) | apply State.blockCur_canon
    | apply State.leave_canon | apply State.modSlot_canon | apply State.removeEntry_canon | apply State.subCounter_canon
    | apply State.unspill_canon | apply canon_ite | split
theorem execRetj_canon {s : State} (h : s.Canon) (o : Ra) : Res.Canon (execRetj o s) := by
  unfold execRetj
  with_reducible repeat' first
    | assumption | apply State.endTask_canon | apply State.leave_canon | apply State.reclaim_canon | apply State.retire_canon
    | apply State.trapExact_canon | apply State.withSrcs_canon | apply canon_ite | apply Res.canon_next | intro _ | split
theorem execSync_canon {s : State} (h : s.Canon) : Res.Canon (execSync s) := by
  unfold execSync
  with_reducible repeat' first
    | assumption | apply State.blockCur_canon | apply State.checkFrame_canon | apply State.modCore_canon | apply State.modSlot_canon
    | apply State.send_canon | apply State.trapExact_canon | apply State.withFrame_canon | apply State.withRoom_canon
    | apply canon_ite | apply Res.canon_next | intro _ | dsimp only | split
theorem State.testCounter_canon {s : State} (h : s.Canon) (id : Nat) : (State.testCounter s id).Canon := by
  unfold State.testCounter
  with_reducible repeat' first
    | assumption | apply State.acquire_canon | apply State.atCounter_canon | apply State.atPart_canon | apply State.dropFlight_canon
    | apply State.endTask_canon | apply State.launchError_canon | apply State.modCore_canon | apply State.modSlot_canon
    | apply State.postLat_canon | apply State.putPlace_canon | apply State.reaches_canon | apply State.wakeCore_canon
    | apply State.writeChipBytes_canon | apply State.writeHeader_canon | apply canon_ite | intro _ | dsimp only | split
theorem execPublish_canon {s : State} (h : s.Canon) (o : Rab) : Res.Canon (execPublish o s) := by
  unfold execPublish
  with_reducible repeat' first
    | assumption | apply State.checkFrame_canon | apply State.finish_canon | apply State.pushStore_canon
    | apply State.trapExact_canon | apply State.withFrame_canon | apply State.withRoom_canon | apply State.withSeg_canon
    | apply State.withSrcs_canon | apply canon_ite | apply State.Canon.out | apply Res.canon_next | intro _
    | (apply State.canon_mk; dsimp only)
theorem execYield_canon {s : State} (h : s.Canon) : Res.Canon (execYield s) := by
  unfold execYield
  with_reducible repeat' first
    | assumption | apply State.blockCur_canon | apply State.checkFrame_canon | apply State.endTask_canon
    | apply State.pushHead_canon | apply State.trapExact_canon | apply State.withFrame_canon | apply State.withRoom_canon
    | apply State.writeHeader_canon | apply canon_ite | apply Res.canon_next | intro _
theorem execIdle_canon {s : State} (h : s.Canon) : Res.Canon (execIdle s) := by
  unfold execIdle
  with_reducible repeat' first | assumption | apply State.endTask_canon | apply Res.canon_next
theorem execRtake_canon {s : State} (h : s.Canon) (o : Rr) : Res.Canon (execRtake o s) := by
  unfold execRtake
  with_reducible repeat' first
    | assumption | apply State.blockCur_canon | apply State.finish_canon | apply State.illegal_canon | apply State.removeEntry_canon
    | apply State.replaceEntry_canon | apply State.trapExact_canon | apply State.unspill_canon | apply State.withFrame_canon
    | apply State.withSrcs_canon | apply canon_ite | apply Res.canon_next | intro _ | dsimp only | split
theorem execWidf_canon {s : State} (h : s.Canon) (o : Rr) : Res.Canon (execWidf o s) := by
  unfold execWidf
  with_reducible repeat' first
    | assumption | apply State.finish_canon | apply State.trapExact_canon | apply State.withSrcs_canon | apply canon_ite
    | apply Res.canon_next | intro _ | dsimp only | split
theorem State.takeCounter_canon {s : State} (h : s.Canon) (lid cl : Nat) : (State.takeCounter s lid cl).1.Canon := by
  unfold State.takeCounter
  with_reducible repeat' first
    | assumption | refine Cluster.Canon.shadow_ok ?_ | apply State.beforeChange_canon | apply State.modCluster_canon
    | apply State.writeChipBytes_canon | apply Cluster.Canon.tiles_wf | intro _ | dsimp only | split
    | (apply Cluster.canon_of <;> dsimp only)
theorem execJnew_canon {s : State} (h : s.Canon) (d : Fin 32) : Res.Canon (execJnew d s) := by
  unfold execJnew
  with_reducible repeat' first
    | assumption | apply State.finish_canon | apply State.send_canon | apply State.withRoom_canon | apply Res.canon_next | intro _
theorem State.jnewAt_canon {s : State} (h : s.Canon) (f : Flight) (d : Fin 32) : (State.jnewAt s f d).Canon := by
  unfold State.jnewAt
  with_reducible repeat' first
    | assumption | apply State.arrive_canon | apply State.atPartR_canon | apply State.dropFlight_canon
    | apply State.takeCounter_canon | apply canon_ite | intro _
theorem execJfree_canon {s : State} (h : s.Canon) (o : Ra) : Res.Canon (execJfree o s) := by
  unfold execJfree
  with_reducible repeat' first
    | assumption | apply State.finish_canon | apply State.send_canon | apply State.trapExact_canon | apply State.withRoom_canon
    | apply State.withSrcs_canon | apply canon_ite | apply Res.canon_next | intro _
theorem State.jfreeAt_canon {s : State} (h : s.Canon) (f : Flight) (a : Nat) : (State.jfreeAt s f a).Canon := by
  unfold State.jfreeAt
  with_reducible repeat' first
    | assumption | refine Cluster.Canon.shadow_ok ?_ | apply State.ack_canon | apply State.atCounter_canon
    | apply State.dropFlight_canon | apply State.launchError_canon | apply State.modCluster_canon | apply State.postLat_canon
    | apply State.reaches_canon | apply canon_ite | apply Cluster.Canon.tiles_wf | intro _ | split
    | (apply Cluster.canon_of <;> dsimp only)
theorem execJoinCounterIncrement_canon {s : State} (h : s.Canon) (id : Nat) : Res.Canon (execJoinCounterIncrement id s) := by
  unfold execJoinCounterIncrement
  with_reducible repeat' first | assumption | apply State.incCounter_canon | apply Res.canon_next
theorem execJoinCounterDecrement_canon {s : State} (h : s.Canon) (id : Nat) : Res.Canon (execJoinCounterDecrement id s) := by
  unfold execJoinCounterDecrement
  with_reducible repeat' first | assumption | apply State.decCounter_canon | apply Res.canon_next
theorem execSyncTest_canon {s : State} (h : s.Canon) (id : Nat) : Res.Canon (execSyncTest id s) := by
  unfold execSyncTest
  with_reducible repeat' first | assumption | apply State.testCounter_canon | apply Res.canon_next

/-! ### Tiles -/

theorem State.zeroTile_canon {s : State} (h : s.Canon) (cl i : Nat) : (State.zeroTile s cl i).Canon := by
  unfold State.zeroTile
  with_reducible repeat' first
    | assumption | apply State.clearPoison_canon | apply State.foldl_canon | apply canon_mem | apply memClear_wf
    | apply State.Canon.mem_wf | intro _ | dsimp only | (apply State.canon_mk; dsimp only)
theorem State.takeTile_canon {s : State} (h : s.Canon) (cl pool count lid asid : Nat) (spec : Bool) : (State.takeTile s cl pool
    count lid asid spec).1.Canon := by
  unfold State.takeTile
  with_reducible repeat' first
    | assumption | refine Cluster.Canon.shadow_ok ?_ | apply State.modCluster_canon | apply State.modTile_canon
    | apply State.zeroTile_canon | apply canon_ite | apply Cluster.Canon.tiles_wf | intro _ | dsimp only | split
    | (apply Cluster.canon_of <;> dsimp only)
theorem State.tallocChecked_canon {s : State} (h : s.Canon) (o : Rr) (k : Nat → Nat → State → State) (hk : ∀ (a0 : Nat) (a1 : Nat)
    (a2 : State), a2.Canon → (k a0 a1 a2).Canon) : (State.tallocChecked s o k).Canon := by
  unfold State.tallocChecked
  with_reducible repeat' first
    | assumption | apply State.discard_canon | apply State.trapExact_canon | apply State.withSrcs_canon | apply hk | apply canon_ite
    | intro _ | split
theorem State.sendHandle_canon {s : State} (h : s.Canon) (t : Nat) (pc : Word) (h : Word32) (d : Fin 32) : (State.sendHandle s t
    pc h d).Canon := by
  unfold State.sendHandle
  with_reducible repeat' first | assumption | apply State.modSlot_canon | apply State.send_canon
theorem State.grantThread_canon {s : State} (h : s.Canon) (cl t : Nat) (q : AllocReq) : (State.grantThread s cl t q).Canon := by
  unfold State.grantThread
  with_reducible repeat' first
    | assumption | refine Cluster.Canon.shadow_ok ?_ | apply State.modCluster_canon | apply State.modSlot_canon
    | apply State.sendHandle_canon | apply State.takeTile_canon | apply Cluster.Canon.tiles_wf | intro _
    | (apply Cluster.canon_of <;> dsimp only)
theorem State.grantLanding_canon {s : State} (h : s.Canon) (cl die cmd step : Nat) (q : AllocReq) : (State.grantLanding s cl die
    cmd step q).Canon := by
  unfold State.grantLanding
  with_reducible repeat' first
    | assumption | refine Cluster.Canon.shadow_ok ?_ | apply State.modCluster_canon | apply State.modDie_canon
    | apply State.postNow_canon | apply State.takeTile_canon | apply Cluster.Canon.tiles_wf | intro _
    | (apply Cluster.canon_of <;> dsimp only)
theorem State.grantScan_canon {s : State} (h : s.Canon) (cl : Nat) : (State.grantScan s cl).Canon := by
  unfold State.grantScan
  with_reducible repeat' first
    | assumption | apply State.foldl_canon | apply State.grantLanding_canon | apply State.grantThread_canon | apply canon_ite
    | intro _ | split
theorem execTalloc_canon {s : State} (h : s.Canon) (o : Rr) : Res.Canon (execTalloc o s) := by
  unfold execTalloc
  with_reducible repeat' first
    | assumption | refine Cluster.Canon.shadow_ok ?_ | apply State.blockCur_canon | apply State.finish_canon
    | apply State.grantScan_canon | apply State.modCluster_canon | apply State.sendHandle_canon | apply State.takeTile_canon
    | apply State.tallocChecked_canon | apply State.watchPool_canon | apply canon_ite | apply Res.canon_next
    | apply Cluster.Canon.tiles_wf | intro _ | (apply Cluster.canon_of <;> dsimp only)
theorem execTallocn_canon {s : State} (h : s.Canon) (o : Rr) : Res.Canon (execTallocn o s) := by
  unfold execTallocn
  with_reducible repeat' first
    | assumption | apply State.finish_canon | apply State.grantScan_canon | apply State.sendHandle_canon
    | apply State.takeTile_canon | apply State.tallocChecked_canon | apply Res.canon_next | intro _ | split
theorem State.handleArrives_canon {s : State} (h : s.Canon) (id : Nat) : (State.handleArrives s id).Canon := by
  unfold State.handleArrives
  with_reducible repeat' first | assumption | apply State.arrive_canon | apply State.dropFlight_canon | split
theorem State.poolStallAt_canon {s : State} (h : s.Canon) (cl : Nat) (p : Fin 8) : (State.poolStallAt s cl p).Canon := by
  unfold State.poolStallAt
  with_reducible repeat' first | assumption | apply State.post_canon | apply State.raise_canon | apply canon_ite | intro _
theorem State.releaseTile_canon {s : State} (h : s.Canon) (cl i : Nat) : (State.releaseTile s cl i).Canon := by
  unfold State.releaseTile
  with_reducible repeat' first | assumption | apply State.freeTile_canon | apply State.modTile_canon | apply canon_ite | intro _
theorem State.deferredFree_canon {s : State} (h : s.Canon) (cl i : Nat) : (State.deferredFree s cl i).Canon := by
  unfold State.deferredFree
  with_reducible repeat' first | assumption | apply State.freeTile_canon | apply canon_ite | intro _
theorem State.dropTile_canon {s : State} (h : s.Canon) (h : Word32) (asid : Nat) (unit : Bool) : (State.dropTile s h asid
    unit).1.Canon := by
  unfold State.dropTile
  with_reducible repeat' first | assumption | apply State.modTile_canon | apply State.releaseTile_canon | dsimp only | split
theorem State.incTile_canon {s : State} (h : s.Canon) (h : Word32) (asid k : Nat) : (State.incTile s h asid k).1.Canon := by
  unfold State.incTile
  with_reducible repeat' first | assumption | apply State.modTile_canon | dsimp only | split
theorem State.freeAt_canon {s : State} (h : s.Canon) (h : Word32) (asid : Nat) : (State.freeAt s h asid).1.Canon := by
  unfold State.freeAt
  with_reducible repeat' first | assumption | apply State.releaseTile_canon | dsimp only | split
theorem State.tileArrives_canon {s : State} (h : s.Canon) (f : Flight) (h : Word32) (op : Word) (act : State → State × Option Nat)
    (hact : ∀ (a0 : State), a0.Canon → (act a0).1.Canon) : (State.tileArrives s f h op act).Canon := by
  unfold State.tileArrives
  with_reducible repeat' first
    | assumption | apply State.ack_canon | apply State.atPartR_canon | apply State.deferFlight_canon | apply State.dropFlight_canon
    | apply State.postLat_canon | apply State.reaches_canon | apply hact | intro _ | dsimp only | split
theorem State.dropArrives_canon {s : State} (h : s.Canon) (id : Nat) : (State.dropArrives s id).Canon := by
  unfold State.dropArrives
  with_reducible repeat' first | assumption | apply State.dropTile_canon | apply State.tileArrives_canon | intro _ | split
theorem State.incArrives_canon {s : State} (h : s.Canon) (id : Nat) : (State.incArrives s id).Canon := by
  unfold State.incArrives
  with_reducible repeat' first | assumption | apply State.incTile_canon | apply State.tileArrives_canon | intro _ | split
theorem State.freeArrives_canon {s : State} (h : s.Canon) (id : Nat) : (State.freeArrives s id).Canon := by
  unfold State.freeArrives
  with_reducible repeat' first | assumption | apply State.freeAt_canon | apply State.tileArrives_canon | intro _ | split
theorem State.withHandle_canon {s : State} (h : s.Canon) (a : Word) (k : Word32 → State → State) (hk : ∀ (a0 : Word32) (a1 :
    State), a1.Canon → (k a0 a1).Canon) : (State.withHandle s a k).Canon := by
  unfold State.withHandle
  with_reducible repeat' first | assumption | apply State.trapExact_canon | apply hk | apply canon_ite | intro _
theorem State.sendTile_canon {s : State} (h : s.Canon) (k : FlightKind) : (State.sendTile s k).Canon := by
  unfold State.sendTile
  with_reducible repeat' first | assumption | apply State.finish_canon | apply State.send_canon
theorem execTinc_canon {s : State} (h : s.Canon) (o : Rab) : Res.Canon (execTinc o s) := by
  unfold execTinc
  with_reducible repeat' first
    | assumption | apply State.sendTile_canon | apply State.trapExact_canon | apply State.withHandle_canon
    | apply State.withRoom_canon | apply State.withSrcs_canon | apply canon_ite | apply Res.canon_next | intro _
theorem execTdrop_canon {s : State} (h : s.Canon) (o : Ra) : Res.Canon (execTdrop o s) := by
  unfold execTdrop
  with_reducible repeat' first
    | assumption | apply State.pushWaits_canon | apply State.sendTile_canon | apply State.withHandle_canon
    | apply State.withRoom_canon | apply State.withSrcs_canon | apply Res.canon_next | intro _
theorem State.tdropLeaves_canon {s : State} (h : s.Canon) (id : Nat) : (State.tdropLeaves s id).Canon := by
  unfold State.tdropLeaves
  with_reducible repeat' first
    | assumption | apply State.fresh_canon | apply State.modFlight_canon | apply State.postLat_canon | apply canon_ite | intro _
    | dsimp only | split
theorem execTfree_canon {s : State} (h : s.Canon) (o : Ra) : Res.Canon (execTfree o s) := by
  unfold execTfree
  with_reducible repeat' first
    | assumption | apply State.sendTile_canon | apply State.withHandle_canon | apply State.withRoom_canon
    | apply State.withSrcs_canon | apply Res.canon_next | intro _
theorem State.readTile_canon {s : State} (h : s.Canon) (o : Rr) (addr : Bool) : (State.readTile s o addr).Canon := by
  unfold State.readTile
  with_reducible repeat' first
    | assumption | apply State.finish_canon | apply State.send_canon | apply State.withHandle_canon | apply State.withSrcs_canon
    | intro _
theorem execTcnt_canon {s : State} (h : s.Canon) (o : Rr) : Res.Canon (execTcnt o s) := by
  unfold execTcnt
  with_reducible repeat' first | assumption | apply State.readTile_canon | apply Res.canon_next
theorem execTaddr_canon {s : State} (h : s.Canon) (o : Rr) : Res.Canon (execTaddr o s) := by
  unfold execTaddr
  with_reducible repeat' first | assumption | apply State.readTile_canon | apply Res.canon_next
theorem State.tileReadAt_canon {s : State} (h : s.Canon) (f : Flight) (h : Word32) (d : Fin 32) (addr : Bool) : (State.tileReadAt
    s f h d addr).Canon := by
  unfold State.tileReadAt
  with_reducible repeat' first
    | assumption | apply State.arrive_canon | apply State.atPartR_canon | apply State.deferFlight_canon
    | apply State.dropFlight_canon | apply State.postLat_canon | apply State.reaches_canon | apply canon_ite | intro _ | dsimp only
    | split
theorem State.setRing_canon {s : State} (h : s.Canon) (c r : Nat) (x : Ring) : (State.setRing s c r x).Canon := by
  unfold State.setRing
  with_reducible repeat' first | assumption | apply State.modCore_canon
theorem State.pushRing_canon {s : State} (h : s.Canon) (c r : Nat) (h : Word32) : (State.pushRing s c r h).Canon := by
  unfold State.pushRing
  with_reducible repeat' first | assumption | apply State.postNow_canon | apply State.setRing_canon
theorem execRpush_canon {s : State} (h : s.Canon) (ring : Fin 8) (o : Ra) : Res.Canon (execRpush ring o s) := by
  unfold execRpush
  with_reducible repeat' first
    | assumption | apply State.finish_canon | apply State.pushRing_canon | apply State.trapExact_canon
    | apply State.withRelease_canon | apply State.withSrcs_canon | apply canon_ite | apply Res.canon_next | intro _
theorem execRpop_canon {s : State} (h : s.Canon) (d : Fin 32) (ring : Fin 8) : Res.Canon (execRpop d ring s) := by
  unfold execRpop
  with_reducible repeat' first
    | assumption | apply State.finish_canon | apply State.setRing_canon | apply State.trapExact_canon | apply Res.canon_next
    | dsimp only | split
theorem execRpeek_canon {s : State} (h : s.Canon) (d : Fin 32) (ring : Fin 8) : Res.Canon (execRpeek d ring s) := by
  unfold execRpeek
  with_reducible repeat' first | assumption | apply State.finish_canon | apply Res.canon_next
theorem execRcnt_canon {s : State} (h : s.Canon) (d : Fin 32) (ring : Fin 8) : Res.Canon (execRcnt d ring s) := by
  unfold execRcnt
  with_reducible repeat' first | assumption | apply State.finish_canon | apply Res.canon_next
theorem State.grantAll_canon {s : State} (h : s.Canon) (cl : Nat) : (State.grantAll s cl).Canon := by
  unfold State.grantAll
  with_reducible repeat' first
    | assumption | apply State.foldl_canon | apply State.grantScan_canon | apply State.postNow_canon | apply canon_ite | intro _
    | split
theorem execAllocationGrant_canon {s : State} (h : s.Canon) (cl : Nat) : Res.Canon (execAllocationGrant cl s) := by
  unfold execAllocationGrant
  with_reducible repeat' first | assumption | apply State.grantAll_canon | apply Res.canon_next
theorem execZeroFillDone_canon {s : State} (h : s.Canon) (id : Nat) : Res.Canon (execZeroFillDone id s) := by
  unfold execZeroFillDone
  with_reducible repeat' first | assumption | apply State.handleArrives_canon | apply Res.canon_next
theorem execTileDropArrival_canon {s : State} (h : s.Canon) (id : Nat) : Res.Canon (execTileDropArrival id s) := by
  unfold execTileDropArrival
  with_reducible repeat' first | assumption | apply State.dropArrives_canon | apply Res.canon_next
theorem execTileIncArrival_canon {s : State} (h : s.Canon) (id : Nat) : Res.Canon (execTileIncArrival id s) := by
  unfold execTileIncArrival
  with_reducible repeat' first | assumption | apply State.incArrives_canon | apply Res.canon_next
theorem execTileFreeArrival_canon {s : State} (h : s.Canon) (id : Nat) : Res.Canon (execTileFreeArrival id s) := by
  unfold execTileFreeArrival
  with_reducible repeat' first | assumption | apply State.freeArrives_canon | apply Res.canon_next
theorem execTdropSend_canon {s : State} (h : s.Canon) (id : Nat) : Res.Canon (execTdropSend id s) := by
  unfold execTdropSend
  with_reducible repeat' first | assumption | apply State.tdropLeaves_canon | apply Res.canon_next
theorem execDeferredTileFree_canon {s : State} (h : s.Canon) (cl tile : Nat) : Res.Canon (execDeferredTileFree cl tile s) := by
  unfold execDeferredTileFree
  with_reducible repeat' first | assumption | apply State.deferredFree_canon | apply Res.canon_next
theorem execPoolpWrite_canon {s : State} (h : s.Canon) (cl : Nat) (p : Fin 8) (value : Word) : Res.Canon (execPoolpWrite cl p
    value s) := by
  unfold execPoolpWrite
  with_reducible repeat' first | assumption | apply State.setPool_canon | apply Res.canon_next
theorem execPoolstallWrite_canon {s : State} (h : s.Canon) (cl : Nat) (value : Word) : Res.Canon (execPoolstallWrite cl value s)
    := by
  unfold execPoolstallWrite
  with_reducible repeat' first | assumption | apply State.setPoolStall_canon | apply Res.canon_next
theorem execPoolStallEvent_canon {s : State} (h : s.Canon) (cl : Nat) (p : Fin 8) : Res.Canon (execPoolStallEvent cl p s) := by
  unfold execPoolStallEvent
  with_reducible repeat' first | assumption | apply State.poolStallAt_canon | apply Res.canon_next

/-! ### Engines -/

theorem State.pushReq_canon {s : State} (h : s.Canon) (a : Fin 32) (indirect : Bool) (d : Option (Fin 32)) : (State.pushReq s a
    indirect d).Canon := by
  unfold State.pushReq
  with_reducible repeat' first
    | assumption | apply State.blockCur_canon | apply State.finish_canon | apply State.modCore_canon | apply State.postLat_canon
    | apply State.pushWaits_canon | apply State.trapExact_canon | apply canon_ite | apply State.Canon.out | intro _ | dsimp only
    | (apply State.canon_mk; dsimp only) | split
theorem execCopyq_canon {s : State} (h : s.Canon) (o : Ra) : Res.Canon (execCopyq o s) := by
  unfold execCopyq
  with_reducible repeat' first
    | assumption | apply State.illegal_canon | apply State.pushReq_canon | apply State.withSrcs_canon | apply canon_ite
    | apply Res.canon_next | intro _
theorem execCopyqt_canon {s : State} (h : s.Canon) (o : Rr) : Res.Canon (execCopyqt o s) := by
  unfold execCopyqt
  with_reducible repeat' first
    | assumption | apply State.illegal_canon | apply State.pushReq_canon | apply State.withSrcs_canon | apply canon_ite
    | apply Res.canon_next | intro _
theorem execGathq_canon {s : State} (h : s.Canon) (o : Ra) : Res.Canon (execGathq o s) := by
  unfold execGathq
  with_reducible repeat' first
    | assumption | apply State.illegal_canon | apply State.pushReq_canon | apply State.withSrcs_canon | apply canon_ite
    | apply Res.canon_next | intro _
theorem execGathqt_canon {s : State} (h : s.Canon) (o : Rr) : Res.Canon (execGathqt o s) := by
  unfold execGathqt
  with_reducible repeat' first
    | assumption | apply State.illegal_canon | apply State.pushReq_canon | apply State.withSrcs_canon | apply canon_ite
    | apply Res.canon_next | intro _
theorem State.barrierSub_canon {s : State} (h : s.Canon) (lid a n : Nat) : (State.barrierSub s lid a n).Canon := by
  unfold State.barrierSub
  with_reducible repeat' first
    | assumption | apply State.answerBarriers_canon | apply State.atPart_canon | apply State.changing_canon
    | apply State.writeChipBytes_canon | intro _
theorem State.barrierWait_canon {s : State} (h : s.Canon) (id : Nat) : (State.barrierWait s id).Canon := by
  unfold State.barrierWait
  with_reducible repeat' first
    | assumption | refine Cluster.Canon.shadow_ok ?_ | apply State.answerBarriers_canon | apply State.atPart_canon
    | apply State.guardLogged_canon | apply State.modCluster_canon | apply State.post_canon | apply State.reaches_canon
    | apply canon_ite | apply Cluster.Canon.tiles_wf | intro _ | dsimp only | split | (apply Cluster.canon_of <;> dsimp only)
theorem execBbwait_canon {s : State} (h : s.Canon) (o : Rr) : Res.Canon (execBbwait o s) := by
  unfold execBbwait
  with_reducible repeat' first
    | assumption | apply State.finish_canon | apply State.send_canon | apply State.trapExact_canon | apply State.withSrcs_canon
    | apply canon_ite | apply Res.canon_next | intro _
theorem State.setReq_canon {s : State} (h : s.Canon) (r : EngReq) : (State.setReq s r).Canon := by
  unfold State.setReq
  with_reducible repeat' first
    | assumption | refine Cluster.Canon.shadow_ok ?_ | apply State.modCluster_canon | apply Cluster.Canon.tiles_wf | intro _
    | (apply Cluster.canon_of <;> dsimp only)
theorem State.completionMsg_canon {s : State} (h : s.Canon) (r : EngReq) (tag status payload : Nat) : (State.completionMsg s r tag
    status payload).Canon := by
  unfold State.completionMsg
  with_reducible repeat' first
    | assumption | apply State.countSent_canon | apply State.postLat_canon | apply State.Canon.out
    | (apply State.canon_mk; dsimp only)
theorem State.ringCompletion_canon {s : State} (h : s.Canon) (r : EngReq) (h : Word32) : (State.ringCompletion s r h).1.Canon := by
  unfold State.ringCompletion
  with_reducible repeat' first
    | assumption | apply State.atPartR_canon | apply State.modTile_canon | apply State.pushRing_canon | intro _ | dsimp only | split
theorem State.packetOver_canon {s : State} (h : s.Canon) (q index status : Nat) : (State.packetOver s q index status).Canon := by
  unfold State.packetOver
  with_reducible repeat' first | assumption | apply State.modQueue_canon | apply State.postNow_canon
theorem State.reqDone_canon {s : State} (h : s.Canon) (r : EngReq) (status at_ : Nat) : (s.reqDone r status at_).Canon := by
  unfold State.reqDone
  extract_lets +onlyGivenNames s1 s2
  have h2 : s2.Canon := by
    refine State.foldl_canon (fun _ _ h => State.lowerUseOf_canon h _ _) (State.modCluster_canon h _ _ ?_) _
    exact fun c hc => Cluster.giveContexts_canon ⟨hc.tiles, hc.shadow⟩
  clear_value s2
  split
  · exact State.packetOver_canon h2 _ _ _
  · extract_lets +onlyGivenNames d s4 st e good count pay
    have hd : d.1.Canon := by
      simp only [d]
      split
      · exact State.atPartR_canon h2 _ _ _ fun a ha => State.dropTile_canon ha _ _ _
      · exact h2
    clear_value d
    split
    · exact State.completionMsg_canon hd _ _ _ _
    · extract_lets +onlyGivenNames s5 dst p
      have h5 : s5.Canon := by
        simp only [s5]
        split
        · exact State.barrierSub_canon hd _ _ _
        · exact hd
      have hp : p.1.Canon := by
        simp only [p]
        split
        · split
          · exact State.ringCompletion_canon h5 _ _
          · exact h5
        · split
          · split
            · exact State.atPart_canon h5 _ _ _ fun a ha => State.changing_canon ha _ _ _ fun _ hb => State.fillGrans_canon hb _ _
            · exact h5
          · exact h5
      split
      · exact hp
      · exact State.completionMsg_canon hp _ _ _ _
theorem State.getWords_canon {s : State} (h : s.Canon) (r : EngReq) (e : EngAddr) (x0 : Nat) (x1 : Nat) : (State.getWords s r e x0
    x1).1.Canon := by
  induction x0 generalizing s x1 with
  | zero =>
    unfold State.getWords
    with_reducible repeat' first | assumption
  | succ n ih =>
    unfold State.getWords
    with_reducible repeat' first
      | apply ih | assumption | (extract_lets +onlyGivenNames s1; clear_value s1) | apply State.unitRead_canon
      | (apply canon_fst; assumption) | split
theorem State.putWords_canon {s : State} (h : s.Canon) (r : EngReq) (e : EngAddr) (off : Nat) (x0 : List (Nat × Bool)) :
    (State.putWords s r e off x0).1.Canon := by
  induction x0 generalizing s off with
  | nil =>
    unfold State.putWords
    with_reducible repeat' first | assumption
  | cons a l ih =>
    unfold State.putWords
    with_reducible repeat' first
      | apply ih | assumption | (extract_lets +onlyGivenNames s1; clear_value s1) | apply State.unitWrite_canon
      | (apply canon_fst; assumption) | split
theorem State.putUnit_canon {s : State} (h : s.Canon) (r : EngReq) (e : EngAddr) (off : Nat) (ws : List (Nat × Bool)) :
    (State.putUnit s r e off ws).1.Canon := by
  unfold State.putUnit
  with_reducible repeat' first | assumption | apply State.putWords_canon | apply State.unitWrite_canon | dsimp only | split
theorem State.moveUnit_canon {s : State} (h : s.Canon) (r : EngReq) (src dst : EngAddr) (o p k : Nat) (f : Nat → List Nat) :
    (State.moveUnit s r src dst o p k f).1.Canon := by
  unfold State.moveUnit
  with_reducible repeat' first
    | assumption | apply State.getWords_canon | apply State.putUnit_canon | (apply canon_fst; assumption) | dsimp only | split
theorem State.copyUnits_canon {s : State} (h : s.Canon) (n : Nat) (x0 : Nat) (x1 : EngReq) : (State.copyUnits s n x0 x1).1.Canon
    := by
  induction x0 generalizing s x1 with
  | zero =>
    unfold State.copyUnits
    with_reducible repeat' first | assumption
  | succ n ih =>
    unfold State.copyUnits
    with_reducible repeat' first
      | apply ih | assumption
      | (extract_lets +onlyGivenNames s1; refine canon_cut1 (s := s1) ?_ ?_; rotate_left; intro hs1; clear_value s1; rotate_left; subst s1)
      | (extract_lets +onlyGivenNames s1; clear_value s1) | apply State.moveUnit_canon | apply State.putUnit_canon | split
theorem State.unitAdd_canon {s : State} (h : s.Canon) (u : Actor) (pl : Place) (ty : ElemTy) (v : Nat) (bad : Bool) :
    (State.unitAdd s u pl ty v bad).1.Canon := by
  unfold State.unitAdd
  with_reducible repeat' first
    | assumption | apply State.discard_canon | apply State.portAtomic_canon | apply State.setPoison_canon
    | apply State.unitRead_canon | apply State.unitTranslate_canon | apply State.unitWrite_canon | apply State.writeHomeNat_canon
    | apply canon_ite | (apply canon_fst; assumption) | intro _ | dsimp only | split
theorem State.rowMove_canon {s : State} (h : s.Canon) (x p : Nat) (x0 : Nat) (x1 : EngReq) : (State.rowMove s x p x0 x1).1.Canon
    := by
  induction x0 generalizing s x1 with
  | zero =>
    unfold State.rowMove
    with_reducible repeat' first | assumption
  | succ n ih =>
    unfold State.rowMove
    with_reducible repeat' first
      | apply ih | assumption
      | (extract_lets +onlyGivenNames s1; refine canon_cut1 (s := s1) ?_ ?_; rotate_left; intro hs1; clear_value s1; rotate_left; subst s1)
      | (extract_lets +onlyGivenNames s1; clear_value s1) | apply State.moveUnit_canon | apply State.unitAdd_canon
      | apply State.unitRead_canon | (apply canon_fst; assumption) | split
theorem State.rowFill_canon {s : State} (h : s.Canon) (p : Nat) (x0 : Nat) (x1 : EngReq) : (State.rowFill s p x0 x1).1.Canon := by
  induction x0 generalizing s x1 with
  | zero =>
    unfold State.rowFill
    with_reducible repeat' first | assumption
  | succ n ih =>
    unfold State.rowFill
    with_reducible repeat' first
      | apply ih | assumption | (extract_lets +onlyGivenNames s1; clear_value s1) | apply State.putUnit_canon
      | (apply canon_fst; assumption) | split
theorem State.listStep_canon {s : State} (h : s.Canon) (r : EngReq) : (State.listStep s r).1.Canon := by
  unfold State.listStep
  with_reducible repeat' first
    | assumption | apply State.rowFill_canon | apply State.rowMove_canon | apply State.unitRead_canon | apply State.Canon.out
    | (apply canon_fst; assumption) | dsimp only | (apply State.canon_mk; dsimp only) | split
theorem State.codeLoad_canon {s : State} (h : s.Canon) (r : EngReq) (x0 : Nat) (x1 : EngReq × List Nat) : (State.codeLoad s r x0
    x1).1.Canon := by
  induction x0 generalizing s x1 with
  | zero =>
    unfold State.codeLoad
    with_reducible repeat' first | assumption | (extract_lets +onlyGivenNames s1; clear_value s1) | apply State.modCore_canon
  | succ n ih =>
    unfold State.codeLoad
    with_reducible repeat' first
      | apply ih | assumption | (extract_lets +onlyGivenNames s1; clear_value s1) | apply State.unitRead_canon
      | (apply canon_fst; assumption) | split
theorem State.reqStart_canon {s : State} (h : s.Canon) (r : EngReq) : (State.reqStart s r).1.Canon := by
  unfold State.reqStart
  with_reducible repeat' first
    | assumption | apply State.atPart_canon | apply State.foldl_canon | apply State.modTile_canon | intro _ | dsimp only | split
theorem State.reqRun_canon {s : State} (h : s.Canon) (r : EngReq) : (State.reqRun s r).Canon := by
  unfold State.reqRun
  with_reducible repeat' first
    | assumption | apply State.codeLoad_canon | apply State.copyUnits_canon | apply State.listStep_canon | apply State.post_canon
    | apply State.postLat_canon | apply State.reqDone_canon | apply State.reqStart_canon | apply State.setReq_canon
    | apply canon_ite | (apply canon_fst; assumption) | intro _ | dsimp only | split
theorem State.reqEvent_canon {s : State} (h : s.Canon) (cl id : Nat) : (State.reqEvent s cl id).Canon := by
  unfold State.reqEvent
  with_reducible repeat' first
    | assumption | refine Cluster.Canon.shadow_ok ?_ | apply State.modCluster_canon | apply State.modCore_canon
    | apply State.postLat_canon | apply State.reqRun_canon | apply canon_ite | apply Cluster.Canon.tiles_wf | intro _ | dsimp only
    | split | (apply Cluster.canon_of <;> dsimp only)
theorem State.reqReplay_canon {s : State} (h : s.Canon) (r : EngReq) : (State.reqReplay s r).Canon := by
  unfold State.reqReplay
  with_reducible repeat' first | assumption | apply State.postLat_canon | apply State.setReq_canon
theorem State.reqReject_canon {s : State} (h : s.Canon) (r : EngReq) : (State.reqReject s r).Canon := by
  unfold State.reqReject
  with_reducible repeat' first | assumption | apply State.reqDone_canon
theorem execCopyCompletion_canon {s : State} (h : s.Canon) (cl req : Nat) : Res.Canon (execCopyCompletion cl req s) := by
  unfold execCopyCompletion
  with_reducible repeat' first | assumption | apply State.reqEvent_canon | apply Res.canon_next
theorem execIndirectCompletion_canon {s : State} (h : s.Canon) (cl req : Nat) : Res.Canon (execIndirectCompletion cl req s) := by
  unfold execIndirectCompletion
  with_reducible repeat' first | assumption | apply State.reqEvent_canon | apply Res.canon_next
theorem execEngineStateWrite_canon {s : State} (h : s.Canon) (cl off : Nat) (value : Word) : Res.Canon (execEngineStateWrite cl
    off value s) := by
  unfold execEngineStateWrite
  with_reducible repeat' first | assumption | apply State.engineStore_canon | apply Res.canon_next
theorem execSystemRegisterWrite_canon {s : State} (h : s.Canon) (cl off : Nat) (value : Word) : Res.Canon (execSystemRegisterWrite
    cl off value s) := by
  unfold execSystemRegisterWrite
  with_reducible repeat' first | assumption | apply State.ctrlStore_canon | apply Res.canon_next
theorem execByteBarrierSubtract_canon {s : State} (h : s.Canon) (addr amount : Nat) : Res.Canon (execByteBarrierSubtract addr
    amount s) := by
  unfold execByteBarrierSubtract
  with_reducible repeat' first | assumption | apply State.barrierSub_canon | apply canon_ite | apply Res.canon_next | intro _
theorem execBbwaitRetry_canon {s : State} (h : s.Canon) (id : Nat) : Res.Canon (execBbwaitRetry id s) := by
  unfold execBbwaitRetry
  with_reducible repeat' first | assumption | apply State.barrierWait_canon | apply Res.canon_next

/-! ### Matrix -/

theorem State.putAcc_canon {s : State} (h : s.Canon) (lid core n : Nat) (ws : List Nat) : (State.putAcc s lid core n ws).Canon := by
  unfold State.putAcc
  with_reducible repeat' first | assumption | apply State.changing_canon | apply State.writeChipBytes_canon | intro _
theorem State.answerMqwait_canon {s : State} (h : s.Canon) (t : Nat) : (State.answerMqwait s t).Canon := by
  unfold State.answerMqwait
  with_reducible repeat' first | assumption | apply State.modSlot_canon
theorem State.pushCmd_canon {s : State} (h : s.Canon) (op : MOp) (acc : Fin 4) (relc : Bool) (f : Slot → Slot) : (State.pushCmd s
    op acc relc f).Canon := by
  unfold State.pushCmd
  with_reducible repeat' first
    | assumption | apply State.finish_canon | apply State.modCore_canon | apply State.postNow_canon | apply State.pushWaits_canon
    | apply canon_ite | apply State.Canon.out | intro _ | dsimp only | (apply State.canon_mk; dsimp only)
theorem State.mmaCmd_canon {s : State} (h : s.Canon) (o : Mma) (scaled : Bool) : (State.mmaCmd s o scaled).Canon := by
  unfold State.mmaCmd
  with_reducible repeat' first | assumption | apply State.pushCmd_canon
theorem State.mmarCmd_canon {s : State} (h : s.Canon) (o : Mmar) (scaled : Bool) : (State.mmarCmd s o scaled).Canon := by
  unfold State.mmarCmd
  with_reducible repeat' first
    | assumption | apply State.pushCmd_canon | apply State.trapExact_canon | apply State.withSrcs_canon | apply canon_ite | intro _
theorem State.mx_canon {s : State} (h : s.Canon) (i : Instr) (k : State → State) (hk : ∀ (a0 : State), a0.Canon → (k a0).Canon) :
    (State.mx s i k).Canon := by
  unfold State.mx
  with_reducible repeat' first | assumption | apply State.illegal_canon | apply hk | apply canon_ite | intro _
theorem execMma_canon {s : State} (h : s.Canon) (o : Mma) : Res.Canon (execMma o s) := by
  unfold execMma
  with_reducible repeat' first | assumption | apply State.mmaCmd_canon | apply State.mx_canon | apply Res.canon_next | intro _
theorem execMmar_canon {s : State} (h : s.Canon) (o : Mmar) : Res.Canon (execMmar o s) := by
  unfold execMmar
  with_reducible repeat' first | assumption | apply State.mmarCmd_canon | apply State.mx_canon | apply Res.canon_next | intro _
theorem execMmas_canon {s : State} (h : s.Canon) (o : Mma) : Res.Canon (execMmas o s) := by
  unfold execMmas
  with_reducible repeat' first | assumption | apply State.mmaCmd_canon | apply State.mx_canon | apply Res.canon_next | intro _
theorem execMmasr_canon {s : State} (h : s.Canon) (o : Mmar) : Res.Canon (execMmasr o s) := by
  unfold execMmasr
  with_reducible repeat' first | assumption | apply State.mmarCmd_canon | apply State.mx_canon | apply Res.canon_next | intro _
theorem execAccz_canon {s : State} (h : s.Canon) (acc : Fin 4) (relc : Bool) : Res.Canon (execAccz acc relc s) := by
  unfold execAccz
  with_reducible repeat' first | assumption | apply State.pushCmd_canon | apply Res.canon_next
theorem State.accTarget_canon {s : State} (h : s.Canon) (o : AccM) (need : Nat) (use : Use) (k : Desc → Nat → State → State) (hk :
    ∀ (a0 : Desc) (a1 : Nat) (a2 : State), a2.Canon → (k a0 a1 a2).Canon) : (State.accTarget s o need use k).Canon := by
  unfold State.accTarget
  with_reducible repeat' first
    | assumption | apply State.trapExact_canon | apply State.withSeg_canon | apply State.withSrcs_canon | apply hk | apply canon_ite
    | intro _ | dsimp only | split
theorem execAccld_canon {s : State} (h : s.Canon) (o : AccM) : Res.Canon (execAccld o s) := by
  unfold execAccld
  with_reducible repeat' first
    | assumption | apply State.accTarget_canon | apply State.mx_canon | apply State.pushCmd_canon | apply Res.canon_next | intro _
theorem execAccst_canon {s : State} (h : s.Canon) (o : AccM) : Res.Canon (execAccst o s) := by
  unfold execAccst
  with_reducible repeat' first
    | assumption | apply State.accTarget_canon | apply State.mx_canon | apply State.pushCmd_canon | apply State.withRoom_canon
    | apply Res.canon_next | intro _
theorem State.rowIn_canon {s : State} (h : s.Canon) (lid : Nat) (o : AccV) (core row part : Nat) (satinf : Bool) (v : VWord) :
    (State.rowIn s lid o core row part satinf v).Canon := by
  unfold State.rowIn
  with_reducible repeat' first | assumption | apply State.changing_canon | apply State.writeChipBytes_canon | intro _
theorem State.sendRow_canon {s : State} (h : s.Canon) (f : Flight) (o : AccV) (row part : Nat) (satinf : Bool) : (State.sendRow s
    f o row part satinf).Canon := by
  unfold State.sendRow
  with_reducible repeat' first
    | assumption | apply State.guardLogged_canon | apply State.modFlight_canon | apply State.poisonAccess_canon
    | apply State.postLat_canon | dsimp only | split
theorem State.withRow_canon {s : State} (h : s.Canon) (o : AccV) (k : Nat → Nat → State → State) (hk : ∀ (a0 : Nat) (a1 : Nat) (a2
    : State), a2.Canon → (k a0 a1 a2).Canon) : (State.withRow s o k).Canon := by
  unfold State.withRow
  with_reducible repeat' first | assumption | apply State.trapExact_canon | apply hk | apply canon_ite | intro _
theorem execAccout_canon {s : State} (h : s.Canon) (o : AccV) : Res.Canon (execAccout o s) := by
  unfold execAccout
  with_reducible repeat' first
    | assumption | apply State.finish_canon | apply State.mx_canon | apply State.send_canon | apply State.sendRow_canon
    | apply State.withRow_canon | apply State.withSrcs_canon | apply Res.canon_next | intro _ | dsimp only | split
theorem execAccin_canon {s : State} (h : s.Canon) (o : AccV) : Res.Canon (execAccin o s) := by
  unfold execAccin
  with_reducible repeat' first
    | assumption | apply State.finish_canon | apply State.mx_canon | apply State.rowIn_canon | apply State.send_canon
    | apply State.stillRuns_canon | apply State.withRoom_canon | apply State.withRow_canon | apply State.withSrcs_canon
    | apply Res.canon_next | intro _ | dsimp only | split
theorem State.rowServe_canon {s : State} (h : s.Canon) (id : Nat) : (State.rowServe s id).Canon := by
  unfold State.rowServe
  with_reducible repeat' first
    | assumption | apply State.ack_canon | apply State.dropFlight_canon | apply State.poll_canon | apply State.rowIn_canon
    | apply State.sendRow_canon | apply canon_ite | intro _ | dsimp only | split
theorem State.countMma_canon {s : State} (h : s.Canon) (cl : Nat) (m : MCmd) : (State.countMma s cl m).Canon := by
  unfold State.countMma
  with_reducible repeat' first
    | assumption | refine Cluster.Canon.shadow_ok ?_ | apply State.modCluster_canon | apply canon_ite | apply Cluster.Canon.tiles_wf
    | intro _ | (apply Cluster.canon_of <;> dsimp only)
theorem State.releaseWrites_canon {s : State} (h : s.Canon) (cl c n : Nat) : (State.releaseWrites s cl c n).Canon := by
  unfold State.releaseWrites
  with_reducible repeat' first
    | assumption | refine Cluster.Canon.shadow_ok ?_ | apply State.foldl_canon | apply State.landWrite_canon
    | apply State.modCluster_canon | apply Cluster.Canon.tiles_wf | intro _ | dsimp only | (apply Cluster.canon_of <;> dsimp only)
theorem State.cmdDone_canon {s : State} (h : s.Canon) (cl : Nat) (r : MRun) : (State.cmdDone s cl r).Canon := by
  unfold State.cmdDone
  with_reducible repeat' first
    | assumption | refine Cluster.Canon.shadow_ok ?_ | apply State.advance_canon | apply State.answerMqwait_canon
    | apply State.countMma_canon | apply State.foldl_canon | apply State.modCluster_canon | apply State.postNow_canon
    | apply State.releaseWrites_canon | apply State.rowServe_canon | apply canon_ite | apply Cluster.Canon.tiles_wf | intro _
    | split | (apply Cluster.canon_of <;> dsimp only)
theorem State.cmdTrap_canon {s : State} (h : s.Canon) (m : MCmd) (cause : Nat) (tval : Word) : (State.cmdTrap s m cause
    tval).Canon := by
  unfold State.cmdTrap
  with_reducible repeat' first | assumption | apply State.deferTrap_canon | apply canon_ite | intro _
theorem State.cmdAbort_canon {s : State} (h : s.Canon) (cl : Nat) (r : MRun) (cause : Nat) (tval : Word) : (State.cmdAbort s cl r
    cause tval).Canon := by
  unfold State.cmdAbort
  with_reducible repeat' first
    | assumption | apply State.ack_canon | apply State.cmdDone_canon | apply State.cmdTrap_canon | apply State.discard_canon
    | apply State.foldl_canon | apply State.lowerUse_canon | apply State.setRing_canon | apply canon_ite | intro _ | dsimp only
    | split
theorem State.raiseUse_canon {s : State} (h : s.Canon) (x0 : List Word32) : (State.raiseUse s x0).1.Canon := by
  induction x0 generalizing s with
  | nil =>
    unfold State.raiseUse
    with_reducible repeat' first | assumption
  | cons a l ih =>
    unfold State.raiseUse
    with_reducible repeat' first
      | apply ih | assumption
      | (extract_lets +onlyGivenNames s1; refine canon_cut1 (s := s1) ?_ ?_; rotate_left; intro hs1; clear_value s1; rotate_left; subst s1)
      | apply State.modTile_canon | split
theorem State.mmaBegins_canon {s : State} (h : s.Canon) (cl : Nat) (r : MRun) (k : Nat) : (State.mmaBegins s cl r k).Canon := by
  unfold State.mmaBegins
  with_reducible repeat' first
    | assumption | refine Cluster.Canon.shadow_ok ?_ | apply State.modCluster_canon | apply State.post_canon
    | apply State.raiseUse_canon | apply canon_ite | apply Cluster.Canon.tiles_wf | intro _ | split
    | (apply Cluster.canon_of <;> dsimp only)
theorem State.startCmd_canon {s : State} (h : s.Canon) (cl c : Nat) (m : MCmd) : (State.startCmd s cl c m).Canon := by
  unfold State.startCmd
  with_reducible repeat' first
    | assumption | refine Cluster.Canon.shadow_ok ?_ | apply State.cmdAbort_canon | apply State.mmaBegins_canon
    | apply State.modCluster_canon | apply State.modCore_canon | apply State.post_canon | apply State.postLat_canon
    | apply State.setRing_canon | apply canon_ite | apply State.Canon.out | apply Cluster.Canon.tiles_wf | intro _ | dsimp only
    | (apply State.canon_mk; dsimp only) | split | (apply Cluster.canon_of <;> dsimp only)
theorem State.arbitrate_canon {s : State} (h : s.Canon) (cl : Nat) (el : List Nat) : (State.arbitrate s cl el).1.Canon := by
  unfold State.arbitrate
  with_reducible repeat' first
    | assumption | refine Cluster.Canon.shadow_ok ?_ | apply State.foldl_canon | apply State.modCluster_canon
    | apply State.modCore_canon | apply Cluster.Canon.tiles_wf | intro _ | dsimp only | split
    | (apply Cluster.canon_of <;> dsimp only)
theorem State.matrixSelect_canon {s : State} (h : s.Canon) (cl : Nat) : (State.matrixSelect s cl).Canon := by
  unfold State.matrixSelect
  with_reducible repeat' first
    | assumption | intro _
    | (extract_lets +onlyGivenNames s1; refine canon_cut (s := s1) ?_ ?_; rotate_left; intro hs1; clear_value s1; rotate_left; subst s1)
    | (extract_lets +onlyGivenNames s1; refine canon_cut1 (s := s1) ?_ ?_; rotate_left; intro hs1; clear_value s1; rotate_left; subst s1)
    | (extract_lets +onlyGivenNames s1; clear_value s1) | apply State.arbitrate_canon | apply State.foldl_canon
    | apply State.mmaBegins_canon | apply State.modCore_canon | apply State.poll_canon | apply State.postNow_canon
    | apply State.startCmd_canon | apply canon_ite | split
theorem State.guardAcc_canon {s : State} (h : s.Canon) (m : MCmd) (core : Nat) : (State.guardAcc s m core).Canon := by
  unfold State.guardAcc
  with_reducible repeat' first | assumption | apply State.guardLogged_canon
theorem State.leaveRing_canon {s : State} (h : s.Canon) (c n : Nat) : (State.leaveRing s c n).Canon := by
  unfold State.leaveRing
  with_reducible repeat' first | assumption | apply State.setRing_canon
theorem State.dropAll_canon {s : State} (h : s.Canon) (asid : Nat) (x0 : List Word32) : (State.dropAll s asid x0).1.Canon := by
  induction x0 generalizing s with
  | nil =>
    unfold State.dropAll
    with_reducible repeat' first | assumption
  | cons a l ih =>
    unfold State.dropAll
    with_reducible repeat' first | apply ih | assumption | apply State.dropTile_canon
theorem State.mmaBack_canon {s : State} (h : s.Canon) (cl : Nat) (r : MRun) (a b : Fin 8) (k : Nat) (ty : ElemTy) (zi scaled :
    Bool) : (State.mmaBack s cl r a b k ty zi scaled).Canon := by
  unfold State.mmaBack
  with_reducible repeat' first
    | assumption | apply State.cmdAbort_canon | apply State.cmdDone_canon | apply State.cmdTrap_canon | apply State.dropAll_canon
    | apply State.foldl_canon | apply State.guardAcc_canon | apply State.leaveRing_canon | apply State.lowerUse_canon
    | apply State.putAcc_canon | apply State.stillRuns_canon | apply canon_ite | intro _ | dsimp only | split
theorem State.transferFails_canon {s : State} (h : s.Canon) (cl : Nat) (r : MRun) (cause : Nat) (tval : Word) :
    (State.transferFails s cl r cause tval).Canon := by
  unfold State.transferFails
  with_reducible repeat' first | assumption | apply State.cmdAbort_canon | apply State.dropFlight_canon
theorem State.transfer_canon {s : State} (h : s.Canon) (cl : Nat) (r : MRun) : (State.transfer s cl r).Canon := by
  unfold State.transfer
  with_reducible repeat' first
    | assumption | apply State.ack_canon | apply State.cmdDone_canon | apply State.dropFlight_canon | apply State.guardAcc_canon
    | apply State.modFlight_canon | apply State.postLat_canon | apply State.putAcc_canon | apply State.stillRuns_canon
    | apply State.transferFails_canon | apply State.unitReadAll_canon | apply State.unitWriteAll_canon | apply canon_ite | intro _
    | dsimp only | split
theorem State.matrixWriteback_canon {s : State} (h : s.Canon) (cl : Nat) : (State.matrixWriteback s cl).Canon := by
  unfold State.matrixWriteback
  with_reducible repeat' first
    | assumption | refine Cluster.Canon.shadow_ok ?_ | apply State.cmdDone_canon | apply State.foldl_canon
    | apply State.mmaBack_canon | apply State.modCluster_canon | apply State.postLat_canon | apply State.putAcc_canon
    | apply State.stillRuns_canon | apply State.transfer_canon | apply canon_ite | apply Cluster.Canon.tiles_wf | intro _
    | dsimp only | split | (apply Cluster.canon_of <;> dsimp only)
theorem State.selfTest_canon {s : State} (h : s.Canon) (cl : Nat) (failed : BitVec 4) : (State.selfTest s cl failed).Canon := by
  unfold State.selfTest
  with_reducible repeat' first
    | assumption | refine Cluster.Canon.shadow_ok ?_ | apply State.modCluster_canon | apply State.postNow_canon
    | apply State.raise_canon | apply canon_ite | apply Cluster.Canon.tiles_wf | intro _ | (apply Cluster.canon_of <;> dsimp only)
theorem State.rateRamp_canon {s : State} (h : s.Canon) (cl : Nat) : (State.rateRamp s cl).Canon := by
  unfold State.rateRamp
  with_reducible repeat' first
    | assumption | refine Cluster.Canon.shadow_ok ?_ | apply State.modCluster_canon | apply Cluster.Canon.tiles_wf | intro _
    | (apply Cluster.canon_of <;> dsimp only)
theorem execMqwait_canon {s : State} (h : s.Canon) (d : Fin 32) (n : Fin 16) : Res.Canon (execMqwait d n s) := by
  unfold execMqwait
  with_reducible repeat' first
    | assumption | apply State.answerMqwait_canon | apply State.finish_canon | apply State.mx_canon | apply Res.canon_next | intro _
theorem execMqcnt_canon {s : State} (h : s.Canon) (d : Fin 32) : Res.Canon (execMqcnt d s) := by
  unfold execMqcnt
  with_reducible repeat' first | assumption | apply State.finish_canon | apply Res.canon_next
theorem execMatrixSelect_canon {s : State} (h : s.Canon) (cl : Nat) : Res.Canon (execMatrixSelect cl s) := by
  unfold execMatrixSelect
  with_reducible repeat' first | assumption | apply State.matrixSelect_canon | apply Res.canon_next
theorem execMatrixWriteback_canon {s : State} (h : s.Canon) (cl : Nat) : Res.Canon (execMatrixWriteback cl s) := by
  unfold execMatrixWriteback
  with_reducible repeat' first | assumption | apply State.matrixWriteback_canon | apply Res.canon_next
theorem execSelfTest_canon {s : State} (h : s.Canon) (cl : Nat) (failed : BitVec 4) : Res.Canon (execSelfTest cl failed s) := by
  unfold execSelfTest
  with_reducible repeat' first | assumption | apply State.selfTest_canon | apply Res.canon_next
theorem execMxctlWrite_canon {s : State} (h : s.Canon) (cl : Nat) (value : Word) : Res.Canon (execMxctlWrite cl value s) := by
  unfold execMxctlWrite
  with_reducible repeat' first | assumption | apply State.setMxctl_canon | apply Res.canon_next

end Sys2Proof.Machine
end

