-- ==== Sys2Proof/Laws/CanonicalQueues.lean ====
section
/-! SUPPORT. What keeps the maps of a state canonical: host traffic and errors, packets and queues, collectives, stealing, system
instructions and launches. -/

namespace Sys2Proof.Machine

/-! ### Traffic -/

theorem State.loadEvent_canon {s : State} (h : s.Canon) (id : Nat) : (State.loadEvent s id).Canon := by
  unfold State.loadEvent
  with_reducible repeat' first
    | assumption | apply State.advance_canon | apply State.jnewAt_canon | apply State.rowServe_canon | apply State.tileReadAt_canon
    | split
theorem State.storeEvent_canon {s : State} (h : s.Canon) (id : Nat) : (State.storeEvent s id).Canon := by
  unfold State.storeEvent
  with_reducible repeat' first
    | assumption | apply State.advance_canon | apply State.jfreeAt_canon | apply State.rowServe_canon | split
theorem State.lineArrives_canon {s : State} (h : s.Canon) (cl line : Nat) : (State.lineArrives s cl line).Canon := by
  unfold State.lineArrives
  with_reducible repeat' first
    | assumption | refine Cluster.Canon.shadow_ok ?_ | apply State.foldl_canon | apply State.gotPiece_canon
    | apply State.installLine_canon | apply State.loadHome_canon | apply State.modCluster_canon | apply State.postLat_canon
    | apply State.settle_canon | apply canon_ite | apply Cluster.Canon.tiles_wf | intro _ | dsimp only | split
    | (apply Cluster.canon_of <;> dsimp only)
theorem State.resolvePiece_canon {s : State} (h : s.Canon) (k : WalkKey) (dirty : Bool) (e : Nat × Nat) : (State.resolvePiece s k
    dirty e).Canon := by
  unfold State.resolvePiece
  with_reducible repeat' first
    | assumption | apply State.lookup_canon | apply State.passPort_canon | apply State.recordFault_canon
    | apply State.setPhase_canon | apply State.walkInstall_canon | apply canon_ite | (apply canon_fst; assumption) | intro _
    | dsimp only | split
theorem State.endMiss_canon {s : State} (h : s.Canon) (die : Nat) (m : Miss) : (s.endMiss die m).Canon := by
  unfold State.endMiss
  refine State.foldr_canon (fun _ a h => ?_) (State.foldl_canon (fun _ _ h => State.resolvePiece_canon h _ _ _) (State.modDie_canon h _ _) _) _
  split
  · exact State.postLat_canon h _ _
  · exact h
theorem State.startWalks_canon {s : State} (h : s.Canon) (die : Nat) : (State.startWalks s die).Canon := by
  unfold State.startWalks
  with_reducible repeat' first
    | assumption | apply State.endMiss_canon | apply State.foldl_canon | apply State.modDie_canon | apply State.postLat_canon
    | apply canon_ite | intro _ | split
theorem State.walkStarts_canon {s : State} (h : s.Canon) (die : Nat) : (State.walkStarts s die).Canon := by
  unfold State.walkStarts
  with_reducible repeat' first | assumption | apply State.servePorts_canon | apply State.startWalks_canon
theorem State.walkEnds_canon {s : State} (h : s.Canon) (die : Nat) (k : WalkKey) : (State.walkEnds s die k).Canon := by
  unfold State.walkEnds
  with_reducible repeat' first
    | assumption | apply State.endMiss_canon | apply State.modDie_canon | apply State.postLat_canon | apply State.walkStarts_canon
    | apply canon_ite | intro _ | split
theorem State.nextRecord_canon {s : State} (h : s.Canon) (die : Nat) : (State.nextRecord s die).Canon := by
  unfold State.nextRecord
  with_reducible repeat' first | assumption | apply State.makeRecord_canon | apply canon_ite | intro _ | split
theorem State.appendRecord_canon {s : State} (h : s.Canon) (die part : Nat) : (State.appendRecord s die part).Canon := by
  unfold State.appendRecord
  with_reducible repeat' first
    | assumption | apply State.emit_canon | apply State.modDie_canon | apply State.nextRecord_canon | apply canon_ite | intro _
    | dsimp only | split
theorem State.frontResume_canon {s : State} (h : s.Canon) (die key : Nat) : (State.frontResume s die key).Canon := by
  unfold State.frontResume
  with_reducible repeat' first
    | assumption | apply State.foldl_canon | apply State.postNow_canon | apply canon_ite | intro _ | split
theorem State.replayPiece_canon {s : State} (h : s.Canon) (e : Nat × Nat) : (State.replayPiece s e).Canon := by
  unfold State.replayPiece
  with_reducible repeat' first
    | assumption | apply State.portAgain_canon | apply State.postLat_canon | apply State.setPhase_canon | split
theorem State.resolveRecord_canon {s : State} (h : s.Canon) (die key : Nat) (reject : Bool) : (State.resolveRecord s die key
    reject).Canon := by
  unfold State.resolveRecord
  with_reducible repeat' first
    | assumption | apply State.foldl_canon | apply State.frontResume_canon | apply State.modDie_canon | apply State.nextRecord_canon
    | apply State.postNow_canon | apply State.replayPiece_canon | apply State.reqReject_canon | apply State.reqReplay_canon
    | apply State.servePorts_canon | apply State.setPhase_canon | apply canon_ite | apply State.Canon.out | intro _
    | (apply State.canon_mk; dsimp only)
theorem State.resolutionWord_canon {s : State} (h : s.Canon) (die w : Nat) : (State.resolutionWord s die w).Canon := by
  unfold State.resolutionWord
  with_reducible repeat' first | assumption | apply State.resolveRecord_canon | apply canon_ite | intro _ | split
theorem State.consWrite_canon {s : State} (h : s.Canon) (die part v : Nat) : (State.consWrite s die part v).Canon := by
  unfold State.consWrite
  with_reducible repeat' first
    | assumption | apply State.foldl_canon | apply State.modDie_canon | apply State.postNow_canon | apply canon_ite | intro _
theorem State.recordExpires_canon {s : State} (h : s.Canon) (die seq : Nat) : (State.recordExpires s die seq).Canon := by
  unfold State.recordExpires
  with_reducible repeat' first | assumption | apply State.resolveRecord_canon | apply canon_ite | intro _ | split
theorem State.poisonEvent_canon {s : State} (h : s.Canon) (id : Nat) : (State.poisonEvent s id).Canon := by
  unfold State.poisonEvent
  with_reducible repeat' first | assumption | apply State.poisonFlight_canon | apply State.transferFails_canon | dsimp only | split
theorem State.windowWrite_canon {s : State} (h : s.Canon) (w : WinWrite) : (State.windowWrite s w).Canon := by
  unfold State.windowWrite
  with_reducible repeat' first
    | assumption | refine Cluster.Canon.shadow_ok ?_ | apply State.landWrite_canon | apply State.modCluster_canon | apply canon_ite
    | apply Cluster.Canon.tiles_wf | intro _ | split | (apply Cluster.canon_of <;> dsimp only)
theorem State.admitWrite_canon {s : State} (h : s.Canon) (c : Nat) (v : Word) : (State.admitWrite s c v).Canon := by
  unfold State.admitWrite
  with_reducible repeat' first | assumption | apply State.modCore_canon | apply canon_ite | intro _
theorem State.hardwareError_canon {s : State} (h : s.Canon) (l : List Nat) : (State.hardwareError s l).Canon := by
  unfold State.hardwareError
  with_reducible repeat' first | assumption | apply State.foldl_canon | apply State.launchError_canon | intro _
theorem State.strikeShadow_canon {s : State} (h : s.Canon) (cl off : Nat) : (State.strikeShadow s cl off).Canon := by
  unfold State.strikeShadow
  with_reducible repeat' first
    | assumption | apply State.draw_canon | apply State.hardwareError_canon | apply State.modCluster_canon | apply canon_ite
    | apply State.canon_cluster | apply mapPut_wf | apply Cluster.Canon.tiles_wf | apply Saved.Canon.bytes_wf
    | apply Saved.Canon.grans_wf | apply Saved.Canon.poison_wf | apply Saved.Canon.slots_wf | apply Saved.Canon.cores_wf
    | apply Saved.Canon.tiles_wf | intro _ | dsimp only | split | (apply Cluster.canon_of <;> dsimp only)
    | (apply Saved.canon_of <;> dsimp only) | (apply Cluster.canon_shadow; assumption) | (apply Saved.canon_some; assumption)
theorem State.strike_canon {s : State} (h : s.Canon) (l : EccLoc) : (State.strike s l).Canon := by
  unfold State.strike
  with_reducible repeat' first
    | assumption | refine Cluster.Canon.shadow_ok ?_ | intro _ | apply State.hardwareError_canon | apply State.modCluster_canon
    | apply State.modCore_canon | apply State.modDie_canon | apply State.modSlot_canon | apply State.setPoison_canon
    | apply State.strikeShadow_canon | apply canon_ite | apply Cluster.Canon.tiles_wf | split
    | (apply Cluster.canon_of <;> dsimp -zeta only)
theorem State.eccStrike_canon {s : State} (h : s.Canon) (die : Nat) (l : EccLoc) : (State.eccStrike s die l).Canon := by
  unfold State.eccStrike
  with_reducible repeat' first | assumption | apply State.modDie_canon | apply State.strike_canon
theorem State.eccCorrected_canon {s : State} (h : s.Canon) (die : Nat) (st : EccStruct) : (State.eccCorrected s die st).Canon := by
  unfold State.eccCorrected
  with_reducible repeat' first | assumption | apply State.modDie_canon
theorem execLoadCompletion_canon {s : State} (h : s.Canon) (id : Nat) : Res.Canon (execLoadCompletion id s) := by
  unfold execLoadCompletion
  with_reducible repeat' first | assumption | apply State.loadEvent_canon | apply Res.canon_next
theorem execStoreBufferDrain_canon {s : State} (h : s.Canon) (core entry : Nat) : Res.Canon (execStoreBufferDrain core entry s) :=
    by
  unfold execStoreBufferDrain
  with_reducible repeat' first | assumption | apply State.idleDrain_canon | apply Res.canon_next
theorem execStoreAcknowledgement_canon {s : State} (h : s.Canon) (id : Nat) : Res.Canon (execStoreAcknowledgement id s) := by
  unfold execStoreAcknowledgement
  with_reducible repeat' first | assumption | apply State.storeEvent_canon | apply Res.canon_next
theorem execWindowWrite_canon {s : State} (h : s.Canon) (w : WinWrite) : Res.Canon (execWindowWrite w s) := by
  unfold execWindowWrite
  with_reducible repeat' first | assumption | apply State.windowWrite_canon | apply Res.canon_next
theorem execAdmitWrite_canon {s : State} (h : s.Canon) (core : Nat) (value : Word) : Res.Canon (execAdmitWrite core value s) := by
  unfold execAdmitWrite
  with_reducible repeat' first | assumption | apply State.admitWrite_canon | apply Res.canon_next
theorem execSegmentTableRead_canon {s : State} (h : s.Canon) (id : Nat) : Res.Canon (execSegmentTableRead id s) := by
  unfold execSegmentTableRead
  with_reducible repeat' first | assumption | apply State.advance_canon | apply Res.canon_next | split
theorem execRemoteWaitRetry_canon {s : State} (h : s.Canon) (id : Nat) : Res.Canon (execRemoteWaitRetry id s) := by
  unfold execRemoteWaitRetry
  with_reducible repeat' first | assumption | apply State.sendAgain_canon | apply Res.canon_next
theorem execClusterCacheFill_canon {s : State} (h : s.Canon) (cl line : Nat) : Res.Canon (execClusterCacheFill cl line s) := by
  unfold execClusterCacheFill
  with_reducible repeat' first | assumption | apply State.lineArrives_canon | apply Res.canon_next
theorem execIcacheFill_canon {s : State} (h : s.Canon) (core key : Nat) : Res.Canon (execIcacheFill core key s) := by
  unfold execIcacheFill
  with_reducible repeat' first | assumption | apply State.fillArrives_canon | apply Res.canon_next
theorem execReleaseCompletion_canon {s : State} (h : s.Canon) (thr : Nat) : Res.Canon (execReleaseCompletion thr s) := by
  unfold execReleaseCompletion
  with_reducible repeat' first | assumption | apply State.releaseEvent_canon | apply Res.canon_next
theorem execWalkStart_canon {s : State} (h : s.Canon) (die : Nat) (u1 : WalkKey) : Res.Canon (execWalkStart die u1 s) := by
  unfold execWalkStart
  with_reducible repeat' first | assumption | apply State.walkStarts_canon | apply Res.canon_next
theorem execWalkCompletion_canon {s : State} (h : s.Canon) (die : Nat) (k : WalkKey) : Res.Canon (execWalkCompletion die k s) := by
  unfold execWalkCompletion
  with_reducible repeat' first | assumption | apply State.walkEnds_canon | apply Res.canon_next
theorem execFaultRecordAppend_canon {s : State} (h : s.Canon) (die part : Nat) : Res.Canon (execFaultRecordAppend die part s) := by
  unfold execFaultRecordAppend
  with_reducible repeat' first | assumption | apply State.appendRecord_canon | apply Res.canon_next
theorem execFaultResolutionWrite_canon {s : State} (h : s.Canon) (die : Nat) (word : Word) : Res.Canon (execFaultResolutionWrite
    die word s) := by
  unfold execFaultResolutionWrite
  with_reducible repeat' first | assumption | apply State.resolutionWord_canon | apply Res.canon_next
theorem execFaultConsWrite_canon {s : State} (h : s.Canon) (die part : Nat) (value : Word) : Res.Canon (execFaultConsWrite die
    part value s) := by
  unfold execFaultConsWrite
  with_reducible repeat' first | assumption | apply State.consWrite_canon | apply Res.canon_next
theorem execFaultTimeout_canon {s : State} (h : s.Canon) (die seq : Nat) : Res.Canon (execFaultTimeout die seq s) := by
  unfold execFaultTimeout
  with_reducible repeat' first | assumption | apply State.recordExpires_canon | apply Res.canon_next
theorem execPoisonCompletion_canon {s : State} (h : s.Canon) (id : Nat) : Res.Canon (execPoisonCompletion id s) := by
  unfold execPoisonCompletion
  with_reducible repeat' first | assumption | apply State.poisonEvent_canon | apply Res.canon_next
theorem execEccCorrectableError_canon {s : State} (h : s.Canon) (die : Nat) (st : EccStruct) : Res.Canon (execEccCorrectableError
    die st s) := by
  unfold execEccCorrectableError
  with_reducible repeat' first | assumption | apply State.eccCorrected_canon | apply Res.canon_next
theorem execEccUncorrectableError_canon {s : State} (h : s.Canon) (die : Nat) (loc : EccLoc) : Res.Canon
    (execEccUncorrectableError die loc s) := by
  unfold execEccUncorrectableError
  with_reducible repeat' first | assumption | apply State.eccStrike_canon | apply Res.canon_next
theorem execPatrolScrub_canon {s : State} (h : s.Canon) (die : Nat) : Res.Canon (execPatrolScrub die s) := by
  unfold execPatrolScrub
  with_reducible repeat' first | assumption | apply State.modDie_canon | apply Res.canon_next
theorem execFlitCrcError_canon {s : State} (h : s.Canon) (die : Nat) (net : Fin 4) (link : Nat) : Res.Canon (execFlitCrcError die
    net link s) := by
  unfold execFlitCrcError
  with_reducible repeat' first | assumption | apply State.eccCorrected_canon | apply State.modDie_canon | apply Res.canon_next
theorem execNetworkStarvationGrant_canon {s : State} (h : s.Canon) (die : Nat) (net : Fin 4) (link : Nat) : Res.Canon
    (execNetworkStarvationGrant die net link s) := by
  unfold execNetworkStarvationGrant
  with_reducible repeat' first | assumption | apply State.modDie_canon | apply Res.canon_next

/-! ### Packet -/

theorem State.seen_canon {s : State} (h : s.Canon) (p : Option (Nat × Nat)) : (State.seen s p).Canon := by
  unfold State.seen
  with_reducible repeat' first
    | assumption | apply canon_ite | apply State.Canon.out | intro _ | (apply State.canon_mk; dsimp only) | split
theorem State.feTranslate_canon {s : State} (h : s.Canon) (part lid asid va : Nat) (a : Acc) : (State.feTranslate s part lid asid
    va a).1.Canon := by
  unfold State.feTranslate
  with_reducible repeat' first
    | assumption | apply State.attach_canon | apply State.lookup_canon | apply State.recordFault_canon
    | apply State.walkInstall_canon | (apply canon_fst; assumption) | dsimp only | split
theorem State.signal_canon {s : State} (h : s.Canon) (part asid addr v op : Nat) : (State.signal s part asid addr v op).1.Canon :=
    by
  unfold State.signal
  with_reducible repeat' first
    | assumption | apply State.emit_canon | apply State.feTranslate_canon | apply State.writeHomeNat_canon
    | (apply canon_fst; assumption) | dsimp only | split

/-! ### Queue -/

theorem State.modPacket_canon {s : State} (h : s.Canon) (q i : Nat) (f : Packet → Packet) : (State.modPacket s q i f).Canon := by
  unfold State.modPacket
  with_reducible repeat' first | assumption | apply State.modQueue_canon
theorem State.haltQueue_canon {s : State} (h : s.Canon) (q err : Nat) : (State.haltQueue s q err).Canon := by
  unfold State.haltQueue
  with_reducible repeat' first
    | assumption | apply State.discard_canon | apply State.modQueue_canon | apply canon_ite | intro _ | dsimp only | split
theorem State.holdHalt_canon {s : State} (h : s.Canon) (q : Nat) : (State.holdHalt s q).Canon := by
  unfold State.holdHalt
  with_reducible repeat' first | assumption | apply State.haltQueue_canon | apply canon_ite | intro _ | split
theorem State.holdAt_canon {s : State} (h : s.Canon) (q i err : Nat) : (State.holdAt s q i err).Canon := by
  unfold State.holdAt
  with_reducible repeat' first | assumption | apply State.holdHalt_canon | apply State.modQueue_canon | apply canon_ite | intro _
theorem State.startReady_canon {s : State} (h : s.Canon) (q : Nat) (x0 : Nat) : (State.startReady s q x0).Canon := by
  induction x0 generalizing s with
  | zero =>
    unfold State.startReady
    with_reducible repeat' first | assumption
  | succ n ih =>
    unfold State.startReady
    with_reducible repeat' first
      | apply ih | assumption | apply State.holdHalt_canon | apply State.modPacket_canon | apply State.postNow_canon | split
theorem State.settleQueue_canon {s : State} (h : s.Canon) (q : Nat) : (State.settleQueue s q).Canon := by
  unfold State.settleQueue
  with_reducible repeat' first
    | assumption | apply State.modQueue_canon | apply State.postNow_canon | apply canon_ite | intro _ | dsimp only | split
theorem State.completePacket_canon {s : State} (h : s.Canon) (q i : Nat) : (State.completePacket s q i).Canon := by
  unfold State.completePacket
  with_reducible repeat' first
    | assumption | apply State.modPacket_canon | apply State.settleQueue_canon | apply State.startReady_canon
theorem State.endPacket_canon {s : State} (h : s.Canon) (q i : Nat) : (State.endPacket s q i).Canon := by
  unfold State.endPacket
  with_reducible repeat' first
    | assumption | apply State.completePacket_canon | apply State.feTranslate_canon | apply State.haltQueue_canon
    | apply State.modPacket_canon | apply State.seen_canon | apply State.signal_canon | apply State.writeHome_canon
    | apply canon_ite | (apply canon_fst; assumption) | intro _ | dsimp only | split
theorem State.beginEnd_canon {s : State} (h : s.Canon) (q i : Nat) (e : PacketEnd) : (State.beginEnd s q i e).Canon := by
  unfold State.beginEnd
  with_reducible repeat' first | assumption | apply State.endPacket_canon | apply State.modPacket_canon
theorem State.learn_canon {s : State} (h : s.Canon) (q : Nat) (p : Packet) : (State.learn s q p).Canon := by
  unfold State.learn
  with_reducible repeat' first | assumption | apply State.modQueue_canon | apply canon_ite | intro _
theorem State.claimCheck_canon {s : State} (h : s.Canon) (q : Nat) (p : Packet) : (State.claimCheck s q p).Canon := by
  unfold State.claimCheck
  with_reducible repeat' first
    | assumption | apply State.discard_canon | apply State.foldl_canon | apply State.modQueue_canon | apply State.postLat_canon
    | apply canon_ite | apply State.Canon.out | intro _ | dsimp only | (apply State.canon_mk; dsimp only) | split
theorem State.signalClash_canon {s : State} (h : s.Canon) (sigs : List Nat) : (State.signalClash s sigs).Canon := by
  unfold State.signalClash
  with_reducible repeat' first
    | assumption | apply State.discard_canon | apply State.foldl_canon | apply canon_ite | intro _ | split
theorem State.admitPacket_canon {s : State} (h : s.Canon) (q i : Nat) (slots : List (List Byte)) : (State.admitPacket s q i
    slots).Canon := by
  unfold State.admitPacket
  with_reducible repeat' first
    | assumption | apply State.claimCheck_canon | apply State.learn_canon | apply State.modQueue_canon
    | apply State.signalClash_canon | apply State.Canon.out | (apply State.canon_mk; dsimp only)
theorem State.slotStale_canon {s : State} (h : s.Canon) (q n : Nat) : (State.slotStale s q n).Canon := by
  unfold State.slotStale
  with_reducible repeat' first
    | assumption | apply State.holdAt_canon | apply State.modQueue_canon | apply State.post_canon | apply canon_ite | intro _
    | split
theorem State.readSlots_canon {s : State} (h : s.Canon) (q : Nat) (x0 : Nat) : (State.readSlots s q x0).Canon := by
  induction x0 generalizing s with
  | zero =>
    unfold State.readSlots
    with_reducible repeat' first | assumption
  | succ n ih =>
    unfold State.readSlots
    with_reducible repeat' first
      | apply ih | assumption | intro _
      | (extract_lets +onlyGivenNames s1; refine canon_cut (s := s1) ?_ ?_; rotate_left; intro hs1; clear_value s1; rotate_left; subst s1)
      | (extract_lets +onlyGivenNames s1; clear_value s1) | apply State.admitPacket_canon | apply State.holdAt_canon
      | apply State.modQueue_canon | apply State.slotStale_canon | apply canon_ite | split
theorem State.pump_canon {s : State} (h : s.Canon) (q : Nat) : (State.pump s q).Canon := by
  unfold State.pump
  with_reducible repeat' first
    | assumption | apply State.readSlots_canon | apply State.settleQueue_canon | apply State.startReady_canon
theorem State.staleTimeout_canon {s : State} (h : s.Canon) (q : Nat) : (State.staleTimeout s q).Canon := by
  unfold State.staleTimeout
  with_reducible repeat' first | assumption | apply State.holdAt_canon | apply canon_ite | intro _ | split
theorem State.notifyIndex_canon {s : State} (h : s.Canon) (q w : Nat) : (State.notifyIndex s q w).Canon := by
  unfold State.notifyIndex
  with_reducible repeat' first
    | assumption | apply State.haltQueue_canon | apply State.modQueue_canon | apply State.postNow_canon | apply canon_ite
    | apply State.Canon.out | intro _ | (apply State.canon_mk; dsimp only)
theorem State.unseat_canon {s : State} (h : s.Canon) (q : Nat) : (State.unseat s q).Canon := by
  unfold State.unseat
  with_reducible repeat' first
    | assumption | apply State.discard_canon | apply State.modQueue_canon | apply canon_ite | intro _ | dsimp only | split
theorem State.seat_canon {s : State} (h : s.Canon) (q : Nat) : (State.seat s q).Canon := by
  unfold State.seat
  with_reducible repeat' first
    | assumption | apply State.foldl_canon | apply State.modQueue_canon | apply State.pollNow_canon | apply State.pump_canon
    | apply canon_ite | intro _
theorem State.residency_canon {s : State} (h : s.Canon) (q : Nat) : (State.residency s q).Canon := by
  unfold State.residency
  with_reducible repeat' first
    | assumption | apply State.postNow_canon | apply State.pump_canon | apply State.seat_canon | apply State.unseat_canon
    | apply canon_ite | intro _ | dsimp only | split
theorem State.evalEntry_canon {s : State} (h : s.Canon) (q : Nat) (p : Packet) (part : Nat) (due : Bool) (j : Nat) :
    (State.evalEntry s q p part due j).1.Canon := by
  unfold State.evalEntry
  with_reducible repeat' first
    | assumption | apply State.emit_canon | apply State.feTranslate_canon | apply State.modPacket_canon | apply canon_ite
    | (apply canon_fst; assumption) | intro _ | dsimp only | split
theorem State.evalEntries_canon {s : State} (h : s.Canon) (q : Nat) (p : Packet) (part : Nat) (due : Bool) (x0 : List Nat) :
    (State.evalEntries s q p part due x0).1.Canon := by
  induction x0 generalizing s with
  | nil =>
    unfold State.evalEntries
    with_reducible repeat' first | assumption
  | cons a l ih =>
    unfold State.evalEntries
    with_reducible repeat' first
      | apply ih | assumption
      | (extract_lets +onlyGivenNames s1; refine canon_cut1 (s := s1) ?_ ?_; rotate_left; intro hs1; clear_value s1; rotate_left; subst s1)
      | apply State.evalEntry_canon | split
theorem State.evaluate_canon {s : State} (h : s.Canon) (q i : Nat) : (State.evaluate s q i).Canon := by
  unfold State.evaluate
  with_reducible repeat' first
    | assumption | apply State.acquireAll_canon | apply State.completePacket_canon | apply State.evalEntries_canon
    | apply State.foldl_canon | apply State.haltQueue_canon | apply State.modPacket_canon | apply State.modQueue_canon
    | apply State.post_canon | apply State.postNow_canon | apply State.seen_canon | apply canon_ite | intro _ | dsimp only | split
theorem State.startWait_canon {s : State} (h : s.Canon) (q i : Nat) : (State.startWait s q i).Canon := by
  unfold State.startWait
  with_reducible repeat' first
    | assumption | apply State.evaluate_canon | apply State.holdAt_canon | apply State.modPacket_canon | apply canon_ite | intro _
    | split
theorem State.hostAnswer_canon {s : State} (h : s.Canon) (q i j : Nat) (v : Option Word) : (State.hostAnswer s q i j v).Canon := by
  unfold State.hostAnswer
  with_reducible repeat' first
    | assumption | apply State.evaluate_canon | apply State.haltQueue_canon | apply State.modPacket_canon | apply canon_ite
    | intro _ | dsimp only | split
theorem State.faultWaitOver_canon {s : State} (h : s.Canon) (q : Nat) : (State.faultWaitOver s q).Canon := by
  unfold State.faultWaitOver
  with_reducible repeat' first
    | assumption | apply State.modQueue_canon | apply State.postNow_canon | apply State.unseat_canon | apply canon_ite | intro _
    | dsimp only | split
theorem State.withPacket_canon {s : State} (h : s.Canon) (q i ty : Nat) (bad : Queue → Packet → Bool) (f : State → Queue → Packet
    → State) (hf : ∀ (a0 : State) (a1 : Queue) (a2 : Packet), a0.Canon → (f a0 a1 a2).Canon) : (State.withPacket s q i ty bad
    f).Canon := by
  unfold State.withPacket
  with_reducible repeat' first
    | assumption | apply State.holdAt_canon | apply State.modPacket_canon | apply hf | apply canon_ite | intro _ | split
theorem State.signalPacket_canon {s : State} (h : s.Canon) (q i : Nat) : (State.signalPacket s q i).Canon := by
  unfold State.signalPacket
  with_reducible repeat' first
    | assumption | apply State.completePacket_canon | apply State.haltQueue_canon | apply State.modPacket_canon
    | apply State.seen_canon | apply State.signal_canon | apply State.withPacket_canon | (apply canon_fst; assumption) | intro _
    | split
theorem State.copyPacket_canon {s : State} (h : s.Canon) (q i : Nat) : (State.copyPacket s q i).Canon := by
  unfold State.copyPacket
  with_reducible repeat' first
    | assumption | refine Cluster.Canon.shadow_ok ?_ | apply State.beginEnd_canon | apply State.endPacket_canon
    | apply State.modCluster_canon | apply State.postLat_canon | apply State.withPacket_canon | apply canon_ite
    | apply State.Canon.out | apply Cluster.Canon.tiles_wf | intro _ | dsimp only | (apply State.canon_mk; dsimp only) | split
    | (apply Cluster.canon_of <;> dsimp only)
theorem State.invalidate_canon {s : State} (h : s.Canon) (kind asid va len : Nat) : (State.invalidate s kind asid va len).Canon :=
    by
  unfold State.invalidate
  with_reducible repeat' first
    | assumption | refine Cluster.Canon.shadow_ok ?_ | refine State.Canon.images_ok ?_ | refine State.Canon.each_ok ?_
    | refine each_mapEach ?_ ?_ | apply State.discard_canon | apply State.foldl_canon | apply canon_ite | apply mapEach_wf
    | apply Cluster.Canon.tiles_wf | apply State.Canon.mem_wf | apply State.Canon.grans_wf | apply State.Canon.poison_wf
    | apply State.Canon.slots_wf | apply State.Canon.cores_wf | apply State.Canon.clusters_wf | intro _ | dsimp only
    | (apply State.canon_mk; dsimp only) | split | (apply Cluster.canon_of <;> dsimp only) | apply MapsOk.mk
theorem State.tlbinvRemove_canon {s : State} (h : s.Canon) (q i : Nat) (p : Packet) : (State.tlbinvRemove s q i p).Canon := by
  unfold State.tlbinvRemove
  with_reducible repeat' first | assumption | apply State.invalidate_canon | apply State.modPacket_canon | apply State.postLat_canon
theorem State.tlbinvPacket_canon {s : State} (h : s.Canon) (q i : Nat) : (State.tlbinvPacket s q i).Canon := by
  unfold State.tlbinvPacket
  with_reducible repeat' first | assumption | apply State.tlbinvRemove_canon | apply State.withPacket_canon | intro _
theorem State.tlbinvOver_canon {s : State} (h : s.Canon) (q i : Nat) : (State.tlbinvOver s q i).Canon := by
  unfold State.tlbinvOver
  with_reducible repeat' first
    | assumption | apply State.completePacket_canon | apply State.postLat_canon | apply State.tlbinvRemove_canon
    | apply State.withPacket_canon | apply canon_ite | apply State.Canon.out | intro _ | (apply State.canon_mk; dsimp only)
theorem State.fenceStep_canon {s : State} (h : s.Canon) (q i : Nat) : (State.fenceStep s q i).Canon := by
  unfold State.fenceStep
  with_reducible repeat' first
    | assumption | apply State.completePacket_canon | apply State.postLat_canon | apply State.withPacket_canon | apply canon_ite
    | intro _
theorem State.nopStep_canon {s : State} (h : s.Canon) (q i : Nat) : (State.nopStep s q i).Canon := by
  unfold State.nopStep
  with_reducible repeat' first | assumption | apply State.completePacket_canon | apply State.withPacket_canon | intro _
theorem State.segtabStep_canon {s : State} (h : s.Canon) (q i : Nat) : (State.segtabStep s q i).Canon := by
  unfold State.segtabStep
  with_reducible repeat' first
    | assumption | apply State.completePacket_canon | apply State.withPacket_canon | apply State.Canon.out | intro _
    | (apply State.canon_mk; dsimp only)
theorem State.writeCounters_canon {s : State} (h : s.Canon) (q : Nat) (i : Fin 4) (v : Word) : (State.writeCounters s q i v).Canon
    := by
  unfold State.writeCounters
  with_reducible repeat' first | assumption | apply State.modQueue_canon | apply canon_ite | intro _
theorem execWridx_canon {s : State} (h : s.Canon) (q : Nat) (value : Word) : Res.Canon (execWridx q value s) := by
  unfold execWridx
  with_reducible repeat' first | assumption | apply State.notifyIndex_canon | apply Res.canon_next
theorem execPredictionCounterWrite_canon {s : State} (h : s.Canon) (q : Nat) (word : Fin 4) (value : Word) : Res.Canon
    (execPredictionCounterWrite q word value s) := by
  unfold execPredictionCounterWrite
  with_reducible repeat' first | assumption | apply State.writeCounters_canon | apply Res.canon_next
theorem execSlotReread_canon {s : State} (h : s.Canon) (q : Nat) : Res.Canon (execSlotReread q s) := by
  unfold execSlotReread
  with_reducible repeat' first | assumption | apply State.pump_canon | apply Res.canon_next
theorem execStaleSlotTimeout_canon {s : State} (h : s.Canon) (q : Nat) : Res.Canon (execStaleSlotTimeout q s) := by
  unfold execStaleSlotTimeout
  with_reducible repeat' first | assumption | apply State.staleTimeout_canon | apply Res.canon_next
theorem execQueueResidency_canon {s : State} (h : s.Canon) (q : Nat) : Res.Canon (execQueueResidency q s) := by
  unfold execQueueResidency
  with_reducible repeat' first | assumption | apply State.residency_canon | apply Res.canon_next
theorem execWaitAll_canon {s : State} (h : s.Canon) (q index : Nat) : Res.Canon (execWaitAll q index s) := by
  unfold execWaitAll
  with_reducible repeat' first | assumption | apply State.startWait_canon | apply Res.canon_next
theorem execWaitAny_canon {s : State} (h : s.Canon) (q index : Nat) : Res.Canon (execWaitAny q index s) := by
  unfold execWaitAny
  with_reducible repeat' first | assumption | apply State.startWait_canon | apply Res.canon_next
theorem execWaitEvaluation_canon {s : State} (h : s.Canon) (q index : Nat) : Res.Canon (execWaitEvaluation q index s) := by
  unfold execWaitEvaluation
  with_reducible repeat' first | assumption | apply State.evaluate_canon | apply Res.canon_next
theorem execWaitHostReadResponse_canon {s : State} (h : s.Canon) (q index entry : Nat) (value : Option Word) : Res.Canon
    (execWaitHostReadResponse q index entry value s) := by
  unfold execWaitHostReadResponse
  with_reducible repeat' first | assumption | apply State.hostAnswer_canon | apply Res.canon_next
theorem execWaitFaultTimeout_canon {s : State} (h : s.Canon) (q : Nat) : Res.Canon (execWaitFaultTimeout q s) := by
  unfold execWaitFaultTimeout
  with_reducible repeat' first | assumption | apply State.faultWaitOver_canon | apply Res.canon_next
theorem execSignal_canon {s : State} (h : s.Canon) (q index : Nat) : Res.Canon (execSignal q index s) := by
  unfold execSignal
  with_reducible repeat' first | assumption | apply State.signalPacket_canon | apply Res.canon_next
theorem execCopy_canon {s : State} (h : s.Canon) (q index : Nat) : Res.Canon (execCopy q index s) := by
  unfold execCopy
  with_reducible repeat' first | assumption | apply State.copyPacket_canon | apply Res.canon_next
theorem execTlbinv_canon {s : State} (h : s.Canon) (q index : Nat) : Res.Canon (execTlbinv q index s) := by
  unfold execTlbinv
  with_reducible repeat' first | assumption | apply State.tlbinvPacket_canon | apply Res.canon_next
theorem execTlbinvCompletion_canon {s : State} (h : s.Canon) (q index : Nat) : Res.Canon (execTlbinvCompletion q index s) := by
  unfold execTlbinvCompletion
  with_reducible repeat' first | assumption | apply State.tlbinvOver_canon | apply Res.canon_next
theorem execFencePacket_canon {s : State} (h : s.Canon) (q index : Nat) : Res.Canon (execFencePacket q index s) := by
  unfold execFencePacket
  with_reducible repeat' first | assumption | apply State.fenceStep_canon | apply Res.canon_next
theorem execNopPacket_canon {s : State} (h : s.Canon) (q index : Nat) : Res.Canon (execNopPacket q index s) := by
  unfold execNopPacket
  with_reducible repeat' first | assumption | apply State.nopStep_canon | apply Res.canon_next
theorem execSegtab_canon {s : State} (h : s.Canon) (q index : Nat) : Res.Canon (execSegtab q index s) := by
  unfold execSegtab
  with_reducible repeat' first | assumption | apply State.segtabStep_canon | apply Res.canon_next

/-! ### Collective -/

theorem State.azSend_canon {s : State} (h : s.Canon) (link : Fin 8) (ty : Nat) (satinf : Bool) (data : List Byte) (dst plan count
    step seq : Nat) : (State.azSend s link ty satinf data dst plan count step seq).Canon := by
  unfold State.azSend
  with_reducible repeat' first | assumption | apply State.emit_canon
theorem State.modLink_canon {s : State} (h : s.Canon) (l : Fin 8) (f : Link → Link) : (State.modLink s l f).Canon := by
  unfold State.modLink
  with_reducible repeat' first | assumption | apply State.Canon.out | (apply State.canon_mk; dsimp only)
theorem State.modCmd_canon {s : State} (h : s.Canon) (die id : Nat) (f : CCmd → CCmd) : (State.modCmd s die id f).Canon := by
  unfold State.modCmd
  with_reducible repeat' first | assumption | apply State.modDie_canon
theorem State.modStep_canon {s : State} (h : s.Canon) (die id k : Nat) (f : CStep → CStep) : (State.modStep s die id k f).Canon :=
    by
  unfold State.modStep
  with_reducible repeat' first | assumption | apply State.modCmd_canon
theorem State.stepAgain_canon {s : State} (h : s.Canon) (die id k : Nat) : (State.stepAgain s die id k).Canon := by
  unfold State.stepAgain
  with_reducible repeat' first | assumption | apply State.poll_canon
theorem State.stepWaits_canon {s : State} (h : s.Canon) (die id k : Nat) (b : Option (Nat × Nat)) : (State.stepWaits s die id k
    b).Canon := by
  unfold State.stepWaits
  with_reducible repeat' first | assumption | apply State.modStep_canon | apply State.stepAgain_canon
theorem State.cmdWaits_canon {s : State} (h : s.Canon) (die : Nat) (c : CCmd) (b : Option (Nat × Nat)) : (State.cmdWaits s die c
    b).Canon := by
  unfold State.cmdWaits
  with_reducible repeat' first | assumption | apply State.modCmd_canon | apply State.stepAgain_canon
theorem State.pushColl_canon {s : State} (h : s.Canon) (o : Rab) (donate : Bool) : (State.pushColl s o donate).Canon := by
  unfold State.pushColl
  with_reducible repeat' first
    | assumption | apply State.blockCur_canon | apply State.discard_canon | apply State.finish_canon | apply State.modDie_canon
    | apply State.postLat_canon | apply State.pushWaits_canon | apply State.trapExact_canon | apply canon_ite
    | apply State.Canon.out | intro _ | dsimp only | (apply State.canon_mk; dsimp only) | split
theorem execCollq_canon {s : State} (h : s.Canon) (o : Rab) : Res.Canon (execCollq o s) := by
  unfold execCollq
  with_reducible repeat' first
    | assumption | apply State.pushColl_canon | apply State.withSrcs_canon | apply Res.canon_next | intro _
theorem execDonate_canon {s : State} (h : s.Canon) (o : Rab) : Res.Canon (execDonate o s) := by
  unfold execDonate
  with_reducible repeat' first
    | assumption | apply State.pushColl_canon | apply State.withSrcs_canon | apply Res.canon_next | intro _
theorem State.drawWord_canon {s : State} (h : s.Canon) : (State.drawWord s).1.Canon := by
  unfold State.drawWord
  with_reducible repeat' first | assumption | apply State.Canon.out | dsimp only | (apply State.canon_mk; dsimp only)
theorem State.endCmd_canon {s : State} (h : s.Canon) (die : Nat) (c : CCmd) (status : Nat) (payload : Option Nat) : (State.endCmd
    s die c status payload).Canon := by
  unfold State.endCmd
  with_reducible repeat' first
    | assumption | apply State.countSent_canon | apply State.drawWord_canon | apply State.modDie_canon | apply State.postLat_canon
    | apply State.Canon.out | (apply State.canon_mk; dsimp only) | split
theorem State.settleCmd_canon {s : State} (h : s.Canon) (die id : Nat) : (State.settleCmd s die id).Canon := by
  unfold State.settleCmd
  with_reducible repeat' first | assumption | apply State.endCmd_canon | apply canon_ite | intro _ | split
theorem State.returnTile_canon {s : State} (h : s.Canon) (c : CCmd) (x : CStep) : (State.returnTile s c x).Canon := by
  unfold State.returnTile
  with_reducible repeat' first | assumption | apply State.atPart_canon | apply State.freeTile_canon | intro _ | split
theorem State.failStep_canon {s : State} (h : s.Canon) (die id k : Nat) : (State.failStep s die id k).Canon := by
  unfold State.failStep
  with_reducible repeat' first
    | assumption | refine Cluster.Canon.shadow_ok ?_ | apply State.modCmd_canon | apply State.modStep_canon
    | apply State.returnTile_canon | apply State.settleCmd_canon | apply canon_each | apply Cluster.Canon.tiles_wf | intro _
    | (apply State.canon_mk; dsimp only) | split | (apply Cluster.canon_of <;> dsimp only)
theorem State.planWords_canon {s : State} (h : s.Canon) (c : CCmd) (o n : Nat) : (State.planWords s c o n).1.Canon := by
  unfold State.planWords
  with_reducible repeat' first | assumption | apply State.unitReadAll_canon | (apply canon_fst; assumption) | split
theorem State.badPlan_canon {s : State} (h : s.Canon) (die : Nat) (c : CCmd) : (State.badPlan s die c).Canon := by
  unfold State.badPlan
  with_reducible repeat' first | assumption | apply State.endCmd_canon
theorem State.parkCmd_canon {s : State} (h : s.Canon) (die id d key : Nat) : (State.parkCmd s die id d key).Canon := by
  unfold State.parkCmd
  with_reducible repeat' first | assumption | apply State.modCmd_canon
theorem State.loadPlan_canon {s : State} (h : s.Canon) (die : Nat) (c : CCmd) : (State.loadPlan s die c).Canon := by
  unfold State.loadPlan
  with_reducible repeat' first
    | assumption | apply State.badPlan_canon | apply State.cmdWaits_canon | apply State.foldl_canon | apply State.modCmd_canon
    | apply State.parkCmd_canon | apply State.planWords_canon | apply State.postNow_canon | apply canon_ite
    | (apply canon_fst; assumption) | intro _ | dsimp only | split
theorem State.readWords_canon {s : State} (h : s.Canon) (u : Actor) (pl : Place) (x0 : Nat) (x1 : Nat) : (State.readWords s u pl
    x0 x1).1.Canon := by
  induction x0 generalizing s x1 with
  | zero =>
    unfold State.readWords
    with_reducible repeat' first | assumption
  | succ n ih =>
    unfold State.readWords
    with_reducible repeat' first
      | apply ih | assumption
      | (extract_lets +onlyGivenNames s1; refine canon_cut1 (s := s1) ?_ ?_; rotate_left; intro hs1; clear_value s1; rotate_left; subst s1)
      | apply State.drawWord_canon | apply State.unitRead_canon | (apply canon_fst; assumption) | split
theorem State.readPiece_canon {s : State} (h : s.Canon) (c : CCmd) (x : CStep) (w k : Nat) : (State.readPiece s c x w k).1.Canon
    := by
  unfold State.readPiece
  with_reducible repeat' first | assumption | apply State.readWords_canon | (apply canon_fst; assumption) | dsimp only | split
theorem State.parkStep_canon {s : State} (h : s.Canon) (die id k pos d key : Nat) : (State.parkStep s die id k pos d key).Canon :=
    by
  unfold State.parkStep
  with_reducible repeat' first | assumption | apply State.modStep_canon
theorem State.stepMore_canon {s : State} (h : s.Canon) (die id k : Nat) (ended : Bool) : (State.stepMore s die id k ended).Canon
    := by
  unfold State.stepMore
  with_reducible repeat' first | assumption | apply State.postLat_canon | apply State.stepAgain_canon | apply canon_ite | intro _
theorem State.pieceBarrier_canon {s : State} (h : s.Canon) (c : CCmd) (x : CStep) : (State.pieceBarrier s c x).Canon := by
  unfold State.pieceBarrier
  with_reducible repeat' first | assumption | apply State.barrierSub_canon | apply canon_ite | intro _
theorem State.answerPiece_canon {s : State} (h : s.Canon) (c : CCmd) (k : Nat) (p : CPiece) : (State.answerPiece s c k p).Canon :=
    by
  unfold State.answerPiece
  with_reducible repeat' first | assumption | apply State.azSend_canon
theorem State.sendPiece_canon {s : State} (h : s.Canon) (die id k : Nat) (c : CCmd) (x : CStep) : (State.sendPiece s die id k c
    x).Canon := by
  unfold State.sendPiece
  with_reducible repeat' first
    | assumption | apply State.azSend_canon | apply State.failStep_canon | apply State.modStep_canon | apply State.parkStep_canon
    | apply State.pieceBarrier_canon | apply State.readPiece_canon | apply State.stepAgain_canon | apply State.stepMore_canon
    | apply State.stepWaits_canon | apply canon_ite | (apply canon_fst; assumption) | intro _ | dsimp only | split
theorem State.landTile_canon {s : State} (h : s.Canon) (die id k : Nat) (c : CCmd) (x : CStep) (cl : Nat) : (State.landTile s die
    id k c x cl).1.Canon := by
  unfold State.landTile
  with_reducible repeat' first
    | assumption | refine Cluster.Canon.shadow_ok ?_ | apply State.grantScan_canon | apply State.modCluster_canon
    | apply State.modStep_canon | apply State.takeTile_canon | apply State.watchPool_canon | apply Cluster.Canon.tiles_wf | intro _
    | dsimp only | split | (apply Cluster.canon_of <;> dsimp only)
theorem State.landPiece_canon {s : State} (h : s.Canon) (die id k : Nat) (c : CCmd) (x : CStep) (p : CPiece) : (State.landPiece s
    die id k c x p).Canon := by
  unfold State.landPiece
  with_reducible repeat' first
    | assumption | apply State.answerPiece_canon | apply State.atPartR_canon | apply State.failStep_canon
    | apply State.freeTile_canon | apply State.landTile_canon | apply State.modStep_canon | apply State.pieceBarrier_canon
    | apply State.pushRing_canon | apply State.stepMore_canon | apply State.writeChipBytes_canon | (apply canon_fst; assumption)
    | intro _ | dsimp only | split
theorem State.storePiece_canon {s : State} (h : s.Canon) (die id k : Nat) (c : CCmd) (x : CStep) (p : CPiece) : (State.storePiece
    s die id k c x p).Canon := by
  unfold State.storePiece
  with_reducible repeat' first
    | assumption | apply State.answerPiece_canon | apply State.failStep_canon | apply State.foldl_canon | apply State.modStep_canon
    | apply State.parkStep_canon | apply State.pieceBarrier_canon | apply State.stepMore_canon | apply State.stepWaits_canon
    | apply State.unitWriteAll_canon | apply canon_ite | (apply canon_fst; assumption) | intro _ | dsimp only | split
theorem State.reduceStep_canon {s : State} (h : s.Canon) (die id k : Nat) (c : CCmd) (x : CStep) : (State.reduceStep s die id k c
    x).Canon := by
  unfold State.reduceStep
  with_reducible repeat' first
    | assumption | apply State.failStep_canon | apply State.modStep_canon | apply State.parkStep_canon | apply State.postNow_canon
    | apply State.readPiece_canon | apply State.stepWaits_canon | apply State.storePiece_canon | (apply canon_fst; assumption)
    | dsimp only | split
theorem State.replyPiece_canon {s : State} (h : s.Canon) (die id k : Nat) (c : CCmd) (x : CStep) (p : CPiece) : (State.replyPiece
    s die id k c x p).Canon := by
  unfold State.replyPiece
  with_reducible repeat' first
    | assumption | apply State.azSend_canon | apply State.failStep_canon | apply State.modStep_canon | apply State.parkStep_canon
    | apply State.readPiece_canon | apply State.stepAgain_canon | apply State.stepWaits_canon | (apply canon_fst; assumption)
    | dsimp only | split
theorem State.runStep_canon {s : State} (h : s.Canon) (die id k : Nat) (c : CCmd) (x : CStep) : (State.runStep s die id k c
    x).Canon := by
  unfold State.runStep
  with_reducible repeat' first
    | assumption | apply State.failStep_canon | apply State.landPiece_canon | apply State.reduceStep_canon
    | apply State.replyPiece_canon | apply State.sendPiece_canon | apply State.storePiece_canon | apply canon_ite | intro _ | split
theorem State.donateStep_canon {s : State} (h : s.Canon) (die : Nat) (c : CCmd) : (State.donateStep s die c).Canon := by
  unfold State.donateStep
  with_reducible repeat' first
    | assumption | apply State.azSend_canon | apply State.cmdWaits_canon | apply State.endCmd_canon | apply State.modCmd_canon
    | apply State.parkCmd_canon | apply State.planWords_canon | apply canon_ite | (apply canon_fst; assumption) | intro _
    | dsimp only | split
theorem State.collStep_canon {s : State} (h : s.Canon) (die id k : Nat) : (State.collStep s die id k).Canon := by
  unfold State.collStep
  with_reducible repeat' first
    | assumption | apply State.badPlan_canon | apply State.donateStep_canon | apply State.endCmd_canon | apply State.failStep_canon
    | apply State.loadPlan_canon | apply State.modCmd_canon | apply State.modStep_canon | apply State.postNow_canon
    | apply State.runStep_canon | apply State.seen_canon | apply State.settleCmd_canon | apply State.stepAgain_canon
    | apply canon_ite | intro _ | dsimp only | split
theorem State.collStepOver_canon {s : State} (h : s.Canon) (die id k : Nat) : (State.collStepOver s die id k).Canon := by
  unfold State.collStepOver
  with_reducible repeat' first
    | assumption | apply State.foldl_canon | apply State.modStep_canon | apply State.postLat_canon | apply State.postNow_canon
    | apply State.settleCmd_canon | apply canon_ite | apply State.Canon.out | intro _ | dsimp only
    | (apply State.canon_mk; dsimp only) | split
theorem State.azDiscard_canon {s : State} (h : s.Canon) (p : AzPkt) : (State.azDiscard s p).Canon := by
  unfold State.azDiscard
  with_reducible repeat' first | assumption | apply State.modDie_canon
theorem State.azArrives_canon {s : State} (h : s.Canon) (p : AzPkt) (ty : Nat) (f : State → State) (hf : ∀ (a0 : State), a0.Canon
    → (f a0).Canon) : (State.azArrives s p ty f).Canon := by
  unfold State.azArrives
  with_reducible repeat' first | assumption | apply State.azDiscard_canon | apply hf | apply canon_ite | intro _
theorem State.takePiece_canon {s : State} (h : s.Canon) (p : AzPkt) (group : Bool) : (State.takePiece s p group).Canon := by
  unfold State.takePiece
  with_reducible repeat' first
    | assumption | apply State.azDiscard_canon | apply State.modStep_canon | apply State.postNow_canon | dsimp only | split
theorem State.takeCredit_canon {s : State} (h : s.Canon) (p : AzPkt) : (State.takeCredit s p).Canon := by
  unfold State.takeCredit
  with_reducible repeat' first
    | assumption | apply State.azDiscard_canon | apply State.modStep_canon | apply State.postNow_canon | split
theorem State.takeAck_canon {s : State} (h : s.Canon) (p : AzPkt) : (State.takeAck s p).Canon := by
  unfold State.takeAck
  with_reducible repeat' first
    | assumption | apply State.azDiscard_canon | apply State.endCmd_canon | apply State.modStep_canon
    | apply State.pieceBarrier_canon | apply State.stepMore_canon | apply canon_ite | intro _ | dsimp only | split
theorem State.takeRequest_canon {s : State} (h : s.Canon) (p : AzPkt) : (State.takeRequest s p).Canon := by
  unfold State.takeRequest
  with_reducible repeat' first
    | assumption | apply State.azDiscard_canon | apply State.modStep_canon | apply State.postNow_canon | dsimp only | split
theorem State.takeReply_canon {s : State} (h : s.Canon) (p : AzPkt) : (State.takeReply s p).Canon := by
  unfold State.takeReply
  with_reducible repeat' first
    | assumption | apply State.azDiscard_canon | apply State.modStep_canon | apply State.postNow_canon | dsimp only | split
theorem State.putSlot_canon {s : State} (h : s.Canon) (q n : Nat) (image : List Byte) : (State.putSlot s q n image).Canon := by
  unfold State.putSlot
  with_reducible repeat' first | assumption | apply State.writeHome_canon
theorem State.takeDonation_canon {s : State} (h : s.Canon) (p : AzPkt) : (State.takeDonation s p).Canon := by
  unfold State.takeDonation
  with_reducible repeat' first
    | assumption | apply State.azDiscard_canon | apply State.azSend_canon | apply State.notifyIndex_canon
    | apply State.putSlot_canon | apply canon_ite | intro _ | dsimp only | split
theorem State.wakeLink_canon {s : State} (h : s.Canon) (l : Fin 8) : (State.wakeLink s l).Canon := by
  unfold State.wakeLink
  with_reducible repeat' first
    | assumption | apply State.foldl_canon | apply State.postNow_canon | apply canon_ite | intro _ | split
theorem State.linkFalls_canon {s : State} (h : s.Canon) (l : Fin 8) : (State.linkFalls s l).Canon := by
  unfold State.linkFalls
  with_reducible repeat' first | assumption | apply State.modLink_canon | apply State.post_canon | apply canon_ite | intro _
theorem State.linkRises_canon {s : State} (h : s.Canon) (l : Fin 8) : (State.linkRises s l).Canon := by
  unfold State.linkRises
  with_reducible repeat' first | assumption | apply State.modLink_canon | apply State.wakeLink_canon | apply canon_ite | intro _
theorem State.linkTimeout_canon {s : State} (h : s.Canon) (l : Fin 8) : (State.linkTimeout s l).Canon := by
  unfold State.linkTimeout
  with_reducible repeat' first | assumption | apply State.wakeLink_canon | apply canon_ite | intro _
theorem State.linkCrc_canon {s : State} (h : s.Canon) (l : Fin 8) : (State.linkCrc s l).Canon := by
  unfold State.linkCrc
  with_reducible repeat' first | assumption | apply State.emit_canon | apply State.modLink_canon | apply canon_ite | intro _
theorem execCollectiveStep_canon {s : State} (h : s.Canon) (die cmd step : Nat) : Res.Canon (execCollectiveStep die cmd step s) :=
    by
  unfold execCollectiveStep
  with_reducible repeat' first | assumption | apply State.collStep_canon | apply Res.canon_next
theorem execCollectiveStepCompletion_canon {s : State} (h : s.Canon) (die cmd step : Nat) : Res.Canon
    (execCollectiveStepCompletion die cmd step s) := by
  unfold execCollectiveStepCompletion
  with_reducible repeat' first | assumption | apply State.collStepOver_canon | apply Res.canon_next
theorem execCollectiveData_canon {s : State} (h : s.Canon) (p : AzPkt) : Res.Canon (execCollectiveData p s) := by
  unfold execCollectiveData
  with_reducible repeat' first
    | assumption | apply State.azArrives_canon | apply State.takePiece_canon | apply Res.canon_next | intro _
theorem execCollectiveAcknowledgement_canon {s : State} (h : s.Canon) (p : AzPkt) : Res.Canon (execCollectiveAcknowledgement p s)
    := by
  unfold execCollectiveAcknowledgement
  with_reducible repeat' first
    | assumption | apply State.azArrives_canon | apply State.takeAck_canon | apply Res.canon_next | intro _
theorem execDonation_canon {s : State} (h : s.Canon) (p : AzPkt) : Res.Canon (execDonation p s) := by
  unfold execDonation
  with_reducible repeat' first
    | assumption | apply State.azArrives_canon | apply State.takeDonation_canon | apply Res.canon_next | intro _
theorem execGroupWrite_canon {s : State} (h : s.Canon) (p : AzPkt) : Res.Canon (execGroupWrite p s) := by
  unfold execGroupWrite
  with_reducible repeat' first
    | assumption | apply State.azArrives_canon | apply State.takePiece_canon | apply Res.canon_next | intro _
theorem execReduceReadRequest_canon {s : State} (h : s.Canon) (p : AzPkt) : Res.Canon (execReduceReadRequest p s) := by
  unfold execReduceReadRequest
  with_reducible repeat' first
    | assumption | apply State.azArrives_canon | apply State.takeRequest_canon | apply Res.canon_next | intro _
theorem execReduceReadReply_canon {s : State} (h : s.Canon) (p : AzPkt) : Res.Canon (execReduceReadReply p s) := by
  unfold execReduceReadReply
  with_reducible repeat' first
    | assumption | apply State.azArrives_canon | apply State.takeReply_canon | apply Res.canon_next | intro _
theorem execCredit_canon {s : State} (h : s.Canon) (p : AzPkt) : Res.Canon (execCredit p s) := by
  unfold execCredit
  with_reducible repeat' first
    | assumption | apply State.azArrives_canon | apply State.takeCredit_canon | apply Res.canon_next | intro _
theorem execLinkFrameCrcError_canon {s : State} (h : s.Canon) (link : Fin 8) : Res.Canon (execLinkFrameCrcError link s) := by
  unfold execLinkFrameCrcError
  with_reducible repeat' first | assumption | apply State.linkCrc_canon | apply Res.canon_next
theorem execLinkDownTimeout_canon {s : State} (h : s.Canon) (link : Fin 8) : Res.Canon (execLinkDownTimeout link s) := by
  unfold execLinkDownTimeout
  with_reducible repeat' first | assumption | apply State.linkTimeout_canon | apply Res.canon_next
theorem execAzrumLinkDown_canon {s : State} (h : s.Canon) (link : Fin 8) : Res.Canon (execAzrumLinkDown link s) := by
  unfold execAzrumLinkDown
  with_reducible repeat' first | assumption | apply State.linkFalls_canon | apply Res.canon_next
theorem execAzrumLinkUp_canon {s : State} (h : s.Canon) (link : Fin 8) : Res.Canon (execAzrumLinkUp link s) := by
  unfold execAzrumLinkUp
  with_reducible repeat' first | assumption | apply State.linkRises_canon | apply Res.canon_next

/-! ### Steal -/

theorem State.calm_canon {s : State} (h : s.Canon) (c : Nat) : (State.calm s c).Canon := by
  unfold State.calm
  with_reducible repeat' first | assumption | apply State.modCore_canon | apply canon_ite | intro _
theorem State.probeTarget_canon {s : State} (h : s.Canon) (thief : Nat) (t : Target) : (State.probeTarget s thief t).1.Canon := by
  unfold State.probeTarget
  with_reducible repeat' first
    | assumption | refine Cluster.Canon.shadow_ok ?_ | apply State.modCluster_canon | apply Cluster.Canon.tiles_wf | intro _
    | dsimp only | split | (apply Cluster.canon_of <;> dsimp only)
theorem State.stealProbe_canon {s : State} (h : s.Canon) (c : Nat) : (State.stealProbe s c).Canon := by
  unfold State.stealProbe
  with_reducible repeat' first
    | assumption | intro _
    | (extract_lets +onlyGivenNames s1; refine canon_cut1 (s := s1) ?_ ?_; rotate_left; intro hs1; clear_value s1; rotate_left; subst s1)
    | (extract_lets +onlyGivenNames s1; clear_value s1) | apply State.modCore_canon | apply State.post_canon
    | apply State.postLat_canon | apply State.postNow_canon | apply State.probeTarget_canon | apply canon_ite | split
theorem State.pauseOver_canon {s : State} (h : s.Canon) (c : Nat) : (State.pauseOver s c).Canon := by
  unfold State.pauseOver
  with_reducible repeat' first | assumption | apply State.modCore_canon | apply State.stealProbe_canon
theorem State.roundGoesOn_canon {s : State} (h : s.Canon) (thief : Nat) : (State.roundGoesOn s thief).Canon := by
  unfold State.roundGoesOn
  with_reducible repeat' first | assumption | apply State.modCore_canon | apply State.stealProbe_canon
theorem State.sendSteal_canon {s : State} (h : s.Canon) (e : DqEntry) (victim thief : Nat) (cross piece released : Bool) (waits :
    List Nat) : (State.sendSteal s e victim thief cross piece released waits).Canon := by
  unfold State.sendSteal
  with_reducible repeat' first
    | assumption | apply State.countSent_canon | apply State.postLat_canon | apply State.Canon.out | dsimp only
    | (apply State.canon_mk; dsimp only)
theorem State.stealGrant_canon {s : State} (h : s.Canon) (victim thief : Nat) : (State.stealGrant s victim thief).Canon := by
  unfold State.stealGrant
  with_reducible repeat' first
    | assumption | apply State.modCore_canon | apply State.pushWaits_canon | apply State.removeEntry_canon
    | apply State.replaceEntry_canon | apply State.roundGoesOn_canon | apply State.sendSteal_canon | apply canon_ite | intro _
    | dsimp only | split
theorem State.tilesAt_canon {s : State} (h : s.Canon) (cl : Nat) (x0 : List (Nat × Word32)) : (State.tilesAt s cl x0).1.Canon := by
  induction x0 generalizing s with
  | nil =>
    unfold State.tilesAt
    with_reducible repeat' first | assumption
  | cons a l ih =>
    unfold State.tilesAt
    with_reducible repeat' first
      | apply ih | assumption
      | (extract_lets +onlyGivenNames s1; refine canon_cut1 (s := s1) ?_ ?_; rotate_left; intro hs1; clear_value s1; rotate_left; subst s1)
      | (extract_lets +onlyGivenNames s1; clear_value s1) | apply State.takeTile_canon | split
theorem State.returnTiles_canon {s : State} (h : s.Canon) (cl : Nat) (l : List (Word32 × Word32)) : (State.returnTiles s cl
    l).Canon := by
  unfold State.returnTiles
  with_reducible repeat' first | assumption | apply State.foldl_canon | apply State.freeTile_canon | intro _
theorem State.writeFrame_canon {s : State} (h : s.Canon) (lid va pa : Nat) (bs : List Byte) : (State.writeFrame s lid va pa
    bs).Canon := by
  unfold State.writeFrame
  with_reducible repeat' first
    | assumption | apply State.discard_canon | apply State.writeDry_canon | apply State.writeHome_canon | apply canon_ite | intro _
    | split
theorem State.beginMove_canon {s : State} (h : s.Canon) (v : Word32) : (State.beginMove s v).Canon := by
  unfold State.beginMove
  with_reducible repeat' first | assumption | apply State.modTile_canon
theorem State.moveTile_canon {s : State} (h : s.Canon) (m : Word32 × Word32) : (State.moveTile s m).Canon := by
  unfold State.moveTile
  with_reducible repeat' first
    | assumption | apply State.clearPoison_canon | apply State.foldl_canon | apply State.freeTile_canon | apply State.modTile_canon
    | apply State.setPoison_canon | apply canon_mem | apply writeList_wf | apply State.Canon.mem_wf | intro _ | dsimp only
    | (apply State.canon_mk; dsimp only)
theorem State.refuseSteal_canon {s : State} (h : s.Canon) (id : Nat) (e : DqEntry) (victim thief : Nat) : (State.refuseSteal s id
    e victim thief).Canon := by
  unfold State.refuseSteal
  with_reducible repeat' first
    | assumption | apply State.countRecvd_canon | apply State.dequeRoom_canon | apply State.dropFlight_canon
    | apply State.postNow_canon | apply State.replaceEntry_canon | apply State.roundGoesOn_canon | split
theorem State.renameTiles_canon {s : State} (h : s.Canon) (lid va pa : Nat) (places : List Nat) (moves : List (Word32 × Word32)) :
    (State.renameTiles s lid va pa places moves).Canon := by
  unfold State.renameTiles
  with_reducible repeat' first | assumption | apply State.foldl_canon | apply State.writeFrame_canon | intro _
theorem State.takeStolen_canon {s : State} (h : s.Canon) (id : Nat) (e : DqEntry) (victim thief va pa : Nat) : (State.takeStolen s
    id e victim thief va pa).Canon := by
  unfold State.takeStolen
  with_reducible repeat' first
    | assumption | intro _
    | (extract_lets +onlyGivenNames s1; refine canon_cut (s := s1) ?_ ?_; rotate_left; intro hs1; clear_value s1; rotate_left; subst s1)
    | (extract_lets +onlyGivenNames s1; refine canon_cut1 (s := s1) ?_ ?_; rotate_left; intro hs1; clear_value s1; rotate_left; subst s1)
    | (extract_lets +onlyGivenNames s1; clear_value s1) | apply State.atPart_canon | apply State.beginMove_canon
    | apply State.changing_canon | apply State.foldl_canon | apply State.grantScan_canon | apply State.launchError_canon
    | apply State.modFlight_canon | apply State.postLat_canon | apply State.refuseSteal_canon | apply State.removeEntry_canon
    | apply State.renameTiles_canon | apply State.returnTiles_canon | apply State.stillRuns_canon | apply State.tilesAt_canon
    | apply State.writeChipBytes_canon | apply State.writeFrame_canon | apply canon_ite | split
theorem State.stealRelease_canon {s : State} (h : s.Canon) (id : Nat) : (State.stealRelease s id).Canon := by
  unfold State.stealRelease
  with_reducible repeat' first
    | assumption | apply State.discard_canon | apply State.launchError_canon | apply State.modFlight_canon
    | apply State.postLat_canon | apply State.takeStolen_canon | apply State.unitTranslate_canon | apply canon_ite | intro _
    | dsimp only | split
theorem State.stealOver_canon {s : State} (h : s.Canon) (id lid thief : Nat) : (State.stealOver s id lid thief).Canon := by
  unfold State.stealOver
  with_reducible repeat' first
    | assumption | apply State.countRecvd_canon | apply State.dropFlight_canon | apply State.modCore_canon
    | apply State.postNow_canon
theorem State.stealDeliver_canon {s : State} (h : s.Canon) (id : Nat) : (State.stealDeliver s id).Canon := by
  unfold State.stealDeliver
  with_reducible repeat' first
    | assumption | apply State.beginTask_canon | apply State.foldl_canon | apply State.modFlight_canon | apply State.modSlot_canon
    | apply State.moveTile_canon | apply State.postLat_canon | apply State.pushTail_canon | apply State.startTask_canon
    | apply State.stealOver_canon | apply State.thiefAcquire_canon | apply canon_ite | intro _ | dsimp only | split
theorem execStealProbe_canon {s : State} (h : s.Canon) (core : Nat) : Res.Canon (execStealProbe core s) := by
  unfold execStealProbe
  with_reducible repeat' first | assumption | apply State.stealProbe_canon | apply Res.canon_next
theorem execStealGrant_canon {s : State} (h : s.Canon) (victim thief : Nat) : Res.Canon (execStealGrant victim thief s) := by
  unfold execStealGrant
  with_reducible repeat' first | assumption | apply State.stealGrant_canon | apply Res.canon_next
theorem execStealReleaseDone_canon {s : State} (h : s.Canon) (id : Nat) : Res.Canon (execStealReleaseDone id s) := by
  unfold execStealReleaseDone
  with_reducible repeat' first | assumption | apply State.stealRelease_canon | apply Res.canon_next
theorem execStealDelivery_canon {s : State} (h : s.Canon) (id : Nat) : Res.Canon (execStealDelivery id s) := by
  unfold execStealDelivery
  with_reducible repeat' first | assumption | apply State.stealDeliver_canon | apply Res.canon_next
theorem execProbePauseExpiry_canon {s : State} (h : s.Canon) (core : Nat) : Res.Canon (execProbePauseExpiry core s) := by
  unfold execProbePauseExpiry
  with_reducible repeat' first | assumption | apply State.pauseOver_canon | apply Res.canon_next

/-! ### System -/

theorem State.writeControl_canon {s : State} (h : s.Canon) (word : Nat) (o : CrW) (f : Word → Word → Word) : (State.writeControl s
    word o f).Canon := by
  unfold State.writeControl
  with_reducible repeat' first
    | assumption | apply State.finish_canon | apply State.illegal_canon | apply State.privileged_canon | apply State.withSrcs_canon
    | apply canon_ite | intro _
theorem execCrrd_canon {s : State} (h : s.Canon) (d cr : Fin 32) : Res.Canon (execCrrd d cr s) := by
  unfold execCrrd
  with_reducible repeat' first
    | assumption | apply State.finish_canon | apply State.illegal_canon | apply State.privileged_canon | apply canon_ite
    | apply Res.canon_next | intro _
theorem execCrwr_canon {s : State} (h : s.Canon) (o : CrW) : Res.Canon (execCrwr o s) := by
  unfold execCrwr
  with_reducible repeat' first | assumption | apply State.writeControl_canon | apply Res.canon_next
theorem execCrset_canon {s : State} (h : s.Canon) (o : CrW) : Res.Canon (execCrset o s) := by
  unfold execCrset
  with_reducible repeat' first | assumption | apply State.writeControl_canon | apply Res.canon_next
theorem execCrclr_canon {s : State} (h : s.Canon) (o : CrW) : Res.Canon (execCrclr o s) := by
  unfold execCrclr
  with_reducible repeat' first | assumption | apply State.writeControl_canon | apply Res.canon_next
theorem execFsset_canon {s : State} (h : s.Canon) (o : FsW) : Res.Canon (execFsset o s) := by
  unfold execFsset
  with_reducible repeat' first
    | assumption | apply State.finish_canon | apply State.illegal_canon | apply State.withSrcs_canon | apply canon_ite
    | apply Res.canon_next | intro _
theorem execFsrd_canon {s : State} (h : s.Canon) (d : Fin 32) (fs : Fin 4) : Res.Canon (execFsrd d fs s) := by
  unfold execFsrd
  with_reducible repeat' first | assumption | apply State.finish_canon | apply Res.canon_next
theorem execTrap_canon {s : State} (h : s.Canon) (o : Ra) : Res.Canon (execTrap o s) := by
  unfold execTrap
  with_reducible repeat' first
    | assumption | apply State.trapExact_canon | apply State.withSrcs_canon | apply Res.canon_next | intro _
theorem State.stopAt_canon {s : State} (h : s.Canon) (t : Nat) : (State.stopAt s t).Canon := by
  unfold State.stopAt
  with_reducible repeat' first | assumption | apply State.postNow_canon | apply State.setSlot_canon | apply canon_ite | intro _
theorem execTret_canon {s : State} (h : s.Canon) : Res.Canon (execTret s) := by
  unfold execTret
  with_reducible repeat' first
    | assumption | apply State.modSlot_canon | apply State.privileged_canon | apply State.stopAt_canon | apply Res.canon_next
    | intro _
theorem execHalt_canon {s : State} (h : s.Canon) : Res.Canon (execHalt s) := by
  unfold execHalt
  with_reducible repeat' first
    | assumption | apply State.privileged_canon | apply State.raise_canon | apply State.setSlot_canon | apply State.stopAt_canon
    | apply Res.canon_next | intro _
theorem execBreak_canon {s : State} (h : s.Canon) (o : Ra) : Res.Canon (execBreak o s) := by
  unfold execBreak
  with_reducible repeat' first
    | assumption | apply State.discard_canon | apply State.raise_canon | apply State.setSlot_canon | apply State.stopAt_canon
    | apply State.withSrcs_canon | apply Res.canon_next | intro _ | dsimp only | split
theorem execIllegalInstruction_canon {s : State} (h : s.Canon) (w : Word32) : Res.Canon (execIllegalInstruction w s) := by
  unfold execIllegalInstruction
  with_reducible repeat' first | assumption | apply State.illegal_canon | apply Res.canon_next
theorem execFetchTrap_canon {s : State} (h : s.Canon) (poisoned : Bool) (at_ : Word) : Res.Canon (execFetchTrap poisoned at_ s) :=
    by
  unfold execFetchTrap
  with_reducible repeat' first | assumption | apply State.trapExact_canon | apply Res.canon_next
theorem execDeferredTrap_canon {s : State} (h : s.Canon) (thr : Nat) : Res.Canon (execDeferredTrap thr s) := by
  unfold execDeferredTrap
  with_reducible repeat' first | assumption | apply State.setSlot_canon | apply Res.canon_next | dsimp only | split
theorem State.parkSlot_canon {s : State} (h : s.Canon) (t : Nat) : (State.parkSlot s t).Canon := by
  unfold State.parkSlot
  with_reducible repeat' first
    | assumption | refine Cluster.Canon.shadow_ok ?_ | apply State.modCluster_canon | apply State.modSlot_canon
    | apply Cluster.Canon.tiles_wf | intro _ | (apply Cluster.canon_of <;> dsimp only)
theorem State.preemptSlot_canon {s : State} (h : s.Canon) (t : Nat) : (State.preemptSlot s t).Canon := by
  unfold State.preemptSlot
  with_reducible repeat' first
    | assumption | apply State.discard_canon | apply State.parkSlot_canon | apply State.setSlot_canon | apply canon_ite | intro _
    | dsimp only | split
theorem execPreemption_canon {s : State} (h : s.Canon) (thr : Nat) : Res.Canon (execPreemption thr s) := by
  unfold execPreemption
  with_reducible repeat' first | assumption | apply State.preemptSlot_canon | apply Res.canon_next

/-! ### Launch -/

theorem State.frameWrite_canon {s : State} (h : s.Canon) (lid va : Nat) (bs : List (Option Byte)) : (State.frameWrite s lid va
    bs).1.Canon := by
  unfold State.frameWrite
  with_reducible repeat' first
    | assumption | apply State.discard_canon | apply State.feTranslate_canon | apply State.noteUsed_canon
    | apply State.translateNow_canon | apply State.writeDry_canon | apply State.writeHome_canon | (apply canon_fst; assumption)
    | split
theorem State.writePools_canon {s : State} (h : s.Canon) (lid : Nat) (l : Launch) : (State.writePools s lid l).Canon := by
  unfold State.writePools
  with_reducible repeat' first
    | assumption | apply State.atPart_canon | apply State.foldl_canon | apply State.setPool_canon | apply canon_ite | intro _
theorem State.rootCount_canon {s : State} (h : s.Canon) (lid n : Nat) (remote : Bool) : (State.rootCount s lid n remote).Canon := by
  unfold State.rootCount
  with_reducible repeat' first
    | assumption | apply State.atPart_canon | apply State.changing_canon | apply State.writeChipBytes_canon | intro _ | split
theorem State.acquirePart_canon {s : State} (h : s.Canon) (p : Nat) : (State.acquirePart s p).Canon := by
  unfold State.acquirePart
  with_reducible repeat' first | assumption | apply State.acquireAll_canon | apply State.foldl_canon | intro _
theorem State.pushPieces_canon {s : State} (h : s.Canon) (lid : Nat) (l : Launch) (x0 : List (Nat × Nat × Nat)) :
    (State.pushPieces s lid l x0).1.Canon := by
  induction x0 generalizing s with
  | nil =>
    unfold State.pushPieces
    with_reducible repeat' first | assumption
  | cons a l ih =>
    unfold State.pushPieces
    with_reducible repeat' first
      | apply ih | assumption
      | (extract_lets +onlyGivenNames s1; refine canon_cut (s := s1) ?_ ?_; rotate_left; intro hs1; clear_value s1; rotate_left; subst s1)
      | (extract_lets +onlyGivenNames s1; clear_value s1) | apply State.modLaunch_canon | apply State.pushTail_canon | split
theorem State.lookPart_canon {s : State} (h : s.Canon) (p : Nat) : (State.lookPart s p).Canon := by
  unfold State.lookPart
  with_reducible repeat' first | assumption | apply State.foldl_canon | apply State.postNow_canon | intro _
theorem State.startRoot_canon {s : State} (h : s.Canon) (lid : Nat) (l : Launch) (t : Nat) : (State.startRoot s lid l t).Canon := by
  unfold State.startRoot
  with_reducible repeat' first
    | assumption | refine Cluster.Canon.shadow_ok ?_ | apply State.calm_canon | apply State.claimSlot_canon
    | apply State.foldl_canon | apply State.lookPart_canon | apply State.modCluster_canon | apply State.modCore_canon
    | apply State.modLaunch_canon | apply State.setTask_canon | apply canon_ite | apply Cluster.Canon.tiles_wf | intro _
    | (apply Cluster.canon_of <;> dsimp only)
theorem State.launchRun_canon {s : State} (h : s.Canon) (lid : Nat) (x0 : Nat) : (State.launchRun s lid x0).Canon := by
  induction x0 generalizing s with
  | zero =>
    unfold State.launchRun
    with_reducible repeat' first | assumption
  | succ n ih =>
    unfold State.launchRun
    with_reducible repeat' first
      | apply ih | assumption | apply State.acquirePart_canon | apply State.atPartR_canon | apply State.discard_canon
      | apply State.frameWrite_canon | apply State.modLaunch_canon | apply State.poll_canon | apply State.pushPieces_canon
      | apply State.rootCount_canon | apply State.startRoot_canon | apply State.takeCounter_canon | apply State.writePools_canon
      | apply canon_ite | (apply canon_fst; assumption) | intro _ | dsimp only | split
theorem State.launchGo_canon {s : State} (h : s.Canon) (lid : Nat) : (State.launchGo s lid).Canon := by
  unfold State.launchGo
  with_reducible repeat' first
    | assumption | apply State.launchError_canon | apply State.launchRun_canon | apply State.modLaunch_canon
    | apply State.seen_canon | split
theorem State.launchPacket_canon {s : State} (h : s.Canon) (q i : Nat) : (State.launchPacket s q i).Canon := by
  unfold State.launchPacket
  with_reducible repeat' first
    | assumption | apply State.beginEnd_canon | apply State.endPacket_canon | apply State.launchGo_canon
    | apply State.launchRun_canon | apply State.lookPart_canon | apply State.poll_canon | apply State.setLaunch_canon
    | apply canon_ite | intro _ | dsimp only | split
theorem State.speculate_canon {s : State} (h : s.Canon) (q : Nat) : (State.speculate s q).Canon := by
  unfold State.speculate
  with_reducible repeat' first
    | assumption | apply State.launchRun_canon | apply State.lookPart_canon | apply State.modQueue_canon
    | apply State.setLaunch_canon | apply canon_ite | apply State.Canon.out | intro _ | dsimp only
    | (apply State.canon_mk; dsimp only) | split
theorem State.claimReplied_canon {s : State} (h : s.Canon) (sid d : Fin 4) : (State.claimReplied s sid d).Canon := by
  unfold State.claimReplied
  with_reducible repeat' first
    | assumption | refine Cluster.Canon.shadow_ok ?_ | apply State.discard_canon | apply State.modLaunch_canon
    | apply State.modPacket_canon | apply State.modQueue_canon | apply State.post_canon | apply State.postNow_canon
    | apply canon_ite | apply State.Canon.out | apply canon_each | apply mapEach_wf | apply Cluster.Canon.tiles_wf | intro _
    | dsimp only | (apply State.canon_mk; dsimp only) | split | (apply Cluster.canon_of <;> dsimp only)
theorem State.reclaimTiles_canon {s : State} (h : s.Canon) (lid cl : Nat) : (State.reclaimTiles s lid cl).1.Canon := by
  unfold State.reclaimTiles
  with_reducible repeat' first
    | assumption | apply State.foldl_canon | apply State.freeTile_canon | apply State.purgeRings_canon | intro _
theorem State.letGoAt_canon {s : State} (h : s.Canon) (lid cl : Nat) : (State.letGoAt s lid cl).1.Canon := by
  unfold State.letGoAt
  with_reducible repeat' first
    | assumption | refine Cluster.Canon.shadow_ok ?_ | apply State.foldl_canon | apply State.modCluster_canon
    | apply State.modCore_canon | apply State.modSlot_canon | apply State.postNow_canon | apply State.reclaimTiles_canon
    | apply Cluster.Canon.tiles_wf | intro _ | (apply Cluster.canon_of <;> dsimp only)
theorem State.letGo_canon {s : State} (h : s.Canon) (lid part : Nat) : (s.letGo lid part).1.Canon := by
  unfold State.letGo
  extract_lets keep stowed t
  have hs : ∀ v : Saved, v.Canon → (stowed v).Canon := fun v hv => { hv with }
  have ht : t.Canon :=
    { h with
      clusters := mapEach_wf _ (fun c : Cluster => { c with shadow := c.shadow.map stowed, replay := keep c.replay }) _ h.clusters
      each := each_mapEach (f := fun c : Cluster => { c with shadow := c.shadow.map stowed, replay := keep c.replay }) h.each fun c hc =>
        ⟨hc.tiles, map_canon hs hc.shadow⟩
      images := images_mapEach hs h.images }
  clear_value t
  refine State.foldl_canon1 (fun r a hr => ?_) (r := (t, 0)) ht _
  exact State.atPartR_canon hr lid a (fun s => s.letGoAt lid a) fun b hb => State.letGoAt_canon hb _ _
theorem State.resolveKilled_canon {s : State} (h : s.Canon) (lid : Nat) : (State.resolveKilled s lid).Canon := by
  unfold State.resolveKilled
  with_reducible repeat' first | assumption | apply State.foldl_canon | apply State.resolveRecord_canon | intro _
theorem State.drainLaunch_canon {s : State} (h : s.Canon) (lid : Nat) : (State.drainLaunch s lid).Canon := by
  unfold State.drainLaunch
  with_reducible repeat' first | assumption | apply State.drainThread_canon | apply State.foldl_canon | intro _
theorem State.merge_canon {s : State} (h : s.Canon) (sid : Fin 4) : (State.merge s sid).Canon := by
  unfold State.merge
  with_reducible repeat' first
    | assumption | apply State.drainLaunch_canon | apply State.foldl_canon | apply State.modLaunch_canon
    | apply State.modQueue_canon | apply State.poll_canon | apply State.postNow_canon | apply State.writeHome_canon
    | apply canon_ite | apply State.Canon.out | intro _ | dsimp only | (apply State.canon_mk; dsimp only) | split
theorem State.reclaimLaunch_canon {s : State} (h : s.Canon) (lid : Nat) (l : Launch) : (State.reclaimLaunch s lid l).Canon := by
  unfold State.reclaimLaunch
  with_reducible repeat' first | assumption | apply State.letGo_canon | apply State.modLaunch_canon | apply State.postNow_canon
theorem State.endLaunch_canon {s : State} (h : s.Canon) (lid : Nat) (l : Launch) : (State.endLaunch s lid l).Canon := by
  unfold State.endLaunch
  with_reducible repeat' first
    | assumption | refine Cluster.Canon.shadow_ok ?_ | apply State.beginEnd_canon | apply State.freeLid_canon | apply canon_each
    | apply Cluster.Canon.tiles_wf | intro _ | (apply State.canon_mk; dsimp only) | (apply Cluster.canon_of <;> dsimp only)
theorem State.completeLaunch_canon {s : State} (h : s.Canon) (lid : Nat) : (State.completeLaunch s lid).Canon := by
  unfold State.completeLaunch
  with_reducible repeat' first
    | assumption | apply State.drainLaunch_canon | apply State.dropLaunchWork_canon | apply State.endLaunch_canon
    | apply State.poll_canon | apply State.pollNow_canon | apply State.reclaimLaunch_canon | apply State.resolveKilled_canon
    | apply canon_ite | intro _ | dsimp only | split
theorem State.quiescenceWave_canon {s : State} (h : s.Canon) (lid : Nat) : (State.quiescenceWave s lid).Canon := by
  unfold State.quiescenceWave
  with_reducible repeat' first
    | assumption | intro _ | (extract_lets +onlyGivenNames s1; clear_value s1) | apply State.discard_canon
    | apply State.modLaunch_canon | apply State.postLat_canon | apply State.postNow_canon | apply State.reclaimLaunch_canon
    | apply canon_ite | apply State.Canon.out | (apply State.canon_mk; dsimp -zeta only) | split
theorem State.watchdogStop_canon {s : State} (h : s.Canon) (lid : Nat) : (State.watchdogStop s lid).Canon := by
  unfold State.watchdogStop
  with_reducible repeat' first
    | assumption | apply State.discard_canon | apply State.foldl_canon | apply State.modLaunch_canon | apply State.post_canon
    | apply State.preemptSlot_canon | apply State.raise_canon | apply canon_ite | intro _ | dsimp only | split
theorem State.killLaunch_canon {s : State} (h : s.Canon) (lid status : Nat) : (State.killLaunch s lid status).Canon := by
  unfold State.killLaunch
  with_reducible repeat' first
    | assumption | apply State.discardNow_canon | apply State.modLaunch_canon | apply State.postNow_canon | apply canon_ite
    | intro _ | split
theorem State.watchdogEnd_canon {s : State} (h : s.Canon) (lid : Nat) : (State.watchdogEnd s lid).Canon := by
  unfold State.watchdogEnd
  with_reducible repeat' first
    | assumption | apply State.killLaunch_canon | apply State.modLaunch_canon | apply State.post_canon | apply State.raise_canon
    | apply canon_ite | intro _ | dsimp only | split
theorem execLaunch_canon {s : State} (h : s.Canon) (q index : Nat) : Res.Canon (execLaunch q index s) := by
  unfold execLaunch
  with_reducible repeat' first | assumption | apply State.launchPacket_canon | apply Res.canon_next
theorem execSpeculationStart_canon {s : State} (h : s.Canon) (q : Nat) : Res.Canon (execSpeculationStart q s) := by
  unfold execSpeculationStart
  with_reducible repeat' first | assumption | apply State.speculate_canon | apply Res.canon_next
theorem execWatchedWrite_canon {s : State} (h : s.Canon) (pa len : Nat) : Res.Canon (execWatchedWrite pa len s) := by
  unfold execWatchedWrite
  with_reducible repeat' first | assumption | apply State.watch_canon | apply Res.canon_next
theorem execSpeculationDiscard_canon {s : State} (h : s.Canon) (sid : Fin 4) (cause : Nat) : Res.Canon (execSpeculationDiscard sid
    cause s) := by
  unfold execSpeculationDiscard
  with_reducible repeat' first | assumption | apply State.discard_canon | apply canon_ite | apply Res.canon_next | intro _
theorem execClaimReply_canon {s : State} (h : s.Canon) (sid die : Fin 4) : Res.Canon (execClaimReply sid die s) := by
  unfold execClaimReply
  with_reducible repeat' first | assumption | apply State.claimReplied_canon | apply Res.canon_next
theorem execSpeculationMerge_canon {s : State} (h : s.Canon) (sid : Fin 4) : Res.Canon (execSpeculationMerge sid s) := by
  unfold execSpeculationMerge
  with_reducible repeat' first | assumption | apply State.merge_canon | apply Res.canon_next
theorem execQuiescenceWave_canon {s : State} (h : s.Canon) (lid : Nat) : Res.Canon (execQuiescenceWave lid s) := by
  unfold execQuiescenceWave
  with_reducible repeat' first | assumption | apply State.quiescenceWave_canon | apply Res.canon_next
theorem execLaunchCompletion_canon {s : State} (h : s.Canon) (lid : Nat) : Res.Canon (execLaunchCompletion lid s) := by
  unfold execLaunchCompletion
  with_reducible repeat' first | assumption | apply State.completeLaunch_canon | apply Res.canon_next
theorem execWatchdogPreempt_canon {s : State} (h : s.Canon) (lid : Nat) : Res.Canon (execWatchdogPreempt lid s) := by
  unfold execWatchdogPreempt
  with_reducible repeat' first | assumption | apply State.watchdogStop_canon | apply Res.canon_next
theorem execWatchdogKill_canon {s : State} (h : s.Canon) (lid : Nat) : Res.Canon (execWatchdogKill lid s) := by
  unfold execWatchdogKill
  with_reducible repeat' first | assumption | apply State.watchdogEnd_canon | apply Res.canon_next

end Sys2Proof.Machine
end

