-- ==== Sys2Proof/Laws/CanonicalHost.lean ====
section
/-! SUPPORT. What keeps the maps of a state canonical: context switches and migration, control requests, bring-up, and the control
and vector instructions. -/

namespace Sys2Proof.Machine

/-! ### Switch -/

theorem State.imageWrite_canon {s : State} (h : s.Canon) (cl : Nat) (r : PartRec) (va : Nat) (bs : List Byte) : (State.imageWrite
    s cl r va bs).Canon := by
  unfold State.imageWrite
  with_reducible repeat' first
    | assumption | apply State.foldl_canon | apply State.translateNow_canon | apply State.writeHome_canon
    | (apply canon_fst; assumption) | intro _ | split
theorem State.imageRegion_canon {s : State} (h : s.Canon) (cl : Nat) (r : PartRec) (off kind : Nat) (lit : Bool) (tstate gran :
    Nat) (bytes : List Byte) : (State.imageRegion s cl r off kind lit tstate gran bytes).Canon := by
  unfold State.imageRegion
  with_reducible repeat' first | assumption | apply State.imageWrite_canon
theorem State.saveRegions_canon {s : State} (h : s.Canon) (cl : Nat) (r : PartRec) : (State.saveRegions s cl r).Canon := by
  unfold State.saveRegions
  with_reducible repeat' first
    | assumption | refine Cluster.Canon.shadow_ok ?_ | apply State.foldl_canon | apply State.imageRegion_canon
    | apply State.imageWrite_canon | apply State.modCluster_canon | apply State.modCore_canon | apply canon_ite | apply mapEach_wf
    | apply Cluster.Canon.tiles_wf | intro _ | (apply Cluster.canon_of <;> dsimp only)
theorem State.saveHeader_canon {s : State} (h : s.Canon) (cl : Nat) (r : PartRec) (msgs : List (Nat × MailEntry)) :
    (State.saveHeader s cl r msgs).Canon := by
  unfold State.saveHeader
  with_reducible repeat' first | assumption | apply State.imageWrite_canon
theorem State.clearImage_canon {s : State} (h : s.Canon) (cl : Nat) (r : PartRec) : (State.clearImage s cl r).Canon := by
  unfold State.clearImage
  with_reducible repeat' first | assumption | apply State.foldl_canon | apply State.imageWrite_canon | intro _
theorem State.freshContext_canon (s : State) (cl p : Nat) (r : PartRec) : (s.freshContext cl p r).Canon := by
  refine ⟨rfl, rfl, rfl, table_wf _ _ _ _, table_wf_all _ _ _ _ ?_, rfl⟩
  intro i h
  have ht := congrArg (fun k => k.admission.toNat) h
  simp only [BitVec.toNat_ofNat] at ht
  rcases Nat.lt_or_ge p 64 with hp | hp
  · have : 2 ^ p ≤ 2 ^ 63 := Nat.pow_le_pow_right (by decide) (by omega)
    rw [Nat.mod_eq_of_lt (by omega)] at ht
    simp at ht
  · obtain ⟨k, rfl⟩ := Nat.exists_eq_add_of_le hp
    rw [Nat.pow_add, Nat.add_comm, Nat.add_mul_mod_self_left] at ht
    simp at ht
theorem Saved.canon_stowed {v : Saved} (h : v.Canon) (m : List (Nat × MailEntry)) : (v.stowed m).Canon :=
  by
  unfold Saved.stowed
  refine Saved.canon_of h.bytes h.grans h.poison ?_ ?_ h.tiles <;> dsimp only
  · exact mapEach_wf _ _ _ h.slots
  · exact mapEach_wf _ _ _ h.cores
theorem State.writeSystem_canon {s : State} (h : s.Canon) (cl : Nat) (r : PartRec) : (State.writeSystem s cl r).Canon := by
  unfold State.writeSystem
  with_reducible repeat' first
    | assumption | refine Cluster.Canon.shadow_ok ?_ | apply State.modCluster_canon | apply Cluster.Canon.tiles_wf | intro _
    | (apply Cluster.canon_of <;> dsimp only)
theorem State.keepCores_canon {s : State} (h : s.Canon) (old : State) (cl : Nat) : (State.keepCores s old cl).Canon := by
  unfold State.keepCores
  with_reducible repeat' first | assumption | apply State.foldl_canon | apply State.modCore_canon | intro _
theorem State.assign_canon {s : State} (h : s.Canon) (cl p : Nat) (r : PartRec) : (s.assign cl p r).Canon := by
  have hf := State.freshContext_canon s cl p r
  unfold State.assign
  dsimp only
  refine State.clearImage_canon (State.writeSystem_canon (State.modCluster_canon (State.keepCores_canon (State.putLive_canon h cl ?_) _ _) _ _ ?_) _ _) _ _
  · exact ⟨memRange_wf h.mem _ _, hf.grans, mapRange_wf _ _ _ _ h.poison, hf.slots, hf.cores, (State.canon_cluster h cl).tiles⟩
  · exact fun c hc => ⟨hc.tiles, hc.shadow⟩
theorem State.wakeContext_canon {s : State} (h : s.Canon) (cl : Nat) : (State.wakeContext s cl).Canon := by
  unfold State.wakeContext
  with_reducible repeat' first
    | assumption | refine Cluster.Canon.shadow_ok ?_ | apply State.foldl_canon | apply State.modCluster_canon
    | apply State.postNow_canon | apply State.setSlot_canon | apply canon_ite | apply mapEach_wf | apply Cluster.Canon.tiles_wf
    | intro _ | (apply Cluster.canon_of <;> dsimp only)
theorem State.replayMail_canon {s : State} (h : s.Canon) (cl : Nat) (x0 : List (Nat × MailEntry)) : (State.replayMail s cl
    x0).Canon := by
  induction x0 generalizing s with
  | nil =>
    unfold State.replayMail
    with_reducible repeat' first | assumption
  | cons a l ih =>
    unfold State.replayMail
    with_reducible repeat' first
      | apply ih | assumption | refine Cluster.Canon.shadow_ok ?_ | intro _ | apply State.acceptMail_canon
      | apply State.modCluster_canon | apply canon_ite | apply Cluster.Canon.tiles_wf
      | (apply Cluster.canon_of <;> dsimp -zeta only)
theorem State.swap_canon {s : State} (h : s.Canon) (cl p q : Nat) (rq : PartRec) : (s.swap cl p q rq).Canon := by
  have hi : ∀ {s : State} (_ : s.Canon) (k : Nat), ∀ w, mapGet none s.images k = some w → w.Canon := fun h _ _ hw => mapGet_image h hw
  unfold State.swap
  extract_lets old msgs s1 out s2 back s3 s4 s5 s6
  have h1 : s1.Canon := by
    simp only [s1]
    split
    · exact State.saveHeader_canon (State.saveRegions_canon h _ _) _ _ _
    · exact h
  clear_value s1
  have ho : out.Canon := Saved.canon_stowed (State.liveOf_canon h1 p cl) msgs
  clear_value out
  have h2 : s2.Canon := by
    simp only [s2]
    split
    · rename_i sv hv
      split
      · exact h1
      · exact canon_images h1 (canon_imagesPut h1 fun v hw => Saved.canon_some hw (Cluster.canon_shadow hv (State.canon_cluster h1 cl)))
    · exact h1
  clear_value s2
  have hb : back.Canon := by
    simp only [back]
    split
    · rename_i sv hv
      split
      · exact Cluster.canon_shadow hv (State.canon_cluster h2 cl)
      · exact Saved.canon_getD (hi h2 _) (State.freshContext_canon _ _ _ _)
    · exact Saved.canon_getD (hi h2 _) (State.freshContext_canon _ _ _ _)
  clear_value back
  have h3 : s3.Canon := canon_images h2 (canon_imagesPut h2 fun v hw => Saved.canon_none hw)
  have h4 : s4.Canon := State.keepCores_canon (State.putLive_canon h3 cl hb) _ _
  clear_value s4
  have h5 : s5.Canon := State.modCluster_canon h4 _ _ fun c hc => ⟨hc.tiles, fun v hv => Saved.canon_some hv ho⟩
  exact State.replayMail_canon (State.wakeContext_canon (State.writeSystem_canon h5 _ _) _) _ _
theorem State.contextStep_canon {s : State} (h : s.Canon) (cl : Nat) : (State.contextStep s cl).Canon := by
  unfold State.contextStep
  with_reducible repeat' first
    | assumption | refine Cluster.Canon.shadow_ok ?_ | apply State.drainThread_canon | apply State.foldl_canon
    | apply State.modCluster_canon | apply State.poll_canon | apply State.postLat_canon | apply State.replayMail_canon
    | apply State.swap_canon | apply canon_ite | apply Cluster.Canon.tiles_wf | intro _ | dsimp only | split
    | (apply Cluster.canon_of <;> dsimp only)
theorem State.beginSwitch_canon {s : State} (h : s.Canon) (cl q : Nat) : (State.beginSwitch s cl q).Canon := by
  unfold State.beginSwitch
  with_reducible repeat' first
    | assumption | refine Cluster.Canon.shadow_ok ?_ | apply State.calm_canon | apply State.discard_canon | apply State.foldl_canon
    | apply State.modCluster_canon | apply State.postNow_canon | apply State.preemptSlot_canon | apply canon_ite
    | apply Cluster.Canon.tiles_wf | intro _ | dsimp only | split | (apply Cluster.canon_of <;> dsimp only)
theorem State.moveFlights_canon {s : State} (h : s.Canon) (t u : Nat) : (State.moveFlights s t u).Canon := by
  unfold State.moveFlights
  with_reducible repeat' first | assumption | apply State.Canon.out | (apply State.canon_mk; dsimp only)
theorem State.moveThread_canon {s : State} (h : s.Canon) (t u : Nat) : (State.moveThread s t u).Canon := by
  unfold State.moveThread
  with_reducible repeat' first
    | assumption | refine Cluster.Canon.shadow_ok ?_ | apply State.calm_canon | apply State.claimSlot_canon
    | apply State.drainThread_canon | apply State.modCluster_canon | apply State.modCore_canon | apply State.moveFlights_canon
    | apply State.poll_canon | apply State.postNow_canon | apply State.setSlot_canon | apply canon_ite
    | apply Cluster.Canon.tiles_wf | intro _ | (apply Cluster.canon_of <;> dsimp only)
theorem State.moveBytes_canon {s : State} (h : s.Canon) (a b n : Nat) (zero : Bool) : (s.moveBytes a b n zero).Canon := by
  have hs : ∀ {α : Type} [DecidableEq α] (d : α) (m : SMap α) (u : Nat), mapWf d m = true →
      mapWf d (mapReplace m (chipKey b / u) (n / u)
        ((mapRange m (chipKey a / u) (n / u)).map fun e => (e.1 - chipKey a / u + chipKey b / u, e.2))) = true :=
    fun d m u hm => mapReplace_wf _ _ _ _ _ hm (shift_wf d m _ _ _ hm)
  have hc : ∀ {α : Type} [DecidableEq α] (d : α) (m : SMap α) (u : Nat), mapWf d m = true →
      mapWf d (if zero then mapReplace m (chipKey a / u) (n / u) [] else m) = true := by
    intro α _ d m u hm
    split
    · exact mapReplace_wf _ _ _ _ _ hm rfl
    · exact hm
  exact { h.out with
    mem := hc (0 : Byte) _ 1 (hs (0 : Byte) s.mem 1 h.mem)
    poison := hc false _ 8 (hs false s.poison 8 h.poison)
    grans := hc false _ 16 (hs false s.grans 16 h.grans) }
theorem State.moveCore_canon {s : State} (h : s.Canon) (c d : Nat) : (State.moveCore s c d).Canon := by
  unfold State.moveCore
  with_reducible repeat' first
    | assumption | refine Cluster.Canon.shadow_ok ?_ | apply State.calm_canon | apply State.drainThread_canon
    | apply State.foldl_canon | apply State.modCluster_canon | apply State.modCore_canon | apply State.moveBytes_canon
    | apply State.moveFlights_canon | apply State.postNow_canon | apply State.setSlot_canon | apply canon_ite
    | apply Cluster.Canon.tiles_wf | intro _ | dsimp only | (apply Cluster.canon_of <;> dsimp only)
theorem State.migrateCore_canon {s : State} (h : s.Canon) (c d : Nat) : (State.migrateCore s c d).Canon := by
  unfold State.migrateCore
  with_reducible repeat' first | assumption | apply State.moveCore_canon | apply canon_ite | intro _
theorem State.fenceSlot_canon {s : State} (h : s.Canon) (lid t : Nat) : (State.fenceSlot s lid t).Canon := by
  unfold State.fenceSlot
  with_reducible repeat' first | assumption | apply State.modSlot_canon | apply State.parkSlot_canon | dsimp only | split
theorem State.fenceCore_canon {s : State} (h : s.Canon) (lid c : Nat) : (State.fenceCore s lid c).Canon := by
  unfold State.fenceCore
  with_reducible repeat' first
    | assumption | apply State.fenceSlot_canon | apply State.foldl_canon | apply State.modCore_canon | apply State.modSlot_canon
    | apply State.moveCore_canon | apply State.raise_canon | intro _ | dsimp only | split
theorem State.watchdogFenceAt_canon {s : State} (h : s.Canon) (lid : Nat) : (State.watchdogFenceAt s lid).Canon := by
  unfold State.watchdogFenceAt
  with_reducible repeat' first
    | assumption | apply State.fenceCore_canon | apply State.foldl_canon | apply State.modLaunch_canon | apply State.postNow_canon
    | apply State.raise_canon | apply canon_ite | intro _ | dsimp only | split
theorem State.unfence_canon {s : State} (h : s.Canon) (c : Nat) : (State.unfence s c).Canon := by
  unfold State.unfence
  with_reducible repeat' first
    | assumption | apply State.foldl_canon | apply State.modCore_canon | apply State.postNow_canon | apply State.setSlot_canon
    | apply canon_ite | intro _
theorem execPartitionContextSwitch_canon {s : State} (h : s.Canon) (cl toPart : Nat) : Res.Canon (execPartitionContextSwitch cl
    toPart s) := by
  unfold execPartitionContextSwitch
  with_reducible repeat' first | assumption | apply State.beginSwitch_canon | apply Res.canon_next
theorem execContextSwap_canon {s : State} (h : s.Canon) (cl : Nat) : Res.Canon (execContextSwap cl s) := by
  unfold execContextSwap
  with_reducible repeat' first | assumption | apply State.contextStep_canon | apply Res.canon_next
theorem execThreadMigration_canon {s : State} (h : s.Canon) (thr toThr : Nat) : Res.Canon (execThreadMigration thr toThr s) := by
  unfold execThreadMigration
  with_reducible repeat' first | assumption | apply State.moveThread_canon | apply Res.canon_next
theorem execCoreMigration_canon {s : State} (h : s.Canon) (core toCore : Nat) : Res.Canon (execCoreMigration core toCore s) := by
  unfold execCoreMigration
  with_reducible repeat' first | assumption | apply State.migrateCore_canon | apply Res.canon_next
theorem execWatchdogFence_canon {s : State} (h : s.Canon) (lid : Nat) : Res.Canon (execWatchdogFence lid s) := by
  unfold execWatchdogFence
  with_reducible repeat' first | assumption | apply State.watchdogFenceAt_canon | apply Res.canon_next

/-! ### Host -/

theorem State.accessError_canon {s : State} (h : s.Canon) (qp : Nat) : (State.accessError s qp).Canon := by
  unfold State.accessError
  with_reducible repeat' first | assumption | apply State.emit_canon | apply State.Canon.out | (apply State.canon_mk; dsimp only)
theorem State.faultPageWrite_canon {s : State} (h : s.Canon) (o : Nat) (data : List Byte) : (State.faultPageWrite s o data).Canon
    := by
  unfold State.faultPageWrite
  with_reducible repeat' first | assumption | apply State.foldl_canon | apply State.postNow_canon | apply canon_ite | intro _
theorem State.hostWrites_canon {s : State} (h : s.Canon) (qp key addr : Nat) (data : List Byte) : (State.hostWrites s qp key addr
    data).Canon := by
  unfold State.hostWrites
  with_reducible repeat' first
    | assumption | apply State.accessError_canon | apply State.faultPageWrite_canon | apply State.writeHome_canon | apply canon_ite
    | intro _ | split
theorem State.hostReads_canon {s : State} (h : s.Canon) (qp key addr len : Nat) : (State.hostReads s qp key addr len).Canon := by
  unfold State.hostReads
  with_reducible repeat' first
    | assumption | apply State.accessError_canon | apply State.emit_canon | apply canon_ite | apply State.Canon.out | intro _
    | dsimp only | (apply State.canon_mk; dsimp only) | split
theorem State.putSlots_canon {s : State} (h : s.Canon) (k : Queue) (x0 : Nat) (x1 : Nat) (x2 : List Byte) : (State.putSlots s k x0
    x1 x2).Canon := by
  induction x0 generalizing s x1 x2 with
  | zero =>
    unfold State.putSlots
    with_reducible repeat' first | assumption
  | succ n ih =>
    unfold State.putSlots
    with_reducible repeat' first | apply ih | assumption | apply State.writeHome_canon
theorem State.hostSends_canon {s : State} (h : s.Canon) (qp : Nat) (data : List Byte) : (State.hostSends s qp data).Canon := by
  unfold State.hostSends
  with_reducible repeat' first
    | assumption | apply State.emit_canon | apply State.notifyIndex_canon | apply State.putSlots_canon | apply canon_ite | intro _
    | dsimp only | split
theorem execRdmaWrite_canon {s : State} (h : s.Canon) (qp key addr : Nat) (data : List Byte) : Res.Canon (execRdmaWrite qp key
    addr data s) := by
  unfold execRdmaWrite
  with_reducible repeat' first | assumption | apply State.hostWrites_canon | apply Res.canon_next
theorem execRdmaRead_canon {s : State} (h : s.Canon) (qp key addr len : Nat) : Res.Canon (execRdmaRead qp key addr len s) := by
  unfold execRdmaRead
  with_reducible repeat' first | assumption | apply State.hostReads_canon | apply Res.canon_next
theorem execHostSend_canon {s : State} (h : s.Canon) (qp : Nat) (data : List Byte) : Res.Canon (execHostSend qp data s) := by
  unfold execHostSend
  with_reducible repeat' first | assumption | apply State.hostSends_canon | apply Res.canon_next
theorem execEcnCongestionNotification_canon {s : State} (h : s.Canon) (qp : Nat) : Res.Canon (execEcnCongestionNotification qp s)
    := by
  unfold execEcnCongestionNotification
  with_reducible repeat' first | assumption | apply State.emit_canon | apply Res.canon_next
theorem State.respond_canon {s : State} (h : s.Canon) (r : Mgmt) (op status : Nat) (body : List Byte) : (State.respond s r op
    status body).Canon := by
  unfold State.respond
  with_reducible repeat' first | assumption | apply State.emit_canon | apply State.Canon.out | (apply State.canon_mk; dsimp only)
theorem State.request_canon {s : State} (h : s.Canon) (r : Mgmt) (op : Nat) (f : State → State × Nat × List Byte) (hf : ∀ (a0 :
    State), a0.Canon → (f a0).1.Canon) : (State.request s r op f).Canon := by
  unfold State.request
  with_reducible repeat' first
    | assumption | apply State.emit_canon | apply State.respond_canon | apply hf | apply canon_ite | intro _ | dsimp only | split
theorem State.change_canon {s : State} (h : s.Canon) (r : Mgmt) (op : Nat) (check : State → Nat) (f : State → State) (hf : ∀ (a0 :
    State), a0.Canon → (f a0).Canon) : (State.change s r op check f).Canon := by
  unfold State.change
  with_reducible repeat' first | assumption | apply State.request_canon | apply hf | intro _ | dsimp only | split
theorem execStatus_canon {s : State} (h : s.Canon) (r : Mgmt) : Res.Canon (execStatus r s) := by
  unfold execStatus
  with_reducible repeat' first | assumption | apply State.request_canon | apply Res.canon_next | intro _
theorem execAttest_canon {s : State} (h : s.Canon) (r : Mgmt) (nonce : List Byte) : Res.Canon (execAttest r nonce s) := by
  unfold execAttest
  with_reducible repeat' first | assumption | apply State.request_canon | apply Res.canon_next | intro _ | split
theorem State.startWork_canon {s : State} (h : s.Canon) (r : Mgmt) (op status : Nat) : (State.startWork s r op status).Canon := by
  unfold State.startWork
  with_reducible repeat' first | assumption | apply State.postLat_canon | apply State.Canon.out | (apply State.canon_mk; dsimp only)
theorem execFwload_canon {s : State} (h : s.Canon) (r : Mgmt) (image : Fin 4) (off : Nat) (data : List Byte) : Res.Canon
    (execFwload r image off data s) := by
  unfold execFwload
  with_reducible repeat' first
    | assumption | apply State.request_canon | apply State.startWork_canon | apply State.Canon.out | apply Res.canon_next | intro _
    | (apply State.canon_mk; dsimp only) | split
theorem execErrread_canon {s : State} (h : s.Canon) (r : Mgmt) (die : Fin 4) : Res.Canon (execErrread r die s) := by
  unfold execErrread
  with_reducible repeat' first | assumption | apply State.request_canon | apply Res.canon_next | intro _ | dsimp only | split
theorem execAsidset_canon {s : State} (h : s.Canon) (r : Mgmt) (asid : BitVec 12) (entry : Word) : Res.Canon (execAsidset r asid
    entry s) := by
  unfold execAsidset
  with_reducible repeat' first
    | assumption | apply State.change_canon | apply State.Canon.out | apply Res.canon_next | intro _ | dsimp only
    | (apply State.canon_mk; dsimp only)
theorem execDfset_canon {s : State} (h : s.Canon) (r : Mgmt) (w0 w1 : Word) : Res.Canon (execDfset r w0 w1 s) := by
  unfold execDfset
  with_reducible repeat' first
    | assumption | apply State.change_canon | apply State.Canon.out | apply Res.canon_next | intro _
    | (apply State.canon_mk; dsimp only)
theorem State.atContext_canon {s : State} (h : s.Canon) (p cl : Nat) (f : State → State) (hf : ∀ a : State, a.Canon → (f a).Canon) :
    (s.atContext p cl f).Canon := by
  unfold State.atContext
  dsimp only
  split
  · exact hf s h
  · split
    · rename_i sv hv
      split
      · have := State.inSaved_canon h cl (Cluster.canon_shadow hv (State.canon_cluster h cl)) (fun s => (f s, ())) hf
        exact State.modCluster_canon this.1 _ _ fun c hc => ⟨hc.tiles, by intro v h; cases h; exact this.2⟩
      · exact h
    · split
      · rename_i sv hv
        have := State.inSaved_canon h cl (mapGet_image h hv) (fun s => (f s, ())) hf
        exact canon_images this.1 (canon_imagesPut this.1 (by intro v h; cases h; exact this.2))
      · exact h
theorem execPool7_canon {s : State} (h : s.Canon) (r : Mgmt) (part : Fin 16) (value : Word) : Res.Canon (execPool7 r part value s)
    := by
  unfold execPool7
  with_reducible repeat' first
    | assumption | apply State.atContext_canon | apply State.change_canon | apply State.foldl_canon | apply State.setPool_canon
    | apply Res.canon_next | intro _
theorem State.powerUp_canon {s : State} (h : s.Canon) (cl : Nat) : (State.powerUp s cl).Canon := by
  unfold State.powerUp
  with_reducible repeat' first
    | assumption | refine Cluster.Canon.shadow_ok ?_ | apply State.modCluster_canon | apply State.post_canon | apply canon_ite
    | apply Cluster.Canon.tiles_wf | intro _ | (apply Cluster.canon_of <;> dsimp only)
theorem State.assignReady_canon {s : State} (h : s.Canon) (cl : Nat) : (State.assignReady s cl).Canon := by
  unfold State.assignReady
  with_reducible repeat' first | assumption | apply State.assign_canon | apply canon_ite | intro _ | split
theorem State.release_canon {s : State} (h : s.Canon) (cl : Nat) : (State.release s cl).Canon := by
  unfold State.release
  with_reducible repeat' first
    | assumption | refine Cluster.Canon.shadow_ok ?_ | apply State.foldl_canon | apply State.freeTile_canon
    | apply State.modCluster_canon | apply State.modCore_canon | apply State.setPool_canon | apply canon_ite
    | apply Cluster.Canon.tiles_wf | intro _ | (apply Cluster.canon_of <;> dsimp only)
theorem State.dropAsid_canon {s : State} (h : s.Canon) (cl asid : Nat) : (State.dropAsid s cl asid).Canon := by
  unfold State.dropAsid
  with_reducible repeat' first | assumption | apply State.foldl_canon | apply State.freeTile_canon | apply canon_ite | intro _
theorem State.definePart_canon {s : State} (h : s.Canon) (p : Nat) (r : PartRec) : (State.definePart s p r).Canon := by
  unfold State.definePart
  with_reducible repeat' first
    | assumption | refine canon_imagesPut ?_ ?_ | apply State.assignReady_canon | apply State.atContext_canon
    | apply State.dropAsid_canon | apply State.foldl_canon | apply State.modCore_canon | apply State.powerUp_canon
    | apply State.release_canon | apply canon_ite | apply State.Canon.out | apply canon_images | intro _ | dsimp only
    | (apply State.canon_mk; dsimp only) | (apply Saved.canon_none; assumption)
theorem execPartdef_canon {s : State} (h : s.Canon) (r : Mgmt) (part : Fin 16) (record : PartRec) : Res.Canon (execPartdef r part
    record s) := by
  unfold execPartdef
  with_reducible repeat' first
    | assumption | apply State.change_canon | apply State.definePart_canon | apply Res.canon_next | intro _
theorem execPartdel_canon {s : State} (h : s.Canon) (r : Mgmt) (part : Fin 16) : Res.Canon (execPartdel r part s) := by
  unfold execPartdel
  with_reducible repeat' first
    | assumption | apply State.change_canon | apply State.Canon.out | apply Res.canon_next | intro _
    | (apply State.canon_mk; dsimp only)
theorem execQset_canon {s : State} (h : s.Canon) (r : Mgmt) (q : BitVec 16) (w0 w1 w2 w3 w4 : Word) : Res.Canon (execQset r q w0
    w1 w2 w3 w4 s) := by
  unfold execQset
  with_reducible repeat' first | assumption | apply State.change_canon | apply State.modQueue_canon | apply Res.canon_next | intro _
theorem execQrestart_canon {s : State} (h : s.Canon) (r : Mgmt) (q : BitVec 16) (index : Word) : Res.Canon (execQrestart r q index
    s) := by
  unfold execQrestart
  with_reducible repeat' first
    | assumption | apply State.change_canon | apply State.modQueue_canon | apply State.postNow_canon | apply State.settleQueue_canon
    | apply State.Canon.out | apply Res.canon_next | intro _ | (apply State.canon_mk; dsimp only)
theorem execQdel_canon {s : State} (h : s.Canon) (r : Mgmt) (q : BitVec 16) : Res.Canon (execQdel r q s) := by
  unfold execQdel
  with_reducible repeat' first
    | assumption | apply State.change_canon | apply State.Canon.out | apply Res.canon_next | intro _
    | (apply State.canon_mk; dsimp only)
theorem execDonmap_canon {s : State} (h : s.Canon) (r : Mgmt) (dq : BitVec 8) (q : BitVec 16) (unmap : Bool) : Res.Canon
    (execDonmap r dq q unmap s) := by
  unfold execDonmap
  with_reducible repeat' first
    | assumption | apply State.change_canon | apply State.Canon.out | apply Res.canon_next | intro _
    | (apply State.canon_mk; dsimp only)
theorem execMrreg_canon {s : State} (h : s.Canon) (r : Mgmt) (kind : Fin 4) (base len : Word) (rd wr : Bool) : Res.Canon
    (execMrreg r kind base len rd wr s) := by
  unfold execMrreg
  with_reducible repeat' first
    | assumption | apply State.request_canon | apply State.Canon.out | apply Res.canon_next | intro _ | dsimp only
    | (apply State.canon_mk; dsimp only) | split
theorem execQpbind_canon {s : State} (h : s.Canon) (r : Mgmt) (qp : BitVec 24) (q : BitVec 16) (unbind : Bool) : Res.Canon
    (execQpbind r qp q unbind s) := by
  unfold execQpbind
  with_reducible repeat' first
    | assumption | apply State.change_canon | apply State.Canon.out | apply Res.canon_next | intro _
    | (apply State.canon_mk; dsimp only)
theorem State.resumeLaunch_canon {s : State} (h : s.Canon) (lid : Nat) : (State.resumeLaunch s lid).Canon := by
  unfold State.resumeLaunch
  with_reducible repeat' first
    | assumption | apply State.foldl_canon | apply State.modLaunch_canon | apply State.modSlot_canon | apply State.postNow_canon
    | apply canon_ite | intro _ | dsimp only | split
theorem execResume_canon {s : State} (h : s.Canon) (r : Mgmt) (lid : BitVec 12) : Res.Canon (execResume r lid s) := by
  unfold execResume
  with_reducible repeat' first
    | assumption | apply State.change_canon | apply State.resumeLaunch_canon | apply Res.canon_next | intro _
theorem execKill_canon {s : State} (h : s.Canon) (r : Mgmt) (lid : BitVec 12) : Res.Canon (execKill r lid s) := by
  unfold execKill
  with_reducible repeat' first
    | assumption | apply State.change_canon | apply State.killLaunch_canon | apply Res.canon_next | intro _
theorem execSlotgo_canon {s : State} (h : s.Canon) (r : Mgmt) (thr : BitVec 15) (pc : Word) (sys : Bool) : Res.Canon (execSlotgo r
    thr pc sys s) := by
  unfold execSlotgo
  with_reducible repeat' first | assumption | apply State.change_canon | apply State.modSlot_canon | apply Res.canon_next | intro _
theorem execCoreback_canon {s : State} (h : s.Canon) (r : Mgmt) (core : BitVec 11) : Res.Canon (execCoreback r core s) := by
  unfold execCoreback
  with_reducible repeat' first | assumption | apply State.change_canon | apply State.unfence_canon | apply Res.canon_next | intro _
theorem State.streamOut_canon {s : State} (h : s.Canon) (l : List Stream) (i : Nat) (x0 : Nat) : (State.streamOut s l i x0).Canon
    := by
  induction x0 generalizing s i with
  | zero =>
    unfold State.streamOut
    with_reducible repeat' first | assumption
  | succ n ih =>
    unfold State.streamOut
    with_reducible repeat' first | apply ih | assumption | apply State.emit_canon | split
theorem State.outsideWords_canon {s : State} (h : s.Canon) (x0 : Nat) : (State.outsideWords s x0).1.Canon := by
  induction x0 generalizing s with
  | zero =>
    unfold State.outsideWords
    with_reducible repeat' first | assumption
  | succ n ih =>
    unfold State.outsideWords
    with_reducible repeat' first | apply ih | assumption | apply State.drawWord_canon
theorem State.streamIn_canon {s : State} (h : s.Canon) (i : Nat) (x0 : Nat) : (State.streamIn s i x0).Canon := by
  induction x0 generalizing s i with
  | zero =>
    unfold State.streamIn
    with_reducible repeat' first | assumption
  | succ n ih =>
    unfold State.streamIn
    with_reducible repeat' first | apply ih | assumption | apply State.outsideWords_canon | apply State.writeHome_canon
theorem execCheckpoint_canon {s : State} (h : s.Canon) (r : Mgmt) (streams : List Stream) : Res.Canon (execCheckpoint r streams s)
    := by
  unfold execCheckpoint
  with_reducible repeat' first
    | assumption | apply State.change_canon | apply State.startWork_canon | apply State.streamOut_canon | apply Res.canon_next
    | intro _
theorem execRestore_canon {s : State} (h : s.Canon) (r : Mgmt) (streams : List Stream) : Res.Canon (execRestore r streams s) := by
  unfold execRestore
  with_reducible repeat' first
    | assumption | apply State.change_canon | apply State.startWork_canon | apply State.streamIn_canon | apply Res.canon_next
    | intro _
theorem execModset_canon {s : State} (h : s.Canon) (r : Mgmt) (modid : BitVec 16) : Res.Canon (execModset r modid s) := by
  unfold execModset
  with_reducible repeat' first
    | assumption | apply State.change_canon | apply State.Canon.out | apply Res.canon_next | intro _
    | (apply State.canon_mk; dsimp only)
theorem execEvtreg_canon {s : State} (h : s.Canon) (r : Mgmt) (v6 : Bool) (addr : List Byte) (port : BitVec 16) : Res.Canon
    (execEvtreg r v6 addr port s) := by
  unfold execEvtreg
  with_reducible repeat' first
    | assumption | apply State.change_canon | apply State.emit_canon | apply State.foldl_canon | apply canon_ite
    | apply State.Canon.out | apply Res.canon_next | intro _ | (apply State.canon_mk; dsimp only)
theorem execEventAcknowledgement_canon {s : State} (h : s.Canon) (n : Nat) : Res.Canon (execEventAcknowledgement n s) := by
  unfold execEventAcknowledgement
  with_reducible repeat' first | assumption | apply State.Canon.out | apply Res.canon_next | (apply State.canon_mk; dsimp only)
theorem execEventResend_canon {s : State} (h : s.Canon) (n : Nat) : Res.Canon (execEventResend n s) := by
  unfold execEventResend
  with_reducible repeat' first
    | assumption | apply State.emit_canon | apply State.post_canon | apply canon_ite | apply Res.canon_next | intro _ | dsimp only
    | split
theorem execWorkdone_canon {s : State} (h : s.Canon) (op : BitVec 16) (seq : Word) (status : BitVec 16) : Res.Canon (execWorkdone
    op seq status s) := by
  unfold execWorkdone
  with_reducible repeat' first
    | assumption | apply State.raise_canon | apply canon_ite | apply State.Canon.out | apply Res.canon_next | intro _
    | (apply State.canon_mk; dsimp only)

/-! ### Boot -/

theorem State.extendPm_canon {s : State} (h : s.Canon) (d n : Nat) (image : List Byte) : (State.extendPm s d n image).Canon := by
  unfold State.extendPm
  with_reducible repeat' first | assumption | apply State.modDie_canon
theorem State.recover_canon {s : State} (h : s.Canon) (d status : Nat) : (State.recover s d status).Canon := by
  unfold State.recover
  with_reducible repeat' first | assumption | apply State.modDie_canon | apply State.raise_canon
theorem State.measure_canon {s : State} (h : s.Canon) (d : Nat) (x0 : Nat) (x1 : List (List Byte)) (x2 : List Bool) :
    (State.measure s d x0 x1 x2).1.Canon := by
  induction x0 generalizing s x1 x2 with
  | zero =>
    unfold State.measure
    with_reducible repeat' first | assumption
  | succ n ih =>
    unfold State.measure
    with_reducible repeat' first
      | apply ih | assumption | (extract_lets +onlyGivenNames s1; clear_value s1) | apply State.extendPm_canon
      | apply State.recover_canon | split
theorem State.restartTimer_canon {s : State} (h : s.Canon) (d : Nat) : (State.restartTimer s d).Canon := by
  unfold State.restartTimer
  with_reducible repeat' first | assumption | apply State.modDie_canon | apply State.post_canon
theorem State.powerCycle_canon (s : State) : s.powerCycle.Canon := State.canon_reset
theorem State.joinLease_canon {s : State} (h : s.Canon) (d : Nat) (controllers : List Nat) : (State.joinLease s d
    controllers).Canon := by
  unfold State.joinLease
  with_reducible repeat' first
    | assumption | apply State.foldl_canon | apply State.modDie_canon | apply State.post_canon | apply State.restartTimer_canon
    | apply State.Canon.out | intro _ | (apply State.canon_mk; dsimp only)
theorem State.bootDie_canon {s : State} (h : s.Canon) (b : BootIn) : (State.bootDie s b).Canon := by
  unfold State.bootDie
  with_reducible repeat' first
    | assumption | apply State.extendPm_canon | apply State.joinLease_canon | apply State.measure_canon
    | apply State.powerCycle_canon | apply State.recover_canon | apply canon_ite | apply State.Canon.out | intro _
    | (apply State.canon_mk; dsimp only)
theorem execPowerOnReset_canon {s : State} (h : s.Canon) (b : BootIn) : Res.Canon (execPowerOnReset b s) := by
  unfold execPowerOnReset
  with_reducible repeat' first | assumption | apply State.bootDie_canon | apply Res.canon_next
theorem State.lead_canon {s : State} (h : s.Canon) (d : Nat) : (State.lead s d).Canon := by
  unfold State.lead
  with_reducible repeat' first
    | assumption | apply State.foldl_canon | apply State.postLat_canon | apply State.postNow_canon | apply State.raise_canon
    | apply canon_ite | intro _
theorem State.renewal_canon {s : State} (h : s.Canon) (d : Fin 4) (term : Nat) : (State.renewal s d term).Canon := by
  unfold State.renewal
  with_reducible repeat' first
    | assumption | apply State.modDie_canon | apply State.post_canon | apply State.restartTimer_canon | apply canon_ite | intro _
    | dsimp only | split
theorem State.leaseLapses_canon {s : State} (h : s.Canon) (d : Fin 4) : (State.leaseLapses s d).Canon := by
  unfold State.leaseLapses
  with_reducible repeat' first
    | assumption | apply State.foldl_canon | apply State.modDie_canon | apply State.postLat_canon | apply State.restartTimer_canon
    | apply canon_ite | intro _
theorem State.grant_canon {s : State} (h : s.Canon) (d claimant : Fin 4) (term : Nat) : (State.grant s d claimant term).Canon := by
  unfold State.grant
  with_reducible repeat' first
    | assumption | apply State.foldl_canon | apply State.lead_canon | apply State.modDie_canon | apply State.restartTimer_canon
    | apply canon_ite | intro _
theorem State.claim_canon {s : State} (h : s.Canon) (d claimant : Fin 4) (term : Nat) : (State.claim s d claimant term).Canon := by
  unfold State.claim
  with_reducible repeat' first | assumption | apply State.grant_canon | apply canon_ite | intro _
theorem execLeaseRenewal_canon {s : State} (h : s.Canon) (die : Fin 4) (term : Nat) : Res.Canon (execLeaseRenewal die term s) := by
  unfold execLeaseRenewal
  with_reducible repeat' first | assumption | apply State.renewal_canon | apply Res.canon_next
theorem execLeaseTimeout_canon {s : State} (h : s.Canon) (die : Fin 4) : Res.Canon (execLeaseTimeout die s) := by
  unfold execLeaseTimeout
  with_reducible repeat' first | assumption | apply State.leaseLapses_canon | apply Res.canon_next
theorem execLeaseClaim_canon {s : State} (h : s.Canon) (die claimant : Fin 4) (term : Nat) : Res.Canon (execLeaseClaim die
    claimant term s) := by
  unfold execLeaseClaim
  with_reducible repeat' first | assumption | apply State.claim_canon | apply Res.canon_next
theorem execClusterPowerUp_canon {s : State} (h : s.Canon) (group : Fin 32) : Res.Canon (execClusterPowerUp group s) := by
  unfold execClusterPowerUp
  with_reducible repeat' first
    | assumption | apply State.foldl_canon | apply State.powerUp_canon | apply canon_ite | apply Res.canon_next | intro _
theorem execMatrixRateRamp_canon {s : State} (h : s.Canon) (cl : Nat) : Res.Canon (execMatrixRateRamp cl s) := by
  unfold execMatrixRateRamp
  with_reducible repeat' first
    | assumption | apply State.assignReady_canon | apply State.rateRamp_canon | apply canon_ite | apply Res.canon_next | intro _
theorem State.gateCluster_canon {s : State} (h : s.Canon) (cl : Nat) : (s.gateCluster cl).Canon := by
  unfold State.gateCluster
  split
  · exact h
  · dsimp only
    refine State.foldl_canon ?_ (State.putCluster_canon (State.putLive_canon h cl ⟨rfl, rfl, rfl, rfl, rfl, rfl⟩) cl _ Cluster.canon_default) _
    intro s a hs
    split
    · exact State.modCore_canon hs _ _
    · exact hs
theorem execClusterPowerGate_canon {s : State} (h : s.Canon) (cl : Nat) : Res.Canon (execClusterPowerGate cl s) := by
  unfold execClusterPowerGate
  with_reducible repeat' first | assumption | apply State.gateCluster_canon | apply Res.canon_next

/-! ### Control -/

theorem State.branch2_canon {s : State} (h : s.Canon) (o : Br2) (c : Word → Word → Bool) : (State.branch2 s o c).Canon := by
  unfold State.branch2
  with_reducible repeat' first | assumption | apply State.modSlot_canon | apply State.withSrcs_canon | intro _
theorem State.branchZ_canon {s : State} (h : s.Canon) (o : Brz) (c : Word → Bool) : (State.branchZ s o c).Canon := by
  unfold State.branchZ
  with_reducible repeat' first | assumption | apply State.modSlot_canon | apply State.withSrcs_canon | intro _
theorem execBeq_canon {s : State} (h : s.Canon) (o : Br2) : Res.Canon (execBeq o s) := by
  unfold execBeq
  with_reducible repeat' first | assumption | apply State.branch2_canon | apply Res.canon_next
theorem execBne_canon {s : State} (h : s.Canon) (o : Br2) : Res.Canon (execBne o s) := by
  unfold execBne
  with_reducible repeat' first | assumption | apply State.branch2_canon | apply Res.canon_next
theorem execBlt_canon {s : State} (h : s.Canon) (o : Br2) : Res.Canon (execBlt o s) := by
  unfold execBlt
  with_reducible repeat' first | assumption | apply State.branch2_canon | apply Res.canon_next
theorem execBge_canon {s : State} (h : s.Canon) (o : Br2) : Res.Canon (execBge o s) := by
  unfold execBge
  with_reducible repeat' first | assumption | apply State.branch2_canon | apply Res.canon_next
theorem execBltu_canon {s : State} (h : s.Canon) (o : Br2) : Res.Canon (execBltu o s) := by
  unfold execBltu
  with_reducible repeat' first | assumption | apply State.branch2_canon | apply Res.canon_next
theorem execBgeu_canon {s : State} (h : s.Canon) (o : Br2) : Res.Canon (execBgeu o s) := by
  unfold execBgeu
  with_reducible repeat' first | assumption | apply State.branch2_canon | apply Res.canon_next
theorem execBeqz_canon {s : State} (h : s.Canon) (o : Brz) : Res.Canon (execBeqz o s) := by
  unfold execBeqz
  with_reducible repeat' first | assumption | apply State.branchZ_canon | apply Res.canon_next
theorem execBnez_canon {s : State} (h : s.Canon) (o : Brz) : Res.Canon (execBnez o s) := by
  unfold execBnez
  with_reducible repeat' first | assumption | apply State.branchZ_canon | apply Res.canon_next
theorem execBltz_canon {s : State} (h : s.Canon) (o : Brz) : Res.Canon (execBltz o s) := by
  unfold execBltz
  with_reducible repeat' first | assumption | apply State.branchZ_canon | apply Res.canon_next
theorem execBgez_canon {s : State} (h : s.Canon) (o : Brz) : Res.Canon (execBgez o s) := by
  unfold execBgez
  with_reducible repeat' first | assumption | apply State.branchZ_canon | apply Res.canon_next
theorem execBgtz_canon {s : State} (h : s.Canon) (o : Brz) : Res.Canon (execBgtz o s) := by
  unfold execBgtz
  with_reducible repeat' first | assumption | apply State.branchZ_canon | apply Res.canon_next
theorem execBlez_canon {s : State} (h : s.Canon) (o : Brz) : Res.Canon (execBlez o s) := by
  unfold execBlez
  with_reducible repeat' first | assumption | apply State.branchZ_canon | apply Res.canon_next
theorem execLdpc_canon {s : State} (h : s.Canon) (o : Ud) : Res.Canon (execLdpc o s) := by
  unfold execLdpc
  with_reducible repeat' first | assumption | apply State.readLiteral_canon | apply Res.canon_next
theorem execJal_canon {s : State} (h : s.Canon) (o : Ud) : Res.Canon (execJal o s) := by
  unfold execJal
  with_reducible repeat' first | assumption | apply State.modSlot_canon | apply Res.canon_next
theorem execJalr_canon {s : State} (h : s.Canon) (o : Ri) : Res.Canon (execJalr o s) := by
  unfold execJalr
  with_reducible repeat' first
    | assumption | apply State.modSlot_canon | apply State.trapExact_canon | apply State.withSrcs_canon | apply canon_ite
    | apply Res.canon_next | intro _
theorem execSkip_canon {s : State} (h : s.Canon) (n : BitVec 20) : Res.Canon (execSkip n s) := by
  unfold execSkip
  with_reducible repeat' first | assumption | apply State.modSlot_canon | apply Res.canon_next
theorem execNop_canon {s : State} (h : s.Canon) : Res.Canon (execNop s) := by
  unfold execNop
  with_reducible repeat' first | assumption | apply State.finish_canon | apply Res.canon_next
theorem execHint_canon {s : State} (h : s.Canon) (_bits : BitVec 25) : Res.Canon (execHint _bits s) := by
  unfold execHint
  with_reducible repeat' first | assumption | apply State.finish_canon | apply Res.canon_next

/-! ### Vector -/

theorem State.vecKeep_canon {s : State} (h : s.Canon) (d : Fin 32) (m : Fin 8) (ty : ElemTy) (srcs : List Src) (f : Slot → Nat →
    Nat × Nat) : (State.vecKeep s d m ty srcs f).Canon := by
  unfold State.vecKeep
  with_reducible repeat' first | assumption | apply State.finish_canon | apply State.withSrcs_canon | intro _
theorem State.v3_canon {s : State} (h : s.Canon) (o : V3) (f : Slot → Nat → Nat → Nat × Nat) : (State.v3 s o f).Canon := by
  unfold State.v3
  with_reducible repeat' first | assumption | apply State.vecKeep_canon
theorem State.v2_canon {s : State} (h : s.Canon) (o : V2) (f : Slot → Nat → Nat × Nat) : (State.v2 s o f).Canon := by
  unfold State.v2
  with_reducible repeat' first | assumption | apply State.vecKeep_canon
theorem State.vInt_canon {s : State} (h : s.Canon) (o : V3) (f : Nat → Nat → Nat → Nat) : (State.vInt s o f).Canon := by
  unfold State.vInt
  with_reducible repeat' first | assumption | apply State.v3_canon
theorem State.vFlt_canon {s : State} (h : s.Canon) (o : V3) (f : RMode → FVal → FVal → XVal × Nat) : (State.vFlt s o f).Canon := by
  unfold State.vFlt
  with_reducible repeat' first | assumption | apply State.v3_canon
theorem State.vFlt1_canon {s : State} (h : s.Canon) (o : V2) (f : FVal → XVal × Nat) : (State.vFlt1 s o f).Canon := by
  unfold State.vFlt1
  with_reducible repeat' first | assumption | apply State.v2_canon
theorem State.vFma_canon {s : State} (h : s.Canon) (o : V3) (f : RMode → FVal → FVal → FVal → XVal × Nat) : (State.vFma s o
    f).Canon := by
  unfold State.vFma
  with_reducible repeat' first | assumption | apply State.vecKeep_canon
theorem execVadd_canon {s : State} (h : s.Canon) (o : V3) : Res.Canon (execVadd o s) := by
  unfold execVadd
  with_reducible repeat' first | assumption | apply State.vInt_canon | apply Res.canon_next
theorem execVsub_canon {s : State} (h : s.Canon) (o : V3) : Res.Canon (execVsub o s) := by
  unfold execVsub
  with_reducible repeat' first | assumption | apply State.vInt_canon | apply Res.canon_next
theorem execVmul_canon {s : State} (h : s.Canon) (o : V3) : Res.Canon (execVmul o s) := by
  unfold execVmul
  with_reducible repeat' first | assumption | apply State.vInt_canon | apply Res.canon_next
theorem execVmulh_canon {s : State} (h : s.Canon) (o : V3) : Res.Canon (execVmulh o s) := by
  unfold execVmulh
  with_reducible repeat' first | assumption | apply State.vInt_canon | apply Res.canon_next
theorem execVmin_canon {s : State} (h : s.Canon) (o : V3) : Res.Canon (execVmin o s) := by
  unfold execVmin
  with_reducible repeat' first | assumption | apply State.vInt_canon | apply Res.canon_next
theorem execVmax_canon {s : State} (h : s.Canon) (o : V3) : Res.Canon (execVmax o s) := by
  unfold execVmax
  with_reducible repeat' first | assumption | apply State.vInt_canon | apply Res.canon_next
theorem execVminu_canon {s : State} (h : s.Canon) (o : V3) : Res.Canon (execVminu o s) := by
  unfold execVminu
  with_reducible repeat' first | assumption | apply State.vInt_canon | apply Res.canon_next
theorem execVmaxu_canon {s : State} (h : s.Canon) (o : V3) : Res.Canon (execVmaxu o s) := by
  unfold execVmaxu
  with_reducible repeat' first | assumption | apply State.vInt_canon | apply Res.canon_next
theorem execVadds_canon {s : State} (h : s.Canon) (o : V3) : Res.Canon (execVadds o s) := by
  unfold execVadds
  with_reducible repeat' first | assumption | apply State.vInt_canon | apply Res.canon_next
theorem execVsubs_canon {s : State} (h : s.Canon) (o : V3) : Res.Canon (execVsubs o s) := by
  unfold execVsubs
  with_reducible repeat' first | assumption | apply State.vInt_canon | apply Res.canon_next
theorem execVabs_canon {s : State} (h : s.Canon) (o : V2) : Res.Canon (execVabs o s) := by
  unfold execVabs
  with_reducible repeat' first | assumption | apply State.v2_canon | apply Res.canon_next
theorem execVneg_canon {s : State} (h : s.Canon) (o : V2) : Res.Canon (execVneg o s) := by
  unfold execVneg
  with_reducible repeat' first | assumption | apply State.v2_canon | apply Res.canon_next
theorem execVand_canon {s : State} (h : s.Canon) (o : V3) : Res.Canon (execVand o s) := by
  unfold execVand
  with_reducible repeat' first | assumption | apply State.vInt_canon | apply Res.canon_next
theorem execVor_canon {s : State} (h : s.Canon) (o : V3) : Res.Canon (execVor o s) := by
  unfold execVor
  with_reducible repeat' first | assumption | apply State.vInt_canon | apply Res.canon_next
theorem execVxor_canon {s : State} (h : s.Canon) (o : V3) : Res.Canon (execVxor o s) := by
  unfold execVxor
  with_reducible repeat' first | assumption | apply State.vInt_canon | apply Res.canon_next
theorem execVandn_canon {s : State} (h : s.Canon) (o : V3) : Res.Canon (execVandn o s) := by
  unfold execVandn
  with_reducible repeat' first | assumption | apply State.vInt_canon | apply Res.canon_next
theorem execVsll_canon {s : State} (h : s.Canon) (o : V3) : Res.Canon (execVsll o s) := by
  unfold execVsll
  with_reducible repeat' first | assumption | apply State.vInt_canon | apply Res.canon_next
theorem execVsrl_canon {s : State} (h : s.Canon) (o : V3) : Res.Canon (execVsrl o s) := by
  unfold execVsrl
  with_reducible repeat' first | assumption | apply State.vInt_canon | apply Res.canon_next
theorem execVsra_canon {s : State} (h : s.Canon) (o : V3) : Res.Canon (execVsra o s) := by
  unfold execVsra
  with_reducible repeat' first | assumption | apply State.vInt_canon | apply Res.canon_next
theorem execVfadd_canon {s : State} (h : s.Canon) (o : V3) : Res.Canon (execVfadd o s) := by
  unfold execVfadd
  with_reducible repeat' first | assumption | apply State.vFlt_canon | apply Res.canon_next
theorem execVfsub_canon {s : State} (h : s.Canon) (o : V3) : Res.Canon (execVfsub o s) := by
  unfold execVfsub
  with_reducible repeat' first | assumption | apply State.vFlt_canon | apply Res.canon_next
theorem execVfmul_canon {s : State} (h : s.Canon) (o : V3) : Res.Canon (execVfmul o s) := by
  unfold execVfmul
  with_reducible repeat' first | assumption | apply State.vFlt_canon | apply Res.canon_next
theorem execVfdiv_canon {s : State} (h : s.Canon) (o : V3) : Res.Canon (execVfdiv o s) := by
  unfold execVfdiv
  with_reducible repeat' first | assumption | apply State.vFlt_canon | apply Res.canon_next
theorem execVfmin_canon {s : State} (h : s.Canon) (o : V3) : Res.Canon (execVfmin o s) := by
  unfold execVfmin
  with_reducible repeat' first | assumption | apply State.v3_canon | apply Res.canon_next
theorem execVfmax_canon {s : State} (h : s.Canon) (o : V3) : Res.Canon (execVfmax o s) := by
  unfold execVfmax
  with_reducible repeat' first | assumption | apply State.v3_canon | apply Res.canon_next
theorem execVfabs_canon {s : State} (h : s.Canon) (o : V2) : Res.Canon (execVfabs o s) := by
  unfold execVfabs
  with_reducible repeat' first | assumption | apply State.v2_canon | apply Res.canon_next
theorem execVfneg_canon {s : State} (h : s.Canon) (o : V2) : Res.Canon (execVfneg o s) := by
  unfold execVfneg
  with_reducible repeat' first | assumption | apply State.v2_canon | apply Res.canon_next
theorem execVfsqrt_canon {s : State} (h : s.Canon) (o : V2) : Res.Canon (execVfsqrt o s) := by
  unfold execVfsqrt
  with_reducible repeat' first | assumption | apply State.vFlt1_canon | apply Res.canon_next
theorem execVrcp_canon {s : State} (h : s.Canon) (o : V2) : Res.Canon (execVrcp o s) := by
  unfold execVrcp
  with_reducible repeat' first | assumption | apply State.vFlt1_canon | apply Res.canon_next
theorem execVrsq_canon {s : State} (h : s.Canon) (o : V2) : Res.Canon (execVrsq o s) := by
  unfold execVrsq
  with_reducible repeat' first | assumption | apply State.vFlt1_canon | apply Res.canon_next
theorem execVexp2_canon {s : State} (h : s.Canon) (o : V2) : Res.Canon (execVexp2 o s) := by
  unfold execVexp2
  with_reducible repeat' first | assumption | apply State.vFlt1_canon | apply Res.canon_next
theorem execVfma_canon {s : State} (h : s.Canon) (o : V3) : Res.Canon (execVfma o s) := by
  unfold execVfma
  with_reducible repeat' first | assumption | apply State.vFma_canon | apply Res.canon_next
theorem execVfms_canon {s : State} (h : s.Canon) (o : V3) : Res.Canon (execVfms o s) := by
  unfold execVfms
  with_reducible repeat' first | assumption | apply State.vFma_canon | apply Res.canon_next
theorem execVfnma_canon {s : State} (h : s.Canon) (o : V3) : Res.Canon (execVfnma o s) := by
  unfold execVfnma
  with_reducible repeat' first | assumption | apply State.vFma_canon | apply Res.canon_next
theorem execVdot_canon {s : State} (h : s.Canon) (o : V3) : Res.Canon (execVdot o s) := by
  unfold execVdot
  with_reducible repeat' first | assumption | apply State.vecKeep_canon | apply Res.canon_next
theorem State.vCmp_canon {s : State} (h : s.Canon) (o : V3) (f : Nat → Nat → Bool × Nat) : (State.vCmp s o f).Canon := by
  unfold State.vCmp
  with_reducible repeat' first | assumption | apply State.finish_canon | apply State.withSrcs_canon | intro _
theorem execVcmp_canon {s : State} (h : s.Canon) (c : ICond) (o : V3) : Res.Canon (execVcmp c o s) := by
  unfold execVcmp
  with_reducible repeat' first | assumption | apply State.vCmp_canon | apply Res.canon_next
theorem execVfcmp_canon {s : State} (h : s.Canon) (c : FCond) (o : V3) : Res.Canon (execVfcmp c o s) := by
  unfold execVfcmp
  with_reducible repeat' first | assumption | apply State.vCmp_canon | apply Res.canon_next
theorem State.vcvt_canon {s : State} (h : s.Canon) (o : Vcvt) : (State.vcvt s o).Canon := by
  unfold State.vcvt
  with_reducible repeat' first
    | assumption | apply State.finish_canon | apply State.trapExact_canon | apply State.withSrcs_canon | apply canon_ite | intro _
theorem execVcvt_canon {s : State} (h : s.Canon) (o : Vcvt) : Res.Canon (execVcvt o s) := by
  unfold execVcvt
  with_reducible repeat' first | assumption | apply State.vcvt_canon | apply Res.canon_next
theorem State.vCvtI_canon {s : State} (h : s.Canon) (o : Vci) (f : RMode → Bool → Nat → Nat → Nat × Nat) : (State.vCvtI s o
    f).Canon := by
  unfold State.vCvtI
  with_reducible repeat' first | assumption | apply State.finish_canon | apply State.withSrcs_canon | intro _
theorem execVcvti_canon {s : State} (h : s.Canon) (o : Vci) : Res.Canon (execVcvti o s) := by
  unfold execVcvti
  with_reducible repeat' first | assumption | apply State.vCvtI_canon | apply Res.canon_next
theorem execVcvtf_canon {s : State} (h : s.Canon) (o : Vci) : Res.Canon (execVcvtf o s) := by
  unfold execVcvtf
  with_reducible repeat' first | assumption | apply State.vCvtI_canon | apply Res.canon_next
theorem State.vpack_canon {s : State} (h : s.Canon) (d a b : Fin 32) (ty : ElemTy) (u : Bool) : (State.vpack s d a b ty u).Canon
    := by
  unfold State.vpack
  with_reducible repeat' first | assumption | apply State.finish_canon | apply State.withSrcs_canon | intro _
theorem execVpack_canon {s : State} (h : s.Canon) (d a b : Fin 32) (ty : ElemTy) (u : Bool) : Res.Canon (execVpack d a b ty u s)
    := by
  unfold execVpack
  with_reducible repeat' first | assumption | apply State.vpack_canon | apply Res.canon_next
theorem State.vunpk_canon {s : State} (h : s.Canon) (d a : Fin 32) (ty : ElemTy) (hi : Bool) : (State.vunpk s d a ty hi).Canon := by
  unfold State.vunpk
  with_reducible repeat' first | assumption | apply State.finish_canon | apply State.withSrcs_canon | intro _
theorem execVunpk_canon {s : State} (h : s.Canon) (d a : Fin 32) (ty : ElemTy) (hi : Bool) : Res.Canon (execVunpk d a ty hi s) := by
  unfold execVunpk
  with_reducible repeat' first | assumption | apply State.vunpk_canon | apply Res.canon_next
theorem State.vRed_canon {s : State} (h : s.Canon) (o : V2) (f : Slot → Nat × Nat) : (State.vRed s o f).Canon := by
  unfold State.vRed
  with_reducible repeat' first | assumption | apply State.finish_canon | apply State.withSrcs_canon | intro _
theorem State.vRedI_canon {s : State} (h : s.Canon) (o : V2) (empty : Int) (f : Nat → Nat → Nat → Nat) : (State.vRedI s o empty
    f).Canon := by
  unfold State.vRedI
  with_reducible repeat' first | assumption | apply State.vRed_canon
theorem State.vRedF_canon {s : State} (h : s.Canon) (o : V2) (empty : Nat) (f : Slot → ElemTy × Nat → ElemTy × Nat → Nat × Nat) :
    (State.vRedF s o empty f).Canon := by
  unfold State.vRedF
  with_reducible repeat' first | assumption | apply State.vRed_canon
theorem execVredadd_canon {s : State} (h : s.Canon) (o : V2) : Res.Canon (execVredadd o s) := by
  unfold execVredadd
  with_reducible repeat' first | assumption | apply State.vRedI_canon | apply Res.canon_next
theorem execVfredadd_canon {s : State} (h : s.Canon) (o : V2) : Res.Canon (execVfredadd o s) := by
  unfold execVfredadd
  with_reducible repeat' first | assumption | apply State.vRedF_canon | apply Res.canon_next
theorem execVredmin_canon {s : State} (h : s.Canon) (o : V2) : Res.Canon (execVredmin o s) := by
  unfold execVredmin
  with_reducible repeat' first | assumption | apply State.vRedI_canon | apply Res.canon_next
theorem execVredmax_canon {s : State} (h : s.Canon) (o : V2) : Res.Canon (execVredmax o s) := by
  unfold execVredmax
  with_reducible repeat' first | assumption | apply State.vRedI_canon | apply Res.canon_next
theorem execVfredmax_canon {s : State} (h : s.Canon) (o : V2) : Res.Canon (execVfredmax o s) := by
  unfold execVfredmax
  with_reducible repeat' first | assumption | apply State.vRedF_canon | apply Res.canon_next
theorem execVbcst_canon {s : State} (h : s.Canon) (o : V2) : Res.Canon (execVbcst o s) := by
  unfold execVbcst
  with_reducible repeat' first | assumption | apply State.vecKeep_canon | apply Res.canon_next
theorem execVshuf_canon {s : State} (h : s.Canon) (o : V3) : Res.Canon (execVshuf o s) := by
  unfold execVshuf
  with_reducible repeat' first | assumption | apply State.vecKeep_canon | apply Res.canon_next
theorem execVslide_canon {s : State} (h : s.Canon) (o : V3) : Res.Canon (execVslide o s) := by
  unfold execVslide
  with_reducible repeat' first | assumption | apply State.vecKeep_canon | apply Res.canon_next
theorem execVzip_canon {s : State} (h : s.Canon) (o : V3) : Res.Canon (execVzip o s) := by
  unfold execVzip
  with_reducible repeat' first | assumption | apply State.vecKeep_canon | apply Res.canon_next
theorem execVunzip_canon {s : State} (h : s.Canon) (o : V3) : Res.Canon (execVunzip o s) := by
  unfold execVunzip
  with_reducible repeat' first | assumption | apply State.vecKeep_canon | apply Res.canon_next
theorem execVext_canon {s : State} (h : s.Canon) (d a b : Fin 32) (ty : ElemTy) : Res.Canon (execVext d a b ty s) := by
  unfold execVext
  with_reducible repeat' first | assumption | apply State.finish_canon | apply State.withSrcs_canon | apply Res.canon_next | intro _
theorem execVins_canon {s : State} (h : s.Canon) (d a b : Fin 32) (ty : ElemTy) : Res.Canon (execVins d a b ty s) := by
  unfold execVins
  with_reducible repeat' first | assumption | apply State.finish_canon | apply State.withSrcs_canon | apply Res.canon_next | intro _
theorem State.mOp_canon {s : State} (h : s.Canon) (d a b : Fin 8) (f : Word → Word → Word) : (State.mOp s d a b f).Canon := by
  unfold State.mOp
  with_reducible repeat' first | assumption | apply State.finish_canon | apply State.withSrcs_canon | intro _
theorem execMand_canon {s : State} (h : s.Canon) (d a b : Fin 8) : Res.Canon (execMand d a b s) := by
  unfold execMand
  with_reducible repeat' first | assumption | apply State.mOp_canon | apply Res.canon_next
theorem execMor_canon {s : State} (h : s.Canon) (d a b : Fin 8) : Res.Canon (execMor d a b s) := by
  unfold execMor
  with_reducible repeat' first | assumption | apply State.mOp_canon | apply Res.canon_next
theorem execMxor_canon {s : State} (h : s.Canon) (d a b : Fin 8) : Res.Canon (execMxor d a b s) := by
  unfold execMxor
  with_reducible repeat' first | assumption | apply State.mOp_canon | apply Res.canon_next
theorem execMnot_canon {s : State} (h : s.Canon) (d a : Fin 8) : Res.Canon (execMnot d a s) := by
  unfold execMnot
  with_reducible repeat' first | assumption | apply State.mOp_canon | apply Res.canon_next
theorem execMpopc_canon {s : State} (h : s.Canon) (d : Fin 32) (a m : Fin 8) (ty : ElemTy) : Res.Canon (execMpopc d a m ty s) := by
  unfold execMpopc
  with_reducible repeat' first | assumption | apply State.finish_canon | apply State.withSrcs_canon | apply Res.canon_next | intro _
theorem execMffs_canon {s : State} (h : s.Canon) (d : Fin 32) (a m : Fin 8) (ty : ElemTy) : Res.Canon (execMffs d a m ty s) := by
  unfold execMffs
  with_reducible repeat' first | assumption | apply State.finish_canon | apply State.withSrcs_canon | apply Res.canon_next | intro _
theorem execMset_canon {s : State} (h : s.Canon) (d : Fin 8) (a : Fin 32) : Res.Canon (execMset d a s) := by
  unfold execMset
  with_reducible repeat' first | assumption | apply State.finish_canon | apply State.withSrcs_canon | apply Res.canon_next | intro _
theorem execMget_canon {s : State} (h : s.Canon) (d : Fin 32) (a : Fin 8) : Res.Canon (execMget d a s) := by
  unfold execMget
  with_reducible repeat' first | assumption | apply State.finish_canon | apply State.withSrcs_canon | apply Res.canon_next | intro _
theorem execVsel_canon {s : State} (h : s.Canon) (o : V3) : Res.Canon (execVsel o s) := by
  unfold execVsel
  with_reducible repeat' first | assumption | apply State.finish_canon | apply State.withSrcs_canon | apply Res.canon_next | intro _
theorem execVmov_canon {s : State} (h : s.Canon) (o : V2) : Res.Canon (execVmov o s) := by
  unfold execVmov
  with_reducible repeat' first | assumption | apply State.v2_canon | apply Res.canon_next

end Sys2Proof.Machine
end

