-- ==== Sys2Proof/Laws/Ops.lean ====
section
/-! SUPPORT. What each shared operation of an instruction can do, said once: the source, privilege and segment checks, the
move to the next instruction, exact and deferred traps, launch errors, the undo log and the agenda. -/

namespace Sys2Proof.Machine

/-! ### The issuing slot -/

/-- A slot reads as it was last set. -/
theorem State.slot_setSlot_same {s : State} (h : mapWf {} s.slots = true) (t : Nat) (x : Slot) : (s.setSlot t x).slot t = x :=
  mapGet_mapPut_same ({} : Slot) s.slots t x h
theorem State.slot_modSlot_same {s : State} (h : mapWf {} s.slots = true) (t : Nat) (f : Slot → Slot) :
    (s.modSlot t f).slot t = f (s.slot t) := State.slot_setSlot_same h t _
theorem State.core_modCore_same {s : State} (h : mapWf {} s.cores = true) (c : Nat) (f : Core → Core) :
    (s.modCore c f).core c = f (s.core c) := mapGet_mapPut_same ({} : Core) s.cores c _ h
theorem State.cluster_modCluster_same {s : State} (h : mapWf {} s.clusters = true) (c : Nat) (f : Cluster → Cluster) :
    (s.modCluster c f).cluster c = f (s.cluster c) := mapGet_mapPut_same ({} : Cluster) s.clusters c _ h
/-- An instruction that finishes changes its slot by `f` and moves it on. -/
theorem State.finish_slot {s : State} (h : mapWf {} s.slots = true) (f : Slot → Slot) :
    (s.finish f).slot s.cur = (f (s.slot s.cur)).next := State.slot_modSlot_same h s.cur _
theorem State.finish_slot_other (s : State) (f : Slot → Slot) {t : Nat} (h : t ≠ s.cur) : (s.finish f).slot t = s.slot t :=
  State.slot_modSlot_other s _ h
theorem State.blockCur_slot {s : State} (h : mapWf {} s.slots = true) (why : Block) :
    (s.blockCur why).slot s.cur = (s.slot s.cur).block why := State.slot_modSlot_same h s.cur _
theorem State.blockCur_slot_other (s : State) (why : Block) {t : Nat} (h : t ≠ s.cur) : (s.blockCur why).slot t = s.slot t :=
  State.slot_modSlot_other s _ h

/-! ### Sources, privilege, segments (09 R234, R238) -/

/-- With every source FULL the instruction goes on. -/
theorem State.withSrcs_full {s : State} {srcs : List Src} (k : State → State)
    (h : ∀ r ∈ srcs, (s.slot s.cur).isEmpty r.file r.n = false) : s.withSrcs srcs k = k s := by
  have : srcs.find? (fun r => (s.slot s.cur).isEmpty r.file r.n) = none := by
    simpa [List.find?_eq_none] using h
  simp [State.withSrcs, this]
/-- The three outcomes of the source check: the instruction goes on; an empty source with q = 1 traps; the slot blocks on
its first empty source. -/
theorem State.withSrcs_cases (s : State) (srcs : List Src) (k : State → State) :
    ((∀ r ∈ srcs, (s.slot s.cur).isEmpty r.file r.n = false) ∧ s.withSrcs srcs k = k s) ∨
    (∃ r ∈ srcs, (s.slot s.cur).isEmpty r.file r.n = true ∧ r.q = true ∧
      s.withSrcs srcs k = s.trapExact 6 (BitVec.ofNat 64 (r.file.code r.n))) ∨
    (∃ r ∈ srcs, (s.slot s.cur).isEmpty r.file r.n = true ∧
      (∀ r' ∈ srcs, (s.slot s.cur).isEmpty r'.file r'.n = true → r'.q = false) ∧
      s.withSrcs srcs k = s.blockCur (.reg r.file r.n)) := by
  unfold State.withSrcs
  dsimp only
  split
  · rename_i h
    exact .inl ⟨by simpa [List.find?_eq_none] using h, rfl⟩
  · rename_i e he
    split
    · rename_i r hr
      have h := List.find?_some hr
      simp only [Bool.and_eq_true] at h
      exact .inr (.inl ⟨r, List.mem_of_find?_eq_some hr, h.1, h.2, rfl⟩)
    · rename_i hn
      refine .inr (.inr ⟨e, List.mem_of_find?_eq_some he, by simpa using List.find?_some he, ?_, rfl⟩)
      intro r hr hre
      have := List.find?_eq_none.mp hn r hr
      simpa [hre] using this
theorem State.withSrcs_nil (s : State) (k : State → State) : s.withSrcs [] k = k s := rfl

/-- A system-only instruction in system mode goes on. -/
theorem State.privileged_system {s : State} (h : (s.slot s.cur).mode = .system) (w : Nat) (k : State → State) :
    s.privileged w k = k s := by simp [State.privileged, h]
/-- In user mode it takes trap 2. -/
theorem State.privileged_user {s : State} (h : (s.slot s.cur).mode = .user) (w : Nat) (k : State → State) :
    s.privileged w k = s.trapExact 2 (BitVec.ofNat 64 w) := by simp [State.privileged, h]

/-- A segment register without its pending bit lets the instruction go on. -/
theorem State.withSeg_ready {s : State} {n : Nat} (h : mapGet false (s.slot s.cur).sgPend n = false) (k : State → State) :
    s.withSeg n k = k s := by simp [State.withSeg, h]
theorem State.withSeg_pending {s : State} {n : Nat} (h : mapGet false (s.slot s.cur).sgPend n = true) (k : State → State) :
    s.withSeg n k = s.blockCur (.segment n) := by simp [State.withSeg, h]

/-! ### Traps (16 R405, R406, 02 R60) -/

@[simp] theorem Slot.takeTrap_pc (x : Slot) (c : Nat) (v f r : Word) (d : Bool) : (x.takeTrap c v f r d).pc = x.tvec := rfl
@[simp] theorem Slot.takeTrap_mode (x : Slot) (c : Nat) (v f r : Word) (d : Bool) : (x.takeTrap c v f r d).mode = .system := rfl
@[simp] theorem Slot.takeTrap_status (x : Slot) (c : Nat) (v f r : Word) (d : Bool) : (x.takeTrap c v f r d).status = .ready := rfl
@[simp] theorem Slot.takeTrap_tpc (x : Slot) (c : Nat) (v f r : Word) (d : Bool) :
    (x.takeTrap c v f r d).tpc = f &&& ~~~(3 : Word) := rfl
@[simp] theorem Slot.takeTrap_tcause (x : Slot) (c : Nat) (v f r : Word) (d : Bool) :
    (x.takeTrap c v f r d).tcause = BitVec.ofNat 64 c := rfl
@[simp] theorem Slot.takeTrap_tval (x : Slot) (c : Nat) (v f r : Word) (d : Bool) : (x.takeTrap c v f r d).tval = v := rfl
@[simp] theorem Slot.takeTrap_tstat (x : Slot) (c : Nat) (v f r : Word) (d : Bool) :
    (x.takeTrap c v f r d).tstat = x.trapStat r d := rfl
@[simp] theorem Slot.takeTrap_rg (x : Slot) (c : Nat) (v f r : Word) (d : Bool) (n : Nat) :
    (x.takeTrap c v f r d).rg n = x.rg n := rfl
@[simp] theorem Slot.takeTrap_rv (x : Slot) (c : Nat) (v f r : Word) (d : Bool) (n : Nat) :
    (x.takeTrap c v f r d).rv n = x.rv n := rfl
@[simp] theorem Slot.takeTrap_rm (x : Slot) (c : Nat) (v f r : Word) (d : Bool) (n : Nat) :
    (x.takeTrap c v f r d).rm n = x.rm n := rfl
@[simp] theorem Slot.takeTrap_tvec (x : Slot) (c : Nat) (v f r : Word) (d : Bool) : (x.takeTrap c v f r d).tvec = x.tvec := rfl
/-- A slot that took a trap is in its handler. -/
theorem Slot.takeTrap_inHandler (x : Slot) (c : Nat) (v f r : Word) (d : Bool) : (x.takeTrap c v f r d).inHandler = true := by
  have h : (x.trapStat r d).getLsbD 6 = true := by
    simp only [Slot.trapStat, tstatInh, BitVec.getLsbD_or]
    simp
  have h2 : (x.trapStat r d &&& tstatInh).getLsbD 6 = true := by
    simp only [BitVec.getLsbD_and, h, tstatInh]; decide
  simp only [Slot.inHandler, Slot.takeTrap_tstat, bne_iff_ne, ne_eq]
  intro h0
  rw [h0] at h2
  simp at h2
@[simp] theorem Slot.trapReturn_pc (x : Slot) : x.trapReturn.pc = x.tpc := rfl
@[simp] theorem Slot.trapReturn_tstat (x : Slot) : x.trapReturn.tstat = x.tstat &&& ~~~tstatInh := rfl
theorem Slot.trapReturn_system (x : Slot) (h : x.tstat &&& tstatPmode ≠ 0) : x.trapReturn.mode = .system :=
  if_pos (by simpa using h)
theorem Slot.trapReturn_user (x : Slot) (h : x.tstat &&& tstatPmode = 0) : x.trapReturn.mode = .user :=
  if_neg (by simpa using h)

/-- An exact trap outside a speculation changes only the issuing slot. -/
theorem State.trapExact_plain {s : State} (h : s.specOf (s.slot s.cur).lidN = none) (c : Nat) (v : Word) :
    s.trapExact c v = s.setSlot s.cur ((s.slot s.cur).takeTrap c v (s.slot s.cur).pc (s.slot s.cur).pc false) := by
  simp [State.trapExact, h]
/-- In a speculation it is the discard of cause 14. -/
theorem State.trapExact_spec {s : State} {sid : Fin 4} (h : s.specOf (s.slot s.cur).lidN = some sid) (c : Nat) (v : Word) :
    s.trapExact c v = s.discard sid 14 := by simp [State.trapExact, h]

/-- A deferred trap finds no other held and no handler: it is held. -/
theorem Slot.holdTrap_free {x : Slot} (hd : x.deferred = none) (hh : x.inHandler = false) (t : HeldTrap) :
    (x.holdTrap t).deferred = some t := by
  have hn : x.holds = true := by simp [Slot.holds, hd, hh]
  obtain ⟨st⟩ := x
  cases st <;> simp [Slot.holdTrap, hn]
/-- Otherwise it is lost, and DOVF says so. -/
theorem Slot.holdTrap_full {x : Slot} (h : x.deferred.isSome ∨ x.inHandler) (t : HeldTrap) :
    x.holdTrap t = { x with tstat := x.tstat ||| tstatDovf } := by
  unfold Slot.holdTrap
  rw [if_pos (by simpa [Slot.holds] using h)]
theorem State.deferTrap_spec {s : State} {lid : Nat} {sid : Fin 4} (h : s.specOf lid = some sid) (t c : Nat) (p v : Word) :
    s.deferTrap lid t c p v = s.discard sid 14 := by simp [State.deferTrap, h]

/-! ### Launch errors and the undo log (15 R388, 06 R164, R170) -/

theorem State.launchError_spec {s : State} {lid : Nat} {sid : Fin 4} (h : s.specOf lid = some sid) (e : Nat) :
    s.launchError lid e = s.discard sid 17 := by simp [State.launchError, h]
/-- The first error of a launch is its status, and completion follows. -/
theorem State.launchError_first {s : State} {lid : Nat} {l : Launch} (h : s.specOf lid = none) (hl : s.launch lid = some l)
    (h0 : l.status = 0) (e : Nat) : s.launchError lid e =
      (s.setLaunch lid (some { l with status := e, killed := true })).postNow (.launchCompletion lid) := by
  simp [State.launchError, h, hl, h0]
/-- A later one changes nothing. -/
theorem State.launchError_later {s : State} {lid : Nat} {l : Launch} (h : s.specOf lid = none) (hl : s.launch lid = some l)
    (h0 : l.status ≠ 0) (e : Nat) : s.launchError lid e = s := by simp [State.launchError, h, hl, h0]
/-- A state already logged is not logged again. -/
theorem State.logUndo_again {s : State} {sid : Fin 4} {sp : Spec} (h : mapGet none s.specs sid.val = some sp) {u : Undo}
    (hu : sp.undo.any (Undo.same u)) : s.logUndo sid u = s := by simp [State.logUndo, h, hu]
theorem State.discard_none {s : State} {sid : Fin 4} (h : mapGet none s.specs sid.val = none) (c : Nat) : s.discard sid c = s := by
  simp [State.discard, h]

/-! ### The agenda (log 3) -/

/-- An event is put on the agenda and none is lost. -/
theorem mem_insertDue (d : Nat) (i : Ev) (l : List (Nat × Ev)) (e : Nat × Ev) : e ∈ insertDue d i l ↔ e = (d, i) ∨ e ∈ l := by
  induction l with
  | nil => simp [insertDue]
  | cons x l ih =>
    obtain ⟨k, j⟩ := x
    unfold insertDue
    split
    · rw [List.mem_cons, ih, List.mem_cons]; exact or_left_comm
    · rw [List.mem_cons]
/-- The agenda stays in the order of the cycles events are due in. -/
theorem insertDue_sorted (d : Nat) (i : Ev) (l : List (Nat × Ev)) (h : l.Pairwise fun a b => a.1 ≤ b.1) :
    (insertDue d i l).Pairwise fun a b => a.1 ≤ b.1 := by
  induction l with
  | nil => simp [insertDue]
  | cons x l ih =>
    obtain ⟨k, j⟩ := x
    have h' := List.pairwise_cons.mp h
    unfold insertDue
    split
    · rename_i hk
      refine List.pairwise_cons.mpr ⟨?_, ih h'.2⟩
      intro e he
      rcases (mem_insertDue d i l e).mp he with rfl | he
      · exact hk
      · exact h'.1 e he
    · rename_i hk
      refine List.pairwise_cons.mpr ⟨?_, h⟩
      intro e he
      rcases List.mem_cons.mp he with rfl | he
      · simp only; omega
      · have := h'.1 e he; simp only at *; omega

end Sys2Proof.Machine
end

