-- ==== Sys2Proof/Laws/PerInstr.lean ====
section
/-! SUPPORT. The per-instruction family Encoding: the word of every encodable instruction is a 32-bit word. -/

namespace Sys2Proof

theorem qv_le (b : Bool) : qv b ≤ 1 := by cases b <;> decide
theorem ElemTy.code_le (t : ElemTy) : t.code ≤ 7 := by cases t <;> decide
theorem Scope.code_le (c : Scope) : c.code ≤ 5 := by cases c <;> decide
theorem Size.code_le (c : Size) : c.code ≤ 3 := by cases c <;> decide
theorem LdSize.code_le (c : LdSize) : c.code ≤ 6 := by cases c <;> decide
theorem FenceKind.code_le (c : FenceKind) : c.code ≤ 3 := by cases c <;> decide
theorem ICond.code_le (c : ICond) : c.code ≤ 5 := by cases c <;> decide
theorem FCond.code_le (c : FCond) : c.code ≤ 6 := by cases c <;> decide
theorem enMem_le (o : MemOp) : enMem o ≤ 31 * 4096 + 131072 + 7 * 524288 + 3 * 4194304 + 31 * 134217728 := by
  have := qv_le o.qa
  have := o.imm.isLt
  unfold enMem
  omega

/-- The word of an instruction that has one is a 32-bit word (09 R235). -/
def Laws.Encoding.Statement (i : Instr) : Prop := ∀ w, encode i = some w → w < 2 ^ 32

theorem Laws.Encoding.add (o : Rrr) : Laws.Encoding.Statement (.add o) := by
  intro word h
  have h := Option.some.inj h
  have := qv_le o.qa
  have := qv_le o.qb
  omega
theorem Laws.Encoding.sub (o : Rrr) : Laws.Encoding.Statement (.sub o) := by
  intro word h
  have h := Option.some.inj h
  have := qv_le o.qa
  have := qv_le o.qb
  omega
theorem Laws.Encoding.and (o : Rrr) : Laws.Encoding.Statement (.and o) := by
  intro word h
  have h := Option.some.inj h
  have := qv_le o.qa
  have := qv_le o.qb
  omega
theorem Laws.Encoding.or (o : Rrr) : Laws.Encoding.Statement (.or o) := by
  intro word h
  have h := Option.some.inj h
  have := qv_le o.qa
  have := qv_le o.qb
  omega
theorem Laws.Encoding.xor (o : Rrr) : Laws.Encoding.Statement (.xor o) := by
  intro word h
  have h := Option.some.inj h
  have := qv_le o.qa
  have := qv_le o.qb
  omega
theorem Laws.Encoding.andn (o : Rrr) : Laws.Encoding.Statement (.andn o) := by
  intro word h
  have h := Option.some.inj h
  have := qv_le o.qa
  have := qv_le o.qb
  omega
theorem Laws.Encoding.orn (o : Rrr) : Laws.Encoding.Statement (.orn o) := by
  intro word h
  have h := Option.some.inj h
  have := qv_le o.qa
  have := qv_le o.qb
  omega
theorem Laws.Encoding.sll (o : Rrr) : Laws.Encoding.Statement (.sll o) := by
  intro word h
  have h := Option.some.inj h
  have := qv_le o.qa
  have := qv_le o.qb
  omega
theorem Laws.Encoding.srl (o : Rrr) : Laws.Encoding.Statement (.srl o) := by
  intro word h
  have h := Option.some.inj h
  have := qv_le o.qa
  have := qv_le o.qb
  omega
theorem Laws.Encoding.sra (o : Rrr) : Laws.Encoding.Statement (.sra o) := by
  intro word h
  have h := Option.some.inj h
  have := qv_le o.qa
  have := qv_le o.qb
  omega
theorem Laws.Encoding.rol (o : Rrr) : Laws.Encoding.Statement (.rol o) := by
  intro word h
  have h := Option.some.inj h
  have := qv_le o.qa
  have := qv_le o.qb
  omega
theorem Laws.Encoding.ror (o : Rrr) : Laws.Encoding.Statement (.ror o) := by
  intro word h
  have h := Option.some.inj h
  have := qv_le o.qa
  have := qv_le o.qb
  omega
theorem Laws.Encoding.slt (o : Rrr) : Laws.Encoding.Statement (.slt o) := by
  intro word h
  have h := Option.some.inj h
  have := qv_le o.qa
  have := qv_le o.qb
  omega
theorem Laws.Encoding.sltu (o : Rrr) : Laws.Encoding.Statement (.sltu o) := by
  intro word h
  have h := Option.some.inj h
  have := qv_le o.qa
  have := qv_le o.qb
  omega
theorem Laws.Encoding.min (o : Rrr) : Laws.Encoding.Statement (.min o) := by
  intro word h
  have h := Option.some.inj h
  have := qv_le o.qa
  have := qv_le o.qb
  omega
theorem Laws.Encoding.max (o : Rrr) : Laws.Encoding.Statement (.max o) := by
  intro word h
  have h := Option.some.inj h
  have := qv_le o.qa
  have := qv_le o.qb
  omega
theorem Laws.Encoding.minu (o : Rrr) : Laws.Encoding.Statement (.minu o) := by
  intro word h
  have h := Option.some.inj h
  have := qv_le o.qa
  have := qv_le o.qb
  omega
theorem Laws.Encoding.maxu (o : Rrr) : Laws.Encoding.Statement (.maxu o) := by
  intro word h
  have h := Option.some.inj h
  have := qv_le o.qa
  have := qv_le o.qb
  omega
theorem Laws.Encoding.mul (o : Rrr) : Laws.Encoding.Statement (.mul o) := by
  intro word h
  have h := Option.some.inj h
  have := qv_le o.qa
  have := qv_le o.qb
  omega
theorem Laws.Encoding.mulh (o : Rrr) : Laws.Encoding.Statement (.mulh o) := by
  intro word h
  have h := Option.some.inj h
  have := qv_le o.qa
  have := qv_le o.qb
  omega
theorem Laws.Encoding.mulhu (o : Rrr) : Laws.Encoding.Statement (.mulhu o) := by
  intro word h
  have h := Option.some.inj h
  have := qv_le o.qa
  have := qv_le o.qb
  omega
theorem Laws.Encoding.mulhmx (o : Rrr) : Laws.Encoding.Statement (.mulhmx o) := by
  intro word h
  have h := Option.some.inj h
  have := qv_le o.qa
  have := qv_le o.qb
  omega
theorem Laws.Encoding.div (o : Rrr) : Laws.Encoding.Statement (.div o) := by
  intro word h
  have h := Option.some.inj h
  have := qv_le o.qa
  have := qv_le o.qb
  omega
theorem Laws.Encoding.divu (o : Rrr) : Laws.Encoding.Statement (.divu o) := by
  intro word h
  have h := Option.some.inj h
  have := qv_le o.qa
  have := qv_le o.qb
  omega
theorem Laws.Encoding.rem (o : Rrr) : Laws.Encoding.Statement (.rem o) := by
  intro word h
  have h := Option.some.inj h
  have := qv_le o.qa
  have := qv_le o.qb
  omega
theorem Laws.Encoding.remu (o : Rrr) : Laws.Encoding.Statement (.remu o) := by
  intro word h
  have h := Option.some.inj h
  have := qv_le o.qa
  have := qv_le o.qb
  omega
theorem Laws.Encoding.clz (o : Rr) : Laws.Encoding.Statement (.clz o) := by
  intro word h
  have h := Option.some.inj h
  have := qv_le o.qa
  omega
theorem Laws.Encoding.ctz (o : Rr) : Laws.Encoding.Statement (.ctz o) := by
  intro word h
  have h := Option.some.inj h
  have := qv_le o.qa
  omega
theorem Laws.Encoding.popc (o : Rr) : Laws.Encoding.Statement (.popc o) := by
  intro word h
  have h := Option.some.inj h
  have := qv_le o.qa
  omega
theorem Laws.Encoding.bswap (o : Rr) : Laws.Encoding.Statement (.bswap o) := by
  intro word h
  have h := Option.some.inj h
  have := qv_le o.qa
  omega
theorem Laws.Encoding.sextb (o : Rr) : Laws.Encoding.Statement (.sextb o) := by
  intro word h
  have h := Option.some.inj h
  have := qv_le o.qa
  omega
theorem Laws.Encoding.sexth (o : Rr) : Laws.Encoding.Statement (.sexth o) := by
  intro word h
  have h := Option.some.inj h
  have := qv_le o.qa
  omega
theorem Laws.Encoding.sextw (o : Rr) : Laws.Encoding.Statement (.sextw o) := by
  intro word h
  have h := Option.some.inj h
  have := qv_le o.qa
  omega
theorem Laws.Encoding.zextw (o : Rr) : Laws.Encoding.Statement (.zextw o) := by
  intro word h
  have h := Option.some.inj h
  have := qv_le o.qa
  omega
theorem Laws.Encoding.addw (o : Rrr) : Laws.Encoding.Statement (.addw o) := by
  intro word h
  have h := Option.some.inj h
  have := qv_le o.qa
  have := qv_le o.qb
  omega
theorem Laws.Encoding.subw (o : Rrr) : Laws.Encoding.Statement (.subw o) := by
  intro word h
  have h := Option.some.inj h
  have := qv_le o.qa
  have := qv_le o.qb
  omega
theorem Laws.Encoding.addi (o : Ri) : Laws.Encoding.Statement (.addi o) := by
  intro word h
  have h := Option.some.inj h
  have := qv_le o.qa
  have := o.imm.isLt
  omega
theorem Laws.Encoding.andi (o : Ri) : Laws.Encoding.Statement (.andi o) := by
  intro word h
  have h := Option.some.inj h
  have := qv_le o.qa
  have := o.imm.isLt
  omega
theorem Laws.Encoding.ori (o : Ri) : Laws.Encoding.Statement (.ori o) := by
  intro word h
  have h := Option.some.inj h
  have := qv_le o.qa
  have := o.imm.isLt
  omega
theorem Laws.Encoding.xori (o : Ri) : Laws.Encoding.Statement (.xori o) := by
  intro word h
  have h := Option.some.inj h
  have := qv_le o.qa
  have := o.imm.isLt
  omega
theorem Laws.Encoding.slti (o : Ri) : Laws.Encoding.Statement (.slti o) := by
  intro word h
  have h := Option.some.inj h
  have := qv_le o.qa
  have := o.imm.isLt
  omega
theorem Laws.Encoding.sltiu (o : Ri) : Laws.Encoding.Statement (.sltiu o) := by
  intro word h
  have h := Option.some.inj h
  have := qv_le o.qa
  have := o.imm.isLt
  omega
theorem Laws.Encoding.addiw (o : Ri) : Laws.Encoding.Statement (.addiw o) := by
  intro word h
  have h := Option.some.inj h
  have := qv_le o.qa
  have := o.imm.isLt
  omega
theorem Laws.Encoding.slli (o : Rsh) : Laws.Encoding.Statement (.slli o) := by
  intro word h
  have h := Option.some.inj h
  have := qv_le o.qa
  omega
theorem Laws.Encoding.srli (o : Rsh) : Laws.Encoding.Statement (.srli o) := by
  intro word h
  have h := Option.some.inj h
  have := qv_le o.qa
  omega
theorem Laws.Encoding.srai (o : Rsh) : Laws.Encoding.Statement (.srai o) := by
  intro word h
  have h := Option.some.inj h
  have := qv_le o.qa
  omega
theorem Laws.Encoding.rori (o : Rsh) : Laws.Encoding.Statement (.rori o) := by
  intro word h
  have h := Option.some.inj h
  have := qv_le o.qa
  omega
theorem Laws.Encoding.lih (o : Ud) : Laws.Encoding.Statement (.lih o) := by
  intro word h
  have h := Option.some.inj h
  have := o.imm.isLt
  omega
theorem Laws.Encoding.pcblk (o : Ud) : Laws.Encoding.Statement (.pcblk o) := by
  intro word h
  have h := Option.some.inj h
  have := o.imm.isLt
  omega
theorem Laws.Encoding.ldpc (o : Ud) : Laws.Encoding.Statement (.ldpc o) := by
  intro word h
  have h := Option.some.inj h
  have := o.imm.isLt
  omega
theorem Laws.Encoding.beq (o : Br2) : Laws.Encoding.Statement (.beq o) := by
  intro word h
  have h := Option.some.inj h
  have := qv_le o.qa
  have := qv_le o.qb
  have := o.disp.isLt
  omega
theorem Laws.Encoding.bne (o : Br2) : Laws.Encoding.Statement (.bne o) := by
  intro word h
  have h := Option.some.inj h
  have := qv_le o.qa
  have := qv_le o.qb
  have := o.disp.isLt
  omega
theorem Laws.Encoding.blt (o : Br2) : Laws.Encoding.Statement (.blt o) := by
  intro word h
  have h := Option.some.inj h
  have := qv_le o.qa
  have := qv_le o.qb
  have := o.disp.isLt
  omega
theorem Laws.Encoding.bge (o : Br2) : Laws.Encoding.Statement (.bge o) := by
  intro word h
  have h := Option.some.inj h
  have := qv_le o.qa
  have := qv_le o.qb
  have := o.disp.isLt
  omega
theorem Laws.Encoding.bltu (o : Br2) : Laws.Encoding.Statement (.bltu o) := by
  intro word h
  have h := Option.some.inj h
  have := qv_le o.qa
  have := qv_le o.qb
  have := o.disp.isLt
  omega
theorem Laws.Encoding.bgeu (o : Br2) : Laws.Encoding.Statement (.bgeu o) := by
  intro word h
  have h := Option.some.inj h
  have := qv_le o.qa
  have := qv_le o.qb
  have := o.disp.isLt
  omega
theorem Laws.Encoding.beqz (o : Brz) : Laws.Encoding.Statement (.beqz o) := by
  intro word h
  have h := Option.some.inj h
  have := qv_le o.qa
  have := o.disp.isLt
  omega
theorem Laws.Encoding.bnez (o : Brz) : Laws.Encoding.Statement (.bnez o) := by
  intro word h
  have h := Option.some.inj h
  have := qv_le o.qa
  have := o.disp.isLt
  omega
theorem Laws.Encoding.bltz (o : Brz) : Laws.Encoding.Statement (.bltz o) := by
  intro word h
  have h := Option.some.inj h
  have := qv_le o.qa
  have := o.disp.isLt
  omega
theorem Laws.Encoding.bgez (o : Brz) : Laws.Encoding.Statement (.bgez o) := by
  intro word h
  have h := Option.some.inj h
  have := qv_le o.qa
  have := o.disp.isLt
  omega
theorem Laws.Encoding.bgtz (o : Brz) : Laws.Encoding.Statement (.bgtz o) := by
  intro word h
  have h := Option.some.inj h
  have := qv_le o.qa
  have := o.disp.isLt
  omega
theorem Laws.Encoding.blez (o : Brz) : Laws.Encoding.Statement (.blez o) := by
  intro word h
  have h := Option.some.inj h
  have := qv_le o.qa
  have := o.disp.isLt
  omega
theorem Laws.Encoding.jal (o : Ud) : Laws.Encoding.Statement (.jal o) := by
  intro word h
  have h := Option.some.inj h
  have := o.imm.isLt
  omega
theorem Laws.Encoding.jalr (o : Ri) : Laws.Encoding.Statement (.jalr o) := by
  intro word h
  have h := Option.some.inj h
  have := qv_le o.qa
  have := o.imm.isLt
  omega
theorem Laws.Encoding.skip (n : BitVec 20) : Laws.Encoding.Statement (.skip n) := by
  intro word h
  have h := Option.some.inj h
  have := n.isLt
  omega
theorem Laws.Encoding.nop : Laws.Encoding.Statement (.nop) := by
  intro word h
  have h := Option.some.inj h
  omega
theorem Laws.Encoding.hint (bits : BitVec 25) : Laws.Encoding.Statement (.hint bits) := by
  intro word h
  have h := Option.some.inj h
  have := bits.isLt
  omega
theorem Laws.Encoding.crrd (d : Fin 32) (cr : Fin 32) : Laws.Encoding.Statement (.crrd d cr) := by
  intro word h
  have h := Option.some.inj h
  omega
theorem Laws.Encoding.crwr (o : CrW) : Laws.Encoding.Statement (.crwr o) := by
  intro word h
  have h := Option.some.inj h
  have := qv_le o.qa
  omega
theorem Laws.Encoding.crset (o : CrW) : Laws.Encoding.Statement (.crset o) := by
  intro word h
  have h := Option.some.inj h
  have := qv_le o.qa
  omega
theorem Laws.Encoding.crclr (o : CrW) : Laws.Encoding.Statement (.crclr o) := by
  intro word h
  have h := Option.some.inj h
  have := qv_le o.qa
  omega
theorem Laws.Encoding.fsset (o : FsW) : Laws.Encoding.Statement (.fsset o) := by
  intro word h
  have h := Option.some.inj h
  have := qv_le o.qa
  omega
theorem Laws.Encoding.fsrd (d : Fin 32) (fs : Fin 4) : Laws.Encoding.Statement (.fsrd d fs) := by
  intro word h
  have h := Option.some.inj h
  omega
theorem Laws.Encoding.trap (o : Ra) : Laws.Encoding.Statement (.trap o) := by
  intro word h
  have h := Option.some.inj h
  have := qv_le o.qa
  omega
theorem Laws.Encoding.tret : Laws.Encoding.Statement (.tret) := by
  intro word h
  have h := Option.some.inj h
  omega
theorem Laws.Encoding.halt : Laws.Encoding.Statement (.halt) := by
  intro word h
  have h := Option.some.inj h
  omega
theorem Laws.Encoding.break (o : Ra) : Laws.Encoding.Statement (.break o) := by
  intro word h
  have h := Option.some.inj h
  have := qv_le o.qa
  omega
theorem Laws.Encoding.deferredTrap (thr : Nat) : Laws.Encoding.Statement (.deferredTrap thr) := nofun
theorem Laws.Encoding.ld (size : LdSize) (o : MLd) : Laws.Encoding.Statement (.ld size o) := by
  intro word h
  have h := Option.some.inj h
  have := size.code_le
  have := enMem_le o.mem
  omega
theorem Laws.Encoding.st (size : Size) (o : MSt) : Laws.Encoding.Statement (.st size o) := by
  intro word h
  have h := Option.some.inj h
  have := qv_le o.qt
  have := size.code_le
  have := enMem_le o.mem
  omega
theorem Laws.Encoding.ldx (u : Bool) (o : Xop) : Laws.Encoding.Statement (.ldx u o) := by
  intro word h
  have h := Option.some.inj h
  have := qv_le u
  have := qv_le o.sc
  have := o.size.code_le
  omega
theorem Laws.Encoding.stx (o : Xop) : Laws.Encoding.Statement (.stx o) := by
  intro word h
  have h := Option.some.inj h
  have := qv_le o.sc
  have := o.size.code_le
  omega
theorem Laws.Encoding.ldf (o : MLd) : Laws.Encoding.Statement (.ldf o) := by
  intro word h
  have h := Option.some.inj h
  have := enMem_le o.mem
  omega
theorem Laws.Encoding.lde (o : MLd) : Laws.Encoding.Statement (.lde o) := by
  intro word h
  have h := Option.some.inj h
  have := enMem_le o.mem
  omega
theorem Laws.Encoding.stf (o : MSt) : Laws.Encoding.Statement (.stf o) := by
  intro word h
  have h := Option.some.inj h
  have := qv_le o.qt
  have := enMem_le o.mem
  omega
theorem Laws.Encoding.sete (o : MemOp) : Laws.Encoding.Statement (.sete o) := by
  intro word h
  have h := Option.some.inj h
  have := enMem_le o
  omega
theorem Laws.Encoding.setf (o : MemOp) : Laws.Encoding.Statement (.setf o) := by
  intro word h
  have h := Option.some.inj h
  have := enMem_le o
  omega
theorem Laws.Encoding.tstf (o : MLd) : Laws.Encoding.Statement (.tstf o) := by
  intro word h
  have h := Option.some.inj h
  have := enMem_le o.mem
  omega
theorem Laws.Encoding.vld (o : MLd) : Laws.Encoding.Statement (.vld o) := by
  intro word h
  have h := Option.some.inj h
  have := enMem_le o.mem
  omega
theorem Laws.Encoding.vst (o : MSt) : Laws.Encoding.Statement (.vst o) := by
  intro word h
  have h := Option.some.inj h
  have := qv_le o.qt
  have := enMem_le o.mem
  omega
theorem Laws.Encoding.vldf (o : MLd) : Laws.Encoding.Statement (.vldf o) := by
  intro word h
  have h := Option.some.inj h
  have := enMem_le o.mem
  omega
theorem Laws.Encoding.vlde (o : MLd) : Laws.Encoding.Statement (.vlde o) := by
  intro word h
  have h := Option.some.inj h
  have := enMem_le o.mem
  omega
theorem Laws.Encoding.vstf (o : MSt) : Laws.Encoding.Statement (.vstf o) := by
  intro word h
  have h := Option.some.inj h
  have := qv_le o.qt
  have := enMem_le o.mem
  omega
theorem Laws.Encoding.vldb (o : MLd) : Laws.Encoding.Statement (.vldb o) := by
  intro word h
  have h := Option.some.inj h
  have := enMem_le o.mem
  omega
theorem Laws.Encoding.vldi (o : Vix) : Laws.Encoding.Statement (.vldi o) := by
  intro word h
  have h := Option.some.inj h
  have := o.ty.code_le
  omega
theorem Laws.Encoding.vsti (o : Vix) : Laws.Encoding.Statement (.vsti o) := by
  intro word h
  have h := Option.some.inj h
  have := o.ty.code_le
  omega
theorem Laws.Encoding.amoadd (o : Amo) : Laws.Encoding.Statement (.amoadd o) := by
  intro word h
  have h := Option.some.inj h
  have := qv_le o.wd
  have := qv_le o.acq
  have := qv_le o.rel
  omega
theorem Laws.Encoding.amoand (o : Amo) : Laws.Encoding.Statement (.amoand o) := by
  intro word h
  have h := Option.some.inj h
  have := qv_le o.wd
  have := qv_le o.acq
  have := qv_le o.rel
  omega
theorem Laws.Encoding.amoor (o : Amo) : Laws.Encoding.Statement (.amoor o) := by
  intro word h
  have h := Option.some.inj h
  have := qv_le o.wd
  have := qv_le o.acq
  have := qv_le o.rel
  omega
theorem Laws.Encoding.amoxor (o : Amo) : Laws.Encoding.Statement (.amoxor o) := by
  intro word h
  have h := Option.some.inj h
  have := qv_le o.wd
  have := qv_le o.acq
  have := qv_le o.rel
  omega
theorem Laws.Encoding.amomin (o : Amo) : Laws.Encoding.Statement (.amomin o) := by
  intro word h
  have h := Option.some.inj h
  have := qv_le o.wd
  have := qv_le o.acq
  have := qv_le o.rel
  omega
theorem Laws.Encoding.amomax (o : Amo) : Laws.Encoding.Statement (.amomax o) := by
  intro word h
  have h := Option.some.inj h
  have := qv_le o.wd
  have := qv_le o.acq
  have := qv_le o.rel
  omega
theorem Laws.Encoding.amominu (o : Amo) : Laws.Encoding.Statement (.amominu o) := by
  intro word h
  have h := Option.some.inj h
  have := qv_le o.wd
  have := qv_le o.acq
  have := qv_le o.rel
  omega
theorem Laws.Encoding.amomaxu (o : Amo) : Laws.Encoding.Statement (.amomaxu o) := by
  intro word h
  have h := Option.some.inj h
  have := qv_le o.wd
  have := qv_le o.acq
  have := qv_le o.rel
  omega
theorem Laws.Encoding.amoswp (o : Amo) : Laws.Encoding.Statement (.amoswp o) := by
  intro word h
  have h := Option.some.inj h
  have := qv_le o.wd
  have := qv_le o.acq
  have := qv_le o.rel
  omega
theorem Laws.Encoding.amocas (o : Amo) : Laws.Encoding.Statement (.amocas o) := by
  intro word h
  have h := Option.some.inj h
  have := qv_le o.wd
  have := qv_le o.acq
  have := qv_le o.rel
  omega
theorem Laws.Encoding.fence (kind : FenceKind) (scope : Scope) : Laws.Encoding.Statement (.fence kind scope) := by
  intro word h
  have h := Option.some.inj h
  have := kind.code_le
  have := scope.code_le
  omega
theorem Laws.Encoding.fencer (scope : Scope) (o : Rab) : Laws.Encoding.Statement (.fencer scope o) := by
  intro word h
  have h := Option.some.inj h
  have := qv_le o.qa
  have := qv_le o.qb
  have := scope.code_le
  omega
theorem Laws.Encoding.isync : Laws.Encoding.Statement (.isync) := by
  intro word h
  have h := Option.some.inj h
  omega
theorem Laws.Encoding.drain : Laws.Encoding.Statement (.drain) := by
  intro word h
  have h := Option.some.inj h
  omega
theorem Laws.Encoding.sgset (o : Sgw) : Laws.Encoding.Statement (.sgset o) := by
  intro word h
  have h := Option.some.inj h
  have := qv_le o.qa
  have := qv_le o.qb
  omega
theorem Laws.Encoding.sgnarrow (o : Sgw) : Laws.Encoding.Statement (.sgnarrow o) := by
  intro word h
  have h := Option.some.inj h
  have := qv_le o.qa
  have := qv_le o.qb
  omega
theorem Laws.Encoding.sgrd (d : Fin 32) (sg : Fin 8) (w : Bool) : Laws.Encoding.Statement (.sgrd d sg w) := by
  intro word h
  have h := Option.some.inj h
  have := qv_le w
  omega
theorem Laws.Encoding.sgcpy (sd : Fin 8) (sg : Fin 8) : Laws.Encoding.Statement (.sgcpy sd sg) := by
  intro word h
  have h := Option.some.inj h
  omega
theorem Laws.Encoding.msend (o : Rab) : Laws.Encoding.Statement (.msend o) := by
  intro word h
  have h := Option.some.inj h
  have := qv_le o.qa
  have := qv_le o.qb
  omega
theorem Laws.Encoding.msendt (o : Rab) : Laws.Encoding.Statement (.msendt o) := by
  intro word h
  have h := Option.some.inj h
  have := qv_le o.qa
  have := qv_le o.qb
  omega
theorem Laws.Encoding.mrecv (d : Fin 32) : Laws.Encoding.Statement (.mrecv d) := by
  intro word h
  have h := Option.some.inj h
  omega
theorem Laws.Encoding.mrecvt (o : Rr) : Laws.Encoding.Statement (.mrecvt o) := by
  intro word h
  have h := Option.some.inj h
  have := qv_le o.qa
  omega
theorem Laws.Encoding.waitm (o : Rr) : Laws.Encoding.Statement (.waitm o) := by
  intro word h
  have h := Option.some.inj h
  have := qv_le o.qa
  omega
theorem Laws.Encoding.mcnt (d : Fin 32) : Laws.Encoding.Statement (.mcnt d) := by
  intro word h
  have h := Option.some.inj h
  omega
theorem Laws.Encoding.vadd (o : V3) : Laws.Encoding.Statement (.vadd o) := by
  intro word h
  have h := Option.some.inj h
  have := o.ty.code_le
  omega
theorem Laws.Encoding.vsub (o : V3) : Laws.Encoding.Statement (.vsub o) := by
  intro word h
  have h := Option.some.inj h
  have := o.ty.code_le
  omega
theorem Laws.Encoding.vmul (o : V3) : Laws.Encoding.Statement (.vmul o) := by
  intro word h
  have h := Option.some.inj h
  have := o.ty.code_le
  omega
theorem Laws.Encoding.vmulh (o : V3) : Laws.Encoding.Statement (.vmulh o) := by
  intro word h
  have h := Option.some.inj h
  have := o.ty.code_le
  omega
theorem Laws.Encoding.vmin (o : V3) : Laws.Encoding.Statement (.vmin o) := by
  intro word h
  have h := Option.some.inj h
  have := o.ty.code_le
  omega
theorem Laws.Encoding.vmax (o : V3) : Laws.Encoding.Statement (.vmax o) := by
  intro word h
  have h := Option.some.inj h
  have := o.ty.code_le
  omega
theorem Laws.Encoding.vminu (o : V3) : Laws.Encoding.Statement (.vminu o) := by
  intro word h
  have h := Option.some.inj h
  have := o.ty.code_le
  omega
theorem Laws.Encoding.vmaxu (o : V3) : Laws.Encoding.Statement (.vmaxu o) := by
  intro word h
  have h := Option.some.inj h
  have := o.ty.code_le
  omega
theorem Laws.Encoding.vabs (o : V2) : Laws.Encoding.Statement (.vabs o) := by
  intro word h
  have h := Option.some.inj h
  have := o.ty.code_le
  omega
theorem Laws.Encoding.vneg (o : V2) : Laws.Encoding.Statement (.vneg o) := by
  intro word h
  have h := Option.some.inj h
  have := o.ty.code_le
  omega
theorem Laws.Encoding.vadds (o : V3) : Laws.Encoding.Statement (.vadds o) := by
  intro word h
  have h := Option.some.inj h
  have := o.ty.code_le
  omega
theorem Laws.Encoding.vsubs (o : V3) : Laws.Encoding.Statement (.vsubs o) := by
  intro word h
  have h := Option.some.inj h
  have := o.ty.code_le
  omega
theorem Laws.Encoding.vand (o : V3) : Laws.Encoding.Statement (.vand o) := by
  intro word h
  have h := Option.some.inj h
  have := o.ty.code_le
  omega
theorem Laws.Encoding.vor (o : V3) : Laws.Encoding.Statement (.vor o) := by
  intro word h
  have h := Option.some.inj h
  have := o.ty.code_le
  omega
theorem Laws.Encoding.vxor (o : V3) : Laws.Encoding.Statement (.vxor o) := by
  intro word h
  have h := Option.some.inj h
  have := o.ty.code_le
  omega
theorem Laws.Encoding.vandn (o : V3) : Laws.Encoding.Statement (.vandn o) := by
  intro word h
  have h := Option.some.inj h
  have := o.ty.code_le
  omega
theorem Laws.Encoding.vsll (o : V3) : Laws.Encoding.Statement (.vsll o) := by
  intro word h
  have h := Option.some.inj h
  have := o.ty.code_le
  omega
theorem Laws.Encoding.vsrl (o : V3) : Laws.Encoding.Statement (.vsrl o) := by
  intro word h
  have h := Option.some.inj h
  have := o.ty.code_le
  omega
theorem Laws.Encoding.vsra (o : V3) : Laws.Encoding.Statement (.vsra o) := by
  intro word h
  have h := Option.some.inj h
  have := o.ty.code_le
  omega
theorem Laws.Encoding.vfadd (o : V3) : Laws.Encoding.Statement (.vfadd o) := by
  intro word h
  have h := Option.some.inj h
  have := o.ty.code_le
  omega
theorem Laws.Encoding.vfsub (o : V3) : Laws.Encoding.Statement (.vfsub o) := by
  intro word h
  have h := Option.some.inj h
  have := o.ty.code_le
  omega
theorem Laws.Encoding.vfmul (o : V3) : Laws.Encoding.Statement (.vfmul o) := by
  intro word h
  have h := Option.some.inj h
  have := o.ty.code_le
  omega
theorem Laws.Encoding.vfdiv (o : V3) : Laws.Encoding.Statement (.vfdiv o) := by
  intro word h
  have h := Option.some.inj h
  have := o.ty.code_le
  omega
theorem Laws.Encoding.vfmin (o : V3) : Laws.Encoding.Statement (.vfmin o) := by
  intro word h
  have h := Option.some.inj h
  have := o.ty.code_le
  omega
theorem Laws.Encoding.vfmax (o : V3) : Laws.Encoding.Statement (.vfmax o) := by
  intro word h
  have h := Option.some.inj h
  have := o.ty.code_le
  omega
theorem Laws.Encoding.vfabs (o : V2) : Laws.Encoding.Statement (.vfabs o) := by
  intro word h
  have h := Option.some.inj h
  have := o.ty.code_le
  omega
theorem Laws.Encoding.vfneg (o : V2) : Laws.Encoding.Statement (.vfneg o) := by
  intro word h
  have h := Option.some.inj h
  have := o.ty.code_le
  omega
theorem Laws.Encoding.vfsqrt (o : V2) : Laws.Encoding.Statement (.vfsqrt o) := by
  intro word h
  have h := Option.some.inj h
  have := o.ty.code_le
  omega
theorem Laws.Encoding.vrcp (o : V2) : Laws.Encoding.Statement (.vrcp o) := by
  intro word h
  have h := Option.some.inj h
  have := o.ty.code_le
  omega
theorem Laws.Encoding.vrsq (o : V2) : Laws.Encoding.Statement (.vrsq o) := by
  intro word h
  have h := Option.some.inj h
  have := o.ty.code_le
  omega
theorem Laws.Encoding.vexp2 (o : V2) : Laws.Encoding.Statement (.vexp2 o) := by
  intro word h
  have h := Option.some.inj h
  have := o.ty.code_le
  omega
theorem Laws.Encoding.vfma (o : V3) : Laws.Encoding.Statement (.vfma o) := by
  intro word h
  have h := Option.some.inj h
  have := o.ty.code_le
  omega
theorem Laws.Encoding.vfms (o : V3) : Laws.Encoding.Statement (.vfms o) := by
  intro word h
  have h := Option.some.inj h
  have := o.ty.code_le
  omega
theorem Laws.Encoding.vfnma (o : V3) : Laws.Encoding.Statement (.vfnma o) := by
  intro word h
  have h := Option.some.inj h
  have := o.ty.code_le
  omega
theorem Laws.Encoding.vdot (o : V3) : Laws.Encoding.Statement (.vdot o) := by
  intro word h
  have h := Option.some.inj h
  have := o.ty.code_le
  omega
theorem Laws.Encoding.vcmp (c : ICond) (o : V3) : Laws.Encoding.Statement (.vcmp c o) := by
  intro word h
  have h := Option.some.inj h
  have := c.code_le
  have := o.ty.code_le
  omega
theorem Laws.Encoding.vfcmp (c : FCond) (o : V3) : Laws.Encoding.Statement (.vfcmp c o) := by
  intro word h
  have h := Option.some.inj h
  have := c.code_le
  have := o.ty.code_le
  omega
theorem Laws.Encoding.vcvt (o : Vcvt) : Laws.Encoding.Statement (.vcvt o) := by
  intro word h
  have h := Option.some.inj h
  omega
theorem Laws.Encoding.vcvti (o : Vci) : Laws.Encoding.Statement (.vcvti o) := by
  intro word h
  have h := Option.some.inj h
  have := qv_le o.u
  have := o.ty.code_le
  omega
theorem Laws.Encoding.vcvtf (o : Vci) : Laws.Encoding.Statement (.vcvtf o) := by
  intro word h
  have h := Option.some.inj h
  have := qv_le o.u
  have := o.ty.code_le
  omega
theorem Laws.Encoding.vpack (d : Fin 32) (a : Fin 32) (b : Fin 32) (ty : ElemTy) (u : Bool) : Laws.Encoding.Statement (.vpack d a b ty u) := by
  intro word h
  have h := Option.some.inj h
  have := qv_le u
  have := ty.code_le
  omega
theorem Laws.Encoding.vunpk (d : Fin 32) (a : Fin 32) (ty : ElemTy) (hi : Bool) : Laws.Encoding.Statement (.vunpk d a ty hi) := by
  intro word h
  have h := Option.some.inj h
  have := qv_le hi
  have := ty.code_le
  omega
theorem Laws.Encoding.vredadd (o : V2) : Laws.Encoding.Statement (.vredadd o) := by
  intro word h
  have h := Option.some.inj h
  have := o.ty.code_le
  omega
theorem Laws.Encoding.vfredadd (o : V2) : Laws.Encoding.Statement (.vfredadd o) := by
  intro word h
  have h := Option.some.inj h
  have := o.ty.code_le
  omega
theorem Laws.Encoding.vredmin (o : V2) : Laws.Encoding.Statement (.vredmin o) := by
  intro word h
  have h := Option.some.inj h
  have := o.ty.code_le
  omega
theorem Laws.Encoding.vredmax (o : V2) : Laws.Encoding.Statement (.vredmax o) := by
  intro word h
  have h := Option.some.inj h
  have := o.ty.code_le
  omega
theorem Laws.Encoding.vfredmax (o : V2) : Laws.Encoding.Statement (.vfredmax o) := by
  intro word h
  have h := Option.some.inj h
  have := o.ty.code_le
  omega
theorem Laws.Encoding.vbcst (o : V2) : Laws.Encoding.Statement (.vbcst o) := by
  intro word h
  have h := Option.some.inj h
  have := o.ty.code_le
  omega
theorem Laws.Encoding.vshuf (o : V3) : Laws.Encoding.Statement (.vshuf o) := by
  intro word h
  have h := Option.some.inj h
  have := o.ty.code_le
  omega
theorem Laws.Encoding.vslide (o : V3) : Laws.Encoding.Statement (.vslide o) := by
  intro word h
  have h := Option.some.inj h
  have := o.ty.code_le
  omega
theorem Laws.Encoding.vzip (o : V3) : Laws.Encoding.Statement (.vzip o) := by
  intro word h
  have h := Option.some.inj h
  have := o.ty.code_le
  omega
theorem Laws.Encoding.vunzip (o : V3) : Laws.Encoding.Statement (.vunzip o) := by
  intro word h
  have h := Option.some.inj h
  have := o.ty.code_le
  omega
theorem Laws.Encoding.vext (d : Fin 32) (a : Fin 32) (b : Fin 32) (ty : ElemTy) : Laws.Encoding.Statement (.vext d a b ty) := by
  intro word h
  have h := Option.some.inj h
  have := ty.code_le
  omega
theorem Laws.Encoding.vins (d : Fin 32) (a : Fin 32) (b : Fin 32) (ty : ElemTy) : Laws.Encoding.Statement (.vins d a b ty) := by
  intro word h
  have h := Option.some.inj h
  have := ty.code_le
  omega
theorem Laws.Encoding.mand (d : Fin 8) (a : Fin 8) (b : Fin 8) : Laws.Encoding.Statement (.mand d a b) := by
  intro word h
  have h := Option.some.inj h
  omega
theorem Laws.Encoding.mor (d : Fin 8) (a : Fin 8) (b : Fin 8) : Laws.Encoding.Statement (.mor d a b) := by
  intro word h
  have h := Option.some.inj h
  omega
theorem Laws.Encoding.mxor (d : Fin 8) (a : Fin 8) (b : Fin 8) : Laws.Encoding.Statement (.mxor d a b) := by
  intro word h
  have h := Option.some.inj h
  omega
theorem Laws.Encoding.mnot (d : Fin 8) (a : Fin 8) : Laws.Encoding.Statement (.mnot d a) := by
  intro word h
  have h := Option.some.inj h
  omega
theorem Laws.Encoding.mpopc (d : Fin 32) (a : Fin 8) (m : Fin 8) (ty : ElemTy) : Laws.Encoding.Statement (.mpopc d a m ty) := by
  intro word h
  have h := Option.some.inj h
  have := ty.code_le
  omega
theorem Laws.Encoding.mffs (d : Fin 32) (a : Fin 8) (m : Fin 8) (ty : ElemTy) : Laws.Encoding.Statement (.mffs d a m ty) := by
  intro word h
  have h := Option.some.inj h
  have := ty.code_le
  omega
theorem Laws.Encoding.mset (d : Fin 8) (a : Fin 32) : Laws.Encoding.Statement (.mset d a) := by
  intro word h
  have h := Option.some.inj h
  omega
theorem Laws.Encoding.mget (d : Fin 32) (a : Fin 8) : Laws.Encoding.Statement (.mget d a) := by
  intro word h
  have h := Option.some.inj h
  omega
theorem Laws.Encoding.vsel (o : V3) : Laws.Encoding.Statement (.vsel o) := by
  intro word h
  have h := Option.some.inj h
  have := o.ty.code_le
  omega
theorem Laws.Encoding.vmov (o : V2) : Laws.Encoding.Statement (.vmov o) := by
  intro word h
  have h := Option.some.inj h
  have := o.ty.code_le
  omega
theorem Laws.Encoding.jnew (d : Fin 32) : Laws.Encoding.Statement (.jnew d) := by
  intro word h
  have h := Option.some.inj h
  omega
theorem Laws.Encoding.jfree (o : Ra) : Laws.Encoding.Statement (.jfree o) := by
  intro word h
  have h := Option.some.inj h
  have := qv_le o.qa
  omega
theorem Laws.Encoding.spawn (o : Rr) : Laws.Encoding.Statement (.spawn o) := by
  intro word h
  have h := Option.some.inj h
  have := qv_le o.qa
  omega
theorem Laws.Encoding.spawnr (o : Rrr) : Laws.Encoding.Statement (.spawnr o) := by
  intro word h
  have h := Option.some.inj h
  have := qv_le o.qa
  have := qv_le o.qb
  omega
theorem Laws.Encoding.retj (o : Ra) : Laws.Encoding.Statement (.retj o) := by
  intro word h
  have h := Option.some.inj h
  have := qv_le o.qa
  omega
theorem Laws.Encoding.sync : Laws.Encoding.Statement (.sync) := by
  intro word h
  have h := Option.some.inj h
  omega
theorem Laws.Encoding.publish (o : Rab) : Laws.Encoding.Statement (.publish o) := by
  intro word h
  have h := Option.some.inj h
  have := qv_le o.qa
  have := qv_le o.qb
  omega
theorem Laws.Encoding.rtake (o : Rr) : Laws.Encoding.Statement (.rtake o) := by
  intro word h
  have h := Option.some.inj h
  have := qv_le o.qa
  omega
theorem Laws.Encoding.yield : Laws.Encoding.Statement (.yield) := by
  intro word h
  have h := Option.some.inj h
  omega
theorem Laws.Encoding.idle : Laws.Encoding.Statement (.idle) := by
  intro word h
  have h := Option.some.inj h
  omega
theorem Laws.Encoding.widf (o : Rr) : Laws.Encoding.Statement (.widf o) := by
  intro word h
  have h := Option.some.inj h
  have := qv_le o.qa
  omega
theorem Laws.Encoding.talloc (o : Rr) : Laws.Encoding.Statement (.talloc o) := by
  intro word h
  have h := Option.some.inj h
  have := qv_le o.qa
  omega
theorem Laws.Encoding.tallocn (o : Rr) : Laws.Encoding.Statement (.tallocn o) := by
  intro word h
  have h := Option.some.inj h
  have := qv_le o.qa
  omega
theorem Laws.Encoding.tinc (o : Rab) : Laws.Encoding.Statement (.tinc o) := by
  intro word h
  have h := Option.some.inj h
  have := qv_le o.qa
  have := qv_le o.qb
  omega
theorem Laws.Encoding.tdrop (o : Ra) : Laws.Encoding.Statement (.tdrop o) := by
  intro word h
  have h := Option.some.inj h
  have := qv_le o.qa
  omega
theorem Laws.Encoding.tfree (o : Ra) : Laws.Encoding.Statement (.tfree o) := by
  intro word h
  have h := Option.some.inj h
  have := qv_le o.qa
  omega
theorem Laws.Encoding.tcnt (o : Rr) : Laws.Encoding.Statement (.tcnt o) := by
  intro word h
  have h := Option.some.inj h
  have := qv_le o.qa
  omega
theorem Laws.Encoding.taddr (o : Rr) : Laws.Encoding.Statement (.taddr o) := by
  intro word h
  have h := Option.some.inj h
  have := qv_le o.qa
  omega
theorem Laws.Encoding.rpush (ring : Fin 8) (o : Ra) : Laws.Encoding.Statement (.rpush ring o) := by
  intro word h
  have h := Option.some.inj h
  have := qv_le o.qa
  omega
theorem Laws.Encoding.rpop (d : Fin 32) (ring : Fin 8) : Laws.Encoding.Statement (.rpop d ring) := by
  intro word h
  have h := Option.some.inj h
  omega
theorem Laws.Encoding.rpeek (d : Fin 32) (ring : Fin 8) : Laws.Encoding.Statement (.rpeek d ring) := by
  intro word h
  have h := Option.some.inj h
  omega
theorem Laws.Encoding.rcnt (d : Fin 32) (ring : Fin 8) : Laws.Encoding.Statement (.rcnt d ring) := by
  intro word h
  have h := Option.some.inj h
  omega
theorem Laws.Encoding.mma (o : Mma) : Laws.Encoding.Statement (.mma o) := by
  intro word h
  have h := Option.some.inj h
  have := qv_le o.keepA
  have := qv_le o.keepB
  have := qv_le o.zi
  have := qv_le o.relc
  have := o.ty.code_le
  omega
theorem Laws.Encoding.mmar (o : Mmar) : Laws.Encoding.Statement (.mmar o) := by
  intro word h
  have h := Option.some.inj h
  have := qv_le o.keepA
  have := qv_le o.keepB
  have := qv_le o.zi
  have := qv_le o.relc
  have := o.ty.code_le
  omega
theorem Laws.Encoding.mmas (o : Mma) : Laws.Encoding.Statement (.mmas o) := by
  intro word h
  have h := Option.some.inj h
  have := qv_le o.keepA
  have := qv_le o.keepB
  have := qv_le o.zi
  have := qv_le o.relc
  have := o.ty.code_le
  omega
theorem Laws.Encoding.mmasr (o : Mmar) : Laws.Encoding.Statement (.mmasr o) := by
  intro word h
  have h := Option.some.inj h
  have := qv_le o.keepA
  have := qv_le o.keepB
  have := qv_le o.zi
  have := qv_le o.relc
  have := o.ty.code_le
  omega
theorem Laws.Encoding.accz (acc : Fin 4) (relc : Bool) : Laws.Encoding.Statement (.accz acc relc) := by
  intro word h
  have h := Option.some.inj h
  have := qv_le relc
  omega
theorem Laws.Encoding.accout (o : AccV) : Laws.Encoding.Statement (.accout o) := by
  intro word h
  have h := Option.some.inj h
  have := o.ty.code_le
  omega
theorem Laws.Encoding.accin (o : AccV) : Laws.Encoding.Statement (.accin o) := by
  intro word h
  have h := Option.some.inj h
  have := o.ty.code_le
  omega
theorem Laws.Encoding.accld (o : AccM) : Laws.Encoding.Statement (.accld o) := by
  intro word h
  have h := Option.some.inj h
  have := qv_le o.relc
  have := o.ty.code_le
  omega
theorem Laws.Encoding.accst (o : AccM) : Laws.Encoding.Statement (.accst o) := by
  intro word h
  have h := Option.some.inj h
  have := qv_le o.relc
  have := o.ty.code_le
  omega
theorem Laws.Encoding.mqwait (d : Fin 32) (n : Fin 16) : Laws.Encoding.Statement (.mqwait d n) := by
  intro word h
  have h := Option.some.inj h
  omega
theorem Laws.Encoding.mqcnt (d : Fin 32) : Laws.Encoding.Statement (.mqcnt d) := by
  intro word h
  have h := Option.some.inj h
  omega
theorem Laws.Encoding.copyq (o : Ra) : Laws.Encoding.Statement (.copyq o) := by
  intro word h
  have h := Option.some.inj h
  have := qv_le o.qa
  omega
theorem Laws.Encoding.copyqt (o : Rr) : Laws.Encoding.Statement (.copyqt o) := by
  intro word h
  have h := Option.some.inj h
  have := qv_le o.qa
  omega
theorem Laws.Encoding.gathq (o : Ra) : Laws.Encoding.Statement (.gathq o) := by
  intro word h
  have h := Option.some.inj h
  have := qv_le o.qa
  omega
theorem Laws.Encoding.gathqt (o : Rr) : Laws.Encoding.Statement (.gathqt o) := by
  intro word h
  have h := Option.some.inj h
  have := qv_le o.qa
  omega
theorem Laws.Encoding.collq (o : Rab) : Laws.Encoding.Statement (.collq o) := by
  intro word h
  have h := Option.some.inj h
  have := qv_le o.qa
  have := qv_le o.qb
  omega
theorem Laws.Encoding.donate (o : Rab) : Laws.Encoding.Statement (.donate o) := by
  intro word h
  have h := Option.some.inj h
  have := qv_le o.qa
  have := qv_le o.qb
  omega
theorem Laws.Encoding.bbwait (o : Rr) : Laws.Encoding.Statement (.bbwait o) := by
  intro word h
  have h := Option.some.inj h
  have := qv_le o.qa
  omega
theorem Laws.Encoding.loadCompletion (id : Nat) : Laws.Encoding.Statement (.loadCompletion id) := nofun
theorem Laws.Encoding.storeBufferDrain (core : Nat) (entry : Nat) : Laws.Encoding.Statement (.storeBufferDrain core entry) := nofun
theorem Laws.Encoding.storeAcknowledgement (id : Nat) : Laws.Encoding.Statement (.storeAcknowledgement id) := nofun
theorem Laws.Encoding.windowWrite (w : WinWrite) : Laws.Encoding.Statement (.windowWrite w) := nofun
theorem Laws.Encoding.admitWrite (core : Nat) (value : Word) : Laws.Encoding.Statement (.admitWrite core value) := nofun
theorem Laws.Encoding.segmentTableRead (id : Nat) : Laws.Encoding.Statement (.segmentTableRead id) := nofun
theorem Laws.Encoding.remoteWaitRetry (id : Nat) : Laws.Encoding.Statement (.remoteWaitRetry id) := nofun
theorem Laws.Encoding.clusterCacheFill (cl : Nat) (line : Nat) : Laws.Encoding.Statement (.clusterCacheFill cl line) := nofun
theorem Laws.Encoding.icacheFill (core : Nat) (key : Nat) : Laws.Encoding.Statement (.icacheFill core key) := nofun
theorem Laws.Encoding.releaseCompletion (thr : Nat) : Laws.Encoding.Statement (.releaseCompletion thr) := nofun
theorem Laws.Encoding.walkStart (die : Nat) (k : WalkKey) : Laws.Encoding.Statement (.walkStart die k) := nofun
theorem Laws.Encoding.walkCompletion (die : Nat) (k : WalkKey) : Laws.Encoding.Statement (.walkCompletion die k) := nofun
theorem Laws.Encoding.faultRecordAppend (die : Nat) (part : Nat) : Laws.Encoding.Statement (.faultRecordAppend die part) := nofun
theorem Laws.Encoding.faultResolutionWrite (die : Nat) (word : Word) : Laws.Encoding.Statement (.faultResolutionWrite die word) := nofun
theorem Laws.Encoding.faultConsWrite (die : Nat) (part : Nat) (value : Word) : Laws.Encoding.Statement (.faultConsWrite die part value) := nofun
theorem Laws.Encoding.faultTimeout (die : Nat) (seq : Nat) : Laws.Encoding.Statement (.faultTimeout die seq) := nofun
theorem Laws.Encoding.poisonCompletion (id : Nat) : Laws.Encoding.Statement (.poisonCompletion id) := nofun
theorem Laws.Encoding.joinCounterIncrement (id : Nat) : Laws.Encoding.Statement (.joinCounterIncrement id) := nofun
theorem Laws.Encoding.joinCounterDecrement (id : Nat) : Laws.Encoding.Statement (.joinCounterDecrement id) := nofun
theorem Laws.Encoding.syncTest (id : Nat) : Laws.Encoding.Statement (.syncTest id) := nofun
theorem Laws.Encoding.byteBarrierSubtract (addr : Nat) (amount : Nat) : Laws.Encoding.Statement (.byteBarrierSubtract addr amount) := nofun
theorem Laws.Encoding.bbwaitRetry (id : Nat) : Laws.Encoding.Statement (.bbwaitRetry id) := nofun
theorem Laws.Encoding.eccCorrectableError (die : Nat) (st : EccStruct) : Laws.Encoding.Statement (.eccCorrectableError die st) := nofun
theorem Laws.Encoding.eccUncorrectableError (die : Nat) (loc : EccLoc) : Laws.Encoding.Statement (.eccUncorrectableError die loc) := nofun
theorem Laws.Encoding.patrolScrub (die : Nat) : Laws.Encoding.Statement (.patrolScrub die) := nofun
theorem Laws.Encoding.flitCrcError (die : Nat) (net : Fin 4) (link : Nat) : Laws.Encoding.Statement (.flitCrcError die net link) := nofun
theorem Laws.Encoding.networkStarvationGrant (die : Nat) (net : Fin 4) (link : Nat) : Laws.Encoding.Statement (.networkStarvationGrant die net link) := nofun
theorem Laws.Encoding.allocationGrant (cl : Nat) : Laws.Encoding.Statement (.allocationGrant cl) := nofun
theorem Laws.Encoding.zeroFillDone (id : Nat) : Laws.Encoding.Statement (.zeroFillDone id) := nofun
theorem Laws.Encoding.tileDropArrival (id : Nat) : Laws.Encoding.Statement (.tileDropArrival id) := nofun
theorem Laws.Encoding.tileIncArrival (id : Nat) : Laws.Encoding.Statement (.tileIncArrival id) := nofun
theorem Laws.Encoding.tileFreeArrival (id : Nat) : Laws.Encoding.Statement (.tileFreeArrival id) := nofun
theorem Laws.Encoding.tdropSend (id : Nat) : Laws.Encoding.Statement (.tdropSend id) := nofun
theorem Laws.Encoding.deferredTileFree (cl : Nat) (tile : Nat) : Laws.Encoding.Statement (.deferredTileFree cl tile) := nofun
theorem Laws.Encoding.poolpWrite (cl : Nat) (p : Fin 8) (value : Word) : Laws.Encoding.Statement (.poolpWrite cl p value) := nofun
theorem Laws.Encoding.poolstallWrite (cl : Nat) (value : Word) : Laws.Encoding.Statement (.poolstallWrite cl value) := nofun
theorem Laws.Encoding.poolStallEvent (cl : Nat) (p : Fin 8) : Laws.Encoding.Statement (.poolStallEvent cl p) := nofun
theorem Laws.Encoding.speculationStart (q : Nat) : Laws.Encoding.Statement (.speculationStart q) := nofun
theorem Laws.Encoding.watchedWrite (pa : Nat) (len : Nat) : Laws.Encoding.Statement (.watchedWrite pa len) := nofun
theorem Laws.Encoding.speculationDiscard (sid : Fin 4) (cause : Nat) : Laws.Encoding.Statement (.speculationDiscard sid cause) := nofun
theorem Laws.Encoding.claimReply (sid : Fin 4) (die : Fin 4) : Laws.Encoding.Statement (.claimReply sid die) := nofun
theorem Laws.Encoding.speculationMerge (sid : Fin 4) : Laws.Encoding.Statement (.speculationMerge sid) := nofun
theorem Laws.Encoding.dispatch (core : Nat) : Laws.Encoding.Statement (.dispatch core) := nofun
theorem Laws.Encoding.headerArrival (thr : Nat) : Laws.Encoding.Statement (.headerArrival thr) := nofun
theorem Laws.Encoding.stealProbe (core : Nat) : Laws.Encoding.Statement (.stealProbe core) := nofun
theorem Laws.Encoding.stealGrant (victim : Nat) (thief : Nat) : Laws.Encoding.Statement (.stealGrant victim thief) := nofun
theorem Laws.Encoding.stealReleaseDone (id : Nat) : Laws.Encoding.Statement (.stealReleaseDone id) := nofun
theorem Laws.Encoding.stealDelivery (id : Nat) : Laws.Encoding.Statement (.stealDelivery id) := nofun
theorem Laws.Encoding.probePauseExpiry (core : Nat) : Laws.Encoding.Statement (.probePauseExpiry core) := nofun
theorem Laws.Encoding.quiescenceWave (lid : Nat) : Laws.Encoding.Statement (.quiescenceWave lid) := nofun
theorem Laws.Encoding.launchCompletion (lid : Nat) : Laws.Encoding.Statement (.launchCompletion lid) := nofun
theorem Laws.Encoding.messageArrival (id : Nat) : Laws.Encoding.Statement (.messageArrival id) := nofun
theorem Laws.Encoding.messageRetry (id : Nat) : Laws.Encoding.Statement (.messageRetry id) := nofun
theorem Laws.Encoding.matrixSelect (cl : Nat) : Laws.Encoding.Statement (.matrixSelect cl) := nofun
theorem Laws.Encoding.matrixWriteback (cl : Nat) : Laws.Encoding.Statement (.matrixWriteback cl) := nofun
theorem Laws.Encoding.selfTest (cl : Nat) (failed : BitVec 4) : Laws.Encoding.Statement (.selfTest cl failed) := nofun
theorem Laws.Encoding.mxctlWrite (cl : Nat) (value : Word) : Laws.Encoding.Statement (.mxctlWrite cl value) := nofun
theorem Laws.Encoding.copyCompletion (cl : Nat) (req : Nat) : Laws.Encoding.Statement (.copyCompletion cl req) := nofun
theorem Laws.Encoding.indirectCompletion (cl : Nat) (req : Nat) : Laws.Encoding.Statement (.indirectCompletion cl req) := nofun
theorem Laws.Encoding.engineStateWrite (cl : Nat) (off : Nat) (value : Word) : Laws.Encoding.Statement (.engineStateWrite cl off value) := nofun
theorem Laws.Encoding.systemRegisterWrite (cl : Nat) (off : Nat) (value : Word) : Laws.Encoding.Statement (.systemRegisterWrite cl off value) := nofun
theorem Laws.Encoding.wridx (q : Nat) (value : Word) : Laws.Encoding.Statement (.wridx q value) := nofun
theorem Laws.Encoding.predictionCounterWrite (q : Nat) (word : Fin 4) (value : Word) : Laws.Encoding.Statement (.predictionCounterWrite q word value) := nofun
theorem Laws.Encoding.slotReread (q : Nat) : Laws.Encoding.Statement (.slotReread q) := nofun
theorem Laws.Encoding.staleSlotTimeout (q : Nat) : Laws.Encoding.Statement (.staleSlotTimeout q) := nofun
theorem Laws.Encoding.launch (q : Nat) (index : Nat) : Laws.Encoding.Statement (.launch q index) := nofun
theorem Laws.Encoding.waitAll (q : Nat) (index : Nat) : Laws.Encoding.Statement (.waitAll q index) := nofun
theorem Laws.Encoding.waitAny (q : Nat) (index : Nat) : Laws.Encoding.Statement (.waitAny q index) := nofun
theorem Laws.Encoding.waitEvaluation (q : Nat) (index : Nat) : Laws.Encoding.Statement (.waitEvaluation q index) := nofun
theorem Laws.Encoding.waitFaultTimeout (q : Nat) : Laws.Encoding.Statement (.waitFaultTimeout q) := nofun
theorem Laws.Encoding.signal (q : Nat) (index : Nat) : Laws.Encoding.Statement (.signal q index) := nofun
theorem Laws.Encoding.copy (q : Nat) (index : Nat) : Laws.Encoding.Statement (.copy q index) := nofun
theorem Laws.Encoding.tlbinv (q : Nat) (index : Nat) : Laws.Encoding.Statement (.tlbinv q index) := nofun
theorem Laws.Encoding.tlbinvCompletion (q : Nat) (index : Nat) : Laws.Encoding.Statement (.tlbinvCompletion q index) := nofun
theorem Laws.Encoding.fencePacket (q : Nat) (index : Nat) : Laws.Encoding.Statement (.fencePacket q index) := nofun
theorem Laws.Encoding.nopPacket (q : Nat) (index : Nat) : Laws.Encoding.Statement (.nopPacket q index) := nofun
theorem Laws.Encoding.segtab (q : Nat) (index : Nat) : Laws.Encoding.Statement (.segtab q index) := nofun
theorem Laws.Encoding.queueResidency (q : Nat) : Laws.Encoding.Statement (.queueResidency q) := nofun
theorem Laws.Encoding.watchdogPreempt (lid : Nat) : Laws.Encoding.Statement (.watchdogPreempt lid) := nofun
theorem Laws.Encoding.watchdogKill (lid : Nat) : Laws.Encoding.Statement (.watchdogKill lid) := nofun
theorem Laws.Encoding.watchdogFence (lid : Nat) : Laws.Encoding.Statement (.watchdogFence lid) := nofun
theorem Laws.Encoding.preemption (thr : Nat) : Laws.Encoding.Statement (.preemption thr) := nofun
theorem Laws.Encoding.partitionContextSwitch (cl : Nat) (toPart : Nat) : Laws.Encoding.Statement (.partitionContextSwitch cl toPart) := nofun
theorem Laws.Encoding.contextSwap (cl : Nat) : Laws.Encoding.Statement (.contextSwap cl) := nofun
theorem Laws.Encoding.threadMigration (thr : Nat) (toThr : Nat) : Laws.Encoding.Statement (.threadMigration thr toThr) := nofun
theorem Laws.Encoding.coreMigration (core : Nat) (toCore : Nat) : Laws.Encoding.Statement (.coreMigration core toCore) := nofun
theorem Laws.Encoding.rdmaWrite (qp : Nat) (key : Nat) (addr : Nat) (data : List Byte) : Laws.Encoding.Statement (.rdmaWrite qp key addr data) := nofun
theorem Laws.Encoding.rdmaRead (qp : Nat) (key : Nat) (addr : Nat) (len : Nat) : Laws.Encoding.Statement (.rdmaRead qp key addr len) := nofun
theorem Laws.Encoding.hostSend (qp : Nat) (data : List Byte) : Laws.Encoding.Statement (.hostSend qp data) := nofun
theorem Laws.Encoding.status (r : Mgmt) : Laws.Encoding.Statement (.status r) := nofun
theorem Laws.Encoding.attest (r : Mgmt) (nonce : List Byte) : Laws.Encoding.Statement (.attest r nonce) := nofun
theorem Laws.Encoding.fwload (r : Mgmt) (image : Fin 4) (off : Nat) (data : List Byte) : Laws.Encoding.Statement (.fwload r image off data) := nofun
theorem Laws.Encoding.asidset (r : Mgmt) (asid : BitVec 12) (entry : Word) : Laws.Encoding.Statement (.asidset r asid entry) := nofun
theorem Laws.Encoding.dfset (r : Mgmt) (w0 : Word) (w1 : Word) : Laws.Encoding.Statement (.dfset r w0 w1) := nofun
theorem Laws.Encoding.pool7 (r : Mgmt) (part : Fin 16) (value : Word) : Laws.Encoding.Statement (.pool7 r part value) := nofun
theorem Laws.Encoding.partdef (r : Mgmt) (part : Fin 16) (rec : PartRec) : Laws.Encoding.Statement (.partdef r part rec) := nofun
theorem Laws.Encoding.partdel (r : Mgmt) (part : Fin 16) : Laws.Encoding.Statement (.partdel r part) := nofun
theorem Laws.Encoding.qset (r : Mgmt) (q : BitVec 16) (w0 : Word) (w1 : Word) (w2 : Word) (w3 : Word) (w4 : Word) : Laws.Encoding.Statement (.qset r q w0 w1 w2 w3 w4) := nofun
theorem Laws.Encoding.qrestart (r : Mgmt) (q : BitVec 16) (index : Word) : Laws.Encoding.Statement (.qrestart r q index) := nofun
theorem Laws.Encoding.qdel (r : Mgmt) (q : BitVec 16) : Laws.Encoding.Statement (.qdel r q) := nofun
theorem Laws.Encoding.donmap (r : Mgmt) (dq : BitVec 8) (q : BitVec 16) (unmap : Bool) : Laws.Encoding.Statement (.donmap r dq q unmap) := nofun
theorem Laws.Encoding.mrreg (r : Mgmt) (kind : Fin 4) (base : Word) (len : Word) (rd : Bool) (wr : Bool) : Laws.Encoding.Statement (.mrreg r kind base len rd wr) := nofun
theorem Laws.Encoding.qpbind (r : Mgmt) (qp : BitVec 24) (q : BitVec 16) (unbind : Bool) : Laws.Encoding.Statement (.qpbind r qp q unbind) := nofun
theorem Laws.Encoding.resume (r : Mgmt) (lid : BitVec 12) : Laws.Encoding.Statement (.resume r lid) := nofun
theorem Laws.Encoding.kill (r : Mgmt) (lid : BitVec 12) : Laws.Encoding.Statement (.kill r lid) := nofun
theorem Laws.Encoding.slotgo (r : Mgmt) (thr : BitVec 15) (pc : Word) (sys : Bool) : Laws.Encoding.Statement (.slotgo r thr pc sys) := nofun
theorem Laws.Encoding.coreback (r : Mgmt) (core : BitVec 11) : Laws.Encoding.Statement (.coreback r core) := nofun
theorem Laws.Encoding.checkpoint (r : Mgmt) (streams : List Stream) : Laws.Encoding.Statement (.checkpoint r streams) := nofun
theorem Laws.Encoding.restore (r : Mgmt) (streams : List Stream) : Laws.Encoding.Statement (.restore r streams) := nofun
theorem Laws.Encoding.modset (r : Mgmt) (modid : BitVec 16) : Laws.Encoding.Statement (.modset r modid) := nofun
theorem Laws.Encoding.errread (r : Mgmt) (die : Fin 4) : Laws.Encoding.Statement (.errread r die) := nofun
theorem Laws.Encoding.evtreg (r : Mgmt) (v6 : Bool) (addr : List Byte) (port : BitVec 16) : Laws.Encoding.Statement (.evtreg r v6 addr port) := nofun
theorem Laws.Encoding.eventAcknowledgement (n : Nat) : Laws.Encoding.Statement (.eventAcknowledgement n) := nofun
theorem Laws.Encoding.eventResend (n : Nat) : Laws.Encoding.Statement (.eventResend n) := nofun
theorem Laws.Encoding.workdone (op : BitVec 16) (seq : Word) (status : BitVec 16) : Laws.Encoding.Statement (.workdone op seq status) := nofun
theorem Laws.Encoding.collectiveData (p : AzPkt) : Laws.Encoding.Statement (.collectiveData p) := nofun
theorem Laws.Encoding.collectiveAcknowledgement (p : AzPkt) : Laws.Encoding.Statement (.collectiveAcknowledgement p) := nofun
theorem Laws.Encoding.donation (p : AzPkt) : Laws.Encoding.Statement (.donation p) := nofun
theorem Laws.Encoding.groupWrite (p : AzPkt) : Laws.Encoding.Statement (.groupWrite p) := nofun
theorem Laws.Encoding.reduceReadRequest (p : AzPkt) : Laws.Encoding.Statement (.reduceReadRequest p) := nofun
theorem Laws.Encoding.reduceReadReply (p : AzPkt) : Laws.Encoding.Statement (.reduceReadReply p) := nofun
theorem Laws.Encoding.credit (p : AzPkt) : Laws.Encoding.Statement (.credit p) := nofun
theorem Laws.Encoding.collectiveStep (die : Nat) (cmd : Nat) (step : Nat) : Laws.Encoding.Statement (.collectiveStep die cmd step) := nofun
theorem Laws.Encoding.collectiveStepCompletion (die : Nat) (cmd : Nat) (step : Nat) : Laws.Encoding.Statement (.collectiveStepCompletion die cmd step) := nofun
theorem Laws.Encoding.linkFrameCrcError (link : Fin 8) : Laws.Encoding.Statement (.linkFrameCrcError link) := nofun
theorem Laws.Encoding.linkDownTimeout (link : Fin 8) : Laws.Encoding.Statement (.linkDownTimeout link) := nofun
theorem Laws.Encoding.powerOnReset (b : BootIn) : Laws.Encoding.Statement (.powerOnReset b) := nofun
theorem Laws.Encoding.leaseRenewal (die : Fin 4) (term : Nat) : Laws.Encoding.Statement (.leaseRenewal die term) := nofun
theorem Laws.Encoding.leaseTimeout (die : Fin 4) : Laws.Encoding.Statement (.leaseTimeout die) := nofun
theorem Laws.Encoding.leaseClaim (die : Fin 4) (claimant : Fin 4) (term : Nat) : Laws.Encoding.Statement (.leaseClaim die claimant term) := nofun
theorem Laws.Encoding.clusterPowerUp (group : Fin 32) : Laws.Encoding.Statement (.clusterPowerUp group) := nofun
theorem Laws.Encoding.matrixRateRamp (cl : Nat) : Laws.Encoding.Statement (.matrixRateRamp cl) := nofun
theorem Laws.Encoding.clusterPowerGate (cl : Nat) : Laws.Encoding.Statement (.clusterPowerGate cl) := nofun
theorem Laws.Encoding.illegalInstruction (w : Word32) : Laws.Encoding.Statement (.illegalInstruction w) := nofun
theorem Laws.Encoding.fetchTrap (poisoned : Bool) (at_ : Word) : Laws.Encoding.Statement (.fetchTrap poisoned at_) := nofun
theorem Laws.Encoding.azrumLinkDown (link : Fin 8) : Laws.Encoding.Statement (.azrumLinkDown link) := nofun
theorem Laws.Encoding.azrumLinkUp (link : Fin 8) : Laws.Encoding.Statement (.azrumLinkUp link) := nofun
theorem Laws.Encoding.ecnCongestionNotification (qp : Nat) : Laws.Encoding.Statement (.ecnCongestionNotification qp) := nofun
theorem Laws.Encoding.waitHostReadResponse (q : Nat) (index : Nat) (entry : Nat) (value : Option Word) : Laws.Encoding.Statement (.waitHostReadResponse q index entry value) := nofun

end Sys2Proof
end

