-- ==== Sys2Proof/Tests/Slice0.lean ====
section
/-! SUPPORT. Tests: an ill-formed term for each limit of WellFormed, words written out from the spec's encodings of every
format, and a witness for the hypotheses of every obligation (each clause of it), on small states. Expected values come
from the spec's text: the source of each stands in its docstring. -/

open Sys2Proof Sys2Proof.Machine Sys2Proof.Claims

namespace Sys2Proof.Tests

set_option Elab.async false

/-! ### Helpers -/

theorem fullOf {s : State} {l : List (RegFile × Nat)} (h : (l.all fun r => !(me s).isEmpty r.1 r.2) = true) : full s l := by
  intro r hr
  have := List.all_eq_true.mp h r hr
  simpa using this

/-- The answer is `x`. -/
def isOk {ε α : Type} [DecidableEq α] (r : Except ε α) (x : α) : Bool := match r with | .ok y => decide (y = x) | .error _ => false
/-- The answer is the refusal `x`. -/
def isErr {ε α : Type} [DecidableEq ε] (r : Except ε α) (x : ε) : Bool := match r with | .ok _ => false | .error y => decide (y = x)

theorem okOf {ε α : Type} [DecidableEq α] {r : Except ε α} {x : α} (h : isOk r x = true) : r = .ok x := by
  cases r with
  | ok y => simpa [isOk] using h
  | error e => simp [isOk] at h

theorem errOf {ε α : Type} [DecidableEq ε] {r : Except ε α} {x : ε} (h : isErr r x = true) : r = .error x := by
  cases r with
  | ok y => simp [isErr] at h
  | error e => simpa [isErr] using h

/-- A machine with one slot listed: slot 0. -/
def oneSlot (x : Slot) : State := { slots := [(0, x)], nextId := 50 }

/-! ### Well-formedness: a term for each limit, refused (09 R238 step 2) -/

theorem wf_hint_zero_is_nop : (Instr.hint 0).wf = false := by decide +kernel
theorem wf_crrd_number : (Instr.crrd 1 15).wf = false := by decide +kernel
theorem wf_crwr_read_only : (Instr.crwr ⟨1, 2, false, 8⟩).wf = false := by decide +kernel
theorem wf_crset_read_only : (Instr.crset ⟨1, 2, false, 14⟩).wf = false := by decide +kernel
theorem wf_crclr_read_only : (Instr.crclr ⟨1, 2, false, 12⟩).wf = false := by decide +kernel
theorem wf_ldx_unsigned_doubleword : (Instr.ldx true ⟨1, 2, 3, 0, 0, false, .d⟩).wf = false := by decide +kernel
theorem wf_fencer_scope : (Instr.fencer .cluster ⟨4, 5, false, false⟩).wf = false := by decide +kernel
theorem wf_vldi_bytes : (Instr.vldi ⟨1, 2, 0, .i8, 3⟩).wf = false := by decide +kernel
theorem wf_vsti_half : (Instr.vsti ⟨1, 2, 0, .bf16, 3⟩).wf = false := by decide +kernel
theorem wf_mrecv_odd : (Instr.mrecv 5).wf = false := by decide +kernel
theorem wf_mrecvt_odd : (Instr.mrecvt ⟨5, 6, false⟩).wf = false := by decide +kernel
theorem wf_rtake_odd : (Instr.rtake ⟨7, 6, false⟩).wf = false := by decide +kernel
theorem wf_vadd_float : (Instr.vadd ⟨1, 2, 3, 0, .f32⟩).wf = false := by decide +kernel
theorem wf_vadd_s8 : (Instr.vadd ⟨1, 2, 3, 0, .s8⟩).wf = false := by decide +kernel
theorem wf_vabs_float : (Instr.vabs ⟨1, 2, 0, .f16⟩).wf = false := by decide +kernel
theorem wf_vsll_float : (Instr.vsll ⟨1, 2, 3, 0, .bf16⟩).wf = false := by decide +kernel
theorem wf_vfadd_int : (Instr.vfadd ⟨1, 2, 3, 0, .i32⟩).wf = false := by decide +kernel
theorem wf_vfsqrt_int : (Instr.vfsqrt ⟨1, 2, 0, .i64⟩).wf = false := by decide +kernel
theorem wf_vfma_s8 : (Instr.vfma ⟨1, 2, 3, 0, .s8⟩).wf = false := by decide +kernel
theorem wf_vdot_f32 : (Instr.vdot ⟨1, 2, 3, 0, .f32⟩).wf = false := by decide +kernel
theorem wf_vcmp_register : (Instr.vcmp .eq ⟨8, 2, 3, 0, .i32⟩).wf = false := by decide +kernel
theorem wf_vcmp_float : (Instr.vcmp .lt ⟨7, 2, 3, 0, .f32⟩).wf = false := by decide +kernel
theorem wf_vfcmp_int : (Instr.vfcmp .un ⟨7, 2, 3, 0, .i32⟩).wf = false := by decide +kernel
theorem wf_vcvti_int : (Instr.vcvti ⟨1, 2, 0, .i32, false⟩).wf = false := by decide +kernel
theorem wf_vpack_bytes : (Instr.vpack 1 2 3 .i8 false).wf = false := by decide +kernel
theorem wf_vunpk_widest : (Instr.vunpk 1 2 .i64 false).wf = false := by decide +kernel
theorem wf_vredadd_float : (Instr.vredadd ⟨1, 2, 0, .f32⟩).wf = false := by decide +kernel
theorem wf_vfredmax_int : (Instr.vfredmax ⟨1, 2, 0, .i32⟩).wf = false := by decide +kernel
theorem wf_mma_count : (Instr.mma ⟨0, 0, 1, 17, .bf16, false, false, false, false⟩).wf = false := by decide +kernel
theorem wf_mma_one_ring : (Instr.mma ⟨0, 2, 2, 4, .bf16, false, false, false, false⟩).wf = false := by decide +kernel
theorem wf_mmar_type : (Instr.mmar ⟨0, 1, 2, .f32, false, false, false, false⟩).wf = false := by decide +kernel
theorem wf_accout_type : (Instr.accout ⟨1, 2, 3, .i16⟩).wf = false := by decide +kernel
theorem wf_accst_type : (Instr.accst ⟨1, 2, 3, .i64, false⟩).wf = false := by decide +kernel
theorem wf_mqwait_depth : (Instr.mqwait 5 9).wf = false := by decide +kernel
theorem wf_copyq_group : (Instr.copyq ⟨6, false⟩).wf = false := by decide +kernel
theorem wf_copyq_group_zero : (Instr.copyq ⟨0, false⟩).wf = false := by decide +kernel
theorem wf_gathq_group : (Instr.gathqt ⟨5, 12, false⟩).wf = false := by decide +kernel

/-! ### Decoding: words put together from the fields of 09 R236-R245 and the worked words of 10, 12, 14 and 15 -/

theorem decode_add : decode 0x000C5501 = .ok (.add ⟨10, 5, 6, false, false⟩) := okOf (by decide +kernel)
theorem decode_add_trapping : decode 0x004C5501 = .ok (.add ⟨10, 5, 6, true, false⟩) := okOf (by decide +kernel)
theorem decode_add_legal_neighbour : decode 0x00425501 = .ok (.add ⟨10, 5, 1, true, false⟩) := okOf (by decide +kernel)
theorem decode_ld_d : decode 0x0B084290 = .ok (.ld .d ⟨5, 1, 4, false, 0, 1⟩) := okOf (by decide +kernel)
theorem decode_st_w : decode 0xFA6C2391 = .ok (.st .w ⟨7, true, 5, 2, false, 1, 31⟩) := okOf (by decide +kernel)
theorem decode_amoadd : decode 0xE04A4315 = .ok (.amoadd ⟨6, 4, 5, 1, true, true, true⟩) := okOf (by decide +kernel)
theorem decode_bne : decode 0xFF4801A0 = .ok (.bne ⟨3, 0, false, false, 0x3FD⟩) := okOf (by decide +kernel)
theorem decode_vfadd : decode 0x0C8411B2 = .ok (.vfadd ⟨3, 1, 2, 2, .f32⟩) := okOf (by decide +kernel)
theorem decode_mma_keepb : decode 0x14210140 = .ok (.mma ⟨2, 0, 1, 4, .bf16, false, true, false, false⟩) := okOf (by decide +kernel)
theorem decode_lih : decode 0x1234528A = .ok (.lih ⟨5, 0x12345⟩) := okOf (by decide +kernel)
theorem decode_addi : decode 0x19E05282 = .ok (.addi ⟨5, 5, false, 0x678⟩) := okOf (by decide +kernel)
theorem decode_div : decode 0x16128381 = .ok (.div ⟨7, 8, 9, false, false⟩) := okOf (by decide +kernel)
theorem decode_clz : decode 0x1A004181 = .ok (.clz ⟨3, 4, false⟩) := okOf (by decide +kernel)
theorem decode_rol : decode 0x0A0C4181 = .ok (.rol ⟨3, 4, 6, false, false⟩) := okOf (by decide +kernel)
theorem decode_slli : decode 0x000C6286 = .ok (.slli ⟨5, 6, false, 3⟩) := okOf (by decide +kernel)
theorem decode_srai : decode 0x02FC6286 = .ok (.srai ⟨5, 6, false, 63⟩) := okOf (by decide +kernel)
theorem decode_jal : decode 0x00040FA2 = .ok (.jal ⟨31, 64⟩) := okOf (by decide +kernel)
theorem decode_jalr : decode 0x0001F023 = .ok (.jalr ⟨0, 31, false, 0⟩) := okOf (by decide +kernel)
theorem decode_crrd : decode 0x001802AB = .ok (.crrd 5 12) := okOf (by decide +kernel)
theorem decode_crclr : decode 0x030A402B = .ok (.crclr ⟨0, 4, false, 5⟩) := okOf (by decide +kernel)
theorem decode_fsset : decode 0x0404602B = .ok (.fsset ⟨0, 6, false, 2⟩) := okOf (by decide +kernel)
theorem decode_trap : decode 0x0600402B = .ok (.trap ⟨4, false⟩) := okOf (by decide +kernel)
theorem decode_tret : decode 0x0700002B = .ok (.tret) := okOf (by decide +kernel)
theorem decode_halt : decode 0x0800002B = .ok (.halt) := okOf (by decide +kernel)
theorem decode_break : decode 0x0900902B = .ok (.break ⟨9, false⟩) := okOf (by decide +kernel)
theorem decode_st_d : decode 0x13182311 = .ok (.st .d ⟨6, false, 3, 2, false, 0, 2⟩) := okOf (by decide +kernel)
theorem decode_ldx : decode 0x3ACA0292 = .ok (.ldx false ⟨5, 0, 5, 7, 0, true, .d⟩) := okOf (by decide +kernel)
theorem decode_lde : decode 0x41182394 = .ok (.lde ⟨7, 3, 2, false, 0, 8⟩) := okOf (by decide +kernel)
theorem decode_setf : decode 0x24182014 = .ok (.setf ⟨3, 2, false, 0, 4⟩) := okOf (by decide +kernel)
theorem decode_vld : decode 0x10208197 = .ok (.vld ⟨3, 4, 8, false, 0, 2⟩) := okOf (by decide +kernel)
theorem decode_vsti : decode 0x74405218 = .ok (.vsti ⟨4, 5, 1, .i32, 3⟩) := okOf (by decide +kernel)
theorem decode_vldi : decode 0x64807318 = .ok (.vldi ⟨6, 7, 2, .i32, 3⟩) := okOf (by decide +kernel)
theorem decode_amocas : decode 0x324A4315 = .ok (.amocas ⟨6, 4, 5, 1, true, false, false⟩) := okOf (by decide +kernel)
theorem decode_fence : decode 0x00000E16 = .ok (.fence .ar .module) := okOf (by decide +kernel)
theorem decode_fencer : decode 0x010A4196 = .ok (.fencer .die ⟨4, 5, false, false⟩) := okOf (by decide +kernel)
theorem decode_isync : decode 0x02000016 = .ok (.isync) := okOf (by decide +kernel)
theorem decode_drain : decode 0x03000016 = .ok (.drain) := okOf (by decide +kernel)
theorem decode_sgset_null : decode 0x00000019 = .ok (.sgset ⟨0, 0, 0, false, false⟩) := okOf (by decide +kernel)
theorem decode_sgnarrow : decode 0x010E6299 = .ok (.sgnarrow ⟨5, 6, 7, false, false⟩) := okOf (by decide +kernel)
theorem decode_sgrd : decode 0x0200A299 = .ok (.sgrd 5 2 true) := okOf (by decide +kernel)
theorem decode_msendt : decode 0x0112802A = .ok (.msendt ⟨8, 9, false, false⟩) := okOf (by decide +kernel)
theorem decode_mrecv : decode 0x0200052A = .ok (.mrecv 10) := okOf (by decide +kernel)
theorem decode_vfma : decode 0x08149433 = .ok (.vfma ⟨8, 9, 10, 0, .bf16⟩) := okOf (by decide +kernel)
theorem decode_vdot : decode 0x38441633 = .ok (.vdot ⟨12, 1, 2, 1, .bf16⟩) := okOf (by decide +kernel)
theorem decode_vcmp : decode 0x444A41B4 = .ok (.vcmp .lt ⟨3, 4, 5, 1, .i32⟩) := okOf (by decide +kernel)
theorem decode_vcvt : decode 0x02507335 = .ok (.vcvt ⟨6, 7, 8, 1, 1⟩) := okOf (by decide +kernel)
theorem decode_vfredadd : decode 0x1C403136 = .ok (.vfredadd ⟨2, 3, 1, .f32⟩) := okOf (by decide +kernel)
theorem decode_vbcst : decode 0x040050B7 = .ok (.vbcst ⟨1, 5, 0, .i32⟩) := okOf (by decide +kernel)
theorem decode_mpopc : decode 0x400024B8 = .ok (.mpopc 9 2 0 .i8) := okOf (by decide +kernel)
theorem decode_vsel : decode 0x8D0620B8 = .ok (.vsel ⟨1, 2, 3, 4, .f32⟩) := okOf (by decide +kernel)
theorem decode_vfabs : decode 0x6C0020B2 = .ok (.vfabs ⟨1, 2, 0, .f32⟩) := okOf (by decide +kernel)
theorem decode_spawn : decode 0x02009A28 = .ok (.spawn ⟨20, 9, false⟩) := okOf (by decide +kernel)
theorem decode_spawnr : decode 0x0316A4A8 = .ok (.spawnr ⟨9, 10, 11, false, false⟩) := okOf (by decide +kernel)
theorem decode_retj : decode 0x04014028 = .ok (.retj ⟨20, false⟩) := okOf (by decide +kernel)
theorem decode_sync : decode 0x05000028 = .ok (.sync) := okOf (by decide +kernel)
theorem decode_publish : decode 0x06061028 = .ok (.publish ⟨1, 3, false, false⟩) := okOf (by decide +kernel)
theorem decode_widf : decode 0x0A0083A8 = .ok (.widf ⟨7, 8, false⟩) := okOf (by decide +kernel)
theorem decode_talloc : decode 0x000042A9 = .ok (.talloc ⟨5, 4, false⟩) := okOf (by decide +kernel)
theorem decode_tinc : decode 0x020C5029 = .ok (.tinc ⟨5, 6, false, false⟩) := okOf (by decide +kernel)
theorem decode_tdrop : decode 0x03405029 = .ok (.tdrop ⟨5, true⟩) := okOf (by decide +kernel)
theorem decode_rpush : decode 0x07025029 = .ok (.rpush 1 ⟨5, false⟩) := okOf (by decide +kernel)
theorem decode_rpop : decode 0x08020329 = .ok (.rpop 6 1) := okOf (by decide +kernel)
theorem decode_mma : decode 0x04110040 = .ok (.mma ⟨0, 0, 1, 2, .bf16, false, false, false, false⟩) := okOf (by decide +kernel)
theorem decode_mma_zi : decode 0x24210040 = .ok (.mma ⟨0, 0, 1, 4, .bf16, false, false, true, false⟩) := okOf (by decide +kernel)
theorem decode_mma_s8 : decode 0x070340C0 = .ok (.mma ⟨1, 2, 3, 0, .s8, false, false, false, false⟩) := okOf (by decide +kernel)
theorem decode_mmas : decode 0xC78585C0 = .ok (.mmas ⟨3, 4, 5, 16, .s8, false, false, false, true⟩) := okOf (by decide +kernel)
theorem decode_mmar : decode 0x04010240 = .ok (.mmar ⟨0, 0, 1, .bf16, false, false, false, false⟩) := okOf (by decide +kernel)
theorem decode_accz : decode 0x00000940 = .ok (.accz 2 false) := okOf (by decide +kernel)
theorem decode_accout : decode 0x0418CAC0 = .ok (.accout ⟨1, 6, 3, .bf16⟩) := okOf (by decide +kernel)
theorem decode_accst : decode 0x04383040 = .ok (.accst ⟨0, 1, 7, .bf16, false⟩) := okOf (by decide +kernel)
theorem decode_mqwait : decode 0x00481240 = .ok (.mqwait 9 0) := okOf (by decide +kernel)
theorem decode_copyq : decode 0x00008048 = .ok (.copyq ⟨8, false⟩) := okOf (by decide +kernel)
theorem decode_copyqt : decode 0x0100C2C8 = .ok (.copyqt ⟨5, 12, false⟩) := okOf (by decide +kernel)
theorem decode_gathq : decode 0x02010048 = .ok (.gathq ⟨16, false⟩) := okOf (by decide +kernel)
theorem decode_collq : decode 0x040A4048 = .ok (.collq ⟨4, 5, false, false⟩) := okOf (by decide +kernel)
theorem decode_bbwait : decode 0x06007348 = .ok (.bbwait ⟨6, 7, false⟩) := okOf (by decide +kernel)
theorem decode_nop : decode 0x0000007F = .ok (.nop) := okOf (by decide +kernel)

/-! Words that the spec lists as illegal (09 R238 step 2, 10, 11, 12, 13, 14). -/

/-- The decoder refuses the word. -/
def refused (w : Nat) : Bool := match decode w with | .ok _ => false | .error _ => true

theorem refuses_alu_function : refused 0x24000001 = true := by decide +kernel
theorem refuses_ld_size : refused 0x0F084290 = true := by decide +kernel
theorem refuses_mma_count : refused 0x14890140 = true := by decide +kernel
theorem refuses_alu_function_high : refused 0x80C55A01 = true := by decide +kernel
theorem refuses_clz_reserved : refused 0x1A0C4181 = true := by decide +kernel
theorem refuses_shift_reserved : refused 0x040C6286 = true := by decide +kernel
theorem refuses_branch_condition : refused 0xFFFEE321 = true := by decide +kernel
theorem refuses_system_function : refused 0x0A00002B = true := by decide +kernel
theorem refuses_halt_field : refused 0x080000AB = true := by decide +kernel
theorem refuses_crwr_read_only : refused 0x011002AB = true := by decide +kernel
theorem refuses_fence_kind : refused 0x00000216 = true := by decide +kernel
theorem refuses_mrecv_odd : refused 0x020005AA = true := by decide +kernel
theorem refuses_full_empty_sub : refused 0x27182014 = true := by decide +kernel
theorem refuses_ldx_reserved : refused 0x3ECA0292 = true := by decide +kernel
theorem refuses_vfadd_int : refused 0x048411B2 = true := by decide +kernel
theorem refuses_vcmp_condition : refused 0xC44A41B4 = true := by decide +kernel
theorem refuses_vfabs_reserved : refused 0x6C0220B2 = true := by decide +kernel
theorem refuses_vfloat_function : refused 0xCC0020B2 = true := by decide +kernel
theorem refuses_vcvt_type : refused 0x0A507335 = true := by decide +kernel
theorem refuses_mpopc_field : refused 0x4000A4B8 = true := by decide +kernel
theorem refuses_rpush_field : refused 0x07125029 = true := by decide +kernel
theorem refuses_task_function : refused 0x0B000028 = true := by decide +kernel
theorem refuses_sync_field : refused 0x05000228 = true := by decide +kernel
theorem refuses_rtake_odd : refused 0x070002A8 = true := by decide +kernel
theorem refuses_talloc_field : refused 0x000242A9 = true := by decide +kernel
theorem refuses_mma_scaled : refused 0x64210040 = true := by decide +kernel
theorem refuses_mmas_unscaled : refused 0x04110440 = true := by decide +kernel
theorem refuses_mma_one_ring : refused 0x24200040 = true := by decide +kernel
theorem refuses_mma_type : refused 0x06110040 = true := by decide +kernel
theorem refuses_mqwait_depth : refused 0x00493240 = true := by decide +kernel
theorem refuses_copyq_group : refused 0x00006048 = true := by decide +kernel
theorem refuses_gathq_group : refused 0x0200C048 = true := by decide +kernel
theorem refuses_engine_function : refused 0x07000048 = true := by decide +kernel
theorem refuses_canonical_illegal : refused 0x00000000 = true := by decide +kernel

/-! The encoder gives the same words. -/

theorem encode_st_w : encode (.st .w ⟨7, true, 5, 2, false, 1, 31⟩) = some 0xFA6C2391 := by decide +kernel
theorem encode_amoadd : encode (.amoadd ⟨6, 4, 5, 1, true, true, true⟩) = some 0xE04A4315 := by decide +kernel
theorem encode_bne : encode (.bne ⟨3, 0, false, false, 0x3FD⟩) = some 0xFF4801A0 := by decide +kernel
theorem encode_mma_keepb : encode (.mma ⟨2, 0, 1, 4, .bf16, false, true, false, false⟩) = some 0x14210140 := by decide +kernel
theorem encode_srai : encode (.srai ⟨5, 6, false, 63⟩) = some 0x02FC6286 := by decide +kernel
theorem encode_ldx : encode (.ldx false ⟨5, 0, 5, 7, 0, true, .d⟩) = some 0x3ACA0292 := by decide +kernel
theorem encode_vsti : encode (.vsti ⟨4, 5, 1, .i32, 3⟩) = some 0x74405218 := by decide +kernel
theorem encode_vcvt : encode (.vcvt ⟨6, 7, 8, 1, 1⟩) = some 0x02507335 := by decide +kernel
theorem encode_spawnr : encode (.spawnr ⟨9, 10, 11, false, false⟩) = some 0x0316A4A8 := by decide +kernel
theorem encode_accst : encode (.accst ⟨0, 1, 7, .bf16, false⟩) = some 0x04383040 := by decide +kernel

/-! ### Helpers of the witnesses -/

theorem wordOf {f : Fetched} {w : Nat} (h : (match f with | .word x => decide (x = w) | _ => false) = true) : f = .word w := by
  cases f <;> simp_all

theorem failedOf {f : Fetched} {v : Word} (h : (match f with | .failed x => decide (x = v) | _ => false) = true) : f = .failed v := by
  cases f <;> simp_all

/-- The sparse maps of a state are canonical, as a check. -/
def canonicalCheck (s : State) : Bool :=
  s.mem.wf && mapWf false s.grans && mapWf false s.poison && mapWf {} s.slots && mapWf {} s.cores && mapWf {} s.clusters &&
    s.clusters.all fun e => mapWf {} e.2.tiles

theorem canonicalOf {s : State} (h : canonicalCheck s = true) : canonical s := by
  simp only [canonicalCheck, Bool.and_eq_true, List.all_eq_true] at h
  obtain ⟨⟨⟨⟨⟨⟨h1, h2⟩, h3⟩, h4⟩, h5⟩, h6⟩, h7⟩ := h
  exact ⟨h1, h2, h3, h4, h5, h6, fun cl => mapGet_of_all (fun c : Cluster => mapWf {} c.tiles = true) rfl h7 cl⟩

theorem unloggedForOf {s : State} (h : s.specs = []) (lid a : Nat) : unloggedFor s lid a := by
  intro i sp hs
  rw [h] at hs
  simp [mapGet] at hs
theorem unloggedOf {s : State} (h : s.specs = []) (a : Nat) : unlogged s a := unloggedForOf h _ a

theorem ownOf {s : State} {r : Req} {a n : Nat} {read write : Bool}
    (h : (isOk (s.check s.cur r) [⟨.chip a, n, 0, .new⟩] && (ownPipe (coreOf s.cur) ⟨.chip a, n, 0, .new⟩ &&
      (!s.ownBehind s.cur [⟨.chip a, n, 0, .new⟩] read write && (decide (s.specs = []) && (!chipBytes a || !s.poisoned (chipKey a) n))))) = true) :
    ownBytes s r a n read write := by
  simp only [Bool.and_eq_true, decide_eq_true_eq, Bool.not_eq_true'] at h
  exact ⟨okOf h.1, h.2.1, h.2.2.1, unloggedOf h.2.2.2.1 a, fun hb => by simpa [hb] using h.2.2.2.2⟩

theorem awayOf {s : State} {r : Req} {ps : List Piece} (h : (isOk (s.check s.cur r) ps && !ps.all (ownPipe (coreOf s.cur))) = true) :
    awayFrom s r ps := by
  simp only [Bool.and_eq_true, Bool.not_eq_true'] at h
  exact ⟨okOf h.1, h.2⟩

theorem memReadyOf {s : State} {m : MemOp} {l : List (RegFile × Nat)}
    (h : ((((.g, m.a.val) :: l).all fun r => !(me s).isEmpty r.1 r.2) && !mapGet false (me s).sgPend m.seg) = true) :
    memReady s m l := by
  simp only [Bool.and_eq_true, Bool.not_eq_true'] at h
  exact ⟨fullOf h.1, h.2⟩

/-! ### Witnesses: stepping and scalar instructions -/

/-- The machine with NOP placed. -/
def wNop : State := State.reset.withFetchWord 32 0x7F
/-- The machine with the canonical illegal word placed. -/
def wIll : State := State.reset.withFetchWord 32 0
/-- A READY slot in user mode whose sg0 is null. -/
def wBad : State := oneSlot { status := .ready, pc := 0x40 }
/-- The state of its issue turn. -/
def atIssue (s : State) : State := { s with cur := s.turn * 16 + s.cycle % 16, turn := s.turn + 1 }

theorem witness_StepRunsDecodedInstruction :
    (wNop.turn < coreCount ∧ (∀ e ∈ wNop.agenda.head?, wNop.cycle ≤ e.1) ∧ (me (atIssue wNop)).status = .ready ∧
      (me (atIssue wNop)).deferred = none ∧ (me (atIssue wNop)).dataErr = none) ∧
    (atIssue wNop).fetch (atIssue wNop).cur = .word 0x7F ∧ decode 0x7F = .ok .nop :=
  ⟨by decide +kernel, wordOf (by decide +kernel), okOf (by decide +kernel)⟩
theorem witness_StepRunsDecodedInstruction_illegal :
    (me (atIssue wIll)).status = .ready ∧ (atIssue wIll).fetch (atIssue wIll).cur = .word 0 ∧ decode 0 = .error .major :=
  ⟨by decide +kernel, wordOf (by decide +kernel), errOf (by decide +kernel)⟩
theorem witness_StepRunsDecodedInstruction_failed :
    (me (atIssue wBad)).status = .ready ∧ (atIssue wBad).fetch (atIssue wBad).cur = .failed 0x40 :=
  ⟨by decide +kernel, failedOf (by decide +kernel)⟩
theorem witness_StepRunsDecodedInstruction_not_ready :
    State.reset.turn < coreCount ∧ (me (atIssue State.reset)).status ≠ .ready := by decide +kernel

theorem witness_SpecWordsDecode :
    decode 0x2F = .error .major ∧ decode 0xFFFFFFFE = .error .major ∧ decode 0xFFFFFFFF = .ok (.hint 0x1FFFFFF) :=
  ⟨errOf (by decide +kernel), errOf (by decide +kernel), okOf (by decide +kernel)⟩

/-- g1, g2, g3 are FULL, g8 is EMPTY. -/
def xA : Slot :=
  { status := .ready, pc := 0x1000, tvec := 0x800, lid := 3,
    g := [(1, ⟨0x10, false⟩), (2, ⟨0xFFFFFFFFFFFFFFF9, false⟩), (3, ⟨0x1003, false⟩), (4, ⟨0x4000, false⟩), (8, ⟨9, true⟩)] }
def sA : State := oneSlot xA

/-- Operands ⟨5, 8, 1, true, false⟩ trap for g[a], ⟨5, 1, 8, false, true⟩ for g[b], ⟨5, 8, 1, false, true⟩ block. -/
theorem witness_NopHintsAndEmptySources :
    plain sA ∧ (me sA).isEmpty .g 8 = true ∧ (me sA).isEmpty .g 1 = false := by unfold plain; decide +kernel
theorem witness_IntegerOperationResults : full sA [(.g, 1), (.g, 2)] ∧ full sA [(.g, 2)] :=
  ⟨fullOf (by decide +kernel), fullOf (by decide +kernel)⟩
/-- A literal at 0x1008 of a code segment at 0, in a line that the cache holds. -/
def sLit : State :=
  { oneSlot { xA with sg := [(0, ⟨0, 0x0005000000002000⟩)] } with cores := [(0, { icache := [(lineKey false 0 0x1000, some 77)] })] }
theorem witness_ImmediateAndLiteralResults :
    full sA [(.g, 1)] ∧
    (let d := (me sLit).rsg 0
     let l := (me sLit).pc + (2 : BitVec 20).signExtend 64 * 4
     let a := (d.base.toNat + l.toNat) % 2 ^ 64
     (me sLit).mode = .user ∧ mapGet false (me sLit).sgPend 0 = false ∧ d.chip = false ∧ (d.has 4 ∨ d.has 1) ∧ l.toNat % 8 = 0 ∧
       a % 8 = 0 ∧ l.toNat + 8 ≤ d.limit ∧
       mapGet none (sLit.core (coreOf sLit.cur)).icache (lineKey false (sLit.asidOf (me sLit).lidN) a) = some 77) :=
  ⟨fullOf (by decide +kernel), by decide +kernel⟩
theorem witness_BranchesAndJumps :
    full sA [(.g, 1), (.g, 2)] ∧ full sA [(.g, 4)] ∧ ((me sA).rg 4 + (0 : BitVec 14).signExtend 64).extractLsb' 0 2 = 0 :=
  ⟨fullOf (by decide +kernel), fullOf (by decide +kernel), by decide +kernel⟩
theorem witness_BranchesAndJumps_traps :
    (plain sA ∧ (me sA).isEmpty .g 8 = true) ∧ full sA [(.g, 3)] ∧
      ((me sA).rg 3 + (0 : BitVec 14).signExtend 64).extractLsb' 0 2 ≠ 0 :=
  ⟨by unfold plain; decide +kernel, fullOf (by decide +kernel), by decide +kernel⟩

/-! ### Witnesses: vectors -/

def xV : Slot := { xA with v := [(1, ⟨0x3F8000003F800000, false⟩), (2, ⟨0x7FC00000BF800000, false⟩)], m := [(1, ⟨0x5, false⟩)], fs := [(1, 0x404)] }
def sV : State := oneSlot xV

theorem fullKeepOf {s : State} {l : List (RegFile × Nat)} {d : Fin 32} {m : Fin 8}
    (h : (((.m, m.val) :: (.v, d.val) :: l).all fun r => !(me s).isEmpty r.1 r.2) = true) : fullKeep s l d m := by
  have hf := fullOf h
  refine ⟨fun r hr => ?_, fun _ r hr => ?_⟩
  · rcases List.mem_cons.mp hr with rfl | h
    · exact hf _ (by simp)
    · exact hf r (by simp [h])
  · exact hf r (by simp at hr; simp [hr])

theorem witness_VectorIntegerLanes :
    ((vecArith ++ vecBits).length = 17 ∧ (Instr.vadd ⟨3, 1, 2, 1, .i32⟩).wf = true ∧ (Instr.vmov ⟨3, 1, 1, .i32⟩).wf = true) ∧
    fullKeep sV [(.v, 1), (.v, 2)] 3 1 := ⟨by decide +kernel, fullKeepOf (by decide +kernel)⟩
theorem witness_VectorFloatLanes :
    ((Instr.vfadd ⟨3, 1, 2, 1, .f32⟩).wf = true ∧ (Instr.vfsqrt ⟨3, 1, 1, .f32⟩).wf = true ∧ (Instr.vfma ⟨3, 1, 2, 1, .f32⟩).wf = true) ∧
    fullKeep sV [(.v, 1), (.v, 2), (.v, 3)] 3 1 ∧
    (fl sV .f32 2 1).isNan = true ∧ (fl sV .f32 1 1).isNan = false ∧ (fl sV .f32 2 0).isNan = false :=
  ⟨by decide +kernel, fullKeepOf (by decide +kernel), by decide +kernel⟩
theorem witness_VectorComparesAndMasks :
    full sV [(.m, 1), (.v, 1), (.v, 2)] ∧ full sV [(.m, 3)] ∧ (Instr.vcmp .lt ⟨3, 1, 2, 1, .i32⟩).wf = true ∧
      (Instr.vfcmp .un ⟨3, 1, 2, 1, .f32⟩).wf = true ∧ full sV [(.m, 1), (.m, 2)] ∧ full sV [(.g, 1)] :=
  ⟨fullOf (by decide +kernel), fullOf (by decide +kernel), by decide +kernel, by decide +kernel, fullOf (by decide +kernel),
    fullOf (by decide +kernel)⟩
/-- Lanes 0 and 2 are active under m1, none under m2. -/
theorem witness_VectorDotAndReductions :
    fullKeep sV [(.v, 1), (.v, 2), (.v, 12)] 12 1 ∧ full sV [(.v, 1), (.m, 1)] ∧ full sV [(.v, 1), (.m, 2)] ∧
      active sV 1 0 = true ∧ (me sV).rm 2 = 0 :=
  ⟨fullKeepOf (by decide +kernel), fullOf (by decide +kernel), fullOf (by decide +kernel), by decide +kernel, by decide +kernel⟩
theorem witness_VectorConversions :
    cvtOk ((me sV).rfs 1).toNat = true ∧ fullKeep sV [(.v, 1), (.v, 2)] 6 1 ∧ full sV [(.v, 1), (.v, 2)] :=
  ⟨by decide +kernel, fullKeepOf (by decide +kernel), fullOf (by decide +kernel)⟩
theorem witness_VectorPermutes :
    fullKeep sV [(.g, 1)] 3 1 ∧ fullKeep sV [(.v, 1), (.v, 2)] 3 1 ∧ fullKeep sV [(.v, 1), (.g, 2)] 3 1 ∧
      full sV [(.v, 1), (.v, 2), (.m, 1)] ∧ full sV [(.v, 1), (.g, 1)] ∧ full sV [(.g, 1), (.g, 2), (.v, 3)] :=
  ⟨fullKeepOf (by decide +kernel), fullKeepOf (by decide +kernel), fullKeepOf (by decide +kernel), fullOf (by decide +kernel),
    fullOf (by decide +kernel), fullOf (by decide +kernel)⟩

/-! ### Witnesses: control registers, traps, memory -/

/-- Segment 2 is a global segment at 0x10000, segment 3 the own scratchpad from 0x100. -/
def gSeg : Desc := ⟨0x10000, 0x000F000000010000⟩
def cSeg : Desc := ⟨0x100, 0x003F00000003FF00⟩
def xM : Slot :=
  { xA with sg := [(2, gSeg), (3, cSeg)], v := [(1, ⟨8, false⟩), (2, ⟨0x1122334455667788, false⟩)], m := [(1, ⟨1, false⟩)] }
def sM : State := { oneSlot xM with cores := [(0, { cmask := 1 })], mem := [(chipKey 0x110, 0xFE)] }
/-- The same in system mode. -/
def sSys : State := { sM with slots := [(0, { xM with mode := .system, g := [(1, ⟨4, false⟩), (2, ⟨0xFFFFFFFFFFFFFFF9, false⟩)] })] }
/-- The granule at 0x110 is EMPTY. -/
def sEmpty : State := { sM with grans := [(chipKey 0x110 / 16, true)] }

theorem witness_ControlAndFormatRegisters :
    (crAllowed sSys 0 ∧ crAllowed sM 5) ∧ full sSys [(.g, 1)] ∧
      (fmodeTakes (crValue sSys 6 ||| (me sSys).rg 1) ∧ ¬fmodeTakes ((me sSys).rg 2)) ∧ plain sSys ∧
      (fsValid ((me sSys).rg 2).toNat = false ∧ fsValid ((me sSys).rg 1).toNat = true ∧ full sSys [(.g, 2)]) := by
  refine ⟨?_, fullOf (by decide +kernel), ?_, ?_, ?_, ?_, fullOf (by decide +kernel)⟩
  · unfold crAllowed; decide +kernel
  · unfold fmodeTakes; decide +kernel
  · unfold plain; decide +kernel
  · decide +kernel
  · decide +kernel

/-- The word of tret; the word of CRWR of tstat. -/
theorem witness_PrivilegedInUserMode :
    plain sA ∧ (me sA).mode = .user ∧ (Instr.tret.wf = true ∧ encode .tret = some 0x0700002B) ∧
      ((Instr.crwr ⟨5, 1, false, 3⟩).wf = true ∧ encode (.crwr ⟨5, 1, false, 3⟩) = some 0x010612AB) := by
  refine ⟨?_, ?_, ?_, ?_⟩
  · unfold plain; decide +kernel
  all_goals decide +kernel

theorem witness_SoftwareTrapEntry : (plain sA ∧ (me sA).isEmpty .g 8 = true) ∧ full sA [(.g, 2)] :=
  ⟨by unfold plain; decide +kernel, fullOf (by decide +kernel)⟩

theorem witness_TrapReturnHaltAndBreak :
    ((me sSys).status = .ready ∧ (me sSys).mode = .system ∧ (∀ l ∈ (me sSys).task, sSys.killedOf l = false) ∧
      (me sSys).preempt = false) ∧
    (sSys.lost = 0 ∧ sSys.events.length < 256) ∧ plain sSys ∧ full sSys [(.g, 1)] :=
  ⟨⟨by decide +kernel, by decide +kernel, by decide +kernel, by decide +kernel⟩,
    by decide +kernel, by unfold plain; decide +kernel, fullOf (by decide +kernel)⟩
def sPre : State := { sSys with slots := [(0, { xM with mode := .system, preempt := true })] }
theorem witness_TrapReturnHaltAndBreak_held : (me sPre).status = .ready ∧ (me sPre).mode = .system ∧ (me sPre).preempt = true := by
  decide +kernel

def sHeld : State := oneSlot { xA with deferred := some ⟨12, 0x40, 8⟩ }
theorem witness_IssueTimeTraps :
    plain sA ∧ (sHeld.slot 0).deferred = some ⟨12, 0x40, 8⟩ ∧
      (sA.specOf (sA.slot 0).lidN = none ∧ (sA.slot 0).status = .ready ∧ (sA.slot 0).mode = .user) ∧ (sSys.slot 0).mode = .system := by
  unfold plain; decide +kernel

/-- A read of 8 bytes of the global segment at an offset. -/
def rq8 (off need : Nat) : Req := { desc := gSeg, off := off, size := 8, align := 8, need := need, use := .load }
theorem witness_AccessChecks :
    (rq8 4 1).il = 0 ∧ (rq8 4 1).scratch = false ∧
    ((gSeg.base.toNat + 4) % 2 ^ 64 % 8 ≠ 0) ∧ ((gSeg.base.toNat + 8) % 2 ^ 64 % 8 = 0 ∧ gSeg.has 16 = false) ∧
    (gSeg.has 1 = true ∧ gSeg.limit < 0xFFFC + 8) ∧ (0xFFF8 + 8 ≤ gSeg.limit ∧ gSeg.chip = false) := by decide +kernel
theorem witness_AccessChecks_traps :
    plain sM ∧ memReady sM ⟨3, 3, false, 0, 0⟩ [] ∧
      sM.check sM.cur (loadReq sM ⟨3, 3, false, 0, 0⟩ (LdSizeBytes .d) 1 false) = .error (3, 0x1003) ∧
      memReady sM ⟨3, 3, false, 0, 0⟩ [(.g, 1)] ∧
      sM.check sM.cur (storeReq sM ⟨3, 3, false, 0, 0⟩ (sizeBytes .d) (((me sM).rg 1).toNat % 2 ^ (8 * sizeBytes .d)) false) =
        .error (3, 0x1003) :=
  ⟨by unfold plain; decide +kernel, memReadyOf (by decide +kernel), errOf (by decide +kernel), memReadyOf (by decide +kernel),
    errOf (by decide +kernel)⟩

/-- [sg3:g1]: byte 0x110 of the own scratchpad; [sg3:g1+x] in X form with g0. -/
def mOp : MemOp := ⟨3, 1, false, 0, 0⟩

def xOp : Xop := ⟨5, 1, 0, 3, 0, true, .d⟩
def sM64 : State := { sM with slots := [(0, { xM with g := [(1, ⟨0x40, false⟩)] })] }
/-- [sg2:g1]: byte 0x10010 of the ASID, away from the core. -/
def gOp : MemOp := ⟨2, 1, false, 0, 0⟩
theorem witness_OwnScratchpadLoads :
    (plain sM ∧ (me sM).status = .ready) ∧ chipBytes 0x110 = true ∧ memReady sM mOp [] ∧
    ownBytes sM (loadReq sM mOp (LdSizeBytes .d) 1 false) 0x110 8 true false ∧
    (indexReady sM xOp [] ∧ ownBytes sM (indexedReq sM xOp 1 .load 0) 0x110 8 true false) ∧
    (sM.anyEmpty 0x110 8 = false ∧ ownBytes sM (loadReq sM mOp 8 1 true) 0x110 8 true false ∧
      ownBytes sM (loadReq sM mOp 8 3 true) 0x110 8 true true ∧ ownBytes sM (loadReq sM mOp 16 1 true) 0x110 16 true false) :=
  ⟨by unfold plain; decide +kernel, by decide +kernel, memReadyOf (by decide +kernel), ownOf (by decide +kernel),
    ⟨⟨fullOf (by decide +kernel), by decide +kernel⟩, ownOf (by decide +kernel)⟩,
    ⟨by decide +kernel, ownOf (by decide +kernel), ownOf (by decide +kernel), ownOf (by decide +kernel)⟩⟩
theorem witness_OwnScratchpadLoads_vector :
    (plain sM64 ∧ (me sM64).status = .ready) ∧ memReady sM64 mOp [] ∧ ownBytes sM64 (loadReq sM64 mOp 64 1 false) 0x140 64 true false ∧
      (sM64.anyEmpty 0x140 64 = false ∧ ownBytes sM64 (loadReq sM64 mOp 64 1 true) 0x140 64 true false ∧
        ownBytes sM64 (loadReq sM64 mOp 64 3 true) 0x140 64 true true) ∧ ownBytes sM64 (loadReq sM64 mOp 8 1 false) 0x140 8 true false :=
  ⟨by unfold plain; decide +kernel, memReadyOf (by decide +kernel), ownOf (by decide +kernel),
    ⟨by decide +kernel, ownOf (by decide +kernel), ownOf (by decide +kernel)⟩, ownOf (by decide +kernel)⟩
theorem witness_OwnScratchpadLoads_blocks :
    memReady sEmpty mOp [] ∧ sEmpty.anyEmpty 0x110 8 = true ∧ ownBytes sEmpty (loadReq sEmpty mOp 8 1 true) 0x110 8 true false ∧
      ownBytes sEmpty (loadReq sEmpty mOp 8 3 true) 0x110 8 true true :=
  ⟨memReadyOf (by decide +kernel), by decide +kernel, ownOf (by decide +kernel), ownOf (by decide +kernel)⟩
/-- One active lane, whose index 8 names word 8 of the segment. -/
def lanePiece : List Piece := [⟨.chip 0x120, 4, 0, .new⟩]
theorem witness_OwnScratchpadLoads_indexed :
    full sM [(.v, 1), (.m, 1)] ∧ ((me sM).status = .ready ∧ mapGet false (me sM).sgPend 3 = false ∧ ElemTy.i32.idxOk = true) ∧
      sM.checkLanes 3 .i32 ((me sM).rv 1) 0 false (activeLanes .i32 ((me sM).rm 1)) = .ok lanePiece ∧
      (lanePiece.all (ownPipe (coreOf sM.cur)) = true ∧ sM.ownBehind sM.cur lanePiece true false = false) ∧
      unlogged sM 0x120 ∧ (chipBytes 0x120 = true ∧ sM.poisoned (chipKey 0x120) 4 = false) :=
  ⟨fullOf (by decide +kernel), by decide +kernel, okOf (by decide +kernel), by decide +kernel, unloggedOf rfl _, by decide +kernel⟩
theorem witness_OwnScratchpadStores :
    (plain sM ∧ chipWin 0x110 = 0) ∧
    (memReady sM mOp [(.g, 2)] ∧ ownBytes sM (storeReq sM mOp 8 (((me sM).rg 2).toNat % 2 ^ (8 * 8)) false) 0x110 8 false true) ∧
    (indexReady sM ⟨2, 1, 0, 3, 0, true, .d⟩ [(.g, 2)] ∧
      ownBytes sM (indexedReq sM ⟨2, 1, 0, 3, 0, true, .d⟩ 2 .store (((me sM).rg 2).toNat % 2 ^ (8 * 8))) 0x110 8 false true) ∧
    (memReady sM64 mOp [(.v, 2)] ∧ ownBytes sM64 (storeReq sM64 mOp 64 ((me sM64).rv 2).toNat false) 0x140 64 false true) :=
  ⟨by unfold plain; decide +kernel, ⟨memReadyOf (by decide +kernel), ownOf (by decide +kernel)⟩,
    ⟨⟨fullOf (by decide +kernel), by decide +kernel⟩, ownOf (by decide +kernel)⟩,
    ⟨memReadyOf (by decide +kernel), ownOf (by decide +kernel)⟩⟩
theorem witness_OwnScratchpadStores_full :
    (canonical sEmpty ∧ plain sEmpty ∧ (me sEmpty).status = .ready ∧ (sEmpty.core (coreOf sEmpty.cur)).remoteWait = []) ∧
    (memReady sEmpty mOp [(.g, 2)] ∧ ownBytes sEmpty (storeReq sEmpty mOp 8 ((me sEmpty).rg 2).toNat true) 0x110 8 false true) ∧
    (memReady sM64 mOp [(.v, 2)] ∧ ownBytes sM64 (storeReq sM64 mOp 64 ((me sM64).rv 2).toNat true) 0x140 64 false true) ∧
    (memReady sEmpty mOp [] ∧ ownBytes sEmpty (storeReq sEmpty mOp 16 0 true) 0x110 16 false true) :=
  ⟨⟨canonicalOf (by decide +kernel), by unfold plain; decide +kernel⟩, ⟨memReadyOf (by decide +kernel), ownOf (by decide +kernel)⟩,
    ⟨memReadyOf (by decide +kernel), ownOf (by decide +kernel)⟩, ⟨memReadyOf (by decide +kernel), ownOf (by decide +kernel)⟩⟩
theorem witness_OwnScratchpadStores_indexed :
    (plain sM ∧ (activeLanes .i32 ((me sM).rm 1)).length + (me sM).sbcnt ≤ 32 ∧ sM.poison = [] ∧ sM.mem.wf = true) ∧
      full sM [(.v, 2), (.v, 1), (.m, 1)] ∧
      sM.checkLanes 3 .i32 ((me sM).rv 1) ((me sM).rv 2) true (activeLanes .i32 ((me sM).rm 1)) = .ok lanePiece ∧
      (lanePiece.all (ownPipe (coreOf sM.cur)) = true ∧ sM.ownBehind sM.cur lanePiece false true = false ∧ chipWin 0x120 = 0) ∧
      unlogged sM 0x120 :=
  ⟨by unfold plain; decide +kernel, fullOf (by decide +kernel), okOf (by decide +kernel), by decide +kernel, unloggedOf rfl _⟩
/-- A segment of the scratchpad of core 1. -/
def sAway : State :=
  { sM with slots := [(0, { xM with sg := [(2, gSeg), (3, ⟨0x10000100, 0x003F00000003FF00⟩)] })], cores := [(0, { cmask := 1 })] }
theorem witness_RemoteLoadsLeaveDestinationEmpty_loads :
    (memReady sM gOp [] ∧ awayFrom sM (loadReq sM gOp (LdSizeBytes .d) 1 false) [⟨.glob 0 0x10010, 8, 0, .new⟩]) ∧
    (memReady sAway mOp [] ∧ awayFrom sAway (loadReq sAway mOp 8 1 true) [⟨.chip 0x10000110, 8, 0, .new⟩] ∧
      awayFrom sAway (loadReq sAway mOp 8 3 true) [⟨.chip 0x10000110, 8, 0, .new⟩] ∧
      awayFrom sAway (loadReq sAway mOp 16 1 true) [⟨.chip 0x10000110, 16, 0, .new⟩]) ∧
    (indexReady sAway xOp [] ∧ awayFrom sAway (indexedReq sAway xOp 1 .load 0) [⟨.chip 0x10000110, 8, 0, .new⟩]) ∧
    (full sAway [(.v, 1), (.m, 1)] ∧ mapGet false (me sAway).sgPend 3 = false ∧
      sAway.checkLanes 3 .i32 ((me sAway).rv 1) 0 false (activeLanes .i32 ((me sAway).rm 1)) = .ok [⟨.chip 0x10000120, 4, 0, .new⟩] ∧
      [(⟨.chip 0x10000120, 4, 0, .new⟩ : Piece)].all (ownPipe (coreOf sAway.cur)) = false) :=
  ⟨⟨memReadyOf (by decide +kernel), awayOf (by decide +kernel)⟩,
    ⟨memReadyOf (by decide +kernel), awayOf (by decide +kernel), awayOf (by decide +kernel), awayOf (by decide +kernel)⟩,
    ⟨⟨fullOf (by decide +kernel), by decide +kernel⟩, awayOf (by decide +kernel)⟩,
    ⟨fullOf (by decide +kernel), by decide +kernel, okOf (by decide +kernel), by decide +kernel⟩⟩
/-- The same with 32 stores of the thread on their way. -/
def sAway32 : State := { sAway with slots := [(0, { xM with sg := [(3, ⟨0x10000100, 0x003F00000003FF00⟩)], sbcnt := 32 })] }
theorem witness_RemoteLoadsLeaveDestinationEmpty_stores :
    (memReady sM gOp [(.g, 2)] ∧ awayFrom sM (storeReq sM gOp 8 (((me sM).rg 2).toNat % 2 ^ (8 * 8)) false) [⟨.glob 0 0x10010, 8, 0, .new⟩]) ∧
    ((me sAway).sbcnt < 32 ∧ quiet sAway ∧ memReady sAway mOp [(.g, 2)] ∧
      awayFrom sAway (storeReq sAway mOp 8 ((me sAway).rg 2).toNat true) [⟨.chip 0x10000110, 8, 0, .new⟩] ∧
      awayFrom sAway (storeReq sAway mOp 16 0 true) [⟨.chip 0x10000110, 16, 0, .new⟩]) ∧
    (32 ≤ (me sAway32).sbcnt ∧ memReady sAway32 mOp [(.g, 2)] ∧
      awayFrom sAway32 (storeReq sAway32 mOp 8 ((me sAway32).rg 2).toNat true) [⟨.chip 0x10000110, 8, 0, .new⟩]) ∧
    (full sAway [(.v, 2), (.v, 1), (.m, 1)] ∧
      sAway.checkLanes 3 .i32 ((me sAway).rv 1) ((me sAway).rv 2) true (activeLanes .i32 ((me sAway).rm 1)) =
        .ok [⟨.chip 0x10000120, 4, 0, .new⟩] ∧
      [(⟨.chip 0x10000120, 4, 0, .new⟩ : Piece)].all (fun p => !ownPipe (coreOf sAway.cur) p) = true) :=
  ⟨⟨memReadyOf (by decide +kernel), awayOf (by decide +kernel)⟩,
    ⟨by decide +kernel, by unfold quiet; decide +kernel, memReadyOf (by decide +kernel), awayOf (by decide +kernel), awayOf (by decide +kernel)⟩,
    ⟨by decide +kernel, memReadyOf (by decide +kernel), awayOf (by decide +kernel)⟩,
    ⟨fullOf (by decide +kernel), okOf (by decide +kernel), by decide +kernel⟩⟩
/-- The request of an atomic of 8 bytes at [sg3:g1]. -/
def amoReq (s : State) : Req :=
  { desc := s.segment s.cur 3, off := ((me s).rg 1).toNat, size := 8, align := 8, need := 8, use := .atomic }
theorem witness_OwnScratchpadAtomics :
    full sM [(.g, 1), (.g, 2)] ∧ full sM [(.g, 5)] ∧ (plain sM ∧ chipWin 0x110 = 0) ∧ ownBytes sM (amoReq sM) 0x110 8 true true ∧
      (awayFrom sAway (amoReq sAway) [⟨.chip 0x10000110, 8, 0, .new⟩] ∧ (me sAway).sbcnt < 32 ∧ quiet sAway) :=
  ⟨fullOf (by decide +kernel), fullOf (by decide +kernel), by unfold plain; decide +kernel, ownOf (by decide +kernel),
    awayOf (by decide +kernel), by decide +kernel, by unfold quiet; decide +kernel⟩

/-- g1 and g2 name 0x100 bytes at offset 0x10 of sg2 (FENCER); g4 is a descriptor narrower than sg2, g6 one with more. -/
def sFen : State := oneSlot
  { xM with mode := .system,
            g := [(1, ⟨0x10, false⟩), (2, ⟨0x4000000000000100, false⟩), (4, ⟨0x4001000000000100, false⟩), (6, ⟨0x4010000000000100, false⟩)] }
theorem witness_FencesAndSegments :
    ((me sFen).status = .ready ∧ (me sFen).relFrom = none ∧ (me sFen).sbcnt = 0 ∧ (sFen.core (coreOf sFen.cur)).sb = [] ∧
      sFen.flights = []) ∧
    full sFen [(.g, 1), (.g, 2)] ∧
    (let b := ((me sFen).rg 2).toNat
     let d := sFen.segment sFen.cur (b / 2 ^ 61 % 8)
     mapGet false (me sFen).sgPend (b / 2 ^ 61 % 8) = false ∧ b / 2 ^ 48 % 2 ^ 13 = 0 ∧ d.chip = false ∧ d.has 1 = true ∧
       ((me sFen).rg 1).toNat + b % 2 ^ 48 ≤ d.limit) :=
  ⟨by decide +kernel, fullOf (by decide +kernel), by decide +kernel⟩
theorem witness_FencesAndSegments_descriptors :
    full sFen [(.g, 1), (.g, 4)] ∧ ((me sFen).mode = .system ∧ ((me sFen).rg 4).extractLsb' 54 2 = 0) ∧
    (let src := (me sFen).rsg (((me sFen).rg 4).toNat / 2 ^ 61)
     let fits := fun (b : Word) => b.extractLsb' 53 8 = 0 ∧ ((me sFen).rg 1).toNat + b.toNat % 2 ^ 48 ≤ src.limit ∧
       src.has (b.toNat / 2 ^ 48 % 32) = true
     mapGet false (me sFen).sgPend (((me sFen).rg 4).toNat / 2 ^ 61) = false ∧ fits ((me sFen).rg 4) ∧ ¬fits ((me sFen).rg 6)) ∧
    plain sFen :=
  ⟨fullOf (by decide +kernel), by decide +kernel, by decide +kernel, by unfold plain; decide +kernel⟩

/-! ### Witnesses: messages, tasks, counters -/

def rgs (l : List (Nat × Word)) : SMap Reg := l.map fun e => (e.1, ⟨e.2, false⟩)
/-- g1 names slot 5 under tag 7, g3 slot 5 untagged, g6 a cluster outside the partition. -/
def xT : Slot :=
  { status := .ready, pc := 0x1000, tvec := 0x800, fmode := 8, lid := 3, sg := [(2, gSeg)],
    g := rgs [(1, 0x70005), (2, 0x123), (3, 5), (6, 0x100), (7, 0)] }
/-- A launch of 4 × 6 × 8 work items in partition 1. -/
def hdrT : Header :=
  { entry := 0x100, idpc := 0x200, sel := List.replicate 8 0, pool := 2, prio := 1, part := 1, slots := 2, bind := 0, floor := 0,
    widths := [0, 0, 0, 2, 3, 3], extents := [1, 1, 1, 4, 6, 8], flags := 0, cap := 4, res := 0, rseed := 5, fmode := 1, fs := [],
    rootf := 0x2000, rootsz := 0, crec := 0, csig := 0, cval := 0, csop := 0, args := [], reads := [], writes := [],
    reserved := false, nread := 0, nwrite := 0, nslot := 2 }
def laT : Launch :=
  { hdr := hdrT, queue := 2, index := 0, asid := 0, part := 1, ctr := some 0x82000010, phase := 7, start := none, retired := false,
    status := 0, leak := 0, order := 0, pieces := 0, stage := 0, stageAt := 0, stopped := false, killed := false, specOf := none,
    claimed := false, wave := none }
def clT : Cluster := { powered := true, part := some 1 }
/-- Slot 0 runs a task of launch 3 on cluster 0 of partition 1. -/
def sT (x : Slot) : State :=
  { slots := [(0, x), (5, { status := .ready, lid := 3 })], cores := [(0, { cmask := 1 })], clusters := [(0, clT)],
    launches := [(3, some laT)], nextId := 12, cycle := 500 }
/-- A transaction of slot 0. -/
def flT (k : FlightKind) (ps : List Piece) : Flight :=
  { id := 7, thr := 0, pc := 0x888, lid := 3, asid := 4, born := 0, sys := false, pieces := ps, kind := k }
/-- The machine with that one transaction on its way. -/
def sF (k : FlightKind) (ps : List Piece) : State := { sT xT with flights := [flT k ps] }

theorem reachingOf {s : State} {id : Nat} {f : Flight} (hc : canonicalCheck s = true)
    (h : s.flight id = some f ∧ f.orphan = false ∧ s.specOf f.lid = none ∧ s.whereIs f.lid (clusterOf f.owner) = .live ∧
      ∀ d ∈ f.kind.heading, s.behindPacket f d = false) : reaching s id f :=
  ⟨canonicalOf hc, h⟩

theorem unhinderedOf {s : State} {f : Flight}
    (h : (f.pieces.all fun p => !s.heldBack f p && (p.heading.toList.all fun d => !s.behindPacket f d) &&
      (match p.place with | .chip a => !s.counterHeld f a p.len | .glob _ _ => true)) = true) : unhindered s f := by
  intro p hp
  have := List.all_eq_true.mp h p hp
  simp only [Bool.and_eq_true, Bool.not_eq_true', List.all_eq_true, Option.mem_toList] at this
  refine ⟨this.1.1, fun d hd => this.1.2 d hd, fun a ha => ?_⟩
  have := this.2
  rw [ha] at this
  simpa using this
theorem unwatchedOf {s : State} (h : s.specs = []) (pa n : Nat) : unwatched s pa n := by
  intro i sp hs
  rw [h] at hs
  simp [mapGet] at hs
theorem portsIdleOf {s : State} {id : Nat} (h : (s.clusters.all fun e => decide (e.2.portQ = [])) = true) (ho : others s id = []) :
    portsIdle s id := by
  refine ⟨fun e he => by simpa using List.all_eq_true.mp h e he, fun g hg => ?_⟩
  rw [ho] at hg
  cases hg

def msgOk (s : State) (a : Nat) (tagged : Bool) : Prop :=
  a < 2 ^ 32 ∧ a / 2 ^ 15 % 2 = 0 ∧ (tagged = false → a / 2 ^ 16 % 2 ^ 16 = 0) ∧ s.inPart (coreOf s.cur) (clusterOf (a % 2 ^ 15)) = true
/-- MSENDT with g1, MSEND with g3 and, for the fault, with g6; the last state has four messages not accepted. -/
theorem witness_MessageSending :
    full (sT xT) [(.g, 1), (.g, 2)] ∧ (msgOk (sT xT) ((me (sT xT)).rg 1).toNat true ∧ msgOk (sT xT) ((me (sT xT)).rg 3).toNat false) ∧
      quiet (sT xT) ∧ (sT xT).specOf (me (sT xT)).lidN = none ∧ (me (sT xT)).unaccepted < 4 ∧
      (plain (sT xT) ∧ ¬msgOk (sT xT) ((me (sT xT)).rg 6).toNat true) ∧ 4 ≤ (me (sT { xT with unaccepted := 4 })).unaccepted := by
  refine ⟨fullOf (by decide +kernel), ?_, ?_, ?_, ?_, ?_, ?_⟩
  · unfold msgOk; decide +kernel
  · unfold quiet; decide +kernel
  · decide +kernel
  · decide +kernel
  · unfold msgOk plain; decide +kernel
  · decide +kernel

/-- A message to launch `lid` under a tag; its sender's SATINF is set. -/
def mailT (lid tag : Nat) (v : Word) : MailEntry := ⟨BitVec.ofNat 64 (2 ^ 59 + lid * 2 ^ 44 + tag * 2 ^ 28 + 9), v, 0, 0⟩
def sMail : State := sT { xT with mail := [mailT 3 2 1, mailT 3 5 2] }
theorem witness_MessageReceivingAndDelivery :
    ((me sMail).recv = none ∧ (10 : Fin 32).val % 2 = 0) ∧ full sMail [(.g, 3)] ∧
    ((me sMail).mail = [mailT 3 2 1] ++ mailT 3 5 2 :: [] ∧ (∀ k ∈ [mailT 3 2 1], ¬matchesMsg (me sMail).lidN (some 5) k) ∧
      matchesMsg (me sMail).lidN (some 5) (mailT 3 5 2) ∧ (mailT 3 5 2).w0.getLsbD 59 = (me sMail).fmode.getLsbD 3) ∧
    (∀ k ∈ (me (sT xT)).mail, ¬matchesMsg (me (sT xT)).lidN none k) ∧
    ((me sMail).waitm = [] ∧ (me sMail).status = .ready ∧
      ((me sMail).mail.filter fun m => m.w0.toNat / 2 ^ 44 % 4096 = (me sMail).lidN).length = 2) := by
  refine ⟨by decide +kernel, fullOf (by decide +kernel), ⟨by decide +kernel, ?_, ?_, by decide +kernel⟩, ?_, by decide +kernel⟩
  · intro k hk
    rw [List.mem_singleton.mp hk]
    intro h
    exact absurd (h.2 5 rfl) (by decide +kernel)
  · exact ⟨by decide +kernel, fun n hn => by cases hn; decide +kernel⟩
  · intro k hk; exact absurd hk (by simp [me, sT, State.slot, mapGet, xT])
/-- A message of a thread whose SATINF is clear. -/
def sSat : State := sT { xT with fmode := 0, mail := [mailT 3 5 2] }
theorem witness_MessageReceivingAndDelivery_mode :
    plain sSat ∧ (mailT 3 5 2).w0.getLsbD 59 ≠ (me sSat).fmode.getLsbD 3 := by unfold plain; decide +kernel
def msgT : Msg := ⟨5, mailT 3 2 77, 0, true⟩
def sFull : State :=
  { sF (.message msgT) [] with slots := [(0, xT), (5, { status := .ready, lid := 3, mail := List.replicate 8 (mailT 3 1 0) })] }
theorem witness_MessageReceivingAndDelivery_arrival :
    reaching (sF (.message msgT) []) 7 (flT (.message msgT) []) ∧
    (let s := sF (.message msgT) []
     msgT.counted = true ∧ (s.core (coreOf msgT.target)).forward = [] ∧ s.whereIs msgT.entry.ctx (clusterOf msgT.target) = .live ∧
       (s.slot msgT.target).recv = none ∧ (s.slot msgT.target).waitm = [] ∧
       (s.cluster (clusterOf msgT.target)).replay = [] ∧ (s.slot msgT.target).mail.length < 8 ∧
       ∀ g ∈ s.flights, g.id < 7 → ∀ k, g.kind = .message k → (flT (.message msgT) []).sameSender msgT g k = false ∨ k.target ≠ msgT.target) ∧
    reaching sFull 7 (flT (.message msgT) []) ∧ (sFull.slot msgT.target).mail.length = 8 :=
  ⟨reachingOf (by decide +kernel) (by decide +kernel),
    ⟨by decide +kernel, by decide +kernel, by decide +kernel, by decide +kernel, by decide +kernel, by decide +kernel, by decide +kernel,
      by intro g hg hl; rw [List.mem_singleton.mp hg] at hl; exact absurd hl (by decide)⟩,
    reachingOf (by decide +kernel) (by decide +kernel), by decide +kernel⟩

/-- g1 holds the address of a counter, g2 that of a frame, g3 no counter. -/
def xJ : Slot := { xT with g := rgs [(1, 0x82000010), (2, 0x300), (3, 0x82010000)] }
theorem witness_CounterInstructions :
    (me (sT xJ)).sbcnt < 32 ∧ full (sT xJ) [(.g, 1)] ∧ full (sT xJ) [(.g, 3)] ∧ full (sT xJ) [(.g, 2), (.g, 1)] ∧
    (counterAddr ((me (sT xJ)).rg 1).toNat = true ∧ (sT xJ).inPart (coreOf (sT xJ).cur) (((me (sT xJ)).rg 1).toNat / 2 ^ 32) = true) ∧
    (plain (sT xJ) ∧ counterAddr ((me (sT xJ)).rg 3).toNat = false) ∧
    ((me (sT xJ)).frPend = false ∧ mapGet false (me (sT xJ)).sgPend 2 = false ∧ frameOk (sT xJ) ((me (sT xJ)).rg 2) ∧
      ((sT xJ).core (coreOf (sT xJ).cur)).sb = []) := by
  refine ⟨by decide +kernel, fullOf (by decide +kernel), fullOf (by decide +kernel), fullOf (by decide +kernel), by decide +kernel, ?_, ?_⟩
  · unfold plain; decide +kernel
  · unfold frameOk; decide +kernel

/-- A task with a frame at 0x300 and a counter; g1 is the child's address, [g2, g3) a range of work ids, g4 a zero word, g5 the
word of the youngest entry. -/
def xS : Slot :=
  { xT with fr := 0x300, jc := 0x82000010, task := some 3,
            g := rgs [(1, 0x500), (2, 3), (3, 9), (5, BitVec.ofNat 64 (2 ^ 62 + 2 * 2 ^ 32 + 4))] }
def dqT (seq kind : Nat) : DqEntry :=
  { frame := 0x10300, kind := kind, floor := 0, spec := false, slot := 0, launch := 3, seq := seq, lo := 20, hi := 25, acq := false,
    inSteal := false, refused := [], place := none, waits := [] }
def sS (x : Slot) (q : List DqEntry) : State := { sT x with cores := [(0, { cmask := 1, cpart := 1, push := 9, deque := q })] }
theorem witness_SpawnPushesEntry :
    let s := sS xS [dqT 4 0]
    quiet s ∧ ((me s).frPend = false ∧ frameOk s (me s).fr) ∧ (s.core (coreOf s.cur)).deque.length < 64 ∧ full s [(.g, 1)] ∧
      ((me s).rg 1).toNat % 4 = 0 ∧ full s [(.g, 1), (.g, 2), (.g, 3)] ∧
      (((me s).rg 2).toNat < ((me s).rg 3).toNat ∧ ((me s).rg 3).toNat ≤ workIds s ∧
        ((me s).rg 3).toNat - ((me s).rg 2).toNat < 2 ^ 32) := by
  refine ⟨?_, ?_, by decide +kernel, fullOf (by decide +kernel), by decide +kernel, fullOf (by decide +kernel), by decide +kernel⟩
  · unfold quiet; decide +kernel
  · unfold frameOk; decide +kernel
/-- A lone root task. -/
def sRoot : State :=
  { sS { xS with tk := .root } [] with launches := [(3, some { laT with hdr := { hdrT with extents := [1, 1, 1, 1, 1, 1] } })] }
theorem witness_TaskEndings_retj :
    (canonical sRoot ∧ quiet sRoot ∧ full sRoot [(.g, 4)] ∧ (me sRoot).rg 4 = 0 ∧ (me sRoot).tk = .root ∧
      sRoot.launch (me sRoot).lidN = some { laT with hdr := { hdrT with extents := [1, 1, 1, 1, 1, 1] } } ∧
      ({ hdrT with extents := [1, 1, 1, 1, 1, 1] } : Header).count ≤ 1) ∧
    (let s := sS { xS with tk := .id } []
     canonical s ∧ quiet s ∧ full s [(.g, 4)] ∧ (me s).rg 4 = 0 ∧ (me s).tk = .id) := by
  refine ⟨⟨canonicalOf (by decide +kernel), ?_, fullOf (by decide +kernel), by decide +kernel, by decide +kernel, by decide +kernel, by decide +kernel⟩,
    canonicalOf (by decide +kernel), ?_, fullOf (by decide +kernel), by decide +kernel, by decide +kernel⟩ <;> (unfold quiet; decide +kernel)
theorem witness_TaskEndings_reclaim :
    let s := sS xS [dqT 3 0, dqT 4 0]
    let k := s.core (coreOf s.cur)
    canonical s ∧ quiet s ∧ full s [(.g, 5)] ∧ (k.spilled = [] ∧ k.deque = [dqT 3 0] ++ [dqT 4 0]) ∧
      ((dqT 4 0).kind = 0 ∧ (dqT 4 0).slot = s.cur % 16 ∧ (dqT 4 0).inSteal = false ∧ (dqT 4 0).place = none ∧
        (∀ x ∈ [dqT 3 0], x.seq ≠ (dqT 4 0).seq)) ∧
      (((me s).rg 5).toNat / 2 ^ 53 = 0x200 ∧ ((me s).rg 5).toNat % 2 ^ 32 = (dqT 4 0).seq) := by
  refine ⟨canonicalOf (by decide +kernel), ?_, fullOf (by decide +kernel), by decide +kernel, by decide +kernel, by decide +kernel⟩
  unfold quiet; decide +kernel
theorem witness_TaskEndings_suspend :
    let s := sS xS [dqT 3 0]
    let k := s.core (coreOf s.cur)
    canonical s ∧ quiet s ∧ (me s).frPend = false ∧ frameOk s (me s).fr ∧ (me s).tk ≠ .id ∧ k.parked = [] ∧ k.spilled = [] ∧
      k.deque.length < 64 := by
  refine ⟨canonicalOf (by decide +kernel), ?_⟩
  unfold quiet frameOk; decide +kernel
theorem witness_TaskEndings_rtake :
    let s := sS { xS with tk := .id } [dqT 3 0, dqT 4 1]
    let k := s.core (coreOf s.cur)
    canonical s ∧ quiet s ∧ full s [(.g, 2)] ∧ (me s).tk = .id ∧ (me s).frPend = false ∧ k.spilled = [] ∧ k.deque = [dqT 3 0] ++ [dqT 4 1] ∧
      (dqT 4 1).kind = 1 ∧ (dqT 4 1).frame = (s.segment s.cur 2).base + (me s).fr ∧ ((me s).rg 2).toNat ≠ 0 ∧
      (me s).ex + min ((me s).rg 2).toNat ((dqT 4 1).hi - (dqT 4 1).lo) < 2 ^ 32 := by
  refine ⟨canonicalOf (by decide +kernel), ?_, fullOf (by decide +kernel), ?_⟩
  · unfold quiet; decide +kernel
  · decide +kernel
/-- Ordinal 149 lies below the 192 work ids of the launch, ordinal 192 does not. -/
def sW (n : Nat) : State := sT { xT with g := (8, ⟨0, true⟩) :: rgs [(11, BitVec.ofNat 64 n)] }
theorem witness_WorkIdOfOrdinal :
    ((sW 149).launch (me (sW 149)).lidN = some laT ∧ (sW 192).launch (me (sW 192)).lidN = some laT) ∧ full (sW 149) [(.g, 11)] ∧
      ((me (sW 149)).rg 11).toNat < laT.hdr.count ∧ (full (sW 192) [(.g, 11)] ∧ plain (sW 192)) ∧
      laT.hdr.count ≤ ((me (sW 192)).rg 11).toNat ∧ (me (sW 192)).isEmpty .g 8 = true ∧
      (laT.hdr.widths.length = 6 ∧ laT.hdr.extents.length = 6 ∧
        ∀ k, k < 6 → laT.hdr.extents.getD k 1 ≤ 2 ^ laT.hdr.widths.getD k 0) := by
  refine ⟨by decide +kernel, fullOf (by decide +kernel), by decide +kernel, ⟨fullOf (by decide +kernel), ?_⟩, by decide +kernel,
    by decide +kernel, by decide +kernel⟩
  unfold plain; decide +kernel
/-- A counter of launch 3 at its home that holds `w`. -/
def sCtr (k : FlightKind) (w : Nat) : State := { sF k [] with mem := writeLe [] (chipKey 0x82000010) 8 w }
theorem witness_CounterOperationsAtHome :
    (reaching (sCtr (.counterInc 0x82000010 1) 5) 7 (flT (.counterInc 0x82000010 1) []) ∧
      (let s := sCtr (.counterInc 0x82000010 1) 5
       s.whereIs 3 (0x82000010 / 2 ^ 32) = .live ∧ counterWord s 0x82000010 % 2 ^ 32 + 1 < 2 ^ 32 ∧ (s.slot 0).status = .ready) ∧
      unloggedFor (sCtr (.counterInc 0x82000010 1) 5) 3 0x82000010) ∧
    (reaching (sCtr (.counterInc 0x82000010 1) (2 ^ 32 - 1)) 7 (flT (.counterInc 0x82000010 1) []) ∧
      (let s := sCtr (.counterInc 0x82000010 1) (2 ^ 32 - 1)
       2 ^ 32 ≤ counterWord s 0x82000010 % 2 ^ 32 + 1 ∧ (s.slot 0).deferred = none ∧ (s.slot 0).tstat.getLsbD 6 = false ∧
         (s.slot 0).status = .ready ∧ (s.slot 0).acqReg = none)) ∧
    (reaching (sCtr (.counterDec 0x82000010 2 true) 5) 7 (flT (.counterDec 0x82000010 2 true) []) ∧
      (let s := sCtr (.counterDec 0x82000010 2 true) 5
       s.counterHeld (flT (.counterDec 0x82000010 2 true) []) 0x82000010 8 = false ∧ 2 < counterWord s 0x82000010 % 2 ^ 32)) ∧
    (reaching (sCtr (.counterDec 0x82000010 2 true) 1) 7 (flT (.counterDec 0x82000010 2 true) []) ∧
      (let s := sCtr (.counterDec 0x82000010 2 true) 1
       counterWord s 0x82000010 % 2 ^ 32 < 2 ∧ s.launch 3 = some laT ∧ laT.status = 0)) :=
  ⟨⟨reachingOf (by decide +kernel) (by decide +kernel), by decide +kernel, unloggedForOf rfl _ _⟩,
    ⟨reachingOf (by decide +kernel) (by decide +kernel), by decide +kernel⟩,
    ⟨reachingOf (by decide +kernel) (by decide +kernel), by decide +kernel⟩, ⟨reachingOf (by decide +kernel) (by decide +kernel), by decide +kernel⟩⟩
/-- The last decrement, of a counter that is not the launch's. -/
theorem witness_CounterOperationsAtHome_last :
    let s := sCtr (.counterDec 0x82000018 2 true) 0
    let s := { s with mem := writeLe [] (chipKey 0x82000018) 8 2 }
    reaching s 7 (flT (.counterDec 0x82000018 2 true) []) ∧ s.counterHeld (flT (.counterDec 0x82000018 2 true) []) 0x82000018 8 = false ∧
      counterWord s 0x82000018 % 2 ^ 32 = 2 ∧ counterWord s 0x82000018 / 2 ^ 62 % 2 = 0 ∧ laT.ctr ≠ some 0x82000018 :=
  ⟨reachingOf (by decide +kernel) (by decide +kernel), by decide +kernel⟩
/-- SYNC waits for a counter that is at zero. -/
def sSync : State := { sCtr (.syncTest 0x82000010 2) 0 with slots := [(0, { xT with status := .blocked .release })] }
theorem witness_CounterOperationsAtHome_sync :
    reaching sSync 7 (flT (.syncTest 0x82000010 2) []) ∧ sSync.counterHeld (flT (.syncTest 0x82000010 2) []) 0x82000010 8 = false ∧
      counterWord sSync 0x82000010 = 0 ∧ (sSync.slot 0).status = .blocked .release :=
  ⟨reachingOf (by decide +kernel) (by decide +kernel), by decide +kernel⟩

/-! ### Witnesses: tiles, rings, the matrix unit -/

/-- Tile 0 held, tile 1 persistent, tile 2 the lowest free one; pool 2 may hold `cap` tiles. -/
def sTile (cap : Nat) : State :=
  { sT { xT with g := rgs [(1, 5), (2, 0x10009), (3, 0x2000009)] } with
    cores := [(0, { cmask := 1, poolSet := [(2, true)], poolCap := [(2, 7)] })],
    clusters := [(0, { clT with pools := [(2, { set := true, cap := cap })],
                                tiles := [(0, { st := .held, count := 2, zf := false, launch := 3 }), (1, { st := .persistent, zf := false })] })] }
theorem poolForOf {s : State} {p : Nat} {l : Launch}
    (h : (s.launch (me s).lidN = some l ∧ l.specOf = none ∧ l.hdr.pool = p) ∧
      mapGet false (s.core (coreOf s.cur)).poolSet p = true ∧ mapGet 0 (s.core (coreOf s.cur)).poolCap p ≠ 0) : poolFor s p :=
  ⟨⟨l, h.1⟩, h.2⟩
theorem witness_TileAllocation :
    full (sTile 4) [(.g, 1)] ∧ plain (sTile 4) ∧ poolFor (sTile 4) 2 ∧
      ((me (sTile 4)).status = .ready ∧ ((sTile 4).cluster (clusterOf (sTile 4).cur)).allocQ = [] ∧
        1 ≤ ((me (sTile 4)).rg 1).toNat ∧ ((me (sTile 4)).rg 1).toNat ≤ 255) ∧
      eligibleFor (sTile 4) 0 2 ∧ lowestFree (sTile 4) 0 2 ∧ ¬eligibleFor (sTile 0) 0 2 := by
  refine ⟨fullOf (by decide +kernel), ?_, poolForOf (l := laT) (by decide +kernel), by decide +kernel, ?_, ?_, ?_⟩
  · unfold plain; decide +kernel
  · unfold eligibleFor; decide +kernel
  · unfold lowestFree; decide +kernel
  · unfold eligibleFor; decide +kernel
def reqT : AllocReq := { who := .thread 0, pool := 2, count := 6, lid := 3, asid := 0, spec := false, dest := 5 }
def sGrant : State :=
  { sTile 4 with slots := [(0, { xT with status := .blocked .alloc })],
                 clusters := [(0, { (sTile 4).cluster 0 with allocQ := [reqT] })] }
theorem witness_TileAllocation_grant :
    ((sGrant.cluster 0).allocQ = [reqT] ∧ reqT.who = .thread 0 ∧ reqT.asid = sGrant.asidOf reqT.lid ∧ sGrant.whereIs reqT.lid 0 = .live ∧ (sGrant.slot 0).status = .blocked .alloc) ∧
      eligibleFor sGrant 0 reqT.pool ∧ lowestFree sGrant 0 2 := by
  unfold eligibleFor lowestFree; decide +kernel
theorem witness_TileAllocation_handle :
    reaching (sF (.handle 0x10009 5) []) 7 (flT (.handle 0x10009 5) []) ∧ ((sF (.handle 0x10009 5) []).slot 0).status = .ready :=
  ⟨reachingOf (by decide +kernel) (by decide +kernel), by decide +kernel⟩
/-- g2 is a handle of cluster 0, g3 one of a cluster outside the partition; ring 3 holds two handles, one of them taken. -/
def sRing : State := { sTile 4 with cores := [(0, { cmask := 1, rings := [(3, ⟨[1, 2], 1, 4⟩)] })] }
theorem witness_TileAndRingInstructions :
    full (sTile 4) [(.g, 2)] ∧ handleAtIssue (sTile 4) ((me (sTile 4)).rg 2) ∧ quiet (sTile 4) ∧ full (sTile 4) [(.g, 2), (.g, 1)] ∧
      (1 ≤ ((me (sTile 4)).rg 1).toNat ∧ ((me (sTile 4)).rg 1).toNat ≤ 254) ∧
      (full (sTile 4) [(.g, 3)] ∧ plain (sTile 4) ∧ ¬handleAtIssue (sTile 4) ((me (sTile 4)).rg 3)) := by
  refine ⟨fullOf (by decide +kernel), ?_, ?_, fullOf (by decide +kernel), by decide +kernel, fullOf (by decide +kernel), ?_, ?_⟩
  · unfold handleAtIssue; decide +kernel
  · unfold quiet; decide +kernel
  · unfold plain; decide +kernel
  · unfold handleAtIssue; decide +kernel
theorem witness_TileAndRingInstructions_rings :
    mapGet {} (sRing.core (coreOf sRing.cur)).rings 3 = ⟨[1, 2], 1, 4⟩ ∧ full sRing [(.g, 2)] ∧ quiet sRing ∧
      (((me sRing).rg 2).toNat < 2 ^ 32 ∧ (me sRing).rg 2 ≠ 0) ∧ ([1, 2] : List Word32).drop 1 = 2 :: [] ∧
      mapGet {} (sRing.core (coreOf sRing.cur)).rings 4 = {} ∧ plain sRing := by
  refine ⟨by decide +kernel, fullOf (by decide +kernel), ?_, by decide +kernel, by decide +kernel, by decide +kernel, ?_⟩
  · unfold quiet; decide +kernel
  · unfold plain; decide +kernel
/-- An operation of slot 0 on tile 2 of cluster 0, generation 9. -/
def sTop (k : FlightKind) (x : Tile) : State := { sF k [] with clusters := [(0, { clT with tiles := [(2, x)] })] }
def tileT (st : TileSt) (n : Nat) : Tile := { st := st, gen := 9, count := n, zf := false, launch := 3, asid := 4 }
theorem atTileOf {s : State} {f : Flight} {h : Word32} {st : TileSt}
    (e : let t := s.tile (h.toNat / 2 ^ 24) (h.toNat / 2 ^ 15 % 512)
      s.whereIs f.lid (h.toNat / 2 ^ 24) = .live ∧ s.tileHeld f h = false ∧ h ≠ 0 ∧ t.gen = h.toNat % 2 ^ 15 ∧ t.st = st ∧ t.asid = f.asid ∧
        (s.slot f.owner).status = .ready) : atTile s f h st := e
theorem witness_TileOperationsArrive :
    (reaching (sTop (.tdrop 0x10009 5) (tileT .held 2)) 7 (flT (.tdrop 0x10009 5) []) ∧
      atTile (sTop (.tdrop 0x10009 5) (tileT .held 2)) (flT (.tdrop 0x10009 5) []) 0x10009 .held) ∧
    (reaching (sTop (.tdrop 0x10009 5) (tileT .held 1)) 7 (flT (.tdrop 0x10009 5) []) ∧
      atTile (sTop (.tdrop 0x10009 5) (tileT .held 1)) (flT (.tdrop 0x10009 5) []) 0x10009 .held) ∧
    (reaching (sTop (.tinc 0x10009 54 5) (tileT .held 200)) 7 (flT (.tinc 0x10009 54 5) []) ∧
      atTile (sTop (.tinc 0x10009 54 5) (tileT .held 200)) (flT (.tinc 0x10009 54 5) []) 0x10009 .held) ∧
    (reaching (sTop (.tfree 0x10009 5) (tileT .persistent 255)) 7 (flT (.tfree 0x10009 5) []) ∧
      atTile (sTop (.tfree 0x10009 5) (tileT .persistent 255)) (flT (.tfree 0x10009 5) []) 0x10009 .persistent) ∧
    reaching (sF (.tdropHeld 0x10009 5 [] []) []) 7 (flT (.tdropHeld 0x10009 5 [] []) []) :=
  ⟨⟨reachingOf (by decide +kernel) (by decide +kernel), atTileOf (by decide +kernel)⟩,
    ⟨reachingOf (by decide +kernel) (by decide +kernel), atTileOf (by decide +kernel)⟩,
    ⟨reachingOf (by decide +kernel) (by decide +kernel), atTileOf (by decide +kernel)⟩,
    ⟨reachingOf (by decide +kernel) (by decide +kernel), atTileOf (by decide +kernel)⟩,
    reachingOf (by decide +kernel) (by decide +kernel)⟩
/-- Tile 2 waits for its free; a TALLOC for pool 2 has waited for more than the stall threshold. -/
def sStall : State :=
  { sT xT with clusters := [(0, { clT with tiles := [(2, tileT .held 0)], poolStall := 100, lastGrant := 300, allocQ := [reqT] })] }
theorem witness_TileOperationsArrive_cluster :
    canonical sStall ∧ ((sStall.tile 0 2).st = .held ∧ (sStall.tile 0 2).count = 0 ∧ (sStall.tile 0 2).use = 0) ∧
      (0x8000000000050003 : Word).toNat / 2 ^ 63 = 1 ∧
      (let c := sStall.cluster 0
       c.poolStall ≠ 0 ∧ 0 < c.waiters 2 ∧ max c.lastGrant (c.pool 2).granted + c.poolStall ≤ sStall.cycle ∧ sStall.lost = 0 ∧
         sStall.events.length < 256) := ⟨canonicalOf (by decide +kernel), by decide +kernel⟩

def cmdT (op : MOp) : MCmd :=
  { id := 77, op := op, acc := 2, relc := true, thr := 0, pc := 0x40, lid := 3, asid := 0, satinf := false, rm := 0, waits := [] }
/-- The queue of the core holds `k` commands; g29 is 16, or 17. -/
def sMq (k : Nat) (n : Word) : State :=
  { sT { xT with g := rgs [(2, 0x40), (29, n)] } with cores := [(0, { cmask := 1, mq := List.replicate k (cmdT .accz) })] }
theorem witness_MatrixCommandsQueued :
    let s := sMq 7 16
    quiet s ∧ ((Instr.mma ⟨3, 4, 5, 16, .bf16, true, false, true, true⟩).wf = true ∧ (Instr.mmar ⟨1, 2, 3, .i8, true, false, true, true⟩).wf = true) ∧
      placesUsed s < 8 ∧ 8 ≤ placesUsed (sMq 8 16) ∧ full s [(.g, 29)] ∧ ((me s).rg 29).toNat ≤ 16 ∧
      (plain (sMq 0 17) ∧ 16 < ((me (sMq 0 17)).rg 29).toNat) := by
  refine ⟨?_, by decide +kernel, by decide +kernel, by decide +kernel, fullOf (by decide +kernel), by decide +kernel, ?_⟩
  · unfold quiet; decide +kernel
  · unfold plain; decide +kernel
/-- A row of accumulator 1 in 64 bytes per register through sg2 at offset 0x40; nothing else queued. -/
theorem witness_MatrixCommandsQueued_rows :
    let s := sMq 0 16
    let d := s.segment s.cur 2
    full s [(.g, 2)] ∧ mapGet false (me s).sgPend 2 = false ∧ d.chip = false ∧ ((Instr.accld ⟨1, 2, 2, .i8, true⟩).wf = true ∧
      s.check s.cur { desc := d, off := 0x40, size := 512 * elemW .i8, align := 64, need := 1, use := .load } =
        .ok [⟨.glob 0 0x10040, 4096, 0, .new⟩]) ∧
      s.check s.cur { desc := d, off := 0x40, size := 512 * elemW .i8, align := 64, need := 2, use := .store } =
        .ok [⟨.glob 0 0x10040, 4096, 0, .new⟩] :=
  ⟨fullOf (by decide +kernel), by decide +kernel, by decide +kernel, ⟨by decide +kernel, okOf (by decide +kernel)⟩, okOf (by decide +kernel)⟩
theorem witness_MatrixCommandsQueued_counts :
    (Instr.mqwait 5 8).wf = true ∧ (me (sMq 7 16)).mqwait = [] ∧ ((ownCommands (sMq 7 16)).filter (·.relc)).length = 7 := by decide +kernel
/-- g7 names row 1 part 3, g9 no part. -/
def sRow : State := sT { xT with g := rgs [(7, 193), (9, 256)], v := [(2, ⟨5, false⟩)] }
theorem witness_AccumulatorRows :
    full sRow [(.g, 7)] ∧ plain sRow ∧ canonical sRow ∧ ((∀ g ∈ sRow.flights, g.id < sRow.nextId) ∧ sRow.lastMatrix (coreOf sRow.cur) 1 none = none ∧
      ∀ k, k < perReg .f32 → sRow.poisoned (chipKey (accWord (coreOf sRow.cur) 1 (rowWord sRow ⟨1, 7, 2, .f32⟩ k))) 4 = false) ∧
      unlogged sRow (accWord (coreOf sRow.cur) 1 0) ∧
      rowOk sRow ⟨1, 7, 2, .f32⟩ ∧ (Instr.accout ⟨1, 7, 2, .f32⟩).wf = true ∧ full sRow [(.v, 2)] ∧ full sRow [(.g, 9)] ∧
      ¬rowOk sRow ⟨1, 9, 2, .f32⟩ := by
  refine ⟨fullOf (by decide +kernel), ?_, canonicalOf (by decide +kernel), by decide +kernel, unloggedOf rfl _, ?_, by decide +kernel,
    fullOf (by decide +kernel), fullOf (by decide +kernel), ?_⟩
  · unfold plain; decide +kernel
  · unfold rowOk; decide +kernel
  · unfold rowOk; decide +kernel
/-- The same with a command on accumulator 2 in the queue. -/
def sRowQ : State := { sRow with cores := [(0, { cmask := 1, mq := [cmdT .accz] })], nextId := 90 }
theorem witness_AccumulatorRows_queued :
    full sRowQ [(.g, 7)] ∧ canonical sRowQ ∧ (sRowQ.flights = [] ∧ sRowQ.lastMatrix (coreOf sRowQ.cur) 2 none = some 77) ∧
      rowOk sRowQ ⟨2, 7, 2, .f32⟩ ∧ full sRowQ [(.v, 2)] ∧ (me sRowQ).sbcnt < 32 := by
  refine ⟨fullOf (by decide +kernel), canonicalOf (by decide +kernel), by decide +kernel, ?_, fullOf (by decide +kernel), by decide +kernel⟩
  unfold rowOk; decide +kernel
def runT (op : MOp) (test : Nat) : MRun :=
  { core := 1, cmd := cmdT op, ha := [0x10009], hb := [0x28009], takenA := false, takenB := false, test := test, due := 400 }
def sRun (op : MOp) (test : Nat) : State :=
  { sT xT with clusters := [(0, { clT with running := [runT op test], tiles := [(2, tileT .held 1), (5, tileT .held 1)] })] }
theorem witness_MatrixUnitEvents :
    (canonical (sRun .accz 1) ∧ (∃ r ∈ ((sRun .accz 1).cluster 0).running, r.test = 1) ∧
      (sRun .accz 1).lost = 0 ∧ (sRun .accz 1).events.length < 256) ∧
    (let r := runT (.mma 0 0 1 .i8 true true false false) 0
     let s := sRun (.mma 0 0 1 .i8 true true false false) 0
     canonical s ∧ ((s.cluster 0).running = [r] ∧ s.specOf 3 = none ∧ r.core / 8 = 0 ∧ r.due ≤ s.cycle ∧ r.due ≠ 0 ∧
       (s.cluster 0).accWrites = [] ∧ s.flights = [] ∧ s.poison = [] ∧ (s.cluster 0).testCount < (s.cluster 0).stint) ∧
       unloggedFor s 3 (accWord 1 2 0)) :=
  ⟨⟨canonicalOf (by decide +kernel), by decide +kernel⟩, canonicalOf (by decide +kernel), by decide +kernel, unloggedForOf rfl _ _⟩
/-- Core 3 of the cluster has the one command that is ready. -/
def sSel : State := { sT xT with cores := [(3, { mq := [cmdT .accz] })] }
theorem witness_MatrixUnitEvents_select :
    canonical sSel ∧ (sSel.cluster 0).running = [] ∧ (sSel.cluster 0).mfenced ≠ 15 ∧
      (∀ j, j < 8 → j ≠ 3 → (sSel.core (0 * 8 + j)).mq = []) ∧ (sSel.core (0 * 8 + 3)).mq = cmdT .accz :: [] ∧
      (∀ f ∈ sSel.flights, f.id ∉ (cmdT .accz).waits) := ⟨canonicalOf (by decide +kernel), by decide +kernel⟩

/-! ### Witnesses: engines, ports, walkers -/

def copyRegs (w0 : Word) : SMap Reg := rgs [(1, 0x82010008), (2, 0x82040000), (4, w0), (5, 0x6000000000000100), (6, 0x4000000000000200), (7, 0)]
/-- g4 to g7 are a copy of `w0` bytes from sg3 to sg2, g8 to g15 a gather of one row; the FIFO holds `k` 64-byte requests. -/
def sEng (w0 : Word) (k : Nat) : State :=
  let r : EngReq :=
    { id := 300, indirect := false, words := [0, 0, 0, 0], src := .seg {} 0, dst := .seg {} 0, list := .seg {} 0, thr := 3, core := 0,
      lid := 3, asid := 0, satinf := false, waits := [], pos := 0, off := 0, skipped := 0, carried := false, started := false,
      parked := none, faultVa := 0, sys := false, inUse := [], packet := none, ctx := none }
  { sT { xT with sg := [(2, ⟨0x10000, 0x001F000000010000⟩), (3, cSeg)],
                 g := copyRegs w0 ++ rgs [(8, 1), (9, 0x6000000000000100), (10, 0x6000000000000200), (11, 0x6000000000000400),
                                          (12, BitVec.ofNat 64 (64 * 2 ^ 32 + 8))] } with
    cores := [(0, { cmask := 1, fifo := List.replicate k r })] }
theorem witness_EngineRequestsPushed :
    let s := sEng 64 14
    ((Instr.copyq ⟨4, true⟩).wf = true ∧ (Instr.copyqt ⟨1, 4, true⟩).wf = true) ∧ (∀ k, k < 4 → (me s).isEmpty .g (4 + k) = false) ∧
      pushable s 4 false ∧ quiet s ∧ fifoPlaces s + 1 ≤ 16 ∧ 16 < fifoPlaces (sEng 64 16) + 1 ∧
      (plain (sEng (BitVec.ofNat 64 (7 * 2 ^ 57)) 0) ∧ badWord (sEng (BitVec.ofNat 64 (7 * 2 ^ 57)) 0) 4 false = some 0) := by
  refine ⟨by decide +kernel, by decide +kernel, ?_, ?_, by decide +kernel, by decide +kernel, ?_, by decide +kernel⟩
  · unfold pushable tileForm; decide +kernel
  · unfold quiet; decide +kernel
  · unfold plain; decide +kernel
theorem witness_EngineRequestsPushed_gather :
    let s := sEng 64 14
    ((Instr.gathq ⟨8, true⟩).wf = true ∧ (Instr.gathqt ⟨1, 8, true⟩).wf = true) ∧ (∀ k, k < 8 → (me s).isEmpty .g (8 + k) = false) ∧
      pushable s 8 true ∧ fifoPlaces s + 2 ≤ 16 := by
  refine ⟨by decide +kernel, by decide +kernel, ?_, by decide +kernel⟩
  unfold pushable tileForm; decide +kernel
/-- g1 holds the address of a byte barrier, g2 an address beyond the last one. -/
theorem witness_EngineRequestsPushed_bbwait :
    full (sEng 64 0) [(.g, 1)] ∧ full (sEng 64 0) [(.g, 2)] ∧ plain (sEng 64 0) ∧
      (let b := ((me (sEng 64 0)).rg 1).toNat
       b < 2 ^ 40 ∧ b / 2 ^ 28 % 16 = 8 ∧ b / 2 ^ 24 % 16 = 2 ∧ 0x10000 ≤ b % 2 ^ 24 ∧ b % 2 ^ 24 < 0x40000 ∧ b % 8 = 0 ∧
         (sEng 64 0).inPart (coreOf (sEng 64 0).cur) (b / 2 ^ 32) = true) ∧ ¬((me (sEng 64 0)).rg 2).toNat % 2 ^ 24 < 0x40000 :=
  ⟨fullOf (by decide +kernel), fullOf (by decide +kernel), by unfold plain; decide +kernel, by decide +kernel, by decide +kernel⟩
def addrT (a : Nat) : EngAddr := .seg ⟨BitVec.ofNat 64 a, cSeg.w1⟩ 0
theorem atScratchOf {a n : Nat} (h : (addrT a = .seg ⟨BitVec.ofNat 64 a, cSeg.w1⟩ 0 ∧ (⟨BitVec.ofNat 64 a, cSeg.w1⟩ : Desc).chip = true ∧
    (BitVec.ofNat 64 a).toNat + 0 = a ∧ a < 2 ^ 40 ∧ a / 2 ^ 31 % 2 = 0 ∧ a / 2 ^ 24 % 16 = 0 ∧ a % 8 = 0 ∧ a % 2 ^ 24 + n ≤ 0x40000)) :
    atScratch (addrT a) a n := ⟨_, _, h⟩
/-- A started request of core 1, from 0x200 to 0x500, with its list at 0x400. -/
def engT (indirect : Bool) (ws : List Word) : EngReq :=
  { id := 7, indirect := indirect, words := ws, src := addrT 0x200, dst := addrT 0x500, list := addrT 0x400, thr := 0, core := 1, lid := 3,
    asid := 0, satinf := false, waits := [], pos := 0, off := 0, skipped := 0, carried := false, started := true, parked := none,
    faultVa := 0, sys := false, inUse := [], packet := none, ctx := none }
def sRunE (r : EngReq) : State :=
  { slots := [(0, xT)], clusters := [(0, { clT with engines := [r] })], mem := writeLe [] (chipKey 0x400) 4 2, nextId := 12 }
theorem runsOf {s : State} {r : EngReq} (hc : canonicalCheck s = true) (hl : s.launch r.lid = none) (hk : s.cores = []) (hs : s.specs = [])
    (h : s.specOf r.lid = none ∧ s.poison = [] ∧ (s.cluster (r.core / 8)).engines = [r] ∧ (s.cluster (r.core / 8)).stalled r.indirect = false ∧
      r.started = true ∧ r.parked = none ∧ r.packet = none ∧ r.carried = false ∧ r.off = 0 ∧ r.inUse = []) : runs s r :=
  ⟨canonicalOf hc, h.1, unloggedForOf hs _, h.2.1, fun cl => by simp only [State.whereIs, hl], fun c => by simp only [State.core, hk]; rfl,
    by rw [h.2.2.1]; simp, h.2.2.2⟩
theorem witness_EngineAndBarrierEvents :
    (runs (sRunE (engT false [512, 0, 0, 0])) (engT false [512, 0, 0, 0]) ∧ atScratch (addrT 0x500) 0x500 512 ∧
      atScratch (addrT 0x200) 0x200 512 ∧ (nthWord [512, 0, 0, 0] 0 % 2 ^ 57 = 512 ∧ nthWord [512, 0, 0, 0] 0 / 2 ^ 60 = 0 ∧
        nthWord [512, 0, 0, 0] 0 / 2 ^ 57 % 8 = 0)) ∧
    (runs (sRunE (engT false [BitVec.ofNat 64 (2 ^ 60 + 40), 0x1122334455667788, 0, 0]))
        (engT false [BitVec.ofNat 64 (2 ^ 60 + 40), 0x1122334455667788, 0, 0]) ∧
      nthWord [BitVec.ofNat 64 (2 ^ 60 + 40), 0x1122334455667788, 0, 0] 0 / 2 ^ 60 = 1) :=
  ⟨⟨runsOf (by decide +kernel) (by decide +kernel) rfl rfl (by decide +kernel), atScratchOf (by decide +kernel), atScratchOf (by decide +kernel),
    by decide +kernel⟩, runsOf (by decide +kernel) (by decide +kernel) rfl rfl (by decide +kernel), by decide +kernel⟩
/-- A gather of row 2 of four rows of 64 bytes. -/
def gathT : List Word := [1, 0, 0, 0, BitVec.ofNat 64 (64 * 2 ^ 32 + 4), 0, 0, 0]
theorem witness_EngineAndBarrierEvents_gather :
    runs (sRunE (engT true gathT)) (engT true gathT) ∧ atScratch (addrT 0x400) 0x400 8 ∧ atScratch (addrT 0x200) 0x200 (4 * 64) ∧
      atScratch (addrT 0x500) 0x500 64 ∧ (nthWord gathT 0 = 1 ∧ nthWord gathT 4 = 64 * 2 ^ 32 + 4) ∧
      readLe (sRunE (engT true gathT)).mem (chipKey 0x400) 4 = 2 :=
  ⟨runsOf (by decide +kernel) (by decide +kernel) rfl rfl (by decide +kernel), atScratchOf (by decide +kernel), atScratchOf (by decide +kernel),
    atScratchOf (by decide +kernel), by decide +kernel, by decide +kernel⟩
theorem witness_EngineAndBarrierEvents_barriers :
    (barrierAddr 0x82010008 = true ∧ canonical (sT xT) ∧ unloggedFor (sT xT) 4096 0x82010008 ∧ (sT xT).launch 4096 = none ∧
      ((sT xT).cluster (0x82010008 / 2 ^ 32)).bbwaits = []) ∧
    (reaching (sF (.bbwait 0x82010008 5) []) 7 (flT (.bbwait 0x82010008 5) []) ∧
      (let s := sF (.bbwait 0x82010008 5) []
       s.whereIs 3 (0x82010008 / 2 ^ 32) = .live ∧ (s.cluster (0x82010008 / 2 ^ 32)).bbwaits = [] ∧ counterWord s 0x82010008 = 0 ∧
         (s.slot 0).status = .ready)) ∧
    (mapWf 0 ((sT xT).core (0 * 8 + 3)).codes = true ∧ mapWf {} (sT xT).cores = true) :=
  ⟨⟨by decide +kernel, canonicalOf (by decide +kernel), unloggedForOf rfl _ _, by decide +kernel⟩,
    ⟨reachingOf (by decide +kernel) (by decide +kernel), by decide +kernel⟩, by decide +kernel⟩

/-- A load of 8 bytes to g5, waiting or not, in these pieces. -/
def ldT (w : GranOp) : FlightKind := .load (.g 5 8 false) w .read 0
def chipPc : Piece := ⟨.chip (2 ^ 28 + 0x48), 8, 0, .new⟩
def homePc (u : Bool) : Piece := ⟨.glob 4 0x123458, 8, 0, .home 0x5008 u⟩
theorem atScratchpadOf {s : State} {f : Flight} {a n : Nat} (hs : s.specs = [])
    (h : f.pieces = [⟨.chip a, n, 0, .new⟩] ∧ a < 2 ^ 40 ∧ a / 2 ^ 31 % 2 = 0 ∧ a / 2 ^ 24 % 16 = 0 ∧
      (s.core (chipCore a)).forward = [] ∧ s.whereIs f.lid (chipCluster a) = .live ∧ s.poisoned (chipKey a) n = false) :
    atScratchpad s f a n :=
  ⟨h.1, h.2.1, h.2.2.1, h.2.2.2.1, h.2.2.2.2.1, h.2.2.2.2.2.1, h.2.2.2.2.2.2, unloggedForOf hs _ _⟩
theorem witness_AccessesComplete_loads :
    (reaching (sF (ldT .none) [chipPc]) 7 (flT (ldT .none) [chipPc]) ∧ unhindered (sF (ldT .none) [chipPc]) (flT (ldT .none) [chipPc]) ∧
      ((sF (ldT .none) [chipPc]).slot 0).status = .ready ∧
      atScratchpad (sF (ldT .none) [chipPc]) (flT (ldT .none) [chipPc]) (2 ^ 28 + 0x48) 8) ∧
    (reaching (sF (ldT .none) [homePc true]) 7 (flT (ldT .none) [homePc true]) ∧
      unhindered (sF (ldT .none) [homePc true]) (flT (ldT .none) [homePc true]) ∧
      atHome (sF (ldT .none) [homePc true]) (flT (ldT .none) [homePc true]) 0x123458 0x5008 8 true) := by
  refine ⟨⟨reachingOf (by decide +kernel) (by decide +kernel), unhinderedOf (by decide +kernel), by decide +kernel,
    atScratchpadOf rfl (by decide +kernel)⟩, reachingOf (by decide +kernel) (by decide +kernel), unhinderedOf (by decide +kernel), ?_⟩
  unfold atHome; decide +kernel
/-- The cluster cache holds the line; the access was rejected; a waiting load meets an EMPTY granule. -/
def sLine : State := { sF (ldT .none) [homePc false] with clusters := [(0, { clT with cache := [(0x5008 / 128, some 77)] })] }
def parkPc (key : Nat) : Piece := ⟨.glob 4 0x123458, 8, 0, .parked 0 key⟩
def sWaitE : State := { sF (ldT .wait) [chipPc] with grans := [(chipKey (2 ^ 28 + 0x48) / 16, true)] }
theorem witness_AccessesComplete_held :
    (reaching sLine 7 (flT (ldT .none) [homePc false]) ∧ unhindered sLine (flT (ldT .none) [homePc false]) ∧
      atHome sLine (flT (ldT .none) [homePc false]) 0x123458 0x5008 8 false ∧
      mapGet none (sLine.cluster 0).cache (0x5008 / 128) = some 77) ∧
    (let s := sF (ldT .none) [parkPc 3]
     reaching s 7 (flT (ldT .none) [parkPc 3]) ∧ unhindered s (flT (ldT .none) [parkPc 3]) ∧ ((s.die 0).records = [] ∧
       (s.slot 0).deferred = none ∧ (s.slot 0).acqReg = none ∧ (s.slot 0).tstat.getLsbD 6 = false)) ∧
    (reaching sWaitE 7 (flT (ldT .wait) [chipPc]) ∧ unhindered sWaitE (flT (ldT .wait) [chipPc]) ∧
      atScratchpad sWaitE (flT (ldT .wait) [chipPc]) (2 ^ 28 + 0x48) 8 ∧
      sWaitE.anyEmpty (2 ^ 28 + 0x48) 8 = true ∧ (sWaitE.core (chipCore (2 ^ 28 + 0x48))).remoteWait = []) := by
  refine ⟨⟨reachingOf (by decide +kernel) (by decide +kernel), unhinderedOf (by decide +kernel), ?_, by decide +kernel⟩,
    ⟨reachingOf (by decide +kernel) (by decide +kernel), unhinderedOf (by decide +kernel), by decide +kernel⟩,
    reachingOf (by decide +kernel) (by decide +kernel), unhinderedOf (by decide +kernel), atScratchpadOf rfl (by decide +kernel),
    by decide +kernel⟩
  unfold atHome; decide +kernel
def stT : FlightKind := .store 5 0xFF none false [20, 21] 0x77
def stPc : Piece := ⟨.glob 4 0x8000, 64, 0, .home 0x5040 true⟩
theorem witness_AccessesComplete_store :
    reaching (sF stT [stPc]) 7 (flT stT [stPc]) ∧ unhindered (sF stT [stPc]) (flT stT [stPc]) ∧
      atHome (sF stT [stPc]) (flT stT [stPc]) 0x8000 0x5040 64 true ∧ unwatched (sF stT [stPc]) 0x5040 64 ∧
      (sF stT [stPc]).settled 7 [20, 21] = 2 :=
  ⟨reachingOf (by decide +kernel) (by decide +kernel), unhinderedOf (by decide +kernel), by unfold atHome; decide +kernel,
    unwatchedOf rfl _ _, by decide +kernel⟩
def segK : FlightKind := .load (.seg 3 17) .none .read 0
def segPcs : List Piece := [⟨.glob 4 0x8000, 8, 0, .home 0x5040 true⟩, ⟨.glob 4 (0x8000 + 8), 8, 8, .home (0x5040 + 8) true⟩]
def sSegR : State :=
  { sF segK segPcs with slots := [(0, { xT with status := .blocked (.segment 3) })], mem := writeLe [] (0x5040 + 8) 8 0x0003000000001000 }
theorem witness_AccessesComplete_segment :
    reaching sSegR 7 (flT segK segPcs) ∧ unhindered sSegR (flT segK segPcs) ∧ ((3 : Fin 8) ≠ 2 ∧
      (sSegR.slot 0).status = .blocked (.segment (3 : Fin 8).val) ∧ sSegR.queues = [] ∧ sSegR.poisoned 0x5040 16 = false ∧
      (BitVec.ofNat 64 (readLe sSegR.mem (0x5040 + 8) 8)).extractLsb' 54 2 = 0) :=
  ⟨reachingOf (by decide +kernel) (by decide +kernel), unhinderedOf (by decide +kernel), by decide +kernel⟩
def fetK : FlightKind := .load (.fetch 9) .none .fetch 77
def sIfill : State :=
  { sF fetK [⟨.glob 4 0x1000, 64, 0, .done⟩] with slots := [(0, { xT with status := .blocked (.ifetch 7) })],
                                                  cores := [(0, { cmask := 1, ifills := [⟨9, true, 7⟩] })] }
theorem witness_AccessesComplete_fetch :
    reaching sIfill 7 (flT fetK [⟨.glob 4 0x1000, 64, 0, .done⟩]) ∧ unhindered sIfill (flT fetK [⟨.glob 4 0x1000, 64, 0, .done⟩]) ∧
      ((∀ p ∈ ([⟨.glob 4 0x1000, 64, 0, .done⟩] : List Piece), p.phase = .done) ∧ others sIfill 7 = [] ∧
        (∀ g ∈ sIfill.flights, ∀ p ∈ g.pieces, p.phase ≠ .icache 7) ∧ (⟨9, true, 7⟩ : IFill) ∈ (sIfill.core (coreOf 0)).ifills ∧
        mapWf none (sIfill.core (coreOf 0)).icache = true ∧ (sIfill.slot 0).status = .blocked (.ifetch 7)) :=
  ⟨reachingOf (by decide +kernel) (by decide +kernel), unhinderedOf (by decide +kernel), by decide +kernel⟩

def sbT : SbEntry :=
  { thr := 0, chip := false, asid := 4, blk := 0x8040, data := 77, mask := 0xFF, fill := none, grans := false, pc := 0x40, first := 0x8040,
    ids := [33], lastUse := 436, lid := 3, sys := false }
def sBuf : State :=
  { sT { xT with status := .blocked .release, relFrom := some (3, 2) } with
    cores := [(1, { sb := [sbT] })], clusters := [(0, { clT with fills := [⟨40, 160, true, []⟩] })], dies := [(0, { booted := true })] }
theorem witness_BuffersErrorsAndWindows :
    canonical sBuf ∧ mapWf {} sBuf.dies = true ∧ ((sBuf.core 1).sb = [sbT] ∧ sbT.ids = [33] ∧ sbT.lastUse + 64 ≤ sBuf.cycle) ∧
    ((sBuf.cluster 0).fills = [⟨40, 160, true, []⟩] ∧ sBuf.flights = [] ∧ sBuf.queues = [] ∧ sBuf.poisoned (160 * 128) 128 = false ∧
      mapWf none (sBuf.cluster 0).cache = true ∧
      ((sBuf.cluster 0).cache.filter fun e => e.1 ≠ 160 && e.1 % 512 = 160 % 512).length < 16) ∧
    ((sBuf.slot 0).status = .blocked .release ∧ (sBuf.slot 0).relFrom = some (3, 2) ∧ (sBuf.slot 0).sbcnt = 0 ∧
      (sBuf.core (coreOf 0)).sb = []) ∧ (sBuf.core 2).entries = [] ∧ (0x3FFFFF : Word).toNat < 2 ^ 22 :=
  ⟨canonicalOf (by decide +kernel), by decide +kernel⟩
/-- A write of 8 bytes through a window of core 0, which admits partition 1; through its g9 window; one that ADMIT refuses. -/
def winT (a : Nat) (w : Writer) : WinWrite := ⟨a, [1, 2, 3, 4, 5, 6, 7, 8], w⟩
def sWin : State :=
  { sT xT with slots := [(0, xT), (5, { xT with status := .blocked (.reg .g 9), g := [(9, ⟨4, true⟩)] })],
               cores := [(0, { cmask := 1, admission := 0x1700FF })] }
theorem witness_BuffersErrorsAndWindows_windows :
    (winWriteOk (winT 0x48 .system) = true ∧ sWin.specs = [] ∧ sWin.windowRefuses (winT 0x48 .system) = false ∧
      (winT 0x48 .system).addr / 2 ^ 31 % 2 = 0 ∧ (winT 0x48 .system).addr / 2 ^ 24 % 16 = 0) ∧
    (let w := winT (0x01000000 + 5 * 0x100 + 8 * 9) .system
     winWriteOk w = true ∧ sWin.windowRefuses w = false ∧ w.addr / 2 ^ 31 % 2 = 0 ∧ w.addr / 2 ^ 24 % 16 = 1 ∧ w.addr % 8 = 0 ∧
       (sWin.slot (chipCore w.addr * 16 + w.addr % 2 ^ 24 / 0x100)).status = .blocked (.reg .g (w.addr % 0x100 / 8))) ∧
    (winWriteOk (winT 0x10000048 (.thread 0)) = true ∧ sWin.windowRefuses (winT 0x10000048 (.thread 0)) = true) := by decide +kernel

/-- The miss of an access to 0x123456789AB8 under ASID 4. -/
def vaT : Nat := 0x0000123456789AB8
def missT (walking valid : Bool) : Miss := { key := ⟨4, vaT / 65536⟩, walking := walking, valid := valid, cluster := 0, who := [(7, 0)] }
def walkPc : Piece := ⟨.glob 4 vaT, 8, 0, .walking⟩
/-- The walk finds the last table at 0x100000, whose entry is a readable leaf of frame 5. -/
def sWalk (wc : List WalkEntry) (m : Miss) : State :=
  { sF (ldT .none) [walkPc] with dies := [(0, { misses := [m], wcache := wc, seq := 9 })],
                                 mem := writeLe [] (0x100000 + vaT / 2 ^ 16 % 2 ^ 13 * 8) 8 (1 + 2 + 4 + 128 + 5 * 2 ^ 16) }
theorem witness_WalksAndFaultRecords_start :
    let s := sWalk [] (missT false true)
    canonical s ∧ mapWf {} s.dies = true ∧ (s.die 0).misses = [missT false true] ∧ s.missHits (missT false true) = false ∧
      (∀ e ∈ s.clusters, e.2.portQ = [] ∧ s.portHeads e.1 = []) := ⟨canonicalOf (by decide +kernel), by decide +kernel⟩
theorem witness_WalksAndFaultRecords_leaf :
    let s := sWalk [⟨4, 3, vaT / 2 ^ 29, 0x100000⟩] (missT true true)
    let e := 1 + 2 + 4 + 128 + 5 * 2 ^ 16
    reaching s 7 (flT (ldT .none) [walkPc]) ∧ portsIdle s 7 ∧ dieOfCluster (clusterOf 0) = 0 ∧ vaT < 2 ^ 64 ∧
      ((s.die 0).misses = [missT true true] ∧ (missT true true).who = [(7, 0)]) ∧ coldTlbs s 0 ∧
      ((s.die 0).wcache = [⟨4, 3, vaT / 2 ^ 29, 0x100000⟩] ∧ mapGet [] s.asidOld 4 = []) ∧
      0x100000 + vaT / 2 ^ 16 % 2 ^ 13 * 8 + 8 ≤ 0x6000000000 ∧ s.poisoned (0x100000 + vaT / 2 ^ 16 % 2 ^ 13 * 8) 8 = false ∧
      readLe s.mem (0x100000 + vaT / 2 ^ 16 % 2 ^ 13 * 8) 8 = e ∧
      (e % 2 = 1 ∧ e / 2 % 2 = 1 ∧ e / 4 % 2 = 1 ∧ e / 2 ^ 7 % 2 = 1 ∧ e / 2 ^ 9 % 2 = 0 ∧ e / 2 ^ 11 % 2 ^ 5 = 0 ∧ e < 2 ^ 63) ∧
      e / 2 ^ 16 % 2 ^ 36 * 65536 + vaT % 65536 + 1 ≤ 0x6000000000 :=
  ⟨reachingOf (by decide +kernel) (by decide +kernel), portsIdleOf (by decide +kernel) (by decide +kernel),
    by unfold coldTlbs; decide +kernel⟩
theorem witness_WalksAndFaultRecords_no_root :
    let s := sWalk [] (missT true true)
    reaching s 7 (flT (ldT .none) [walkPc]) ∧ portsIdle s 7 ∧ coldTlbs s 0 ∧
      ((s.die 0).wcache = [] ∧ mapGet 0 s.asidRoots 4 = 0 ∧ mapGet [] s.asidOld 4 = [] ∧
      (s.die 0).records = [] ∧ s.parkedOf (clusterOf 0) < 512) :=
  ⟨reachingOf (by decide +kernel) (by decide +kernel), portsIdleOf (by decide +kernel) (by decide +kernel),
    by unfold coldTlbs; decide +kernel⟩
def recT (appended : Bool) : FRec :=
  { va := 0x123456, waiters := 3, eng := false, acc := 1, kind := 3, level := 2, cluster := 0, launch := 3, part := 1, asid := 4, entry := 77,
    key := 18, made := true, seq := 9, appended := appended, born := 100, ftime := 1000, who := [(7, 0)] }
def partT : PartRec :=
  { cmask := 1, sasid := 1, asids := [0], syscode0 := 0x111, syscode1 := 0x222, sysdata0 := 0x333, sysdata1 := 0x444, tvec := 0x800,
    imgbase := 0, ftime := 20, hwBase := 0x1000000, hwLen := 0x100000, hwKey := 5, hwQp := 6, frbase := 0x2000, frlog2 := 4,
    frprod := 0x8000, reserved := false }
/-- Die 0 has one record, on which the load waits; its sub-ring has room, and much time has passed. -/
def sRec (appended : Bool) : State :=
  { sF (ldT .none) [parkPc 18] with dies := [(0, { records := [recT appended], prod := [(1, 17)], cons := [(1, 3)] })],
                                    parts := [(1, some partT)], cycle := 200000000 }
theorem witness_WalksAndFaultRecords_append :
    let s := sRec false
    canonical s ∧ mapGet none s.parts 1 = some partT ∧ oneRecord s 0 (recT false) 9 ∧ (recT false).appended = false ∧
      (mapGet 0 (s.die 0).prod 1 < 2 ^ 64 - 1 ∧ mapGet 0 (s.die 0).prod 1 - mapGet 0 (s.die 0).cons 1 < 2 ^ partT.frlog2.toNat ∧
        mapGet 0 (s.die 0).cons 1 ≤ mapGet 0 (s.die 0).prod 1) := by
  refine ⟨canonicalOf (by decide +kernel), by decide +kernel, ?_, by decide +kernel, by decide +kernel⟩
  unfold oneRecord; decide +kernel
theorem witness_WalksAndFaultRecords_resolve :
    let s := sRec true
    reaching s 7 (flT (ldT .none) [parkPc 18]) ∧ portsIdle s 7 ∧ others s 7 = [] ∧
    (oneRecord s 0 (recT true) 9 ∧ onlyFlights s 0 (recT true).key ∧ (flT (ldT .none) [parkPc 18]).access = true ∧
      (recT true).who = [(7, 0)] ∧ coldTlbs s 0 ∧ (s.die 0).misses = [] ∧
      ((recT true).ftime ≠ 0 ∧ (recT true).born + (recT true).ftime ≤ s.cycle)) := by
  refine ⟨reachingOf (by decide +kernel) (by decide +kernel), portsIdleOf (by decide +kernel) (by decide +kernel), by decide +kernel, ?_⟩
  unfold oneRecord onlyFlights coldTlbs; decide +kernel
theorem witness_WalksAndFaultRecords_consumer :
    mapGet 0 ((sRec true).die 0).prod 1 < (18 : Word).toNat ∧ (17 : Word).toNat ≤ mapGet 0 ((sRec true).die 0).prod 1 ∧
      ((sF stT [stPc]).die 0).records = [] := by decide +kernel

/-! ### Witnesses: dispatch, stealing, launches, speculation -/

/-- Core `c` of partition 1 on clusters 0 and 1; `x` is its slot 0. -/
def sDq (c : Nat) (x : Slot) (q : List DqEntry) : State :=
  { slots := [(c * 16, x)], cores := [(c, { cmask := 3, cpart := 1, deque := q })], clusters := [(0, clT), (1, clT)], launches := [(3, some laT)],
    parts := [(1, some { partT with cmask := 3 })], nextId := 12, cycle := 500 }
def xIdle : Slot := { tpc := 5, tvec := 0x800 }
theorem takesOf {s : State} {t lid : Nat} (h : (s.slot t).status = .idle) (hs : s.specs = []) : takes s t lid :=
  ⟨h, by rw [hs]; intro q hq; cases hq⟩
theorem mayDispatchOf {s : State} {c lid : Nat} {l : Launch}
    (h : s.launch lid = some l ∧ l.killed = false ∧ l.stopped = false ∧ l.specOf = none ∧ 0 < l.hdr.slots ∧
      (s.cluster (c / 8)).part = some l.part ∧ (s.cluster (c / 8)).switching = none ∧ (s.core c).fenced = false ∧
      ∀ i, i < 16 → (s.slot (c * 16 + i)).task ≠ some lid) : mayDispatch s c lid l := h
theorem witness_DispatchBeginsTasks :
    let s := sDq 8 xIdle [dqT 4 0]
    canonical s ∧ oneEntry s 8 (dqT 4 0) ∧ mayDispatch s 8 (dqT 4 0).launch laT ∧ takes s (8 * 16) (dqT 4 0).launch ∧ (dqT 4 0).kind = 0 := by
  refine ⟨canonicalOf (by decide +kernel), ?_, mayDispatchOf (by decide +kernel), takesOf (by decide +kernel) rfl, by decide +kernel⟩
  unfold oneEntry; decide +kernel
theorem witness_DispatchBeginsTasks_range :
    let s := sDq 8 xIdle [dqT 4 1]
    oneEntry s 8 (dqT 4 1) ∧ mayDispatch s 8 (dqT 4 1).launch laT ∧ (dqT 4 1).kind = 1 ∧ (dqT 4 1).lo + 2 ≤ (dqT 4 1).hi := by
  refine ⟨?_, mayDispatchOf (by decide +kernel), by decide +kernel⟩
  unfold oneEntry; decide +kernel
def xDisp (w : Bool) : Slot := { xIdle with status := .dispatching, entry := some (dqT 4 0), hdrWait := w, lid := 3, task := some 3 }
def frameT : List Byte := natLe 0x500 8 ++ natLe 0x82000010 8 ++ List.replicate 24 0 ++ natLe 256 8 ++ List.replicate 8 0 ++ natLe 0x8 4 ++ natLe 0x77 4
def hdrFl : Flight := flT (.load .header .none .read (BitVec.ofNat 512 (leNat frameT))) [⟨.glob 0 0x10300, 64, 0, .done⟩]
theorem witness_DispatchBeginsTasks_header :
    (let s := sDq 0 (xDisp true) []
     canonical s ∧ (s.slot 0).status = .dispatching ∧ (s.slot 0).entry = some (dqT 4 0) ∧ s.launch 3 = some laT ∧ s.flights = [] ∧
       (dqT 4 0).waits = [] ∧ (s.slot 0).hdrWait = true) ∧
    (let s := { sDq 0 (xDisp false) [] with flights := [hdrFl] }
     canonical s ∧ s.flight 7 = some hdrFl ∧ others s 7 = [] ∧ hdrFl.owner = 0 ∧ (s.slot 0).entry = some (dqT 4 0) ∧ (∀ p ∈ hdrFl.pieces, p.phase = .done) ∧ frameT.length = 64 ∧ (s.slot 0).preempt = false ∧
       (dqT 4 0).acq = false ∧ s.headerOk laT.part frameT = true ∧ (frameT.drop 48).take 8 = List.replicate 8 0) :=
  ⟨⟨canonicalOf (by decide +kernel), by decide +kernel⟩, canonicalOf (by decide +kernel), by decide +kernel⟩
/-- Core 0 steals; core `v` holds a continuation. -/
def sSteal (v : Nat) (k : Core) : State := { sDq 0 xIdle [] with cores := [(0, { k with cmask := 3, cpart := 1 }), (v, { cmask := 3, cpart := 1, deque := [dqT 4 0] })] }
theorem mayBeStolenOf {s : State} {v : Nat} {e : DqEntry} {l : Launch} {c : Nat} (hs : s.specs = [])
    (h : ((s.core v).spilled = [] ∧ (s.core v).deque = [e] ∧ e.place = none ∧ e.inSteal = false) ∧ e.kind = 0 ∧ e.refused = [] ∧
      s.launch e.launch = some l ∧ l.killed = false ∧ l.specOf = none ∧ l.part = s.partOf c ∧ (s.cluster (v / 8)).switching = none)
    (hi : (s.slot (c * 16)).status = .idle) : mayBeStolen s v e l c :=
  ⟨h.1, h.2.1, h.2.2.1, h.2.2.2.1, h.2.2.2.2.1, h.2.2.2.2.2.1, h.2.2.2.2.2.2.1, h.2.2.2.2.2.2.2, 0, by decide, takesOf hi hs⟩
theorem witness_StealingMovesEntries :
    (let s := sSteal 1 {}
     canonical s ∧ s.stealRuns 0 = true ∧ (s.core 0).ladder = 0 ∧ mayBeStolen s 1 (dqT 4 0) laT 0 ∧ (s.core 0).pausing = false) ∧
    (let s := sSteal 1 { pausing := true }
     s.stealRuns 0 = true ∧ (s.core 0).ladder = 0 ∧ mayBeStolen s 1 (dqT 4 0) laT 0) ∧
    (let s := sSteal 1 { ladder := 5000 }
     s.stealRuns 0 = true ∧ (s.core 0).pausing = false ∧ (ladderOf 0 (s.core 0).round (s.core 0).cmask).length ≤ (s.core 0).ladder) :=
  ⟨⟨canonicalOf (by decide +kernel), by decide +kernel, by decide +kernel, mayBeStolenOf rfl (by decide +kernel) (by decide +kernel), by decide +kernel⟩,
    ⟨by decide +kernel, by decide +kernel, mayBeStolenOf rfl (by decide +kernel) (by decide +kernel)⟩, by decide +kernel⟩
theorem witness_StealingMovesEntries_grant :
    ((9 : Nat) ≠ 0 ∧ mayBeStolen (sSteal 9 {}) 9 (dqT 4 0) laT 0) ∧ ((1 : Nat) ≠ 0 ∧ mayBeStolen (sSteal 1 {}) 1 (dqT 4 0) laT 0) ∧
      ((dqT 4 0).slot < 16 ∧ ((sSteal 9 {}).core 9).sb = [] ∧ ((sSteal 1 {}).core 1).sb = []) :=
  ⟨⟨by decide, mayBeStolenOf rfl (by decide +kernel) (by decide +kernel)⟩, ⟨by decide, mayBeStolenOf rfl (by decide +kernel) (by decide +kernel)⟩,
    by decide +kernel⟩
def stealFl (kind : Nat) (cross granted moved : Bool) : Flight := flT (.steal (dqT 4 kind) 9 0 cross granted [] moved []) []
theorem witness_StealingMovesEntries_delivery :
    (let s := { sDq 0 xIdle [] with flights := [stealFl 0 true true false] }
     canonical s ∧ s.flight 7 = some (stealFl 0 true true false) ∧ (dqT 4 0).waits = []) ∧
    (let s := { sDq 0 xIdle [] with flights := [stealFl 0 false false true] }
     s.flight 7 = some (stealFl 0 false false true) ∧ mayDispatch s 0 (dqT 4 0).launch laT ∧ takes s (0 * 16) (dqT 4 0).launch) ∧
    (let s := { sDq 0 xIdle [] with flights := [stealFl 1 true true true] }
     s.flight 7 = some (stealFl 1 true true true) ∧ mayDispatch s 0 (dqT 4 1).launch laT ∧ takes s (0 * 16) (dqT 4 1).launch ∧
       (dqT 4 1).lo + 2 ≤ (dqT 4 1).hi) ∧
    (let s := { sDq 0 xIdle [] with flights := [stealFl 0 false false true],
                                    slots := (List.range 16).map fun i => (i, { xT with task := some 9 }) }
     mayDispatch s 0 (dqT 4 0).launch laT ∧ (∀ i, i < 16 → (s.slot (0 * 16 + i)).status ≠ .idle) ∧ (s.core 0).deque.length < 64) :=
  ⟨⟨canonicalOf (by decide +kernel), by decide +kernel⟩,
    ⟨by decide +kernel, mayDispatchOf (by decide +kernel), takesOf (by decide +kernel) rfl⟩,
    ⟨by decide +kernel, mayDispatchOf (by decide +kernel), takesOf (by decide +kernel) rfl, by decide +kernel⟩,
    mayDispatchOf (by decide +kernel), by decide +kernel⟩
def dieT : SMap Die := [(0, { booted := true, leader := some 0, votes := [0, 1, 2], timer := 100000 })]
def quT (p : List Packet) : Queue := { defined := true, w0 := 0x100004, w1 := 0x0002000000000000, wr := 1, next := 1, held := true, packets := p }
def pktT (b : List Byte) : Packet := { index := 0, slots := [b], order := 3, started := true }
/-- A leading die, queue 2 of partition 1 and the launch records `ls`; slot 0 is `x`. -/
def sLa (x : Slot) (k : Queue) (ls : SMap (Option Launch)) : State :=
  { slots := [(0, x)], cores := [(0, { cmask := 1, cpart := 1 })], clusters := [(0, clT)], launches := ls, queues := [(2, k)], dies := dieT,
    parts := [(1, some partT)], nextId := 12, cycle := 5000000 }
theorem witness_LaunchesBeginAndEnd_begin :
    let l := { laT with phase := 6 }
    let s := sLa xIdle (quT []) [(3, some l)]
    canonical s ∧ takes s (0 * 8 * 16) 3 ∧ s.launches = [(3, some l)] ∧ (l.queue = 2 ∧ l.index = 0 ∧ l.specOf = none ∧ l.phase = 6 ∧ l.parked = none ∧
      l.hdr.sel = List.replicate 8 0) ∧ s.partClusters l.part = [0] ∧ mayDispatch s (0 * 8) 3 l ∧
      (s.slot (0 * 8 * 16)).preempt = false :=
  ⟨canonicalOf (by decide +kernel), takesOf (by decide +kernel) rfl, by decide +kernel, by decide +kernel, by decide +kernel, mayDispatchOf (by decide +kernel),
    by decide +kernel⟩
theorem onlyPacketOf {s : State} {q : Nat} {p : Packet}
    (h : (s.queue q).defined = true ∧ s.led = true ∧ (s.queue q).packets = [p] ∧ (s.queue q).hold = none ∧ p.started = true ∧
      p.done = false ∧ p.ending = none ∧ p.parked = none) : onlyPacket s q p := h
theorem witness_LaunchesBeginAndEnd_invalid :
    let p := pktT (List.replicate 256 0)
    let s := sLa xIdle (quT [p]) []
    onlyPacket s 2 p ∧ s.launches = [] ∧ p.ty = 0 ∧ s.headerValid (s.queue 2) (launchHeader p.slots) = false ∧
      (launchHeader p.slots).crec = 0 ∧ (launchHeader p.slots).csig = 0 := ⟨onlyPacketOf (by decide +kernel), by decide +kernel⟩
theorem witness_LaunchesBeginAndEnd_waves :
    let l := { laT with retired := true, wave := some (0, 0, true) }
    let s := { sLa xIdle (quT []) [(3, some l)] with cores := [] }
    canonical s ∧ s.launch 3 = some l ∧ (l.specOf = none ∧ l.killed = false ∧ l.retired = true ∧ l.phase < 8) ∧
      (mapWf none s.launches = true ∧ s.sums (· = 3) = (0, 0) ∧ s.quiet 3 = true) ∧
      (∀ cl ∈ s.partClusters l.part, (s.cluster cl).part = some l.part) := ⟨canonicalOf (by decide +kernel), by decide +kernel⟩
theorem witness_LaunchesBeginAndEnd_end :
    let p := pktT (List.replicate 256 0)
    let l := { laT with retired := true, phase := 8 }
    let s := sLa xIdle (quT [p]) [(3, some l)]
    s.launch 3 = some l ∧ l.phase = 8 ∧ onlyPacket s l.queue p ∧ p.index = l.index ∧ l.hdr.crec = 0 ∧ l.hdr.csig = 0 ∧ storesDone s 3 :=
  ⟨by decide +kernel, by decide +kernel, onlyPacketOf (by decide +kernel), by decide +kernel, by decide +kernel, by decide +kernel,
    by unfold storesDone; decide +kernel⟩
/-- T1 and T2 are 1, T3 is 3. -/
def quW : Queue := { quT [] with w3 := 0x0000000100000001, w4 := 3 }
def sDog (l : Launch) : State := sLa { xT with task := some 3 } quW [(3, some l)]
theorem witness_LaunchesBeginAndEnd_watchdog :
    (let l := { laT with start := some 5 }
     let s := sDog l
     canonical s ∧ s.launch 3 = some l ∧ (l.phase < 8 ∧ l.claimed = false ∧ l.start = some 5 ∧ l.stage = 0) ∧
       ((s.queue l.queue).t1 ≠ 0 ∧ 5 + (s.queue l.queue).t1 * 1024 ≤ s.cycle) ∧ s.slots.map (·.1) = [0] ∧ (s.slot 0).task = some 3 ∧
       (s.slot 0).status = .ready ∧ (s.slot 0).mode = .user ∧ s.specOf (s.slot 0).lidN = none) ∧
    (let l := { laT with stage := 1, stageAt := 7 }
     let s := sDog l
     s.launch 3 = some l ∧ l.stage = 1 ∧ (s.queue l.queue).t2 ≠ 0 ∧ l.stageAt + (s.queue l.queue).t2 * 1024 ≤ s.cycle) :=
  ⟨⟨canonicalOf (by decide +kernel), by decide +kernel⟩, by decide +kernel⟩

def setBytes (b : List Byte) (o n v : Nat) : List Byte := b.take o ++ natLe v n ++ b.drop (o + n)
/-- A header slot with one work item, a frame of 256 bytes at 0x20000 declared as read and written, SPEC set. -/
def hdrSlot : List Byte :=
  let b := setBytes (setBytes (setBytes (List.replicate 255 0) 0 8 0x100) 8 8 0x200) 0x18 8 (2 ^ 51)
  let b := (List.range 6).foldl (fun b k => setBytes b (0x20 + 8 * k) 8 1) b
  setBytes (setBytes (setBytes b 0x50 8 (2 ^ 32 + 2 ^ 16 + 2 ^ 40 + 2 ^ 45 + 2 ^ 36)) 0x80 8 0x20000) 0x88 8 256
def extSlot : List Byte := setBytes (setBytes (setBytes (setBytes (List.replicate 255 0) 0 8 0x20000) 8 8 256) 16 8 0x20000) 24 8 256
def histT : History :=
  { key := 5, image := [hdrSlot, extSlot], stride := [List.replicate 31 0, List.replicate 31 0],
    confirm := [List.replicate 31 false, List.replicate 31 false] }
def tlbT (vpn frame : Nat) : TlbEntry :=
  { asid := 0, level := 3, vpn := vpn, frame := frame, glob := false, uncached := false, rd := true, wr := true, ex := true, atom := true, d := true }
def quP : Queue := { quT [] with w1 := 0x0002000000000002, rd := 1, history := [histT], lastKey := some 5, lastEnd := 1 }
def sSp : State := { sLa xIdle quP [(3, some laT)] with clusters := [(0, { clT with tlb := [tlbT 2 7] })] }
theorem witness_SpeculationsRunAndEnd_start :
    let k := sSp.queue 2
    let h := launchHeader histT.predict
    canonical sSp ∧ (k.defined = true ∧ k.mayPredict = true ∧ k.state ≠ 4 ∧ k.idle = true ∧ k.wr = k.rd ∧ k.spec = none ∧ k.held = true ∧
      k.lastEnd = k.wr) ∧ (k.lastKey = some 5 ∧ k.history.find? (fun x => x.key = 5) = some histT) ∧
      (h.speculable = true ∧ sSp.headerValid k h = true ∧ sSp.dfarea1.getLsbD 63 = true ∧ sSp.dfarea1.toNat % 2 ^ 16 ≠ 0 ∧
        sSp.quarterIdle h.part = true ∧ sSp.waitsDispatch h.part = false ∧ h.frameDeclared = true ∧
        (sSp.cluster ((sSp.lowCluster h.part).getD 0)).freeCounter.isSome = true) ∧
      (mapGet none sSp.specs 0 = none ∧ sSp.freeLaunch = some 0) ∧
      (sSp.watchExtents ((sSp.lowCluster h.part).getD 0) k.asid h).isSome = true := ⟨canonicalOf (by decide +kernel), by decide +kernel⟩
def specT : Spec :=
  { lid := 3, queue := 2, extents := [(0x10000, 256), (0x20100, 0)], dry := [], undo := [], usage := 0, dieUse := [], claimed := false,
    asked := false, replies := [], conflict := false, ended := false, predicted := [] }
def laS : Launch := { laT with specOf := some 1 }
/-- The one speculation in flight is `sp`; the queue claims it at index 6. -/
def sOne (sp : Spec) : State :=
  { slots := [(0, xT)], specs := [(1, some sp)], launches := [(3, some laS)], queues := [(2, { quP with spec := some 1, claiming := some 6 })], dies := dieT }
theorem witness_SpeculationsRunAndEnd_discard :
    canonical (sOne specT) ∧ oneSpec (sOne specT) 1 specT ∧
      (∃ e ∈ specT.extents, 0 < e.2 ∧ e.1 / 256 ≤ (0x100F8 + 8 - 1) / 256 ∧ 0x100F8 / 256 ≤ (e.1 + e.2 - 1) / 256) ∧
      (∀ e ∈ specT.extents, (0x10100 + 8 - 1) / 256 < e.1 / 256 ∨ (e.1 + e.2 - 1) / 256 < 0x10100 / 256) := by
  refine ⟨canonicalOf (by decide +kernel), ?_, by decide +kernel, by decide +kernel⟩
  unfold oneSpec; decide +kernel
theorem witness_SpeculationsRunAndEnd_claim :
    (let sp := { specT with asked := true, replies := [0] }
     (sOne sp).specs = [((1 : Fin 4).val, some sp)] ∧ sp.asked = true ∧ sp.claimed = false ∧ (2 : Fin 4) ∉ sp.replies ∧ sp.replies.length < 3) ∧
    (let sp := { specT with asked := true, replies := [0, 1, 2] }
     (3 : Fin 4) ∉ sp.replies ∧ sp.replies.length = 3 ∧ sp.conflict = false ∧ ((sOne sp).queue sp.queue).claiming = some 6 ∧
       ((sOne sp).queue sp.queue).defined = true ∧ (sOne sp).launch sp.lid = some laS) := by decide +kernel
def specM : Spec := { specT with claimed := true, ended := true, dry := [(0x5003, some 17), (0x5004, some 0)] }
theorem witness_SpeculationsRunAndEnd_merge :
    (sOne specM).specs = [((1 : Fin 4).val, some specM)] ∧ specM.claimed = true ∧ specM.ended = true ∧
      storesDone (sOne specM) specM.lid ∧ (sOne specM).launch specM.lid = some laS ∧
      mapWf none specM.dry = true ∧ (sOne specM).mem.wf = true ∧ ∀ e ∈ specM.dry, (sOne specM).notifyOf e.1 = none := by
  unfold storesDone; decide +kernel

/-! ### Witnesses: queues, packets, contexts, bring-up -/

def sQu (k : Queue) : State := sLa xIdle k []
/-- A NOP packet of pass 0. -/
def nopSlot : List Byte := List.replicate 252 0 ++ [7, 0, 0, 0x5A]
theorem witness_QueuesAdmitAndHalt :
    (let s := sQu { quT [] with wr := 9, rd := 9, next := 9 }
     let k := s.queue 2
     (k.defined = true ∧ k.spec = none) ∧ (9 : Word).toNat ≤ k.wr ∧ (k.wr < (26 : Word).toNat ∧ k.rd + k.size < (26 : Word).toNat ∧ k.state ≠ 4) ∧
       (k.wr < (25 : Word).toNat ∧ (25 : Word).toNat ≤ k.rd + k.size)) ∧
    (let s := sQu { quT [] with held := false, state := 1, wr := 9, since := 4 }
     let k := s.queue 2
     k.held = false ∧ s.firstWaiting = some 2 ∧ (s.queues.filter fun e => e.2.held).length < 1024 ∧ k.state ≠ 3 ∧ k.packets = []) := by
  decide +kernel
theorem witness_QueuesAdmitAndHalt_read :
    let s := { sQu { quT [] with next := 0 } with mem := writeList [] 0x100000 nopSlot }
    let k := s.queue 2
    (k.held = true ∧ s.led = true ∧ k.state ≠ 4 ∧ k.hold = none ∧ k.packets = [] ∧ k.got = [] ∧ k.wr = k.next + 1 ∧ k.claiming = none) ∧
      (k.mayPredict = false ∧ s.poisoned (k.ring + k.next % k.size * 256) 256 = false) ∧ s.homeBytes none (k.ring + k.next % k.size * 256) 256 = nopSlot ∧
      (trailerBad nopSlot = false ∧ nopSlot.getD 252 0 = 7 ∧ nopSlot.getD 255 0 = (if k.next / k.size % 2 = 0 then 0x5A else 0xA5)) := by
  decide +kernel
theorem witness_QueuesAdmitAndHalt_timeouts :
    (let s := sQu { quT [] with stale := some (7, 5) }
     (s.queue 2).stale = some (7, 5) ∧ (s.queue 2).packets = [] ∧ 5 + 2 ^ 20 ≤ s.cycle) ∧
    (let s := sQu { quT [] with state := 2, faultAt := 5 }
     (s.queue 2).state = 2 ∧ (s.queue 2).faultAt + 1750000 ≤ s.cycle) := by decide +kernel
/-- A packet of a type with 64-bit fields at their offsets. -/
def pktOf (ty : Nat) (l : List (Nat × Nat)) : Packet :=
  pktT (l.foldl (fun b e => setBytes b e.1 8 e.2) (List.replicate 252 0 ++ [BitVec.ofNat 8 ty, 0, 0, 0x5A]))
/-- A WAIT for two words of the host window; the first, or both, are met. -/
def waitT (met : List (Nat × Bool)) : Packet :=
  { pktOf 1 [(0, 0x41), (8, 5), (16, 0x81), (24, 6), (0xC0, 2 * 2 ^ 48)] with met := met, asked := [0, 1] }
theorem witness_WaitsEvaluateSignals :
    (let p := waitT [(0, true), (1, true)]
     let s := sQu (quT [p])
     onlyPacket s 2 p ∧ (s.queue 2).held = true ∧ (s.queue 2).state ≠ 4 ∧ p.fieldBad = false ∧ p.ty = 1 ∧
       (∀ j, j < p.waitN → bit (p.entryAddr j) 0 = true ∧ s.windowOk (actsFor s 2) (p.entryAddr j / 8 * 8) = true) ∧
       (∀ j, j < p.waitN → p.met.find? (fun e => e.1 = j) = some (j, true))) ∧
    (let p := waitT [(0, true)]
     let s := sQu (quT [p])
     onlyPacket s 2 p ∧ p.fieldBad = false ∧ ¬(∀ j, j < p.waitN → p.met.find? (fun e => e.1 = j) = some (j, true)) ∧
       (∀ e ∈ s.agenda, e.2 ≠ Ev.waitEvaluation 2 p.index)) :=
  ⟨⟨onlyPacketOf (by decide +kernel), by decide +kernel⟩, onlyPacketOf (by decide +kernel), by decide +kernel⟩
def askT : Packet := { pktOf 1 [(0, 0x41), (8, 5), (0xC0, 2 ^ 48 + 5)] with asked := [0] }
theorem condMet_ge {v c : Word} (h : c.toNat ≤ v.toNat) : condMet 5 v c := by unfold condMet; simp [h]
theorem witness_WaitsEvaluateSignals_host :
    onlyPacket (sQu (quT [askT])) 2 askT ∧ (askT.fieldBad = false ∧ askT.ty = 1 ∧ askT.waitN = 1 ∧ askT.asked = [0] ∧ askT.entryCond 0 = 5) ∧
      condMet 5 7 (BitVec.ofNat 64 (askT.entryVal 0)) ∧ ((sQu (quT [askT])).queue 2).spec = none :=
  ⟨onlyPacketOf (by decide +kernel), by decide +kernel, condMet_ge (by decide +kernel), by decide +kernel⟩
/-- A packet with a reserved field set, of every type but LAUNCH. -/
theorem witness_PacketsTakeEffect_invalid :
    (∀ ty, ty < 9 → ty ≠ 0 → (pktOf ty [(0xF0, 1)]).fieldBad = true ∧ (pktOf ty [(0xF0, 1)]).ty = ty) ∧
      onlyPacket (sQu (quT [pktOf 3 [(0xF0, 1)]])) 2 (pktOf 3 [(0xF0, 1)]) ∧ mapWf {} (sQu (quT [])).queues = true ∧
      ((sQu (quT [])).queue 2).state ≠ 4 := ⟨by decide +kernel, onlyPacketOf (by decide +kernel), by decide +kernel⟩
def sigH (op : Nat) : Packet := pktOf 3 [(0, 0x41), (8, 77), (16, op)]
def sigD : Packet := pktOf 3 [(0, 0x5008), (8, 77), (16, 1)]
def sSig : State := { sQu (quT [sigD]) with clusters := [(0, { clT with tlb := [tlbT 0 0] })] }
theorem witness_PacketsTakeEffect_signal :
    (let s := sQu (quT [sigH 1])
     onlyPacket s 2 (sigH 1) ∧ (sigH 1).ty = 3 ∧ (sigH 1).fieldBad = false ∧ bit ((sigH 1).num 0 8) 0 = true ∧
       s.windowOk (actsFor s 2) ((sigH 1).num 0 8 / 8 * 8) = true) ∧ (sigH 2).fieldBad = false ∧
    (onlyPacket sSig 2 sigD ∧ sigD.fieldBad = false ∧ bit (sigD.num 0 8) 0 = false ∧ sSig.mem.wf = true ∧ sSig.poisoned 0x5008 8 = false ∧
      (∀ n, n < 8 → sSig.notifyOf (0x5008 + n) = none)) ∧ unwatched sSig 0x5008 8 ∧
    sSig.feTranslate (actsFor sSig 2) 4096 (sSig.queue 2).asid 0x5008 .atomic = (sSig, .ok 0x5008) :=
  ⟨⟨onlyPacketOf (by decide +kernel), by decide +kernel⟩, by decide +kernel, ⟨onlyPacketOf (by decide +kernel), by decide +kernel⟩,
    unwatchedOf rfl _ _, rfl⟩
def cpyT (r : Option Nat) : Packet := { pktOf 4 [(0, 0x5000), (8, 0x6000), (16, 64), (24, 1)] with result := r }
theorem witness_PacketsTakeEffect_copy :
    (let s := sQu (quT [cpyT none])
     onlyPacket s 2 (cpyT none) ∧ (cpyT none).ty = 4 ∧ s.copyRefused (s.queue 2) (cpyT none) = false ∧
       (∀ r ∈ (s.cluster ((s.lowCluster ((cpyT none).num 0x18 8)).getD 0)).engines, r.packet ≠ some (2, 0))) ∧
    (let s := sQu (quT [cpyT (some 0)])
     onlyPacket s 2 (cpyT (some 0)) ∧ s.copyRefused (s.queue 2) (cpyT (some 0)) = false ∧ (cpyT (some 0)).num 0x20 8 = 0 ∧
       (cpyT (some 0)).num 0x28 8 = 0) :=
  ⟨⟨onlyPacketOf (by decide +kernel), by decide +kernel⟩, onlyPacketOf (by decide +kernel), by decide +kernel⟩
/-- A queue of the system ASID. -/
def quSys (p : Packet) : Queue := { quT [p] with w1 := 0x0002000000000001 }
def tlbP : Packet := pktOf 5 [(0, 1), (24, 65536)]
def segP : Packet := pktOf 8 [(8, 0x7000), (16, 5)]
def tlbA : Packet := pktOf 5 [(0, 3)]
def sOld : State := { sQu (quSys tlbA) with asidOld := [(0, [0x9000])] }
theorem witness_PacketsTakeEffect_others :
    (let s := sQu (quSys tlbP)
     onlyPacket s 2 tlbP ∧ tlbP.ty = 5 ∧ tlbP.tlbinvRefused (s.queue 2) = false ∧ s.specs = [] ∧ s.flights = [] ∧ canonical s ∧
       mapWf {} s.dies = true ∧ s.asidOld = []) ∧
    (onlyPacket sOld 2 tlbA ∧ tlbA.ty = 5 ∧ tlbA.tlbinvRefused (sOld.queue 2) = false ∧ canonical sOld ∧ sOld.asidOld ≠ [] ∧ 3 ≤ tlbA.num 0 8) ∧
    (onlyPacket (sQu (quT [pktOf 6 []])) 2 (pktOf 6 []) ∧ (pktOf 6 []).ty = 6 ∧ (pktOf 6 []).fieldBad = false) ∧
    (onlyPacket (sQu (quT [pktOf 7 []])) 2 (pktOf 7 []) ∧ (pktOf 7 []).ty = 7 ∧ (pktOf 7 []).fieldBad = false) ∧
    (onlyPacket (sQu (quSys segP)) 2 segP ∧ segP.ty = 8 ∧ segP.fieldBad = false ∧ ((sQu (quSys segP)).queue 2).sys = true ∧
      segP.num 0 8 = ((sQu (quSys segP)).queue 2).asid) :=
  ⟨⟨onlyPacketOf (by decide +kernel), by decide +kernel, by decide +kernel, by decide +kernel, by decide +kernel, canonicalOf (by decide +kernel),
    by decide +kernel, by decide +kernel⟩,
    ⟨onlyPacketOf (by decide +kernel), by decide +kernel, by decide +kernel, canonicalOf (by decide +kernel), by decide +kernel, by decide +kernel⟩,
    ⟨onlyPacketOf (by decide +kernel), by decide +kernel⟩, ⟨onlyPacketOf (by decide +kernel), by decide +kernel⟩,
    onlyPacketOf (by decide +kernel), by decide +kernel⟩

theorem noSpecOf {s : State} (h : s.launches.all (fun e => match e.2 with | some l => l.specOf.isNone | none => true) = true) :
    ∀ lid, s.specOf lid = none := by
  intro lid
  have h' : ∀ e ∈ s.launches, ∀ l, e.2 = some l → l.specOf = none := by
    intro e he l hl
    have := List.all_eq_true.mp h e he
    simpa [hl] using this
  have hg := mapGet_of_all (fun o : Option Launch => ∀ l, o = some l → l.specOf = none) (d := none) (m := s.launches) (by simp) h' lid
  unfold State.specOf State.launch
  cases hm : mapGet none s.launches lid with
  | none => rfl
  | some l => exact hg l hm
/-- Cluster 0 of partition 1 with a user-mode task, a system-mode handler and a HALTED slot; partition 2 is defined. -/
def sCtx (sw : Option Nat) (l : SMap Slot) : State :=
  { slots := l, cores := [(0, { cmask := 1, cpart := 1, deque := [dqT 4 0], admission := 5 }), (1, { cmask := 1, cpart := 1 })],
    clusters := [(0, { clT with switching := sw })], launches := [(3, some laT)], parts := [(1, some partT), (2, some partT)], nextId := 12,
    cycle := 5000000, queues := [(2, quW)] }
def xRun : Slot := { xT with task := some 3 }
def ctxSlots : SMap Slot := [(0, xRun), (1, { xRun with mode := .system }), (2, { status := .halted })]
theorem witness_ContextsSwitchAndMove_switch :
    let s := sCtx none ctxSlots
    canonical s ∧ s.specs = [] ∧ (∀ i, i < 128 → s.specOf (s.slot (0 * 128 + i)).lidN = none) ∧ (s.cluster 0).part = some 1 ∧
      (s.cluster 0).switching = none ∧ (1 : Nat) ≠ 2 ∧ mapGet none s.parts 2 ≠ none ∧ (s.cluster 0).replay = [] :=
  ⟨canonicalOf (by decide +kernel), by decide +kernel, fun _ _ => noSpecOf (by decide +kernel) _, by decide +kernel⟩
/-- The same halted, after a wave that found `w`. -/
def sSwap (w : Option (Nat × Nat)) : State :=
  { sCtx (some 2) [(0, { xRun with status := .parked })] with clusters := [(0, { clT with switching := some 2, wave := w })] }
theorem witness_ContextsSwitchAndMove_swap :
    (let s := sSwap (some (0, 0))
     (s.cluster 0).part = some 1 ∧ (s.cluster 0).switching = some 2 ∧ mapGet none s.parts 2 = some partT ∧ (∀ e ∈ s.cores, e.2.sb = []) ∧
       s.haltedFor 0 = true ∧ (s.cluster 0).wave = some (s.packetsAt 0 1) ∧ s.specs = []) ∧
    ((sSwap none).haltedFor 0 = true ∧ ((sSwap none).cluster 0).wave ≠ some ((sSwap none).packetsAt 0 1)) ∧
    (sCtx (some 2) [(0, xRun)]).haltedFor 0 = false := by decide +kernel
theorem witness_ContextsSwitchAndMove_thread :
    let s := sCtx none [(0, xRun), (17, { tvec := 0x777 })]
    canonical s ∧ ((s.slot 0).status = .ready ∧ (s.slot 0).task = some 3 ∧ s.launch 3 ≠ none ∧ s.specOf 3 = none ∧ coreOf 0 ≠ coreOf 17) ∧
      takes s 17 3 ∧ (s.partOf (coreOf 0) = s.partOf (coreOf 17) ∧ s.inPart (coreOf 0) (clusterOf 17) = true ∧ (s.core (coreOf 17)).fenced = false ∧
        (s.cluster (clusterOf 17)).part = (s.cluster (clusterOf 0)).part ∧ (s.cluster (clusterOf 17)).switching = none ∧ (s.slot 0).sbcnt = 0 ∧
        (s.slot 0).unaccepted = 0) := ⟨canonicalOf (by decide +kernel), by decide +kernel, takesOf (by decide +kernel) rfl, by decide +kernel⟩
theorem witness_ContextsSwitchAndMove_core :
    let s := sCtx none [(0, { xRun with status := .parked })]
    canonical s ∧ s.coreMovable 0 1 = true ∧ (s.core 0).fenced = false ∧ (s.core 0).sb = [] := ⟨canonicalOf (by decide +kernel), by decide +kernel⟩
def laF : Launch := { laT with stage := 2, stageAt := 5 }
def sFence : State := { sCtx none [(0, xRun)] with launches := [(3, some laF)], cores := [(0, { cmask := 1, cpart := 1 })] }
theorem witness_ContextsSwitchAndMove_fence :
    canonical sFence ∧ (∀ lid, sFence.specOf lid = none) ∧ (sFence.launch 3 = some laF ∧ laF.stage = 2 ∧ (sFence.queue laF.queue).t3 ≠ 0 ∧
      laF.stageAt + (sFence.queue laF.queue).t3 * 1024 ≤ sFence.cycle ∧ sFence.slots.map (·.1) = [0] ∧ (sFence.slot 0).task = some 3 ∧
      (sFence.slot 0).status = .ready) ∧ sFence.partOf (coreOf 0) = 1 ∧ (∀ d, d ≠ coreOf 0 → sFence.partOf d ≠ sFence.partOf (coreOf 0)) := by
  refine ⟨canonicalOf (by decide +kernel), noSpecOf (by decide +kernel), by decide +kernel, by decide +kernel, fun d hd => ?_⟩
  have h0 : sFence.partOf (coreOf 0) = 1 := by decide +kernel
  have h1 : sFence.core d = {} := by
    have : ((0 : Nat) = d) = False := eq_false fun h => hd (h ▸ rfl)
    show mapGet ({} : Core) ([(0, { cmask := 1, cpart := 1 })] : SMap Core) d = {}
    simp only [mapGet, this, if_false]
  rw [h0]
  unfold State.partOf
  rw [h1]
  decide
def bootT (ok : Bool) : BootIn :=
  { die := 2, okStage1 := ok, stage1 := [1, 2, 3], images := [[4], [5, 6], []], okImages := [true, true, true], okTrain := true,
    controllers := [7, 8] }
theorem witness_BringUpAndLease_boot :
    canonical (sT xT) ∧ mapWf {} (sT xT).dies = true ∧ ((sT xT).die (bootT true).die.val).booted = false ∧
      ((sT xT).die (bootT true).die.val).recovery = 0 ∧ (bootT false).okStage1 = false ∧ ((bootT true).okStage1 = true ∧
        (bootT true).images = [[4], [5, 6], []] ∧ (bootT true).okImages = [true, true, true] ∧ (bootT true).okTrain = true ∧
        ((sT xT).die (bootT true).die.val).pm = []) := ⟨canonicalOf (by decide +kernel), by decide +kernel⟩
/-- Die 1 holds the lease of term 9; die 0's timer has run out. -/
def sLease : State :=
  { sT xT with dies := [(0, { booted := true, term := 4, seen := 4, leader := some 1, timer := 20 }),
                        (1, { booted := true, term := 9, seen := 4, leader := some 1, votes := [1, 2, 3] })] }
theorem witness_BringUpAndLease_lease :
    canonical sLease ∧ mapWf {} sLease.dies = true ∧ ((sLease.die 0).booted = true ∧ (sLease.die 0).recovery = 0) ∧
      (sLease.holderOf 9 = some 1 ∧ 1 ≠ (0 : Fin 4).val ∧ (sLease.die 0).seen ≤ 9) ∧
      ((sLease.die 0).timer ≤ sLease.cycle ∧ (sLease.die 0).leads 0 = false) ∧ (3 : Fin 4) ≠ 0 ∧ (sLease.die 0).seen < 5 ∧
      3 < (sLease.die 0).seen := ⟨canonicalOf (by decide +kernel), by decide +kernel⟩
/-- Cluster 1 is powered and of no partition; the clusters 72 to 79 of die 1 wait for power. -/
def sGate : State :=
  { slots := [(0, xT)], clusters := [(1, { powered := true, ramp := 2 })], dies := [(1, { booted := true })], parts := [(1, some partT)] }
theorem witness_BringUpAndLease_power :
    canonical sGate ∧ mapWf {} sGate.dies = true ∧ ((sGate.die ((9 : Fin 32).val / 8)).booted = true ∧
      (sGate.die ((9 : Fin 32).val / 8)).recovery = 0 ∧ ∀ i, i < 8 → (sGate.cluster (8 * (9 : Fin 32).val + i)).powered = false) ∧
    ((sGate.cluster 1).powered = true ∧ (sGate.cluster 1).part = none ∧ 0 < (sGate.cluster 1).ramp ∧ (sGate.cluster 1).shadow = none) ∧
    (∀ e ∈ sGate.parts, ∀ r, e.2 = some r → r.cmask.getLsbD 1 = false) := by
  refine ⟨canonicalOf (by decide +kernel), by decide +kernel, by decide +kernel, by decide +kernel, ?_⟩
  intro e he r hr
  rw [List.mem_singleton.mp he] at hr
  cases hr
  decide +kernel

/-! ### Witnesses: the host port, requests, collectives -/

/-- One region of 4 KiB at 0x5000 with key 42; connection 5 is bound to queue 2, whose ring is at 0x100000. -/
def sHost (kind : Fin 4) (ok : Bool) : State :=
  { sQu { quT [] with wr := 9, rd := 9, next := 9 } with regions := [⟨kind, 0x5000, 0x1000, ok, ok, 42⟩], qpBind := [(5, some 2)] }
theorem plainOf {s : State} {a n : Nat}
    (hs : s.specs = [])
    (h : s.mem.wf = true ∧ s.poisoned a n = false ∧ ∀ i, i < n → s.notifyOf (a + i) = none) : plainRange s a n :=
  ⟨h.1, unwatchedOf hs _ _, h.2⟩
theorem coversOf {r : MemRegion} {k a n : Nat} (h : r.key = k ∧ r.base.toNat ≤ a ∧ a + n ≤ r.base.toNat + r.len.toNat) : coversRange r k a n := h
theorem witness_HostPortTraffic :
    (let s := sHost 1 true
     mapGet false s.qpError 5 = false ∧ s.regions = [⟨1, 0x5000, 0x1000, true, true, 42⟩] ∧
       coversRange ⟨1, 0x5000, 0x1000, true, true, 42⟩ 42 0x5FF8 8 ∧ plainRange s 0x5FF8 8) ∧
    (let s := sHost 2 true
     s.regions = [⟨2, 0x5000, 0x1000, true, true, 42⟩] ∧ coversRange ⟨2, 0x5000, 0x1000, true, true, 42⟩ 42 0x5000 8 ∧
       (0x5000 - (0x5000 : Word).toNat) % 4096 = 0 ∧ let x := (0x5000 - (0x5000 : Word).toNat + 8) % 4096; 8 ≤ x ∧ x < 0x100) ∧ ¬(0x5FF9 + 8 ≤ (0x5000 : Word).toNat + (0x1000 : Word).toNat) :=
  ⟨⟨by decide +kernel, by decide +kernel, coversOf (by decide +kernel), plainOf rfl (by decide +kernel)⟩,
    ⟨by decide +kernel, coversOf (by decide +kernel), by decide +kernel⟩, by decide +kernel⟩
theorem witness_HostPortTraffic_send :
    let s := sHost 1 true
    mapGet none s.qpBind 6 = none ∧ (mapGet none s.qpBind 5 = some 2 ∧ (s.queue 2).defined = true) ∧ (List.replicate 255 (0 : Byte)).length % 256 ≠ 0 ∧
      ((s.queue 2).wr + 1 ≤ (s.queue 2).rd + (s.queue 2).size ∧ plainRange s ((s.queue 2).ring + (s.queue 2).wr % (s.queue 2).size * 256) 256) :=
  ⟨by decide +kernel, by decide +kernel, by decide +kernel, by decide +kernel, plainOf rfl (by decide +kernel)⟩
/-- A request of the controller 9; source 8 is no controller. -/
def mgC : Mgmt := ⟨9, 77⟩
def mgX : Mgmt := ⟨8, 77⟩
def sReq : State := { sQu { quT [] with rd := 1 } with controllers := [9] }
theorem arrivesOf {s : State} {r : Mgmt} (h : s.led = true ∧ ∀ k ∈ s.kept, ¬(k.src = r.src ∧ k.seq = r.seq)) : arrives s r := h
def sErr : State := { sReq with dies := dieT ++ [(1, { recovery := 2 })] }
theorem witness_DeviceRequests :
    (arrives sReq mgC ∧ sReq.controllers.contains mgC.src = true) ∧ (arrives sReq mgX ∧ sReq.controllers.contains mgX.src = false) ∧
      (arrives sErr mgC ∧ (sErr.die (0 : Fin 4).val).recovery = 0 ∧ (sErr.die (1 : Fin 4).val).recovery ≠ 0) ∧
      (List.replicate 16 (3 : Byte)).length = 16 ∧ sReq.events = [] ∧
      (bits (0x8000000000005000 : Word).toNat 62 52 = 0 ∧ bits (0x8000000000005000 : Word).toNat 11 0 = 0) ∧
      ¬(bits (0x8000000000005001 : Word).toNat 62 52 = 0 ∧ bits (0x8000000000005001 : Word).toNat 11 0 = 0) :=
  ⟨⟨arrivesOf (by decide +kernel), by decide +kernel⟩, ⟨arrivesOf (by decide +kernel), by decide +kernel⟩,
    ⟨arrivesOf (by decide +kernel), by decide +kernel⟩, by decide +kernel⟩
theorem witness_DeviceRequests_settings :
    (let s := { sReq with specs := [(2, some specT)] }
     arrives s mgC ∧ ∃ i, i < 4 ∧ mapGet none s.specs i ≠ none) ∧
    ((∀ i, i < 4 → mapGet none sReq.specs i = none) ∧ (0x100000000 : Word).toNat < 2 ^ 52 ∧ (0x100000000 : Word).toNat % 2 ^ 18 = 0 ∧
      bits (0x8000000000000010 : Word).toNat 62 16 = 0 ∧
      (0x100000000 : Word).toNat + (0x8000000000000010 : Word).toNat % 2 ^ 16 * 2 ^ 18 ≤ 0x6000000000) ∧
    (mapGet none sReq.parts 5 = none ∧ mapGet none sReq.parts 1 ≠ none ∧ storeDataOk (sharedWin 0 4 + 0x38) (0x8000000000050003 : Word).toNat = true ∧
      sReq.recoveryIn (sReq.cmaskOf 1) = false ∧ sReq.partClusters 1 = [0] ∧ (sReq.cluster 0).part = some 1) ∧
    (populated (0x5000 : Word).toNat (0x4000 : Word).toNat = true ∧ populated (0x6000000000 : Word).toNat (8 : Word).toNat = false) :=
  ⟨⟨arrivesOf (by decide +kernel), 2, by decide +kernel⟩, by decide +kernel⟩
/-- Nothing is assigned: the partition of `partT` may be defined on cluster 0. -/
def sNew : State :=
  { sReq with parts := [], clusters := [], launches := [], asidRoots := [(1, 0x8000000000005000)] }
theorem clustersOf {s : State} {c : Nat} (h : s.clusters = []) : s.cluster c = {} := by simp only [State.cluster, h]; rfl
theorem witness_ControlRequests_partitions :
    (arrives sNew mgC ∧ sNew.controllers.contains mgC.src = true ∧ ({ partT with reserved := true } : PartRec).reserved = true ∧
      sNew.partdefCheck 1 partT = 0 ∧ mapGet none sNew.parts 1 = none) ∧
    (∀ c, partT.cmask.getLsbD c = true → (sNew.cluster c).powered = false ∧ (sNew.cluster c).part = none ∧ (sNew.cluster c).shadow = none ∧
      mapGet none sNew.images (imageKey 1 c) = none) ∧
    (mapGet none sReq.parts 1 ≠ none ∧ sReq.cmaskOf 1 ≠ 0) ∧
    (let s := { sNew with parts := [(1, some { partT with cmask := 0 })], queues := [] }
     arrives s mgC ∧ mapGet none s.parts 1 ≠ none ∧ s.cmaskOf 1 = 0 ∧ s.queues = []) :=
  ⟨⟨arrivesOf (by decide +kernel), by decide +kernel⟩, fun c _ => by rw [clustersOf rfl]; exact ⟨rfl, rfl, rfl, rfl⟩, by decide +kernel,
    arrivesOf (by decide +kernel), by decide +kernel⟩
theorem witness_ControlRequests_queues :
    (sReq.descriptorBad (0x100004 : Word).toNat (0x0002000000000000 : Word).toNat 0 0 = false ∧
      sReq.descriptorBad (0x100004 : Word).toNat (0x0002001000000000 : Word).toNat 0 0 = true ∧ (sReq.queue 2).inUse = false ∧
      (sReq.queue 2).defined = true ∧ (sReq.queue 7).defined = false ∧ (sReq.queue 2).state ≠ 4) ∧
    (({ sReq with queues := [(2, quT [pktT nopSlot])] } : State).queue 2).inUse = true ∧
    (let s := { sReq with queues := [(2, { quT [] with state := 4, err := 3 })] }
     arrives s mgC ∧ (s.queue 2).defined = true ∧ (s.queue 2).state = 4) :=
  ⟨by decide +kernel, by decide +kernel, arrivesOf (by decide +kernel), by decide +kernel⟩
def laStop : Launch := { laT with stopped := true }
def sStop : State :=
  { sReq with launches := [(3, some laStop)], slots := [(4, { xRun with status := .parked }), (5, { xRun with status := .halted })],
              cores := [(3, { fenced := true, cpart := 2 })] }
theorem witness_ControlRequests_launches :
    arrives sStop mgC ∧ (sStop.launch (3 : BitVec 12).toNat = some laStop ∧ laStop.stopped = true ∧ sStop.partClusters laStop.part = [0] ∧
      (sStop.cluster 0).part = some laStop.part ∧ (sStop.cluster 0).switching = none) ∧
    ((sStop.slot (0 * 128 + 4)).task = some (3 : BitVec 12).toNat ∧ (sStop.slot (0 * 128 + 4)).status = .parked ∧
      (sStop.slot (0 * 128 + 4)).acqReg = none ∧ (sStop.core (0 * 8 + 4 / 16)).fenced = false) ∧
    (laStop.killed = false ∧ laStop.phase < 8 ∧ laStop.specOf = none ∧ laT.stopped = false ∧ (8 : Nat) ≤ ({ laT with phase := 8 } : Launch).phase) ∧
    ((6 : Word).toNat % 4 ≠ 0 ∧ (8 : Word).toNat % 4 = 0 ∧ (sStop.die ((5 : BitVec 15).toNat / 8192)).recovery = 0 ∧
      (sStop.slot (5 : BitVec 15).toNat).status = .halted ∧ (sStop.slot (4 : BitVec 15).toNat).status ≠ .halted) ∧
    ((sStop.die ((3 : BitVec 11).toNat / 512)).recovery = 0 ∧ (sStop.core (3 : BitVec 11).toNat).fenced = true ∧
      (sStop.core (2 : BitVec 11).toNat).fenced = false) :=
  ⟨arrivesOf (by decide +kernel), by decide +kernel⟩
def keptT : Kept := ⟨9, 0x55, 77, 3, [1]⟩
def sHalt : State := { sReq with clusters := [], queues := [] }
theorem allHaltedOf {s : State} (h : s.clusters = []) : s.allHalted = true := by
  unfold State.allHalted
  exact List.all_eq_true.mpr fun cl _ => by rw [clustersOf h]; rfl
theorem witness_StreamsAndEvents :
    ({ sReq with kept := [keptT] } : State).kept.find? (fun k => k.src = mgC.src && k.seq = mgC.seq) = some keptT ∧
    ((∀ k ∈ ({ sReq with dies := [] } : State).kept, ¬(k.src = mgC.src ∧ k.seq = mgC.seq)) ∧ ({ sReq with dies := [] } : State).led = false) ∧
    (let s := { sStop with clusters := [(0, clT)], slots := [(4, xRun)] }
     arrives s mgC ∧ s.allHalted = false ∧ [Stream.host 0 0] ≠ [] ∧ [Stream.host 0 0].length ≤ 9) ∧
    (arrives sHalt mgC ∧ sHalt.allHalted = true ∧ (∀ d, d < 4 → (sHalt.die d).recovery = 0) ∧ sHalt.specs = [] ∧ sHalt.queues = []) :=
  ⟨by decide +kernel, by decide +kernel, ⟨arrivesOf (by decide +kernel), by decide +kernel⟩, arrivesOf (by decide +kernel), allHaltedOf rfl,
    by decide +kernel⟩
theorem witness_StreamsAndEvents_events :
    (let s := { sReq with events := [⟨3, 1, []⟩, ⟨4, 0x100, [1]⟩] }
     s.events.find? (fun e => e.n = 4) = some ⟨4, 0x100, [1]⟩) ∧
    (let s := { sReq with works := [(3, 99)] }
     s.works = [((3 : BitVec 16).toNat, (99 : Word))]) := by decide +kernel
/-- g1 names a plan through sg3, g2 is a tag; g4 and g5 are not well formed. -/
def ccT : CCmd :=
  { id := 4, donate := false, desc := {}, descs := [], off := 0, first := 0, tag := 0, dq := 0, thr := 0, lid := 3, asid := 0, satinf := false,
    loaded := false, plan := 0, rank := 0, ranks := [], steps := [], failedStep := none, waits := [] }
def sColl (n : Nat) : State :=
  { sT { xT with g := rgs [(1, 0x6000000000000100), (2, 5), (4, 0x6000000000000104), (5, 0x100000000)],
                 sg := [(3, ⟨0x100, 0x003F00000003FF00⟩)] } with dies := [(0, { booted := true, coll := List.replicate n ccT })] }
theorem witness_CollectiveCommandsPushed :
    full (sColl 63) [(.g, 1), (.g, 2)] ∧ quiet (sColl 63) ∧
      (((me (sColl 63)).rg 1).toNat / 2 ^ 48 % 2 ^ 13 = 0 ∧ ((me (sColl 63)).rg 1).toNat % 8 = 0 ∧ ((me (sColl 63)).rg 2).toNat < 2 ^ 24) ∧
      ((sColl 63).specOf (me (sColl 63)).lidN = none ∧ (∀ n, n < 8 → mapGet false (me (sColl 63)).sgPend n = false) ∧
        (sColl 63).roleBad (sColl 63).cur ((me (sColl 63)).rg 1).toNat ⟨0, 64, true, false⟩ = none) ∧
      (((sColl 63).die 0).coll.length < 64 ∧ 64 ≤ ((sColl 64).die 0).coll.length) ∧
      (full (sColl 0) [(.g, 4), (.g, 5)] ∧ plain (sColl 0) ∧ ((me (sColl 0)).rg 4).toNat % 8 ≠ 0 ∧ ¬((me (sColl 0)).rg 5).toNat < 2 ^ 32) := by
  refine ⟨fullOf (by decide +kernel), ?_, by decide +kernel, by decide +kernel, by decide +kernel, fullOf (by decide +kernel), ?_, by decide +kernel⟩
  · unfold quiet; decide +kernel
  · unfold plain; decide +kernel
def stepWords (op peer after np w4 w5 w6 : Nat) : List Word :=
  ([op * 2 ^ 60 + peer * 2 ^ 54 + after * 2 ^ 28 + np, 0, 0, 0, w4, w5, w6, 0] : List Nat).map (BitVec.ofNat 64)
/-- A loaded command whose one step is number 5. -/
def cmdC (y : CStep) : CCmd :=
  { ccT with loaded := true, plan := 0x55, rank := 1, ranks := [0x00030010, 0x00020011, 0x00010012], tag := 0x77, steps := [(5, some y)] }
def stepC (op : Nat) (st : StepSt) : CStep := { words := stepWords op 2 0xFFF 3 0 0 (3 * 2 ^ 16), st := st, next := 2 }
def sStep (y : CStep) : State := { sT xT with dies := [(2, { booted := true, coll := [cmdC y] })] }
def azT (ty n : Nat) : AzPkt :=
  { link := 4, w0 := BitVec.ofNat 64 (ty * 2 ^ 60 + n / 64 * 2 ^ 50 + 0x12 * 2 ^ 16 + 0x55), w1 := BitVec.ofNat 64 (5 * 2 ^ 36 + 1),
    data := List.replicate n 7 }
theorem namesStepOf {s : State} {p : AzPkt} {ty d : Nat} {c : CCmd} {y : CStep}
    (h : (s.link p.link).down = false ∧ azOk p ty = true ∧ s.dies.map (·.1) = [d] ∧ (s.die d).coll = [c] ∧ c.loaded = true ∧ c.donate = false ∧
      c.plan = azPlan p ∧ c.step (azStep p) = some y ∧ azSeq p < y.npiece) : namesStep s p ty d c y := h
theorem witness_CollectiveEvents_steps :
    (let x := stepC 0 .waiting
     let s := sStep x
     mapWf {} s.dies = true ∧ (s.die 2).coll = [cmdC x] ∧ ((cmdC x).loaded = true ∧ (cmdC x).donate = false ∧ (cmdC x).waits = [] ∧
       (cmdC x).failedStep = none) ∧ x.st = .waiting ∧ (cmdC x).step 5 = some x ∧ s.mayStart (cmdC x) x = true) ∧
    (let x := { stepC 0 .running with sentPieces := 3 }
     x.st = .running ∧ (cmdC x).steps = [(5, some x)] ∧ x.npiece ≤ x.sentPieces) := by decide +kernel
theorem witness_CollectiveEvents_data :
    namesStep (sStep (stepC 1 .running)) (azT 0 4096) 0 2 (cmdC (stepC 1 .running)) (stepC 1 .running) ∧
    namesStep (sStep (stepC 2 .running)) (azT 3 4096) 3 2 (cmdC (stepC 2 .running)) (stepC 2 .running) ∧
    ((stepC 1 .running).op = 1 ∧ (stepC 2 .running).op = 2 ∧ (cmdC (stepC 1 .running)).rankOf (azSrc (azT 0 4096)) = some (stepC 1 .running).peer ∧
      (stepC 1 .running).peer ≠ (cmdC (stepC 1 .running)).rank ∧ (azT 0 4096).data.length = 4096 ∧ (stepC 1 .running).early = []) :=
  ⟨namesStepOf (by decide +kernel), namesStepOf (by decide +kernel), by decide +kernel⟩
theorem witness_CollectiveEvents_answers :
    (namesStep (sStep (stepC 0 .running)) (azT 6 0) 6 2 (cmdC (stepC 0 .running)) (stepC 0 .running) ∧ (stepC 0 .running).op = 0) ∧
    (namesStep (sStep (stepC 4 .running)) (azT 1 0) 1 2 (cmdC (stepC 4 .running)) (stepC 4 .running) ∧ (stepC 4 .running).op = 4 ∧
      (stepC 4 .running).w 4 = 0) ∧
    (namesStep (sStep (stepC 5 .running)) (azT 4 0) 4 2 (cmdC (stepC 5 .running)) (stepC 5 .running) ∧ (stepC 5 .running).op = 5 ∧
      (azT 4 0).data = []) ∧
    (namesStep (sStep (stepC 5 .running)) (azT 5 4096) 5 2 (cmdC (stepC 5 .running)) (stepC 5 .running) ∧
      azSeq (azT 5 4096) < (stepC 5 .running).next ∧ (azT 5 4096).data.length = 4096) :=
  ⟨⟨namesStepOf (by decide +kernel), by decide +kernel⟩, ⟨namesStepOf (by decide +kernel), by decide +kernel⟩,
    ⟨namesStepOf (by decide +kernel), by decide +kernel⟩, namesStepOf (by decide +kernel), by decide +kernel⟩
def donT : AzPkt := { azT 2 256 with data := List.replicate 256 0 }
def sDon : State := { sHost 1 true with donMap := [(5, some 2)], links := [(3, { down := true })] }
theorem witness_CollectiveEvents_donation :
    (sDon.link donT.link).down = false ∧ azOk donT 2 = true ∧ donT.data.length = 256 ∧ mapGet none (sHost 1 true).donMap (azStep donT) = none ∧
      (mapGet none sDon.donMap (azStep donT) = some 2 ∧ (sDon.queue 2).defined = true ∧
        (sDon.queue 2).wr + 1 ≤ (sDon.queue 2).rd + (sDon.queue 2).size ∧ donT.data.getD 252 0 = 0) ∧
      plainRange sDon ((sDon.queue 2).ring + (sDon.queue 2).wr % (sDon.queue 2).size * 256) 256 ∧
      ({ donT with data := List.replicate 256 1 } : AzPkt).data.getD 252 0 ≠ 0 ∧ (sDon.link (3 : Fin 8)).down = true ∧
      (azOk (azT 0 4096) 1 = false ∧ ∀ e ∈ sDon.dies, e.2.coll = []) :=
  ⟨by decide +kernel, by decide +kernel, by decide +kernel, by decide +kernel, by decide +kernel, plainOf rfl (by decide +kernel), by decide +kernel⟩
/-- Link 1 is down and the running step sends through it. -/
def sLink : State := { sStep (stepC 0 .running) with links := [(1, { down := true, downSince := 7 })], cycle := 2 ^ 21 }
theorem witness_CollectiveEvents_links :
    mapWf {} sLink.links = true ∧ (sLink.link (1 : Fin 8)).down = true ∧ sLink.dies.map (·.1) = [2] ∧ (sLink.die 2).coll = [cmdC (stepC 0 .running)] ∧
      (cmdC (stepC 0 .running)).donate = false ∧ (cmdC (stepC 0 .running)).steps = [(5, some (stepC 0 .running))] ∧
      (1 : Fin 8) ∈ (cmdC (stepC 0 .running)).linksOf (stepC 0 .running) ∧ (sLink.link (1 : Fin 8)).downSince + 2 ^ 20 ≤ sLink.cycle ∧
      (sLink.link (2 : Fin 8)).down = false := by decide +kernel

/-! ### Witnesses: invariants -/

/-- The reset state with NOP placed: its maps are canonical, and it steps. -/
theorem witness_StepKeepsMapsCanonical :
    canonicalCheck wNop = true ∧ wNop.images = [] ∧ (∀ e ∈ wNop.clusters, e.2.shadow = none) ∧
      (match step wNop with | .next t => decide ((t.slot 0).pc = 4) | _ => false) = true := by decide +kernel

/-! ### Results: the worked examples of 08, 09, 10 and 12, each one step on a small state -/

/-- Slot 0 after one instruction, from the registers of `x`. -/
def after (i : Instr) (x : Slot) : Slot := match exec i (oneSlot { x with status := .ready }) with | .next t => me t | _ => {}
/-- Slot 0 after the instruction of a word. -/
def afterWord (w : Nat) (x : Slot) : Slot := match decode w with | .ok i => after i x | .error _ => {}
/-- Two scalar sources: g2 and g3. -/
def two (a b : Word) : Slot := (({} : Slot).wg 2 a).wg 3 b
/-- The form d = 1, a = 2, b = 3. -/
def d1 : Rrr := ⟨1, 2, 3, false, false⟩
/-- The unary form d = 1, a = 2. -/
def u1 : Rr := ⟨1, 2, false⟩
/-- -7 (10, after R260). -/
def m7 : Word := 0xFFFFFFFFFFFFFFF9

/-- 10 after R260: -7 DIV 2 = -3. -/
theorem test_div : (after (.div d1) (two m7 2)).rg 1 = BitVec.ofInt 64 (-3) := by decide +kernel
/-- 10 after R260: -7 REM 2 = -1. -/
theorem test_rem : (after (.rem d1) (two m7 2)).rg 1 = BitVec.ofInt 64 (-1) := by decide +kernel
/-- 10 after R260. -/
theorem test_divu : (after (.divu d1) (two m7 2)).rg 1 = 0x7FFFFFFFFFFFFFFC := by decide +kernel
/-- 10 after R260. -/
theorem test_mulhu : (after (.mulhu d1) (two m7 2)).rg 1 = 1 := by decide +kernel
/-- 10 after R260. -/
theorem test_mulh : (after (.mulh d1) (two m7 2)).rg 1 = BitVec.ofInt 64 (-1) := by decide +kernel
/-- 08 R212: division of the most negative value by -1. -/
theorem test_div_overflow : (after (.div d1) (two 0x8000000000000000 (BitVec.allOnes 64))).rg 1 = 0x8000000000000000 := by
  decide +kernel
/-- 08 R212: the remainder of that division. -/
theorem test_rem_overflow : (after (.rem d1) (two 0x8000000000000000 (BitVec.allOnes 64))).rg 1 = 0 := by decide +kernel
/-- 08 R212: division by zero gives all ones. -/
theorem test_divu_zero : (after (.divu d1) (two 5 0)).rg 1 = BitVec.allOnes 64 := by decide +kernel
/-- 08 R212: remainder by zero gives the dividend. -/
theorem test_remu_zero : (after (.remu d1) (two 5 0)).rg 1 = 5 := by decide +kernel
/-- 10 after R260: CLZ of 0. -/
theorem test_clz_zero : (after (.clz u1) (two 0 0)).rg 1 = 64 := by decide +kernel
/-- 10 after R260: ADDW wraps at 32 bits and extends the sign. -/
theorem test_addw : (after (.addw d1) (two 0x7FFFFFFF 1)).rg 1 = 0xFFFFFFFF80000000 := by decide +kernel
/-- 10 R258: a register that is source and destination. -/
theorem test_add_same : (after (.add ⟨2, 2, 2, false, false⟩) (two m7 0)).rg 2 = BitVec.ofInt 64 (-14) := by decide +kernel
/-- 10 after R264: PCBLK at 0x5004 in its worked word. -/
theorem test_pcblk : (afterWord 0x0000728B { pc := 0x5004 }).rg 5 = 0x12000 := by decide +kernel
/-- 09 R243: a taken branch at 0x100 with disp10 = 0x3FD names 0xF4. -/
theorem test_bne_taken : (afterWord 0xFF4801A0 { ({} : Slot).wg 3 1 with pc := 0x100 }).pc = 0xF4 := by decide +kernel
/-- 10 R266: the same branch not taken. -/
theorem test_bne_not_taken : (afterWord 0xFF4801A0 { pc := 0x100 }).pc = 0x104 := by decide +kernel
/-- 10 after R273: CRCLR of fflags. -/
theorem test_crclr :
    let x := after (.crclr ⟨5, 4, false, 5⟩) { ({} : Slot).wg 4 1 with fflags := 0x13 }
    x.rg 5 = 0x13 ∧ x.fflags = 0x12 := by decide +kernel
/-- 10 after R273: CRSET of fmode to a reserved rounding mode traps. -/
theorem test_crset_fmode :
    let x := after (.crset ⟨0, 6, false, 6⟩) (({} : Slot).wg 6 5)
    x.fmode = 0 ∧ x.mode = .system ∧ x.tcause = 1 ∧ x.tval = 5 := by decide +kernel
/-- 10 R275: TRAP saves the PC and enters the handler. -/
theorem test_trap :
    let x := after (.trap ⟨2, false⟩) { two 9 0 with pc := 0x40, tvec := 0x200 }
    x.pc = 0x200 ∧ x.tpc = 0x40 ∧ x.tcause = 20 ∧ x.tval = 9 ∧ x.mode = .system := by decide +kernel
/-- 16 R406: TRET returns to tpc in the saved mode. -/
theorem test_tret :
    let x := after .tret { mode := .system, tpc := 0x40, tstat := tstatInh }
    x.pc = 0x40 ∧ x.mode = .user ∧ x.inHandler = false := by decide +kernel

/-! ### Vector results -/

/-- Two vector sources: v2 and v3, with the mask m1 = 1. -/
def twoV (a b : VWord) : Slot := ((({} : Slot).wv 2 a).wv 3 b).wm 1 1
/-- 08 R213: a saturating i8 addition of 100 and 90 gives 127. -/
theorem test_vadds : (after (.vadds ⟨1, 2, 3, 1, .i8⟩) (twoV 100 90)).rv 1 = 127 := by decide +kernel
/-- 12 R308: masked lanes keep their old values. -/
theorem test_vadd_masked : (after (.vadd ⟨2, 2, 3, 1, .i8⟩) (twoV 0x0764 0x015A)).rv 2 = 0x07BE := by decide +kernel
/-- 12 R319: VDOT adds the exact products and rounds once. -/
theorem test_vdot :
    (afterWord 0x38441633 (((({} : Slot).wv 1 0x39803980).wv 2 0x39803980).wv 12 0x3F800000 |>.wm 1 1)).rv 12 = 0x3F800001 := by
  decide +kernel
/-- 12 R325 over the lanes of 08 R231: 1.0, 2^24, 1.0, -2^24 give 1.0, inexact. -/
theorem test_vfredadd :
    let x := afterWord 0x1C403136 ((({} : Slot).wv 3 0xCB8000003F8000004B8000003F800000).wm 1 0xF)
    x.rv 2 = 0x3F800000 ∧ x.fflags = 1 := by decide +kernel
/-- 12 after R324: a scaled conversion to s8 with stochastic rounding, 1.046875 with seed 1. -/
theorem test_vcvt_sr :
    let x := afterWord 0x02507335 (({ ((({} : Slot).wv 8 0x4000).wv 7 0x40060000).wm 1 1 with rseed := 1 } : Slot).wfs 1 0x1C3E)
    x.rv 6 = 0x61 ∧ x.fflags = 1 ∧ x.rseed = 0x42021 := by decide +kernel
/-- 12 after R324: the same under RZ. -/
theorem test_vcvt_rz :
    let x := afterWord 0x02507335 (({ ((({} : Slot).wv 8 0x4000).wv 7 0x40060000).wm 1 1 with rseed := 1 } : Slot).wfs 1 0x193E)
    x.rv 6 = 0x60 ∧ x.rseed = 1 := by decide +kernel

/-! ### Rounding -/

/-- 08 R220: f32 2^128 under RZ is the largest finite value, with OF and NX. -/
theorem test_round_f32_rz : roundF .f32 false .rz 0 (.num false 1 128 false) = (0x7F7FFFFF, flagOF + flagNX) := by decide +kernel
/-- 08 R220: (2 - 2^-24) * 2^127 under RZ sets NX alone. -/
theorem test_round_f32_rz_below : roundF .f32 false .rz 0 (.num false (2 ^ 25 - 1) 103 false) = (0x7F7FFFFF, flagNX) := by decide +kernel
/-- 08 R224: f32 65520.0 to f16 under RNE is +∞, with OF and NX. -/
theorem test_convert_f16_tie : convert .f32 .f16 false false .rne 0 0x477FF000 none = (0x7C00, flagOF + flagNX) := by decide +kernel
/-- 08 R223: 100.0 to s8 under RNE is 0x11. -/
theorem test_round_s8 : roundF .s8 false .rne 0 (.num false 100 0 false) = (0x11, flagNX) := by decide +kernel
/-- 08 R223: -100.0 gives 0x91. -/
theorem test_round_s8_neg : roundF .s8 false .rne 0 (.num true 100 0 false) = (0x91, flagNX) := by decide +kernel
/-- 08 R223: with SATINF, RNE at exactly 1.5 * 2^16 gives 2^16. -/
theorem test_round_s8_satinf : roundF .s8 true .rne 0 (.num false 3 15 false) = (0x02, flagNX) := by decide +kernel
/-- 08 R225: encoding 6.0 with s = 2.0 yields the code of 3.0. -/
theorem test_scale_encode : (roundF .s8 false .rne 0 (scaleEncode (decodeF .f32 false 0x40C00000) (decodeF .bf16 false 0x4000)).1).1 = 0x78 := by
  decide +kernel
/-- 08 R225: decoding 0x78 with s = 2.0 yields 6.0. -/
theorem test_scale_decode : (roundF .f32 false .rne 0 (scaleDecode (decodeF .s8 false 0x78) (decodeF .bf16 false 0x4000)).1).1 = 0x40C00000 := by
  decide +kernel

end Sys2Proof.Tests
end

/-! ## Shared rules of the issuing slot: what it reads, passes, traps and goes on with, in the words of the statements -/

namespace Sys2Proof.Machine
open Sys2Proof.Claims

/-- A slot that holds a task reads back as it was set, whatever the form of the map: the default slot is IDLE. -/
theorem State.slot_setSlot_task (s : State) (t : Nat) {x : Slot} (h : x.status ≠ .idle) : (s.setSlot t x).slot t = x :=
  mapGet_mapPut_listed _ _ _ _ fun hx => h (congrArg Slot.status hx)
/-- An instruction whose change of the slot leaves the PC goes on at the next one. -/
theorem State.next_finish (s : State) {f : Slot → Slot} (h : (f (me s)).pc = (me s).pc) :
    .next (s.finish f) = goesOn s { f (me s) with pc := (me s).pc + 4 } := by
  rw [← h]; rfl
/-- Outside a speculation an exact trap is the one of `trapped`. -/
theorem State.next_trapExact {s : State} (h : plain s) (c : Nat) (v : Word) : .next (s.trapExact c v) = trapped s c v :=
  congrArg Host.Outcome.next (State.trapExact_plain h c v)
/-- Registers that are all FULL let an instruction go on. -/
theorem State.withSrcs_of_full {s : State} {srcs : List Src} (h : full s (srcs.map fun r => (r.file, r.n)))
    (k : State → State) : s.withSrcs srcs k = k s :=
  State.withSrcs_full k fun _ hr => h _ (List.mem_map_of_mem hr)
/-- The registers of a list are FULL whatever order they are named in. -/
theorem full_swap {s : State} {a b : RegFile × Nat} (h : full s [a, b]) : full s [b, a] :=
  fun r hr => h r (by simpa [or_comm] using hr)

end Sys2Proof.Machine

/-! ## Every step keeps the canonical form (O59) -/

namespace Sys2Proof.Machine

/-- Every instruction and event keeps the canonical form: one lemma per constructor of `Instr` (Laws/Canonical*). -/
theorem exec_canon {s : State} (h : s.Canon) (i : Instr) : Res.Canon (exec i s) :=
  match i with
  | .add o => execAdd_canon h o
  | .sub o => execSub_canon h o
  | .and o => execAnd_canon h o
  | .or o => execOr_canon h o
  | .xor o => execXor_canon h o
  | .andn o => execAndn_canon h o
  | .orn o => execOrn_canon h o
  | .sll o => execSll_canon h o
  | .srl o => execSrl_canon h o
  | .sra o => execSra_canon h o
  | .rol o => execRol_canon h o
  | .ror o => execRor_canon h o
  | .slt o => execSlt_canon h o
  | .sltu o => execSltu_canon h o
  | .min o => execMin_canon h o
  | .max o => execMax_canon h o
  | .minu o => execMinu_canon h o
  | .maxu o => execMaxu_canon h o
  | .mul o => execMul_canon h o
  | .mulh o => execMulh_canon h o
  | .mulhu o => execMulhu_canon h o
  | .mulhmx o => execMulhmx_canon h o
  | .div o => execDiv_canon h o
  | .divu o => execDivu_canon h o
  | .rem o => execRem_canon h o
  | .remu o => execRemu_canon h o
  | .clz o => execClz_canon h o
  | .ctz o => execCtz_canon h o
  | .popc o => execPopc_canon h o
  | .bswap o => execBswap_canon h o
  | .sextb o => execSextb_canon h o
  | .sexth o => execSexth_canon h o
  | .sextw o => execSextw_canon h o
  | .zextw o => execZextw_canon h o
  | .addw o => execAddw_canon h o
  | .subw o => execSubw_canon h o
  | .addi o => execAddi_canon h o
  | .andi o => execAndi_canon h o
  | .ori o => execOri_canon h o
  | .xori o => execXori_canon h o
  | .slti o => execSlti_canon h o
  | .sltiu o => execSltiu_canon h o
  | .addiw o => execAddiw_canon h o
  | .slli o => execSlli_canon h o
  | .srli o => execSrli_canon h o
  | .srai o => execSrai_canon h o
  | .rori o => execRori_canon h o
  | .lih o => execLih_canon h o
  | .pcblk o => execPcblk_canon h o
  | .ldpc o => execLdpc_canon h o
  | .beq o => execBeq_canon h o
  | .bne o => execBne_canon h o
  | .blt o => execBlt_canon h o
  | .bge o => execBge_canon h o
  | .bltu o => execBltu_canon h o
  | .bgeu o => execBgeu_canon h o
  | .beqz o => execBeqz_canon h o
  | .bnez o => execBnez_canon h o
  | .bltz o => execBltz_canon h o
  | .bgez o => execBgez_canon h o
  | .bgtz o => execBgtz_canon h o
  | .blez o => execBlez_canon h o
  | .jal o => execJal_canon h o
  | .jalr o => execJalr_canon h o
  | .skip n => execSkip_canon h n
  | .nop => execNop_canon h
  | .hint bits => execHint_canon h bits
  | .crrd d cr => execCrrd_canon h d cr
  | .crwr o => execCrwr_canon h o
  | .crset o => execCrset_canon h o
  | .crclr o => execCrclr_canon h o
  | .fsset o => execFsset_canon h o
  | .fsrd d fs => execFsrd_canon h d fs
  | .trap o => execTrap_canon h o
  | .tret => execTret_canon h
  | .halt => execHalt_canon h
  | .break o => execBreak_canon h o
  | .deferredTrap thr => execDeferredTrap_canon h thr
  | .ld size o => execLd_canon h size o
  | .st size o => execSt_canon h size o
  | .ldx u o => execLdx_canon h u o
  | .stx o => execStx_canon h o
  | .ldf o => execLdf_canon h o
  | .lde o => execLde_canon h o
  | .stf o => execStf_canon h o
  | .sete o => execSete_canon h o
  | .setf o => execSetf_canon h o
  | .tstf o => execTstf_canon h o
  | .vld o => execVld_canon h o
  | .vst o => execVst_canon h o
  | .vldf o => execVldf_canon h o
  | .vlde o => execVlde_canon h o
  | .vstf o => execVstf_canon h o
  | .vldb o => execVldb_canon h o
  | .vldi o => execVldi_canon h o
  | .vsti o => execVsti_canon h o
  | .amoadd o => execAmoadd_canon h o
  | .amoand o => execAmoand_canon h o
  | .amoor o => execAmoor_canon h o
  | .amoxor o => execAmoxor_canon h o
  | .amomin o => execAmomin_canon h o
  | .amomax o => execAmomax_canon h o
  | .amominu o => execAmominu_canon h o
  | .amomaxu o => execAmomaxu_canon h o
  | .amoswp o => execAmoswp_canon h o
  | .amocas o => execAmocas_canon h o
  | .fence kind scope => execFence_canon h kind scope
  | .fencer scope o => execFencer_canon h scope o
  | .isync => execIsync_canon h
  | .drain => execDrain_canon h
  | .sgset o => execSgset_canon h o
  | .sgnarrow o => execSgnarrow_canon h o
  | .sgrd d sg w => execSgrd_canon h d sg w
  | .sgcpy sd sg => execSgcpy_canon h sd sg
  | .msend o => execMsend_canon h o
  | .msendt o => execMsendt_canon h o
  | .mrecv d => execMrecv_canon h d
  | .mrecvt o => execMrecvt_canon h o
  | .waitm o => execWaitm_canon h o
  | .mcnt d => execMcnt_canon h d
  | .vadd o => execVadd_canon h o
  | .vsub o => execVsub_canon h o
  | .vmul o => execVmul_canon h o
  | .vmulh o => execVmulh_canon h o
  | .vmin o => execVmin_canon h o
  | .vmax o => execVmax_canon h o
  | .vminu o => execVminu_canon h o
  | .vmaxu o => execVmaxu_canon h o
  | .vabs o => execVabs_canon h o
  | .vneg o => execVneg_canon h o
  | .vadds o => execVadds_canon h o
  | .vsubs o => execVsubs_canon h o
  | .vand o => execVand_canon h o
  | .vor o => execVor_canon h o
  | .vxor o => execVxor_canon h o
  | .vandn o => execVandn_canon h o
  | .vsll o => execVsll_canon h o
  | .vsrl o => execVsrl_canon h o
  | .vsra o => execVsra_canon h o
  | .vfadd o => execVfadd_canon h o
  | .vfsub o => execVfsub_canon h o
  | .vfmul o => execVfmul_canon h o
  | .vfdiv o => execVfdiv_canon h o
  | .vfmin o => execVfmin_canon h o
  | .vfmax o => execVfmax_canon h o
  | .vfabs o => execVfabs_canon h o
  | .vfneg o => execVfneg_canon h o
  | .vfsqrt o => execVfsqrt_canon h o
  | .vrcp o => execVrcp_canon h o
  | .vrsq o => execVrsq_canon h o
  | .vexp2 o => execVexp2_canon h o
  | .vfma o => execVfma_canon h o
  | .vfms o => execVfms_canon h o
  | .vfnma o => execVfnma_canon h o
  | .vdot o => execVdot_canon h o
  | .vcmp c o => execVcmp_canon h c o
  | .vfcmp c o => execVfcmp_canon h c o
  | .vcvt o => execVcvt_canon h o
  | .vcvti o => execVcvti_canon h o
  | .vcvtf o => execVcvtf_canon h o
  | .vpack d a b ty u => execVpack_canon h d a b ty u
  | .vunpk d a ty hi => execVunpk_canon h d a ty hi
  | .vredadd o => execVredadd_canon h o
  | .vfredadd o => execVfredadd_canon h o
  | .vredmin o => execVredmin_canon h o
  | .vredmax o => execVredmax_canon h o
  | .vfredmax o => execVfredmax_canon h o
  | .vbcst o => execVbcst_canon h o
  | .vshuf o => execVshuf_canon h o
  | .vslide o => execVslide_canon h o
  | .vzip o => execVzip_canon h o
  | .vunzip o => execVunzip_canon h o
  | .vext d a b ty => execVext_canon h d a b ty
  | .vins d a b ty => execVins_canon h d a b ty
  | .mand d a b => execMand_canon h d a b
  | .mor d a b => execMor_canon h d a b
  | .mxor d a b => execMxor_canon h d a b
  | .mnot d a => execMnot_canon h d a
  | .mpopc d a m ty => execMpopc_canon h d a m ty
  | .mffs d a m ty => execMffs_canon h d a m ty
  | .mset d a => execMset_canon h d a
  | .mget d a => execMget_canon h d a
  | .vsel o => execVsel_canon h o
  | .vmov o => execVmov_canon h o
  | .jnew d => execJnew_canon h d
  | .jfree o => execJfree_canon h o
  | .spawn o => execSpawn_canon h o
  | .spawnr o => execSpawnr_canon h o
  | .retj o => execRetj_canon h o
  | .sync => execSync_canon h
  | .publish o => execPublish_canon h o
  | .rtake o => execRtake_canon h o
  | .yield => execYield_canon h
  | .idle => execIdle_canon h
  | .widf o => execWidf_canon h o
  | .talloc o => execTalloc_canon h o
  | .tallocn o => execTallocn_canon h o
  | .tinc o => execTinc_canon h o
  | .tdrop o => execTdrop_canon h o
  | .tfree o => execTfree_canon h o
  | .tcnt o => execTcnt_canon h o
  | .taddr o => execTaddr_canon h o
  | .rpush ring o => execRpush_canon h ring o
  | .rpop d ring => execRpop_canon h d ring
  | .rpeek d ring => execRpeek_canon h d ring
  | .rcnt d ring => execRcnt_canon h d ring
  | .mma o => execMma_canon h o
  | .mmar o => execMmar_canon h o
  | .mmas o => execMmas_canon h o
  | .mmasr o => execMmasr_canon h o
  | .accz acc relc => execAccz_canon h acc relc
  | .accout o => execAccout_canon h o
  | .accin o => execAccin_canon h o
  | .accld o => execAccld_canon h o
  | .accst o => execAccst_canon h o
  | .mqwait d n => execMqwait_canon h d n
  | .mqcnt d => execMqcnt_canon h d
  | .copyq o => execCopyq_canon h o
  | .copyqt o => execCopyqt_canon h o
  | .gathq o => execGathq_canon h o
  | .gathqt o => execGathqt_canon h o
  | .collq o => execCollq_canon h o
  | .donate o => execDonate_canon h o
  | .bbwait o => execBbwait_canon h o
  | .loadCompletion id => execLoadCompletion_canon h id
  | .storeBufferDrain core entry => execStoreBufferDrain_canon h core entry
  | .storeAcknowledgement id => execStoreAcknowledgement_canon h id
  | .windowWrite w => execWindowWrite_canon h w
  | .admitWrite core value => execAdmitWrite_canon h core value
  | .segmentTableRead id => execSegmentTableRead_canon h id
  | .remoteWaitRetry id => execRemoteWaitRetry_canon h id
  | .clusterCacheFill cl line => execClusterCacheFill_canon h cl line
  | .icacheFill core key => execIcacheFill_canon h core key
  | .releaseCompletion thr => execReleaseCompletion_canon h thr
  | .walkStart die k => execWalkStart_canon h die k
  | .walkCompletion die k => execWalkCompletion_canon h die k
  | .faultRecordAppend die part => execFaultRecordAppend_canon h die part
  | .faultResolutionWrite die word => execFaultResolutionWrite_canon h die word
  | .faultConsWrite die part value => execFaultConsWrite_canon h die part value
  | .faultTimeout die seq => execFaultTimeout_canon h die seq
  | .poisonCompletion id => execPoisonCompletion_canon h id
  | .joinCounterIncrement id => execJoinCounterIncrement_canon h id
  | .joinCounterDecrement id => execJoinCounterDecrement_canon h id
  | .syncTest id => execSyncTest_canon h id
  | .byteBarrierSubtract addr amount => execByteBarrierSubtract_canon h addr amount
  | .bbwaitRetry id => execBbwaitRetry_canon h id
  | .eccCorrectableError die st => execEccCorrectableError_canon h die st
  | .eccUncorrectableError die loc => execEccUncorrectableError_canon h die loc
  | .patrolScrub die => execPatrolScrub_canon h die
  | .flitCrcError die net link => execFlitCrcError_canon h die net link
  | .networkStarvationGrant die net link => execNetworkStarvationGrant_canon h die net link
  | .allocationGrant cl => execAllocationGrant_canon h cl
  | .zeroFillDone id => execZeroFillDone_canon h id
  | .tileDropArrival id => execTileDropArrival_canon h id
  | .tileIncArrival id => execTileIncArrival_canon h id
  | .tileFreeArrival id => execTileFreeArrival_canon h id
  | .tdropSend id => execTdropSend_canon h id
  | .deferredTileFree cl tile => execDeferredTileFree_canon h cl tile
  | .poolpWrite cl p value => execPoolpWrite_canon h cl p value
  | .poolstallWrite cl value => execPoolstallWrite_canon h cl value
  | .poolStallEvent cl p => execPoolStallEvent_canon h cl p
  | .speculationStart q => execSpeculationStart_canon h q
  | .watchedWrite pa len => execWatchedWrite_canon h pa len
  | .speculationDiscard sid cause => execSpeculationDiscard_canon h sid cause
  | .claimReply sid die => execClaimReply_canon h sid die
  | .speculationMerge sid => execSpeculationMerge_canon h sid
  | .dispatch core => execDispatch_canon h core
  | .headerArrival thr => execHeaderArrival_canon h thr
  | .stealProbe core => execStealProbe_canon h core
  | .stealGrant victim thief => execStealGrant_canon h victim thief
  | .stealReleaseDone id => execStealReleaseDone_canon h id
  | .stealDelivery id => execStealDelivery_canon h id
  | .probePauseExpiry core => execProbePauseExpiry_canon h core
  | .quiescenceWave lid => execQuiescenceWave_canon h lid
  | .launchCompletion lid => execLaunchCompletion_canon h lid
  | .messageArrival id => execMessageArrival_canon h id
  | .messageRetry id => execMessageRetry_canon h id
  | .matrixSelect cl => execMatrixSelect_canon h cl
  | .matrixWriteback cl => execMatrixWriteback_canon h cl
  | .selfTest cl failed => execSelfTest_canon h cl failed
  | .mxctlWrite cl value => execMxctlWrite_canon h cl value
  | .copyCompletion cl req => execCopyCompletion_canon h cl req
  | .indirectCompletion cl req => execIndirectCompletion_canon h cl req
  | .engineStateWrite cl off value => execEngineStateWrite_canon h cl off value
  | .systemRegisterWrite cl off value => execSystemRegisterWrite_canon h cl off value
  | .wridx q value => execWridx_canon h q value
  | .predictionCounterWrite q word value => execPredictionCounterWrite_canon h q word value
  | .slotReread q => execSlotReread_canon h q
  | .staleSlotTimeout q => execStaleSlotTimeout_canon h q
  | .launch q index => execLaunch_canon h q index
  | .waitAll q index => execWaitAll_canon h q index
  | .waitAny q index => execWaitAny_canon h q index
  | .waitEvaluation q index => execWaitEvaluation_canon h q index
  | .waitFaultTimeout q => execWaitFaultTimeout_canon h q
  | .signal q index => execSignal_canon h q index
  | .copy q index => execCopy_canon h q index
  | .tlbinv q index => execTlbinv_canon h q index
  | .tlbinvCompletion q index => execTlbinvCompletion_canon h q index
  | .fencePacket q index => execFencePacket_canon h q index
  | .nopPacket q index => execNopPacket_canon h q index
  | .segtab q index => execSegtab_canon h q index
  | .queueResidency q => execQueueResidency_canon h q
  | .watchdogPreempt lid => execWatchdogPreempt_canon h lid
  | .watchdogKill lid => execWatchdogKill_canon h lid
  | .watchdogFence lid => execWatchdogFence_canon h lid
  | .preemption thr => execPreemption_canon h thr
  | .partitionContextSwitch cl toPart => execPartitionContextSwitch_canon h cl toPart
  | .contextSwap cl => execContextSwap_canon h cl
  | .threadMigration thr toThr => execThreadMigration_canon h thr toThr
  | .coreMigration core toCore => execCoreMigration_canon h core toCore
  | .rdmaWrite qp key addr data => execRdmaWrite_canon h qp key addr data
  | .rdmaRead qp key addr len => execRdmaRead_canon h qp key addr len
  | .hostSend qp data => execHostSend_canon h qp data
  | .status r => execStatus_canon h r
  | .attest r nonce => execAttest_canon h r nonce
  | .fwload r image off data => execFwload_canon h r image off data
  | .asidset r asid entry => execAsidset_canon h r asid entry
  | .dfset r w0 w1 => execDfset_canon h r w0 w1
  | .pool7 r part value => execPool7_canon h r part value
  | .partdef r part rec => execPartdef_canon h r part rec
  | .partdel r part => execPartdel_canon h r part
  | .qset r q w0 w1 w2 w3 w4 => execQset_canon h r q w0 w1 w2 w3 w4
  | .qrestart r q index => execQrestart_canon h r q index
  | .qdel r q => execQdel_canon h r q
  | .donmap r dq q unmap => execDonmap_canon h r dq q unmap
  | .mrreg r kind base len rd wr => execMrreg_canon h r kind base len rd wr
  | .qpbind r qp q unbind => execQpbind_canon h r qp q unbind
  | .resume r lid => execResume_canon h r lid
  | .kill r lid => execKill_canon h r lid
  | .slotgo r thr pc sys => execSlotgo_canon h r thr pc sys
  | .coreback r core => execCoreback_canon h r core
  | .checkpoint r streams => execCheckpoint_canon h r streams
  | .restore r streams => execRestore_canon h r streams
  | .modset r modid => execModset_canon h r modid
  | .errread r die => execErrread_canon h r die
  | .evtreg r v6 addr port => execEvtreg_canon h r v6 addr port
  | .eventAcknowledgement n => execEventAcknowledgement_canon h n
  | .eventResend n => execEventResend_canon h n
  | .workdone op seq status => execWorkdone_canon h op seq status
  | .collectiveData p => execCollectiveData_canon h p
  | .collectiveAcknowledgement p => execCollectiveAcknowledgement_canon h p
  | .donation p => execDonation_canon h p
  | .groupWrite p => execGroupWrite_canon h p
  | .reduceReadRequest p => execReduceReadRequest_canon h p
  | .reduceReadReply p => execReduceReadReply_canon h p
  | .credit p => execCredit_canon h p
  | .collectiveStep die cmd step => execCollectiveStep_canon h die cmd step
  | .collectiveStepCompletion die cmd step => execCollectiveStepCompletion_canon h die cmd step
  | .linkFrameCrcError link => execLinkFrameCrcError_canon h link
  | .linkDownTimeout link => execLinkDownTimeout_canon h link
  | .powerOnReset b => execPowerOnReset_canon h b
  | .leaseRenewal die term => execLeaseRenewal_canon h die term
  | .leaseTimeout die => execLeaseTimeout_canon h die
  | .leaseClaim die claimant term => execLeaseClaim_canon h die claimant term
  | .clusterPowerUp group => execClusterPowerUp_canon h group
  | .matrixRateRamp cl => execMatrixRateRamp_canon h cl
  | .clusterPowerGate cl => execClusterPowerGate_canon h cl
  | .illegalInstruction w => execIllegalInstruction_canon h w
  | .fetchTrap poisoned at_ => execFetchTrap_canon h poisoned at_
  | .azrumLinkDown link => execAzrumLinkDown_canon h link
  | .azrumLinkUp link => execAzrumLinkUp_canon h link
  | .ecnCongestionNotification qp => execEcnCongestionNotification_canon h qp
  | .waitHostReadResponse q index entry value => execWaitHostReadResponse_canon h q index entry value

/-- Every scheduled event keeps the canonical form. -/
theorem runEvent_canon {s : State} (h : s.Canon) (e : Ev) : Res.Canon (runEvent e s) :=
  match e with
  | .deferredTrap thr => execDeferredTrap_canon h thr
  | .loadCompletion id => execLoadCompletion_canon h id
  | .storeBufferDrain core entry => execStoreBufferDrain_canon h core entry
  | .storeAcknowledgement id => execStoreAcknowledgement_canon h id
  | .windowWrite w => execWindowWrite_canon h w
  | .admitWrite core value => execAdmitWrite_canon h core value
  | .segmentTableRead id => execSegmentTableRead_canon h id
  | .remoteWaitRetry id => execRemoteWaitRetry_canon h id
  | .clusterCacheFill cl line => execClusterCacheFill_canon h cl line
  | .icacheFill core key => execIcacheFill_canon h core key
  | .releaseCompletion thr => execReleaseCompletion_canon h thr
  | .walkStart die k => execWalkStart_canon h die k
  | .walkCompletion die k => execWalkCompletion_canon h die k
  | .faultRecordAppend die part => execFaultRecordAppend_canon h die part
  | .faultResolutionWrite die word => execFaultResolutionWrite_canon h die word
  | .faultConsWrite die part value => execFaultConsWrite_canon h die part value
  | .faultTimeout die seq => execFaultTimeout_canon h die seq
  | .poisonCompletion id => execPoisonCompletion_canon h id
  | .joinCounterIncrement id => execJoinCounterIncrement_canon h id
  | .joinCounterDecrement id => execJoinCounterDecrement_canon h id
  | .syncTest id => execSyncTest_canon h id
  | .byteBarrierSubtract addr amount => execByteBarrierSubtract_canon h addr amount
  | .bbwaitRetry id => execBbwaitRetry_canon h id
  | .eccCorrectableError die st => execEccCorrectableError_canon h die st
  | .eccUncorrectableError die loc => execEccUncorrectableError_canon h die loc
  | .patrolScrub die => execPatrolScrub_canon h die
  | .flitCrcError die net link => execFlitCrcError_canon h die net link
  | .networkStarvationGrant die net link => execNetworkStarvationGrant_canon h die net link
  | .allocationGrant cl => execAllocationGrant_canon h cl
  | .zeroFillDone id => execZeroFillDone_canon h id
  | .tileDropArrival id => execTileDropArrival_canon h id
  | .tileIncArrival id => execTileIncArrival_canon h id
  | .tileFreeArrival id => execTileFreeArrival_canon h id
  | .tdropSend id => execTdropSend_canon h id
  | .deferredTileFree cl tile => execDeferredTileFree_canon h cl tile
  | .poolpWrite cl p value => execPoolpWrite_canon h cl p value
  | .poolstallWrite cl value => execPoolstallWrite_canon h cl value
  | .poolStallEvent cl p => execPoolStallEvent_canon h cl p
  | .speculationStart q => execSpeculationStart_canon h q
  | .watchedWrite pa len => execWatchedWrite_canon h pa len
  | .speculationDiscard sid cause => execSpeculationDiscard_canon h sid cause
  | .claimReply sid die => execClaimReply_canon h sid die
  | .speculationMerge sid => execSpeculationMerge_canon h sid
  | .dispatch core => execDispatch_canon h core
  | .headerArrival thr => execHeaderArrival_canon h thr
  | .stealProbe core => execStealProbe_canon h core
  | .stealGrant victim thief => execStealGrant_canon h victim thief
  | .stealReleaseDone id => execStealReleaseDone_canon h id
  | .stealDelivery id => execStealDelivery_canon h id
  | .probePauseExpiry core => execProbePauseExpiry_canon h core
  | .quiescenceWave lid => execQuiescenceWave_canon h lid
  | .launchCompletion lid => execLaunchCompletion_canon h lid
  | .messageArrival id => execMessageArrival_canon h id
  | .messageRetry id => execMessageRetry_canon h id
  | .matrixSelect cl => execMatrixSelect_canon h cl
  | .matrixWriteback cl => execMatrixWriteback_canon h cl
  | .selfTest cl failed => execSelfTest_canon h cl failed
  | .mxctlWrite cl value => execMxctlWrite_canon h cl value
  | .copyCompletion cl req => execCopyCompletion_canon h cl req
  | .indirectCompletion cl req => execIndirectCompletion_canon h cl req
  | .engineStateWrite cl off value => execEngineStateWrite_canon h cl off value
  | .systemRegisterWrite cl off value => execSystemRegisterWrite_canon h cl off value
  | .wridx q value => execWridx_canon h q value
  | .predictionCounterWrite q word value => execPredictionCounterWrite_canon h q word value
  | .slotReread q => execSlotReread_canon h q
  | .staleSlotTimeout q => execStaleSlotTimeout_canon h q
  | .launch q index => execLaunch_canon h q index
  | .waitAll q index => execWaitAll_canon h q index
  | .waitAny q index => execWaitAny_canon h q index
  | .waitEvaluation q index => execWaitEvaluation_canon h q index
  | .waitFaultTimeout q => execWaitFaultTimeout_canon h q
  | .signal q index => execSignal_canon h q index
  | .copy q index => execCopy_canon h q index
  | .tlbinv q index => execTlbinv_canon h q index
  | .tlbinvCompletion q index => execTlbinvCompletion_canon h q index
  | .fencePacket q index => execFencePacket_canon h q index
  | .nopPacket q index => execNopPacket_canon h q index
  | .segtab q index => execSegtab_canon h q index
  | .queueResidency q => execQueueResidency_canon h q
  | .watchdogPreempt lid => execWatchdogPreempt_canon h lid
  | .watchdogKill lid => execWatchdogKill_canon h lid
  | .watchdogFence lid => execWatchdogFence_canon h lid
  | .preemption thr => execPreemption_canon h thr
  | .partitionContextSwitch cl toPart => execPartitionContextSwitch_canon h cl toPart
  | .contextSwap cl => execContextSwap_canon h cl
  | .threadMigration thr toThr => execThreadMigration_canon h thr toThr
  | .coreMigration core toCore => execCoreMigration_canon h core toCore
  | .rdmaWrite qp key addr data => execRdmaWrite_canon h qp key addr data
  | .rdmaRead qp key addr len => execRdmaRead_canon h qp key addr len
  | .hostSend qp data => execHostSend_canon h qp data
  | .status r => execStatus_canon h r
  | .attest r nonce => execAttest_canon h r nonce
  | .fwload r image off data => execFwload_canon h r image off data
  | .asidset r asid entry => execAsidset_canon h r asid entry
  | .dfset r w0 w1 => execDfset_canon h r w0 w1
  | .pool7 r part value => execPool7_canon h r part value
  | .partdef r part rec => execPartdef_canon h r part rec
  | .partdel r part => execPartdel_canon h r part
  | .qset r q w0 w1 w2 w3 w4 => execQset_canon h r q w0 w1 w2 w3 w4
  | .qrestart r q index => execQrestart_canon h r q index
  | .qdel r q => execQdel_canon h r q
  | .donmap r dq q unmap => execDonmap_canon h r dq q unmap
  | .mrreg r kind base len rd wr => execMrreg_canon h r kind base len rd wr
  | .qpbind r qp q unbind => execQpbind_canon h r qp q unbind
  | .resume r lid => execResume_canon h r lid
  | .kill r lid => execKill_canon h r lid
  | .slotgo r thr pc sys => execSlotgo_canon h r thr pc sys
  | .coreback r core => execCoreback_canon h r core
  | .checkpoint r streams => execCheckpoint_canon h r streams
  | .restore r streams => execRestore_canon h r streams
  | .modset r modid => execModset_canon h r modid
  | .errread r die => execErrread_canon h r die
  | .evtreg r v6 addr port => execEvtreg_canon h r v6 addr port
  | .eventAcknowledgement n => execEventAcknowledgement_canon h n
  | .eventResend n => execEventResend_canon h n
  | .workdone op seq status => execWorkdone_canon h op seq status
  | .collectiveData p => execCollectiveData_canon h p
  | .collectiveAcknowledgement p => execCollectiveAcknowledgement_canon h p
  | .donation p => execDonation_canon h p
  | .groupWrite p => execGroupWrite_canon h p
  | .reduceReadRequest p => execReduceReadRequest_canon h p
  | .reduceReadReply p => execReduceReadReply_canon h p
  | .credit p => execCredit_canon h p
  | .collectiveStep die cmd step => execCollectiveStep_canon h die cmd step
  | .collectiveStepCompletion die cmd step => execCollectiveStepCompletion_canon h die cmd step
  | .linkFrameCrcError link => execLinkFrameCrcError_canon h link
  | .linkDownTimeout link => execLinkDownTimeout_canon h link
  | .powerOnReset b => execPowerOnReset_canon h b
  | .leaseRenewal die term => execLeaseRenewal_canon h die term
  | .leaseTimeout die => execLeaseTimeout_canon h die
  | .leaseClaim die claimant term => execLeaseClaim_canon h die claimant term
  | .clusterPowerUp group => execClusterPowerUp_canon h group
  | .matrixRateRamp cl => execMatrixRateRamp_canon h cl
  | .clusterPowerGate cl => execClusterPowerGate_canon h cl
  | .illegalInstruction w => execIllegalInstruction_canon h w
  | .fetchTrap poisoned at_ => execFetchTrap_canon h poisoned at_
  | .azrumLinkDown link => execAzrumLinkDown_canon h link
  | .azrumLinkUp link => execAzrumLinkUp_canon h link
  | .ecnCongestionNotification qp => execEcnCongestionNotification_canon h qp
  | .waitHostReadResponse q index entry value => execWaitHostReadResponse_canon h q index entry value

/-- A fetch that holds the slot, for a trap or a fill, keeps the canonical form. -/
theorem State.fetch_canon {s t : State} (h : s.Canon) {n : Nat} (hf : s.fetch n = .held t) : t.Canon := by
  unfold State.fetch at hf
  dsimp only at hf
  repeat' split at hf
  all_goals cases hf
  · exact State.modSlot_canon h _ _
  · exact State.trapExact_canon h _ _
  · exact State.modSlot_canon (State.fillLine_canon h _ _ _) _ _
  · exact State.modSlot_canon (State.fillLine_canon h _ _ _) _ _

/-- An event of the agenda, with the slots that wait for their next phase, keeps the canonical form. -/
theorem State.runNext_canon {s : State} (h : s.Canon) (e : Ev) (rest : List (Nat × Ev)) : Res.Canon (s.runNext e rest) := by
  have hr : Res.Canon (runEvent e { s with agenda := rest }) := runEvent_canon (s := { s with agenda := rest }) h e
  unfold State.runNext
  split
  · next t ht =>
    rw [ht] at hr
    split <;> exact hr
  · exact hr

/-- An issue turn keeps the canonical form: whether the slot stays, traps, fetches or executes. -/
theorem State.issue_canon {s : State} (h : s.Canon) : Res.Canon s.issue := by
  unfold State.issue
  dsimp only
  split
  · exact h
  split
  · exact execDeferredTrap_canon h _
  split
  · split
    · exact State.discard_canon h _ _
    · exact State.setSlot_canon h _ _
  split
  · next hf => exact State.fetch_canon h hf
  · exact execFetchTrap_canon h _ _
  · have hn : ((s.modSlot s.cur fun x => { x with fetched := none }).noteStart (s.slot s.cur).lidN).Canon :=
      State.noteStart_canon (State.modSlot_canon h _ _) _
    split
    · exact exec_canon hn _
    · exact execIllegalInstruction_canon hn _

/-- A step keeps the canonical form: a cycle's end, an event that is due, or an issue turn. -/
theorem step_canon {s : State} (h : s.Canon) : Res.Canon (step s) := by
  unfold step
  split
  · exact h
  split
  · exact State.runNext_canon h _ _
  · exact State.issue_canon (s := { s with cur := s.turn * 16 + s.cycle % 16, turn := s.turn + 1 }) h

theorem Saved.canon_iff (v : Saved) : v.Canon ↔ Claims.savedCanonical v :=
  ⟨fun ⟨bytes, grans, poison, slots, cores, tiles⟩ => ⟨bytes, grans, poison, slots, cores, tiles⟩,
    fun ⟨bytes, grans, poison, slots, cores, tiles⟩ => ⟨bytes, grans, poison, slots, cores, tiles⟩⟩
/-- The form that the statements speak of is the one the operations are shown to keep. -/
theorem State.canon_iff (s : State) : s.Canon ↔ Claims.mapsCanonical s := by
  constructor
  · rintro ⟨mem, grans, poison, slots, cores, clusters, each, images⟩
    exact ⟨mem, grans, poison, slots, cores, clusters,
      fun e he => ⟨(each e he).tiles, fun v hv => (Saved.canon_iff v).mp ((each e he).shadow v hv)⟩,
      fun e he v hv => (Saved.canon_iff v).mp (images e he v hv)⟩
  · rintro ⟨mem, grans, poison, slots, cores, clusters, each, images⟩
    exact ⟨mem, grans, poison, slots, cores, clusters,
      fun e he => ⟨(each e he).1, fun v hv => (Saved.canon_iff v).mpr ((each e he).2 v hv)⟩,
      fun e he v hv => (Saved.canon_iff v).mpr (images e he v hv)⟩

end Sys2Proof.Machine

open Sys2Proof.Machine in
/-- Settles O59: `step_canon` (every step keeps `State.Canon`), read through `State.canon_iff`. -/
theorem stepKeepsMapsCanonical : Obligations.StepKeepsMapsCanonical := by
  intro s t hs ht
  have h := step_canon ((State.canon_iff s).mpr hs)
  rw [ht] at h
  exact (State.canon_iff t).mp h

/-! ## The state at reset (O60): every map is empty, so each unit reads as the default of its structure -/

namespace Sys2Proof.Machine

/-- R104: the only pool partition with a setting at reset is 7. -/
theorem Cluster.default_pool {p : Nat} (h : p < 7) : Cluster.pool {} p = {} := by
  simp [Cluster.pool, mapGet, show 7 ≠ p by omega]
theorem Slot.default_gReg (n : Nat) : Slot.gReg {} n = {} := ite_self _

end Sys2Proof.Machine

open Sys2Proof.Machine in
/-- Settles O60: the reset state is canonical (`State.canon_reset`), and its units read as their structures' defaults. -/
theorem resetValues : Obligations.ResetValues := by
  refine ⟨(State.canon_iff _).mp State.canon_reset, rfl, ?_, ?_, ?_, ?_, rfl, rfl, rfl, fun _ => rfl⟩
  · exact fun t => ⟨rfl, fun _ => rfl, fun n _ => Slot.default_gReg n, fun _ => rfl⟩
  · exact fun c => ⟨rfl, rfl⟩
  · exact fun cl i => ⟨rfl, rfl, rfl⟩
  · exact fun cl => ⟨rfl, fun p hp => Cluster.default_pool hp, rfl⟩

/-! ## Traps and pre-emption at issue (O19) -/

namespace Sys2Proof.Machine

/-- 02 R60: a held deferred trap is taken with its own cause, value and PC. -/
theorem execDeferredTrap_held {s : State} {t : Nat} {h : HeldTrap} (hd : (s.slot t).deferred = some h) :
    execDeferredTrap t s =
      .next (s.setSlot t ({ s.slot t with deferred := none }.takeTrap h.cause h.tval h.tpc (s.slot t).pc true)) := by
  simp only [execDeferredTrap, hd]

/-- A slot that parks leaves every other slot and memory alone. -/
theorem State.parkSlot_slots (s : State) (t : Nat) :
    (s.parkSlot t).slot t = { s.slot t with status := .parked, relFrom := none, fetched := none } ∧
      (s.parkSlot t).mem = s.mem ∧ ∀ u, u ≠ t → (s.parkSlot t).slot u = s.slot u :=
  ⟨State.slot_setSlot_task _ _ SlotStatus.noConfusion, rfl, fun _ hu => State.slot_modSlot_other _ _ hu⟩

/-- R409: outside a speculation a slot that runs or waits keeps the request in system mode and parks in user mode. -/
theorem State.preemptSlot_running {s : State} {t : Nat} (hs : s.specOf (s.slot t).lidN = none)
    (hr : (s.slot t).status = .ready ∨ ∃ b, (s.slot t).status = .blocked b) :
    s.preemptSlot t = if (s.slot t).mode = .system then s.setSlot t { s.slot t with preempt := true } else s.parkSlot t := by
  rcases hr with hr | ⟨b, hr⟩ <;> simp [State.preemptSlot, hr, hs]

end Sys2Proof.Machine

open Sys2Proof Sys2Proof.Machine Sys2Proof.Claims in
/-- Settles O19: exact traps by `State.next_trapExact`, the held trap by `execDeferredTrap_held`, pre-emption by the slot's
mode (`State.preemptSlot_running`). -/
theorem issueTimeTraps : Obligations.IssueTimeTraps := by
  intro s
  refine ⟨fun hp => ⟨fun w => ?_, fun v => ⟨State.next_trapExact hp 4 v, State.next_trapExact hp 7 v⟩⟩,
    fun t h hd => execDeferredTrap_held hd, fun t hs hr => ⟨fun hu => ?_, fun hm => ?_⟩⟩
  · rw [← BitVec.ofNat_toNat]
    exact State.next_trapExact hp 1 _
  · refine ⟨s.parkSlot t, ?_, State.parkSlot_slots s t⟩
    exact congrArg Host.Outcome.next ((State.preemptSlot_running hs hr).trans (if_neg (by simp [hu])))
  · exact congrArg Host.Outcome.next ((State.preemptSlot_running hs hr).trans (if_pos hm))

/-! ## Access checks (O20) -/

namespace Sys2Proof.Machine
open Sys2Proof.Claims

/-- R13 order 1: an address that is no multiple of the access's alignment. -/
theorem State.check_misaligned {s : State} {t : Nat} {r : Req} (ha : (r.desc.base.toNat + r.off) % 2 ^ 64 % r.align ≠ 0) :
    s.check t r = .error (3, r.off) := if_pos (by simpa using ha)
/-- R13 orders 3 and 4, on an aligned access without interleave: the rights, the limit, and then the address it goes to. -/
theorem State.check_aligned {s : State} {t : Nat} {r : Req} (ha : (r.desc.base.toNat + r.off) % 2 ^ 64 % r.align = 0)
    (hi : r.il = 0) (hs : r.scratch = false) :
    s.check t r =
      if r.desc.has r.need = false ∨ r.desc.limit < r.off + r.size then .error (4, r.off)
      else if r.desc.chip then s.checkChip t r
      else .ok [⟨.glob (s.asidOf (s.slot t).lidN) ((r.desc.base.toNat + r.off) % 2 ^ 64), r.size, 0, .new⟩] := by
  unfold State.check
  cases hn : r.desc.has r.need <;> simp [-Nat.reducePow, ha, hi, hs]

/-- A load whose check fails takes the exact trap of that cause and value (11 R282). -/
theorem State.memLoad_error {s : State} {r : Req} {e : Nat × Nat} (h : s.check s.cur r = .error e) (d : Dest) (g : GranOp)
    (f : Slot → Slot) : s.memLoad r d g f = s.trapExact e.1 (BitVec.ofNat 64 e.2) := by
  simp only [State.memLoad, h]
/-- And so does a store. -/
theorem State.memStore_error {s : State} {r : Req} {e : Nat × Nat} (h : s.check s.cur r = .error e) (v : VWord)
    (fill : Option Bool) (g rel : Bool) : s.memStore r v fill g rel = s.trapExact e.1 (BitVec.ofNat 64 e.2) := by
  simp only [State.memStore, h]

/-- LD with its operands ready is the access of its request. -/
theorem execLd_ready {s : State} {o : MLd} (h : memReady s o.mem []) (z : LdSize) :
    execLd z o s = .next (s.memLoad (loadReq s o.mem (LdSizeBytes z) 1 false) (.g o.t (LdSizeBytes z) (ldSigned z)) .none
      (·.eg o.t)) := by
  obtain ⟨hf, hg⟩ := h
  exact congrArg Host.Outcome.next ((State.withSrcs_of_full hf _).trans (State.withSeg_ready hg _))
/-- ST with its operands ready is the access of its request. -/
theorem execSt_ready {s : State} {o : MSt} (h : memReady s o.mem [(.g, o.t)]) (z : Size) :
    execSt z o s = .next (s.memStore (storeReq s o.mem (sizeBytes z) (((me s).rg o.t).toNat % 2 ^ (8 * sizeBytes z)) false)
      (BitVec.ofNat 512 (((me s).rg o.t).toNat % 2 ^ (8 * sizeBytes z))) none false false) := by
  obtain ⟨hf, hg⟩ := h
  exact congrArg Host.Outcome.next ((State.withSrcs_of_full (full_swap hf) _).trans (State.withSeg_ready hg _))

end Sys2Proof.Machine

open Sys2Proof.Machine in
/-- Settles O20: the order of the checks by `State.check_misaligned` and `State.check_aligned`; a failed one traps by
`State.memLoad_error` and `State.memStore_error`. -/
theorem accessChecks : Obligations.AccessChecks := by
  refine ⟨fun s t r hi hs => ⟨State.check_misaligned, fun ha hn => ?_, fun ha _ hl => ?_, fun ha hn hl hc => ?_⟩,
    fun s c v hp => ⟨fun z o hr he => ?_, fun z o hr he => ?_⟩⟩
  · rw [State.check_aligned ha hi hs, if_pos (.inl hn)]
  · rw [State.check_aligned ha hi hs, if_pos (.inr hl)]
  · rw [State.check_aligned ha hi hs, if_neg (by simp [hn, hl]), if_neg (by simp [hc])]
  · exact (execLd_ready hr z).trans ((congrArg _ (State.memLoad_error he ..)).trans (State.next_trapExact hp c _))
  · exact (execSt_ready hr z).trans ((congrArg _ (State.memStore_error he ..)).trans (State.next_trapExact hp c _))

/-! ## Fences and segment instructions (O25) -/

namespace Sys2Proof.Machine
open Sys2Proof.Claims

/-! ### Releases and acquires (05 R136, R137) -/

/-- An acquire changes neither memory nor a slot. -/
theorem State.acquire_keeps (s : State) (cl : Nat) (sc : Scope) :
    (s.acquire cl sc).mem = s.mem ∧ (s.acquire cl sc).slots = s.slots ∧ (s.acquire cl sc).cur = s.cur := by
  cases sc <;> exact ⟨rfl, rfl, rfl⟩
/-- With no store buffered, no transaction on its way and no store counted, a release is complete. -/
theorem State.releaseReady_setSlot {s : State} {t : Nat} {x : Slot} (hb : (s.core (coreOf t)).sb = []) (hf : s.flights = [])
    (hx : x.status = .ready) (hc : x.sbcnt = 0) (start : Nat) (sc : Scope) :
    (s.setSlot t x).releaseReady t start sc = true := by
  cases sc <;> simp [State.releaseReady, hb, hf, hc, State.slot_setSlot_task, hx]
/-- A slot in no release stays as it is when its release is cleared. -/
theorem Slot.clearRelease {x : Slot} (hf : x.relFrom = none) (hw : x.relWaits = []) :
    { x with relFrom := none, relWaits := [] } = x := by
  cases x; cases hf; cases hw; rfl
/-- 05 R136: a release with nothing outstanding goes on at once, with memory and the issuing slot as they were. -/
theorem State.withRelease_quiet {s : State} (h : Claims.quiet s) (sc : Scope) (k : State → State) :
    ∃ u, s.withRelease sc k = k u ∧ u.mem = s.mem ∧ u.cur = s.cur ∧ u.slot s.cur = me s := by
  obtain ⟨hst, hr, hw, hc, hb, hf⟩ := h
  have hrun : (me s).status ≠ .idle := by simp [hst]
  have hdrain : s.drainCore (coreOf s.cur) = s := by simp [State.drainCore, hb]
  cases sc
  case thread | core => exact ⟨s, rfl, rfl, rfl, rfl⟩
  all_goals
    simp (disch := assumption) only [State.withRelease, State.modSlot, hdrain, hr, Option.isSome_none, Bool.false_eq_true,
      if_false, State.releaseReady_setSlot hb hf, if_true]
    refine ⟨_, rfl, rfl, rfl, ?_⟩
    simp (disch := assumption) only [State.slot_setSlot_task]
    exact Slot.clearRelease hr hw
/-- An instruction that ends in a state with the same memory and issuing slot only advances that slot. -/
theorem State.finish_id_of_same {s u : State} (hst : (me s).status = .ready) (hm : u.mem = s.mem) (hc : u.cur = s.cur)
    (hx : u.slot s.cur = me s) :
    (u.finish id).mem = s.mem ∧ (u.finish id).slot s.cur = { me s with pc := (me s).pc + 4 } := by
  refine ⟨hm, ?_⟩
  have : (u.finish id).slot s.cur = (u.setSlot s.cur (u.slot s.cur).next).slot s.cur := by rw [← hc]; rfl
  rw [this, hx, State.slot_setSlot_task _ _ (by simp [hst])]
  rfl
/-- 11 R293: with nothing outstanding, a fence that releases goes on at once. -/
theorem execFence_quiet {s : State} (h : Claims.quiet s) {k : FenceKind} (hk : k ≠ .acq) (sc : Scope) :
    ∃ t, execFence k sc s = .next t ∧ t.mem = s.mem ∧ t.slot s.cur = { me s with pc := (me s).pc + 4 } := by
  cases k with
  | acq => exact absurd rfl hk
  | rel =>
    obtain ⟨u, hu, hm, hc, hx⟩ := State.withRelease_quiet h sc fun s => s.finish id
    exact ⟨_, congrArg Host.Outcome.next hu, State.finish_id_of_same h.1 hm hc hx⟩
  | ar =>
    obtain ⟨u, hu, hm, hc, hx⟩ := State.withRelease_quiet h sc fun s => (s.acquire (clusterOf s.cur) sc).finish id
    obtain ⟨am, as, ac⟩ := State.acquire_keeps u (clusterOf u.cur) sc
    refine ⟨_, congrArg Host.Outcome.next hu, State.finish_id_of_same h.1 (am.trans hm) (ac.trans hc) ?_⟩
    rw [← hx, State.slot, as]; rfl
/-- 05 R143: a thread with no buffered store drains nothing. -/
theorem State.drainThread_none {s : State} {t : Nat} (h : ∀ e ∈ (s.core (coreOf t)).sb, e.thr ≠ t) :
    s.drainThread t = s := by
  have : (s.core (coreOf t)).sb.filter (fun e => e.thr = t) = [] := by simpa [List.filter_eq_nil_iff] using h
  simp [State.drainThread, State.drainFirst, this]
/-- 11 R296: DRAIN of a thread with nothing outstanding goes on. -/
theorem execDrain_drained {s : State} (hc : (me s).sbcnt = 0) (hb : ∀ e ∈ (s.core (coreOf s.cur)).sb, e.thr ≠ s.cur)
    (hf : ∀ f ∈ s.flights, f.owner = s.cur → f.access = false) :
    execDrain s = goesOn s { me s with pc := (me s).pc + 4 } := by
  have hd : s.drained s.cur = true := by
    simp only [State.drained, Bool.and_eq_true, List.all_eq_true, decide_eq_true_eq]
    exact ⟨⟨hc, hb⟩, fun f h => by by_cases ho : f.owner = s.cur <;> simp [ho, hf f h]⟩
  simp only [execDrain, State.drainThread_none hb, hd, if_true]
  exact State.next_finish s rfl

/-! ### Segment descriptors (01 R5, R16, R17) -/

/-- Bits of a word as `extractLsb'` reads them. -/
theorem bits_eq_zero_iff (x : Word) (lo n : Nat) : bits x.toNat (lo + n) lo = 0 ↔ x.extractLsb' lo (n + 1) = 0 := by
  rw [← BitVec.toNat_inj, BitVec.extractLsb'_toNat, Nat.shiftRight_eq_div_pow, bits, show lo + n + 1 - lo = n + 1 by omega]
  rfl
/-- The top three bits of a word, which name a segment register. -/
theorem bits_top (x : Word) : bits x.toNat 63 61 = x.toNat / 2 ^ 61 := by
  have := x.isLt
  unfold bits
  omega
/-- The fields of a descriptor with SEL 0xFF, put together from its KIND, rights and LIMIT. -/
theorem Desc.fields (base : Word) (chip : Bool) {rights lim : Nat} (hr : rights < 32) (hl : lim < 2 ^ 48) :
    let d : Desc := ⟨base, BitVec.ofNat 64 (0xFF * 2 ^ 56 + b2n chip * 2 ^ 53 + rights * 2 ^ 48 + lim)⟩
    d.limit = lim ∧ d.rights = rights ∧ d.chip = chip ∧ d.sel = 0xFF := by
  have hb : b2n chip ≤ 1 := by cases chip <;> decide
  have hw : (BitVec.ofNat 64 (0xFF * 2 ^ 56 + b2n chip * 2 ^ 53 + rights * 2 ^ 48 + lim)).toNat =
      0xFF * 2 ^ 56 + b2n chip * 2 ^ 53 + rights * 2 ^ 48 + lim := BitVec.toNat_ofNat .. |>.trans (Nat.mod_eq_of_lt (by omega))
  refine ⟨?_, ?_, ?_, ?_⟩
  · simp only [Desc.limit, hw]; omega
  · simp only [Desc.rights, hw]; omega
  · have : (0xFF * 2 ^ 56 + b2n chip * 2 ^ 53 + rights * 2 ^ 48 + lim) / 2 ^ 53 % 2 = b2n chip := by omega
    simp only [Desc.chip, BitVec.getLsbD, hw, Nat.testBit_eq_decide_div_mod_eq, this]
    cases chip <;> rfl
  · simp only [Desc.sel, hw]; omega

/-- What SGNARROW asks of its operands (01 R17): no reserved bit, no wider range, no further right. -/
def Desc.fits (d : Desc) (a b : Word) : Prop :=
  b.extractLsb' 53 8 = 0 ∧ a.toNat + b.toNat % 2 ^ 48 ≤ d.limit ∧ d.has (b.toNat / 2 ^ 48 % 32) = true
/-- SGNARROW derives a descriptor exactly where they fit. -/
theorem narrow_eq_ite (d : Desc) (a b : Word) [Decidable (d.fits a b)] :
    narrow d a b = if d.fits a b then
      some ⟨d.base + a,
        BitVec.ofNat 64 (0xFF * 2 ^ 56 + b2n d.chip * 2 ^ 53 + b.toNat / 2 ^ 48 % 32 * 2 ^ 48 + b.toNat % 2 ^ 48)⟩
    else none := by
  have hb : bits b.toNat 60 53 = 0 ↔ b.extractLsb' 53 8 = 0 := bits_eq_zero_iff b 53 7
  have hl : bits b.toNat 47 0 = b.toNat % 2 ^ 48 := by simp [bits]
  have hr : bits b.toNat 52 48 = b.toNat / 2 ^ 48 % 32 := rfl
  simp only [narrow, hl, hr, Desc.fits, Desc.has, ← hb, Bool.and_eq_true, decide_eq_true_eq, and_assoc]

/-- 01 R17: where they fit, the derived descriptor has the offset's BASE, the asked LIMIT and rights, and the same KIND. -/
theorem narrow_of_fits {d : Desc} {a b : Word} (h : d.fits a b) :
    ∃ e, narrow d a b = some e ∧ e.base = d.base + a ∧ e.limit = b.toNat % 2 ^ 48 ∧ e.rights = b.toNat / 2 ^ 48 % 32 ∧
      e.chip = d.chip ∧ e.sel = 0xFF := by
  classical
  exact ⟨_, (narrow_eq_ite d a b).trans (if_pos h), rfl,
    Desc.fields _ _ (Nat.mod_lt _ (by decide)) (Nat.mod_lt _ (by decide))⟩
theorem narrow_of_not_fits {d : Desc} {a b : Word} (h : ¬d.fits a b) : narrow d a b = none := by
  classical
  exact (narrow_eq_ite d a b).trans (if_neg h)

/-! ### Segment instructions (11 R294, R298-R300) -/

/-- 11 R294: FENCER acquires the range that its operands name. -/
theorem execFencer_range {s : State} {o : Rab} (sc : Scope) (h : full s [(.g, o.a), (.g, o.b)]) :
    let b := ((me s).rg o.b).toNat
    let d := s.segment s.cur (b / 2 ^ 61 % 8)
    mapGet false (me s).sgPend (b / 2 ^ 61 % 8) = false → b / 2 ^ 48 % 2 ^ 13 = 0 → d.chip = false → d.has 1 = true →
    ((me s).rg o.a).toNat + b % 2 ^ 48 ≤ d.limit →
    execFencer sc o s = .next ((s.acquireRange (clusterOf s.cur) (s.asidOf (me s).lidN)
      ((d.base + (me s).rg o.a).toNat) (b % 2 ^ 48)).finish id) := by
  intro b d hp hz hc hr hl
  have hseg : bits b 63 61 = b / 2 ^ 61 % 8 := rfl
  have hres : bits b 60 48 = 0 := hz
  have hlen : bits b 47 0 = b % 2 ^ 48 := by simp [bits]
  refine congrArg Host.Outcome.next ((State.withSrcs_of_full h _).trans <|
    (State.withSeg_ready (by rw [hseg]; exact hp) _).trans ?_)
  rw [hseg, hres, hlen]
  exact if_neg (by simp [-Nat.reducePow, d, b, hc, hr, hl])
/-- 11 R298: SGSET in system mode loads a descriptor whose reserved bits are zero. -/
theorem execSgset_loads {s : State} {o : Sgw} (h : full s [(.g, o.a), (.g, o.b)]) (hp : mapGet false (me s).sgPend o.sd = false)
    (hm : (me s).mode = .system) (hz : ((me s).rg o.b).extractLsb' 54 2 = 0) :
    execSgset o s = goesOn s { (me s).wsg o.sd ⟨(me s).rg o.a, (me s).rg o.b⟩ with pc := (me s).pc + 4 } := by
  have hb : bits ((me s).rg o.b).toNat 55 54 = 0 := (bits_eq_zero_iff _ 54 1).mpr hz
  rw [← State.next_finish s (f := (·.wsg o.sd ⟨(me s).rg o.a, (me s).rg o.b⟩)) rfl]
  exact congrArg Host.Outcome.next ((State.privileged_system hm _ _).trans <| (State.withSrcs_of_full h _).trans <|
    (State.withSeg_ready hp _).trans (if_neg (not_not_intro hb)))
/-- 11 R299: SGNARROW loads the descriptor it derives, or traps with the offset as its value. -/
theorem execSgnarrow_ready {s : State} {o : Sgw} (h : full s [(.g, o.a), (.g, o.b)])
    (hp : mapGet false (me s).sgPend o.sd = false) (hs : mapGet false (me s).sgPend (((me s).rg o.b).toNat / 2 ^ 61) = false) :
    execSgnarrow o s = .next ((narrow ((me s).rsg (((me s).rg o.b).toNat / 2 ^ 61)) ((me s).rg o.a) ((me s).rg o.b)).elim
      (s.trapExact 4 ((me s).rg o.a)) fun d => s.finish (·.wsg o.sd d)) := by
  rw [← bits_top] at hs ⊢
  refine congrArg Host.Outcome.next ((State.withSrcs_of_full h _).trans <| (State.withSeg_ready hs _).trans <|
    (State.withSeg_ready hp _).trans ?_)
  cases narrow ((me s).rsg (bits ((me s).rg o.b).toNat 63 61)) ((me s).rg o.a) ((me s).rg o.b) <;> rfl

end Sys2Proof.Machine

open Sys2Proof.Machine Sys2Proof.Claims in
/-- Settles O25: a release or DRAIN with nothing outstanding is complete (`execFence_quiet`, `execDrain_drained`), SGNARROW
derives a descriptor exactly where its operands fit (`narrow_eq_ite`, `Desc.fields`), and the rest are the checks passed. -/
theorem fencesAndSegments : Obligations.FencesAndSegments := by
  refine ⟨fun s => ⟨fun k sc hsc => ?_, fun sc => ?_, fun hq k sc hk => execFence_quiet hq hk sc, execDrain_drained,
      ⟨_, rfl, rfl, rfl, rfl⟩, fun sc o _ hf => execFencer_range sc hf⟩,
    fun s => ⟨fun o hf hd => ⟨execSgset_loads hf hd, ?_⟩, fun d sg hi hp => ?_, fun sd sg hp hd => ?_⟩⟩
  · rcases hsc with rfl | rfl | ⟨rfl, rfl⟩
    · cases k <;> rfl
    · cases k <;> rfl
    · rfl
  · obtain ⟨hm, -, -⟩ := s.acquire_keeps (clusterOf s.cur) sc
    refine ⟨_, rfl, hm, ?_⟩
    cases sc <;> rfl
  · intro src lim rights fits hs
    have hx := execSgnarrow_ready hf hd hs
    refine ⟨fun h => ?_, fun hp h => ?_⟩
    · obtain ⟨d, hn, hb, hl, hr, hc, hsel⟩ := narrow_of_fits h
      rw [show narrow ((me s).rsg _) _ _ = some d from hn] at hx
      exact ⟨d, hb, hl, hr, hc, hsel, hx.trans (State.next_finish s rfl)⟩
    · rw [show narrow ((me s).rsg _) _ _ = none from narrow_of_not_fits h] at hx
      exact hx.trans (State.next_trapExact hp 4 _)
  · exact (congrArg Host.Outcome.next (State.withSeg_ready hp _)).trans (State.next_finish s (Slot.wg_pc ..))
  · exact (congrArg Host.Outcome.next ((State.withSeg_ready hp _).trans (State.withSeg_ready hd _))).trans
      (State.next_finish s rfl)

/-! ## Walks and fault records (O43) -/

namespace Sys2Proof.Machine
open Sys2Proof.Claims

/-- A load of 8 bytes at `va` under ticket 7, parked on the record with key 18 of die 0. -/
def parkedLoad (va : Nat) : Flight :=
  { id := 7, thr := 0, pc := 0, lid := 3, asid := 4, born := 0, sys := false, pieces := [⟨.glob 4 va, 8, 0, .parked 0 18⟩],
    kind := .load (.g 5 8 false) .none .read 0 }
/-- That record: the page of 0x1000 has no translation (02 R55), and the load at ticket 7 waits on it. -/
def loadRecord : FRec :=
  { va := 0x1000, waiters := 1, eng := false, acc := 0, kind := 3, level := 0, cluster := 0, launch := 3, part := 1, asid := 4,
    entry := 0, key := 18, made := true, seq := 9, appended := true, born := 0, who := [(7, 0)] }
/-- Two loads on their way under the one ticket 7, to different pages, both parked on the record. -/
def twoLoadsOneTicket : State :=
  { flights := [parkedLoad 0x1000, parkedLoad 0x11000], clusters := [(0, { powered := true })],
    dies := [(0, { records := [loadRecord] })], nextId := 19 }

theorem twoLoadsOneTicket_canonical : canonical twoLoadsOneTicket :=
  ⟨rfl, rfl, rfl, rfl, rfl, by decide +kernel,
    mapGet_of_all (fun c : Cluster => mapWf {} c.tiles = true) rfl (by decide +kernel)⟩
/-- `others` leaves out every transaction under the ticket, so the second load is none of them. -/
theorem twoLoadsOneTicket_others : others twoLoadsOneTicket 7 = [] := rfl
theorem twoLoadsOneTicket_reaching : reaching twoLoadsOneTicket 7 (parkedLoad 0x1000) :=
  ⟨twoLoadsOneTicket_canonical, rfl, rfl, rfl, rfl, fun _ hd => nomatch hd⟩
theorem twoLoadsOneTicket_oneRecord : oneRecord twoLoadsOneTicket 0 loadRecord 9 :=
  ⟨rfl, rfl, rfl, by decide +kernel⟩
theorem twoLoadsOneTicket_onlyFlights : onlyFlights twoLoadsOneTicket 0 18 := by
  unfold onlyFlights; decide +kernel
theorem twoLoadsOneTicket_portsIdle : portsIdle twoLoadsOneTicket 7 :=
  ⟨by decide +kernel, by simp [twoLoadsOneTicket_others]⟩
/-- The resolution sends both pieces to walk, as one ticket names both. The page of 0x11000 then waits at the port without an
entry of its own, and the port, served, attaches ticket 7 a second time to the entry of 0x1000. -/
theorem twoLoadsOneTicket_resolved :
    ((twoLoadsOneTicket.resolutionWord 0 9).die 0).misses = [⟨⟨4, 0⟩, false, true, 0, [(7, 0), (7, 0)]⟩] := by
  decide +kernel

end Sys2Proof.Machine

open Sys2Proof.Machine Sys2Proof.Claims in
/-- Refutes O43, at its clause of the resolution that lets a parked access walk again: nothing it assumes says that one ticket
names one transaction. In `twoLoadsOneTicket` a second load has the first one's ticket, so the miss entry of the replayed
load lists it twice (`twoLoadsOneTicket_resolved`) and not once, as the clause says. -/
theorem not_walksAndFaultRecords : ¬ Obligations.WalksAndFaultRecords := by
  intro h
  obtain ⟨-, -, -, hresolve, -, -⟩ := h twoLoadsOneTicket 0 twoLoadsOneTicket_canonical (by decide +kernel)
  obtain ⟨hwalk, -, -⟩ := hresolve (parkedLoad 0x1000) loadRecord 9 0x1000 8 twoLoadsOneTicket_reaching rfl
    twoLoadsOneTicket_oneRecord twoLoadsOneTicket_onlyFlights rfl rfl rfl twoLoadsOneTicket_portsIdle (by decide)
  obtain ⟨t, ht, -, -, -, -, hm⟩ := hwalk (by simp [parkedLoad, twoLoadsOneTicket_others]) ⟨rfl, rfl, rfl⟩ rfl
  have he : t = twoLoadsOneTicket.resolutionWord 0 9 := (Host.Outcome.next.inj ht).symm
  rw [he, twoLoadsOneTicket_resolved] at hm
  exact absurd hm (by decide)

/-! ## Tile allocation (O33) -/

namespace Sys2Proof.Machine
open Sys2Proof.Claims

/-! ### Maps and units -/

/-- Of two writes at one key, the second stays; the first must be listed, or it could free an older entry of the key. -/
theorem mapPut_mapPut {α : Type} [DecidableEq α] (d : α) (m : SMap α) (k : Nat) {v : α} (w : α) (h : v ≠ d) :
    mapPut d (mapPut d m k v) k w = mapPut d m k w := by
  induction m with
  | nil => simp [mapPut, h]
  | cons e rest ih =>
    obtain ⟨j, x⟩ := e
    by_cases hjk : j < k
    · simp [mapPut, hjk, ih]
    · by_cases he : j = k
      · simp [mapPut, he, h]
      · simp [mapPut, hjk, he, h]
/-- A cleared range reads as the default; every other key is left alone. -/
theorem mapGet_mapClear {α : Type} (d : α) (m : SMap α) (lo n k : Nat) :
    mapGet d (mapClear m lo n) k = if lo ≤ k ∧ k < lo + n then d else mapGet d m k := by
  induction m with
  | nil => simp [mapClear, mapGet]
  | cons e rest ih =>
    obtain ⟨j, v⟩ := e
    rw [mapClear] at ih
    by_cases hj : j < lo ∨ lo + n ≤ j
    · rw [mapClear, List.filter_cons_of_pos (by simpa using hj)]
      simp only [mapGet, ih]
      split
      · rw [if_neg (by omega)]
      · rfl
    · rw [mapClear, List.filter_cons_of_neg (by simpa using hj), ih]
      split
      · rfl
      · rw [mapGet, if_neg (by omega)]
/-- Of two settings of a slot the second stays, if the first left a task in it. -/
theorem State.setSlot_setSlot (s : State) (t : Nat) {x : Slot} (y : Slot) (h : x.status ≠ .idle) :
    (s.setSlot t x).setSlot t y = s.setSlot t y :=
  congrArg (fun m => { s with slots := m }) (mapPut_mapPut _ _ _ _ fun hx => h (congrArg Slot.status hx))
/-- Two changes of a slot that holds a task are one. -/
theorem State.modSlot_modSlot (s : State) (t : Nat) (f g : Slot → Slot) (h : (f (s.slot t)).status ≠ .idle) :
    (s.modSlot t f).modSlot t g = s.modSlot t fun x => g (f x) := by
  unfold State.modSlot
  rw [State.slot_setSlot_task _ _ h, State.setSlot_setSlot _ _ _ h]
/-- A cluster with a tile that is not FREE reads back as it was set, whatever the form of the map. -/
theorem State.cluster_modCluster_of_tile (s : State) (cl : Nat) {i : Nat} {f : Cluster → Cluster}
    (h : (mapGet {} (f (s.cluster cl)).tiles i).st ≠ .free) : (s.modCluster cl f).cluster cl = f (s.cluster cl) :=
  mapGet_mapPut_listed _ _ _ _ fun hc => h (by rw [hc]; rfl)
/-- An operation on a cluster that stands live for the launch takes place there. -/
theorem State.atPartR_live {α : Type} {s : State} {lid cl : Nat} (h : s.whereIs lid cl = .live) (f : State → State × α) :
    s.atPartR lid cl f = f s := by simp only [State.atPartR, h]
theorem State.onThread_live {s : State} {lid t : Nat} (h : s.whereIs lid (clusterOf t) = .live) (f : Slot → Slot) :
    s.onThread lid t f = s.modSlot t f := congrArg Prod.fst (State.atPartR_live h _)
/-- A slot in rotation stays as it is when something that slots wait for is over. -/
theorem Slot.wake_ready {x : Slot} (h : x.status = .ready) (why : Block) : x.wake why = x := if_neg (by simp [h])
/-- A result that reaches a slot in rotation makes its register FULL. -/
theorem Slot.arriveG_ready {x : Slot} (h : x.status = .ready) (n : Nat) (v : Word) : x.arriveG n v = x.wg n v :=
  Slot.wake_ready ((Slot.wg_status x n v).trans h) _

/-! ### Eligibility and the grant (04 R105, R106, R109) -/

theorem Cluster.shortfalls_eq_sum (c : Cluster) :
    c.shortfalls = ((List.range 8).map fun q => (c.pool q).res - c.held q).sum := by
  rw [List.sum_eq_foldl, List.foldl_map]; rfl
theorem eligible_iff (s : State) (cl p : Nat) : (s.cluster cl).eligible p = true ↔ eligibleFor s cl p := by
  simp [Cluster.eligible, eligibleFor, Cluster.shortfalls_eq_sum, and_assoc]
/-- With no request queued, an eligible one is granted at once. -/
theorem grantsNow_iff {s : State} {cl : Nat} (h : (s.cluster cl).allocQ = []) (p : Nat) :
    (s.cluster cl).grantsNow p = true ↔ eligibleFor s cl p := by
  simp [Cluster.grantsNow, h, eligible_iff]

/-- The search of R106 finds the lowest-numbered FREE tile. -/
theorem find_lowestFree {s : State} {cl i : Nat} (h : lowestFree s cl i) :
    (List.range 512).find? (fun j => (s.tile cl j).st = .free) = some i := by
  obtain ⟨hi, hf, hlow⟩ := h
  rw [List.find?_range_eq_some]
  exact ⟨by simpa using hf, by simpa using hi, fun j hj => by simpa using hlow j hj⟩

/-- R99: the bytes of memory that hold tile `i` of cluster `cl`, its data and its sideband. -/
def tileByteAt (cl i c : Nat) : Prop :=
  2 ^ 52 ≤ c ∧ (c - 2 ^ 52) / 2 ^ 32 = cl ∧ ((c - 2 ^ 52) / 2 ^ 24 % 256 = 128 ∧ (c - 2 ^ 52) % 2 ^ 24 / 0x1000 = i ∨
    (c - 2 ^ 52) / 2 ^ 24 % 256 = 129 ∧ (c - 2 ^ 52) % 2 ^ 24 / 0x80 = i)
/-- A filled tile's bytes are zero, and every other byte is as before. -/
theorem State.readByte_zeroTile (s : State) (cl : Nat) {i : Nat} (hi : i < 512) (c : Nat) :
    (tileByteAt cl i c → readByte (s.zeroTile cl i).mem c = 0) ∧
      (¬tileByteAt cl i c → readByte (s.zeroTile cl i).mem c = readByte s.mem c) := by
  have hm : (s.zeroTile cl i).mem = mapClear (mapClear s.mem (2 ^ 52 + (cl * 2 ^ 32 + 2 ^ 31 + 0 * 2 ^ 24 + i * 0x1000)) 0x1000)
      (2 ^ 52 + (cl * 2 ^ 32 + 2 ^ 31 + 1 * 2 ^ 24 + i * 0x80)) 0x80 := rfl
  unfold tileByteAt readByte
  rw [hm, mapGet_mapClear, mapGet_mapClear]
  constructor
  · intro h
    split
    · rfl
    · rw [if_pos (by omega)]
  · intro h
    rw [if_neg (by omega), if_neg (by omega)]

/-- A state with the tile and the memory of a granted one is granted. -/
theorem granted_of_same {s t u : State} {cl i pool count lid : Nat} {spec : Bool} (h : granted s u cl i pool count lid spec)
    (ht : t.tile cl i = u.tile cl i) (hm : t.mem = u.mem) : granted s t cl i pool count lid spec := by
  unfold granted at h ⊢
  rwa [ht, hm]
/-- A granted tile is not FREE. -/
theorem granted_not_free {s t : State} {cl i pool count lid : Nat} {spec : Bool} (h : granted s t cl i pool count lid spec) :
    (t.tile cl i).st ≠ .free := by
  obtain ⟨ht, -⟩ := h
  rw [ht]
  dsimp only
  split <;> exact TileSt.noConfusion
/-- A granted tile stays granted when its cluster changes elsewhere. -/
theorem granted_modCluster {s u : State} {cl i pool count lid : Nat} {spec : Bool} (h : granted s u cl i pool count lid spec)
    {f : Cluster → Cluster} (hf : (f (u.cluster cl)).tiles = (u.cluster cl).tiles) :
    granted s (u.modCluster cl f) cl i pool count lid spec ∧ (u.modCluster cl f).cluster cl = f (u.cluster cl) := by
  have hc : (u.modCluster cl f).cluster cl = f (u.cluster cl) :=
    State.cluster_modCluster_of_tile u cl (by rw [hf]; exact granted_not_free h)
  refine ⟨granted_of_same h ?_ rfl, hc⟩
  rw [State.tile, hc, hf]; rfl

/-- A tile that is set to a state other than FREE reads back, and its cluster's allocation queue stays. -/
theorem State.modTile_read (s : State) (cl i : Nat) {f : Tile → Tile} (h : (f (s.tile cl i)).st ≠ .free) :
    (s.modTile cl i f).tile cl i = f (s.tile cl i) ∧ ((s.modTile cl i f).cluster cl).allocQ = (s.cluster cl).allocQ := by
  have hg : mapGet {} (mapPut {} (s.cluster cl).tiles i (f (s.tile cl i))) i = f (s.tile cl i) :=
    mapGet_mapPut_listed _ _ _ _ fun hx => h (by rw [hx])
  have hc := State.cluster_modCluster_of_tile s cl
    (f := fun c => { c with tiles := mapPut {} c.tiles i (f (mapGet {} c.tiles i)) }) (i := i)
    (by dsimp only; rw [show f (mapGet {} (s.cluster cl).tiles i) = f (s.tile cl i) from rfl, hg]; exact h)
  constructor
  · rw [State.tile, State.modTile, hc]; exact hg
  · rw [State.modTile, hc]

/-- What a grant to launch `lid` makes of a tile of state `s` (R102, R109); `fill` says that its bytes are filled with zero. -/
def State.grantedTile (s : State) (pool count lid : Nat) (spec fill : Bool) (t : Tile) : Tile :=
  { t with launch := lid, asid := s.asidOf lid, ppart := pool, st := if count = 255 then .persistent else .held, zf := false,
           dirty := fill || s.wroteSince lid t, spec := spec, count := count, ctxBit := t.ctxBit || fill,
           wrote := if fill then s.cycle + 1 else t.wrote }
/-- Whether a grant to launch `lid` fills a tile (R109). -/
def State.fillsTile (s : State) (lid : Nat) (t : Tile) : Bool := t.zf || t.asid != s.asidOf lid
/-- The state after the grant of tile `i` of cluster `cl`. -/
def State.grantTile (s : State) (cl i pool count lid : Nat) (spec : Bool) : State :=
  let fill := s.fillsTile lid (s.tile cl i)
  ((if fill then s.zeroTile cl i else s).modTile cl i (s.grantedTile pool count lid spec fill)).modCluster cl fun c =>
    { c with pools := mapPut {} c.pools pool { c.pool pool with granted := s.cycle } }

/-- R106: a grant takes the lowest-numbered FREE tile and answers its handle. -/
theorem State.takeTile_lowest {s : State} {cl i : Nat} (h : lowestFree s cl i) (pool count lid : Nat) (spec : Bool) :
    s.takeTile cl pool count lid (s.asidOf lid) spec =
      (s.grantTile cl i pool count lid spec, mkHandle cl i (s.tile cl i).gen) := by
  unfold State.takeTile
  rw [find_lowestFree h]
  unfold State.grantTile State.fillsTile
  dsimp only
  generalize ((s.tile cl i).zf || (s.tile cl i).asid != s.asidOf lid) = fill
  cases fill <;> rfl
/-- Of the machine, a grant changes memory, poison and the clusters. -/
theorem State.grantTile_frame (s : State) (cl i pool count lid : Nat) (spec : Bool) :
    ∃ m p c, s.grantTile cl i pool count lid spec = { s with mem := m, poison := p, clusters := c } := by
  unfold State.grantTile
  dsimp only
  generalize hu : (if s.fillsTile lid (s.tile cl i) then s.zeroTile cl i else s) = u
  have hf : u = { s with mem := u.mem, poison := u.poison } := by subst hu; split <;> rfl
  generalize u.mem = m, u.poison = p at hf
  subst hf
  exact ⟨m, p, _, rfl⟩
theorem State.grantedTile_not_free (s : State) (pool count lid : Nat) (spec fill : Bool) (t : Tile) :
    (s.grantedTile pool count lid spec fill t).st ≠ .free := by
  unfold State.grantedTile
  dsimp only
  split <;> exact TileSt.noConfusion
/-- R102, R109: the grant leaves what the statements ask of it, and the cluster's allocation queue as it was. -/
theorem State.grantTile_granted (s : State) (cl : Nat) {i : Nat} (hi : i < 512) (pool count lid : Nat) (spec : Bool) :
    granted s (s.grantTile cl i pool count lid spec) cl i pool count lid spec ∧
      ((s.grantTile cl i pool count lid spec).cluster cl).allocQ = (s.cluster cl).allocQ := by
  unfold State.grantTile
  dsimp only
  generalize hfill : s.fillsTile lid (s.tile cl i) = fill
  generalize hu : (if fill then s.zeroTile cl i else s) = u
  have hc : u.cluster cl = s.cluster cl := by subst hu; cases fill <;> rfl
  have ht : u.tile cl i = s.tile cl i := by rw [State.tile, hc]; rfl
  obtain ⟨hread, hq⟩ := u.modTile_read cl i (s.grantedTile_not_free pool count lid spec fill _)
  have hg : granted s (u.modTile cl i (s.grantedTile pool count lid spec fill)) cl i pool count lid spec := by
    refine ⟨hread.trans (by rw [ht, ← hfill]; rfl), fun c => ⟨fun hin hf => ?_, fun hout => ?_⟩⟩
    · rw [show fill = true from hfill.symm.trans hf] at hu
      exact hu ▸ (s.readByte_zeroTile cl hi c).1 hin
    · cases fill with
      | false => exact hu ▸ rfl
      | true => exact hu ▸ (s.readByte_zeroTile cl hi c).2 (hout.resolve_right fun hf => nomatch hfill.symm.trans hf)
  obtain ⟨hg', hc'⟩ := granted_modCluster hg (f := fun c =>
    { c with pools := mapPut {} c.pools pool { c.pool pool with granted := s.cycle } }) rfl
  exact ⟨hg', by rw [hc']; exact hq.trans (by rw [hc])⟩

/-! ### TALLOC and TALLOCN at issue (13 R343) -/

/-- The slot of a handle on its way has the register EMPTY (04 R108); what follows changes the slot once more. -/
theorem State.sendHandle_modSlot {s : State} {t : Nat} (h : (s.slot t).status ≠ .idle) (pc : Word) (w : Word32) (d : Fin 32)
    (g : Slot → Slot) :
    (s.sendHandle t pc w d).modSlot t g = (s.send t pc [] (.handle w d)).1.modSlot t fun x => g (x.eg d) :=
  State.modSlot_modSlot _ t _ g (by rw [Slot.eg_status]; exact h)
/-- The handle is sent to g[d] and the instruction goes on. -/
theorem State.sendHandle_finish {s : State} (h : (me s).status = .ready) (pc : Word) (w : Word32) (d : Fin 32) :
    (s.sendHandle s.cur pc w d).finish id =
      (s.send s.cur pc [] (.handle w d)).1.setSlot s.cur { (me s).eg d with pc := (me s).pc + 4 } := by
  refine (State.sendHandle_modSlot (by simp [h]) pc w d _).trans ?_
  rw [← Slot.eg_pc (me s) d]; rfl
theorem State.sendHandle_sends {s : State} (h : (me s).status = .ready) (w : Word32) (d : Fin 32) :
    sends s { (me s).eg d with pc := (me s).pc + 4 } (.handle w d) .zeroFillDone
      (.next ((s.sendHandle s.cur (me s).pc w d).finish id)) := by
  rw [State.sendHandle_finish h]
  exact ⟨_, _, rfl, ⟨rfl, rfl, rfl⟩, rfl, rfl, rfl, rfl, rfl, (mem_insertDue _ _ _ _).mpr (.inl rfl)⟩

/-- R343: what lets TALLOC and TALLOCN come to their request: the count in g[a] is 1 to 255, the launch has a pool partition
that the core's copies admit; and the cluster has no request queued. -/
structure TallocAsks (s : State) (o : Rr) (p : Nat) : Prop where
  full : full s [(.g, o.a)]
  pool : poolFor s p
  queue : (s.cluster (clusterOf s.cur)).allocQ = []
  pos : 1 ≤ ((me s).rg o.a).toNat
  small : ((me s).rg o.a).toNat ≤ 255
theorem TallocAsks.specOf {s : State} {o : Rr} {p : Nat} (h : TallocAsks s o p) : s.specOf (me s).lidN = none := by
  obtain ⟨l, hl, hs, -⟩ := h.pool.1
  rw [State.specOf, hl]; exact hs
/-- R107: and the request is charged to that partition. -/
theorem TallocAsks.poolOf {s : State} {o : Rr} {p : Nat} (h : TallocAsks s o p) : s.poolOf (me s).lidN = p := by
  obtain ⟨l, hl, -, hp⟩ := h.pool.1
  rw [State.poolOf, h.specOf, hl]; exact hp
theorem State.tallocChecked_asks {s : State} {o : Rr} {p : Nat} (h : TallocAsks s o p) (k : Nat → Nat → State → State) :
    s.tallocChecked o k = k p ((me s).rg o.a).toNat s := by
  obtain ⟨-, hset, hcap⟩ := h.pool
  have h1 := h.pos
  have h2 := h.small
  unfold State.tallocChecked
  rw [State.withSrcs_of_full h.full]
  dsimp only
  generalize ((me s).rg o.a).toNat = n at h1 h2 ⊢
  rw [h.poolOf, if_neg (by simp; omega), if_neg (by simp [hset, hcap]), h.specOf]
theorem State.grantScan_nil {s : State} {cl : Nat} (h : (s.cluster cl).allocQ = []) : s.grantScan cl = s := by
  rw [State.grantScan, h]; rfl
/-- Watching a pool partition puts its event on the agenda and changes nothing else. -/
theorem State.watchPool_frame (s : State) (cl : Nat) (p : Fin 8) : ∃ a, s.watchPool cl p = { s with agenda := a } := by
  unfold State.watchPool
  dsimp only
  split <;> exact ⟨_, rfl⟩
/-- A request joins the queue of its cluster (R106). -/
def State.queueAlloc (s : State) (cl : Nat) (q : AllocReq) : State :=
  s.modCluster cl fun c => { c with allocQ := c.allocQ ++ [q] }
theorem State.queueAlloc_allocQ (s : State) (cl : Nat) (q : AllocReq) :
    ((s.queueAlloc cl q).cluster cl).allocQ = (s.cluster cl).allocQ ++ [q] :=
  congrArg Cluster.allocQ (mapGet_mapPut_listed _ _ _ _ fun hc => by simpa using congrArg Cluster.allocQ hc)
/-- The request that a TALLOC of `count` into g[d] leaves in the queue (R108). -/
def State.tallocReq (s : State) (p count : Nat) (d : Fin 32) : AllocReq :=
  ⟨.thread s.cur, p, count, (me s).lidN, s.asidOf (me s).lidN, s.unclaimed (me s).lidN, d⟩

section
variable {s : State} {o : Rr} {p : Nat} (h : TallocAsks s o p)
include h

/-- R105-R108: an eligible TALLOC or TALLOCN takes the lowest-numbered FREE tile, and its handle is sent to g[d]. -/
theorem exec_talloc_eligible {i : Nat} (he : eligibleFor s (clusterOf s.cur) p) (hi : lowestFree s (clusterOf s.cur) i)
    {j : Instr} (hj : j = .talloc o ∨ j = .tallocn o) :
    exec j s = .next (((s.grantTile (clusterOf s.cur) i p ((me s).rg o.a).toNat (me s).lidN false).sendHandle s.cur (me s).pc
      (mkHandle (clusterOf s.cur) i (s.tile (clusterOf s.cur) i).gen) o.d).finish id) := by
  have hg : (s.cluster (clusterOf s.cur)).grantsNow p = true := (grantsNow_iff h.queue p).mpr he
  have hs : s.unclaimed (me s).lidN = false := by simp only [State.unclaimed, h.specOf]
  rcases hj with rfl | rfl
  all_goals
    refine congrArg Host.Outcome.next ((State.tallocChecked_asks h _).trans ?_)
    dsimp only
    rw [State.grantScan_nil h.queue, if_pos hg, hs, State.takeTile_lowest hi]
/-- R102, R106, R108: what it leaves of its slot, of the tile and of the transactions on their way. -/
theorem talloc_grants (hr : (me s).status = .ready) {i : Nat} (he : eligibleFor s (clusterOf s.cur) p)
    (hi : lowestFree s (clusterOf s.cur) i) {j : Instr} (hj : j = .talloc o ∨ j = .tallocn o) :
    ∃ t f, exec j s = .next t ∧ t.slots = (s.setSlot s.cur { (me s).eg o.d with pc := (me s).pc + 4 }).slots ∧
      granted s t (clusterOf s.cur) i p ((me s).rg o.a).toNat (me s).lidN false ∧ t.flights = s.flights ++ [f] ∧
      f.kind = .handle (mkHandle (clusterOf s.cur) i (s.tile (clusterOf s.cur) i).gen) o.d := by
  obtain ⟨hg, -⟩ := s.grantTile_granted (clusterOf s.cur) hi.1 p ((me s).rg o.a).toNat (me s).lidN false
  obtain ⟨m, b, c, hu⟩ := s.grantTile_frame (clusterOf s.cur) i p ((me s).rg o.a).toNat (me s).lidN false
  have hx := exec_talloc_eligible h he hi hj
  rw [hu] at hg hx
  rw [State.sendHandle_finish (by exact hr)] at hx
  exact ⟨_, _, hx, rfl, granted_of_same hg rfl rfl, rfl, rfl⟩
/-- R108: a TALLOC that is not eligible queues its request, and its slot is BLOCKED. -/
theorem exec_talloc_queues (he : ¬eligibleFor s (clusterOf s.cur) p) :
    exec (.talloc o) s = .next (((s.queueAlloc (clusterOf s.cur) (s.tallocReq p ((me s).rg o.a).toNat o.d)).watchPool
      (clusterOf s.cur) (Fin.ofNat 8 p)).blockCur .alloc) := by
  refine congrArg Host.Outcome.next ((State.tallocChecked_asks h _).trans ?_)
  dsimp only
  rw [State.grantScan_nil h.queue, if_neg fun hg => he ((grantsNow_iff h.queue p).mp hg)]
  rfl
/-- R108: and of the machine, only that slot, the queue and the agenda change. -/
theorem talloc_queues (he : ¬eligibleFor s (clusterOf s.cur) p) :
    ∃ t q, exec (.talloc o) s = .next t ∧ becomes s { me s with status := .blocked .alloc } t ∧
      (t.cluster (clusterOf s.cur)).allocQ = [q] ∧ q.who = .thread s.cur ∧ q.pool = p ∧ q.count = ((me s).rg o.a).toNat ∧
      q.dest = o.d := by
  have hk := s.queueAlloc_allocQ (clusterOf s.cur) (s.tallocReq p ((me s).rg o.a).toNat o.d)
  obtain ⟨a, ha⟩ := (s.queueAlloc (clusterOf s.cur) (s.tallocReq p ((me s).rg o.a).toNat o.d)).watchPool_frame
    (clusterOf s.cur) (Fin.ofNat 8 p)
  rw [h.queue] at hk
  rw [exec_talloc_queues h he, ha]
  exact ⟨_, _, rfl, ⟨rfl, rfl, rfl⟩, hk, rfl, rfl, rfl, rfl⟩
/-- R343: a TALLOCN that is not eligible answers handle 0. -/
theorem exec_tallocn_zero (he : ¬eligibleFor s (clusterOf s.cur) p) :
    exec (.tallocn o) s = .next ((s.sendHandle s.cur (me s).pc 0 o.d).finish id) := by
  refine congrArg Host.Outcome.next ((State.tallocChecked_asks h _).trans ?_)
  dsimp only
  rw [State.grantScan_nil h.queue, if_neg fun hg => he ((grantsNow_iff h.queue p).mp hg)]

end

/-! ### A grant to the queue, and the arrival of the handle (04 R106, R109) -/

/-- R106: the scan of a queue of one eligible request of a thread grants it. -/
theorem State.grantScan_single {s : State} {cl thr : Nat} {q : AllocReq} (hq : (s.cluster cl).allocQ = [q])
    (hw : q.who = .thread thr) (he : eligibleFor s cl q.pool) (hl : s.whereIs q.lid cl = .live) :
    s.grantScan cl = s.grantThread cl thr q := by
  simp [State.grantScan, hq, hl, hw, (eligible_iff s cl q.pool).mpr he]
/-- R106, R108: a grant to a thread takes the lowest-numbered FREE tile, removes the request from the queue, sends the handle and
completes the TALLOC. -/
theorem State.grantThread_eq {s : State} {cl thr i : Nat} {q : AllocReq} (hi : lowestFree s cl i)
    (ha : q.asid = s.asidOf q.lid) (hb : (s.slot thr).status = .blocked .alloc) :
    s.grantThread cl thr q =
      (((s.grantTile cl i q.pool q.count q.lid q.spec).modCluster cl fun c => { c with allocQ := c.allocQ.filter (· ≠ q) }).send
        thr (s.slot thr).pc [] (.handle (mkHandle cl i (s.tile cl i).gen) q.dest)).1.setSlot thr
          { (s.slot thr).eg q.dest with status := .ready, pc := (s.slot thr).pc + 4 } := by
  obtain ⟨m, p, c, hu⟩ := s.grantTile_frame cl i q.pool q.count q.lid q.spec
  have hrun : (s.slot thr).status ≠ .idle := by simp [hb]
  have hx : (((s.slot thr).eg q.dest).next).wake .alloc =
      { (s.slot thr).eg q.dest with status := .ready, pc := (s.slot thr).pc + 4 } := by
    rw [Slot.wake, if_pos (by simp [hb]), Slot.next, Slot.eg_pc]
  unfold State.grantThread
  rw [ha, State.takeTile_lowest hi]
  dsimp only
  rw [hu]
  refine (State.sendHandle_modSlot (by exact hrun) _ _ _ _).trans ?_
  rw [← hx]; rfl
theorem State.grantThread_granted {s : State} {cl thr i : Nat} {q : AllocReq} (hq : (s.cluster cl).allocQ = [q])
    (hi : lowestFree s cl i) (ha : q.asid = s.asidOf q.lid) (hb : (s.slot thr).status = .blocked .alloc) :
    let t := s.grantThread cl thr q
    granted s t cl i q.pool q.count q.lid q.spec ∧ (t.cluster cl).allocQ = [] ∧
      (∃ f, t.flights = s.flights ++ [f] ∧ f.kind = .handle (mkHandle cl i (s.tile cl i).gen) q.dest) ∧
      t.slot thr = { (s.slot thr).eg q.dest with status := .ready, pc := (s.slot thr).pc + 4 } := by
  obtain ⟨hg, hq'⟩ := s.grantTile_granted cl hi.1 q.pool q.count q.lid q.spec
  obtain ⟨hg, hc⟩ := granted_modCluster hg (f := fun c => { c with allocQ := c.allocQ.filter (· ≠ q) }) rfl
  have hn := congrArg Cluster.allocQ hc
  simp only [hq', hq] at hn
  obtain ⟨m, p, c, hu⟩ := s.grantTile_frame cl i q.pool q.count q.lid q.spec
  rw [State.grantThread_eq hi ha hb]
  rw [hu] at hg hn ⊢
  exact ⟨granted_of_same hg rfl rfl, hn.trans (by simp), ⟨_, rfl, rfl⟩, State.slot_setSlot_task _ _ SlotStatus.noConfusion⟩
/-- 04 R109: the handle reaches its register, in a slot that runs. -/
theorem State.handleArrives_eq {s : State} {id : Nat} {f : Flight} {w : Word32} {d : Fin 32} (hr : reaching s id f)
    (hk : f.kind = .handle w d) (hs : (s.slot f.owner).status = .ready) :
    s.handleArrives id = (s.dropFlight id).modSlot f.owner fun x => x.wg d (w.setWidth 64) := by
  obtain ⟨-, hf, -, -, hl, -⟩ := hr
  have hg : ((s.slot f.owner).arriveG d (w.setWidth 64)).wake .drain = (s.slot f.owner).wg d (w.setWidth 64) := by
    rw [Slot.arriveG_ready hs, Slot.wake_ready ((Slot.wg_status ..).trans hs)]
  simp only [State.handleArrives, hf, hk, State.arrive]
  rw [State.onThread_live (by exact hl)]
  exact congrArg (State.setSlot _ _) hg

end Sys2Proof.Machine

open Sys2Proof.Machine Sys2Proof.Claims in
/-- Settles O33: at issue by `talloc_grants`, `talloc_queues` and `exec_tallocn_zero`; a grant to the queue by
`State.grantThread_granted`; the arrival of the handle by `State.handleArrives_eq`. -/
theorem tileAllocation : Obligations.TileAllocation := by
  refine fun s => ⟨fun o p hf _ hr hp hq => ?_, fun cl thr i q hq hw he hl hi ha hb => ?_, fun id f w d hr hk hs => ?_⟩
  · intro n cl h1 h2
    have h : TallocAsks s o p := ⟨hf, hp, hq, h1, h2⟩
    refine ⟨fun he i hi j hj => talloc_grants h hr he hi hj, fun he => ⟨talloc_queues h he, ?_⟩⟩
    rw [exec_tallocn_zero h he]
    exact State.sendHandle_sends hr 0 o.d
  · obtain ⟨hg, hc, ⟨f, hfl, hk⟩, hslot⟩ := State.grantThread_granted hq hi ha hb
    refine ⟨_, f, congrArg Host.Outcome.next ?_, hg, hc, hfl, hk, hslot⟩
    unfold State.grantAll
    rw [State.grantScan_single hq hw he hl]
    dsimp only
    rw [hc]; rfl
  · exact ⟨_, congrArg Host.Outcome.next (State.handleArrives_eq hr hk hs), rfl, rfl, rfl⟩

/-! ## What arrives at a tile (O35) -/

namespace Sys2Proof.Machine
open Sys2Proof.Claims

/-- The launch of the drop, in partition 0 with ASID 4. -/
def droppingLaunch : Launch :=
  { hdr := { entry := 0, idpc := 0, sel := [], pool := 0, prio := 0, part := 0, slots := 0, bind := 0, floor := 0, widths := [],
             extents := [], flags := 0, cap := 0, res := 0, rseed := 0, fmode := 0, fs := [], rootf := 0, rootsz := 0, crec := 0,
             csig := 0, cval := 0, csop := 0, args := [], reads := [], writes := [], reserved := false, nread := 0, nwrite := 0,
             nslot := 0 }
    queue := 0, index := 0, asid := 4, part := 0, ctr := none, phase := 7, start := none, retired := false, status := 0, leak := 0,
    order := 0, pieces := 0, stage := 0, stageAt := 0, stopped := false, killed := false, specOf := none, claimed := false,
    wave := none }
/-- A drop of tile 2 of cluster 0 at generation 9, by the thread of slot 0 under ticket 7. -/
def lastDrop : Flight :=
  { id := 7, thr := 0, pc := 0, lid := 3, asid := 4, born := 0, sys := false, pieces := [], kind := .tdrop 0x10009 5 }
/-- A saved context of partition 0 that holds nothing. -/
def emptyContext : Saved :=
  { part := 0, slots := [], cores := [], tiles := [], pools := [], ctrs := [], msgs := [], bytes := [], grans := [], poison := [] }
/-- The last drop of the tile is on its way and counted in sbcnt. The image map lists partition 0's image of cluster 0 twice:
first as none, which is what the key reads as, then as a context. -/
def lastDropOnItsWay : State :=
  { flights := [lastDrop], slots := [(0, { status := .ready, sbcnt := 1 })], launches := [(3, some droppingLaunch)],
    clusters := [(0, { tiles := [(2, { st := .held, gen := 9, count := 1, asid := 4 })] })],
    images := [(imageKey 0 0, none), (imageKey 0 0, some emptyContext)] }

theorem lastDropOnItsWay_canonical : canonical lastDropOnItsWay :=
  ⟨rfl, by decide +kernel, rfl, by decide +kernel, rfl, by decide +kernel,
    mapGet_of_all (fun c : Cluster => mapWf {} c.tiles = true) rfl (by decide +kernel)⟩
theorem lastDropOnItsWay_reaching : reaching lastDropOnItsWay 7 lastDrop :=
  ⟨lastDropOnItsWay_canonical, rfl, rfl, rfl, by decide +kernel, by decide +kernel⟩
theorem lastDropOnItsWay_atTile : atTile lastDropOnItsWay lastDrop 0x10009 .held := by
  unfold atTile; decide +kernel
/-- Freeing the tile rewrites the image map, which then lists the context alone; the acknowledgement goes to that context, and
the slot of the thread keeps its count. -/
theorem lastDropOnItsWay_dropped : ((lastDropOnItsWay.dropArrives 7).slot 0).sbcnt = 1 := by decide +kernel

end Sys2Proof.Machine

open Sys2Proof.Machine Sys2Proof.Claims in
/-- Refutes O35, at its clause of the last drop: `canonical` asks nothing of the map of saved contexts, and freeing a tile
rewrites that map. In `lastDropOnItsWay` the map lists one key twice, so in the middle of the arrival the launch's state goes
from live to saved, and the acknowledgement does not reach the live slot (`lastDropOnItsWay_dropped`). -/
theorem not_tileOperationsArrive : ¬ Obligations.TileOperationsArrive := by
  intro h
  obtain ⟨harrive, -, -, -, -⟩ := h lastDropOnItsWay
  obtain ⟨hdrop, -, -, -⟩ := harrive 7 lastDrop 0x10009 5 lastDropOnItsWay_reaching
  obtain ⟨-, hlast⟩ := hdrop rfl lastDropOnItsWay_atTile
  obtain ⟨t, ht, ⟨-, -, hslots⟩, -⟩ := hlast (by decide +kernel) (by decide +kernel)
  have he : t = lastDropOnItsWay.dropArrives 7 := (Host.Outcome.next.inj ht).symm
  have hn : (t.slot 0).sbcnt = 0 := by
    rw [State.slot, hslots]; decide +kernel
  rw [he, lastDropOnItsWay_dropped] at hn
  exact absurd hn (by decide)

/-! ## Steals: probes, pauses, grants and deliveries (O45) -/

namespace Sys2Proof.Machine
open Sys2Proof.Claims

/-- What is posted stands on the agenda. -/
theorem State.mem_post (s : State) (d : Nat) (i : Ev) : (d, i) ∈ (s.post d i).agenda := (mem_insertDue _ _ _ _).mpr (.inl rfl)

/-! ### The slot for an entry (07 R191, R192) -/

theorem slotTakes_of_takes {s : State} {t lid : Nat} (h : takes s t lid) : s.slotTakes t lid = true := by
  obtain ⟨-, hfree⟩ := h
  refine List.all_eq_true.mpr fun q hq => ?_
  split
  · next sp hsp =>
    obtain ⟨hne, hlog⟩ := hfree q hq sp hsp
    rw [if_neg hne, Spec.holds, hlog]; rfl
  · rfl
theorem mem_idleSlots {s : State} {c i : Nat} (hi : i < 16) (h : (s.slot (c * 16 + i)).status = .idle) :
    c * 16 + i ∈ s.idleSlots c :=
  List.mem_map.mpr ⟨i, List.mem_filter.mpr ⟨List.mem_range.mpr hi, by simpa using h⟩, rfl⟩
/-- A core with a slot that takes tasks of a launch has a slot for it. -/
theorem slotFor_isSome_of_takes {s : State} {c i lid : Nat} (hi : i < 16) (h : takes s (c * 16 + i) lid) :
    (s.slotFor c lid).isSome = true :=
  List.find?_isSome.mpr ⟨_, mem_idleSlots hi h.1, slotTakes_of_takes h⟩
/-- R192: slot 0, where it takes the task, is the lowest that does. -/
theorem slotFor_of_takes_zero {s : State} {c lid : Nat} (h : takes s (c * 16) lid) : s.slotFor c lid = some (c * 16) := by
  rw [State.slotFor, State.idleSlots, show List.range 16 = 0 :: List.range' 1 15 from rfl,
    List.filter_cons_of_pos (by simpa using h.1), List.map_cons]
  exact List.find?_cons_of_pos (slotTakes_of_takes h)
/-- With no slot IDLE there is none. -/
theorem slotFor_eq_none {s : State} {c : Nat} (h : ∀ i, i < 16 → (s.slot (c * 16 + i)).status ≠ .idle) (lid : Nat) :
    s.slotFor c lid = none := by
  have hidle : s.idleSlots c = [] := by simpa [State.idleSlots] using h
  rw [State.slotFor, hidle]; rfl
theorem mayRun_of_mayDispatch {s : State} {c lid : Nat} {l : Launch} (h : mayDispatch s c lid l) : s.mayRun c lid = true := by
  obtain ⟨hl, hkill, hstop, -, hslots, hpart, hsw, hfence, hnone⟩ := h
  have hheld : (List.range 16).filter (fun i => decide ((s.slot (c * 16 + i)).task = some lid)) = [] := by simpa using hnone
  simp [State.mayRun, hl, hkill, hstop, hpart, hsw, hfence, hslots, hheld]

/-! ### A task begins (07 R192, 06 R170) -/

/-- A fold whose every step leaves the start alone leaves it alone. -/
theorem foldl_eq_start {α β : Type} {f : α → β → α} {a : α} (h : ∀ b, f a b = a) (l : List β) : l.foldl f a = a := by
  induction l with
  | nil => rfl
  | cons b l ih => rw [List.foldl_cons, h, ih]
/-- A slot that takes tasks of a launch that is no speculation has nothing to discard or to log. -/
theorem claimSlot_of_takes {s : State} {t lid : Nat} (h : takes s t lid) (hs : s.specOf lid = none) : s.claimSlot lid t = s := by
  obtain ⟨-, hfree⟩ := h
  unfold State.claimSlot
  rw [foldl_eq_start fun i => ?_]
  · simp only [hs]
  · have hspec := mapGet_of_all (fun o : Option Spec => ∀ sp, o = some sp → sp.lid ≠ lid ∧ sp.undo.any (Undo.same (.slot t {})) = false)
      (d := none) nofun hfree i
    split
    · next sp hsp =>
      obtain ⟨-, hlog⟩ := hspec sp hsp
      rw [hlog, Bool.and_false]; rfl
    · rfl
theorem beginTask_of_takes {s : State} {t : Nat} {e : DqEntry} {l : Launch} (h : takes s t e.launch)
    (hl : s.launch e.launch = some l) (hs : l.specOf = none) :
    s.beginTask t e = (s.setSlot t (dispatched (s.slot t) e)).postNow (.headerArrival t) := by
  have hspec : s.specOf e.launch = none := by rw [State.specOf, hl]; exact hs
  rw [State.beginTask, claimSlot_of_takes h hspec]
  simp only [hl]; rfl

/-! ### The deque (07 R188) -/

/-- A core whose deque has taken an entry at its tail. -/
def Core.pushBack (e : DqEntry) (k : Core) : Core :=
  { k with deque := k.deque ++ [{ e with seq := k.push, place := none }], dqTail := (k.dqTail + 1) % 128,
           push := (k.push + 1) % 2 ^ 32, failed := 0 }
theorem canPush_of_room {k : Core} (h : k.deque.length < 64) : k.canPush = true := by simp [Core.canPush, h]
/-- With room on the core a push at the tail spills nothing. -/
theorem pushTail_of_room {s : State} {c : Nat} (h : (s.core c).deque.length < 64) (e : DqEntry) :
    s.pushTail c e = (s.modCore c (Core.pushBack e)).postNow (.dispatch c) := by
  unfold State.pushTail
  dsimp only
  split
  · rw [if_neg (by omega)]; rfl
  · rfl
@[simp] theorem State.dequeRoom_core (s : State) (c d : Nat) : (s.dequeRoom c).core d = s.core d := rfl
@[simp] theorem State.removeEntry_mem (s : State) (c : Nat) (e : DqEntry) (b : Bool) : (s.removeEntry c e b).mem = s.mem := rfl
@[simp] theorem State.removeEntry_cycle (s : State) (c : Nat) (e : DqEntry) (b : Bool) : (s.removeEntry c e b).cycle = s.cycle := rfl
@[simp] theorem State.removeEntry_flights (s : State) (c : Nat) (e : DqEntry) (b : Bool) :
    (s.removeEntry c e b).flights = s.flights := rfl
@[simp] theorem State.removeEntry_nextId (s : State) (c : Nat) (e : DqEntry) (b : Bool) :
    (s.removeEntry c e b).nextId = s.nextId := rfl
/-- The only entry of a deque leaves it empty. -/
theorem deque_removeEntry_sole {s : State} {c : Nat} {e : DqEntry} (hw : mapWf {} s.cores = true)
    (hd : (s.core c).deque = [e]) (hp : e.place = none) (b : Bool) : ((s.removeEntry c e b).core c).deque = [] := by
  rw [State.removeEntry, State.postNow_core, State.dequeRoom_core, State.core_modCore_same hw]
  simp [hp, hd, eraseEntry]
/-- An entry on the core is replaced in the core alone. -/
theorem replaceEntry_onCore (s : State) (c : Nat) {e : DqEntry} (hp : e.place = none) (e' : DqEntry) :
    s.replaceEntry c e e' = s.modCore c fun k =>
      { k with deque := k.deque.map fun x => if x = e then e' else x, spilled := k.spilled.map fun x => if x = e then e' else x } := by
  rw [State.replaceEntry, hp]
/-- The only entry of a deque is replaced where it stands. -/
theorem deque_replaceEntry_sole {s : State} {c : Nat} {e : DqEntry} (hw : mapWf {} s.cores = true)
    (hd : (s.core c).deque = [e]) (hp : e.place = none) (e' : DqEntry) : ((s.replaceEntry c e e').core c).deque = [e'] := by
  simp [replaceEntry_onCore s c hp, State.core_modCore_same hw, hd]

/-! ### Probes (07 R200-R202, R204) -/

/-- R201: the ladder begins at the next core of the cluster. -/
theorem ladderOf_zero (c r : Nat) (mask : BitVec 256) : (ladderOf c r mask)[0]? = some (.core (c / 8 * 8 + (c % 8 + 1) % 8)) := rfl
/-- R202: the one entry of a core is its oldest stealable one. -/
theorem victimEntry_of_mayBeStolen {s : State} {v c : Nat} {e : DqEntry} {l : Launch} (h : mayBeStolen s v e l c) :
    s.victimEntry v c = some e ∧ s.current v e = e := by
  obtain ⟨⟨hsp, hd, hp, hin⟩, hkind, href, hl, hkill, hspec, hpart, hsw, i, hi, ht⟩ := h
  have hcur : s.current v e = e := by simp [State.current, hp]
  have hst : s.stealable c e = true := by
    simp [State.stealable, State.specOf, hl, hkill, hpart, hin, slotFor_isSome_of_takes hi ht, hspec, hkind, href]
  refine ⟨?_, hcur⟩
  simp [State.victimEntry, hsw, Core.entries, hsp, hd, hcur, hst]
theorem probeTarget_of_mayBeStolen {s : State} {v c : Nat} {e : DqEntry} {l : Launch} (h : mayBeStolen s v e l c) :
    s.probeTarget c (.core v) = (s, some v) := by
  simp [State.probeTarget, victimEntry_of_mayBeStolen h]
/-- R201: a round whose first probe meets a stealable entry asks for it. -/
theorem stealProbe_asks {s : State} {c : Nat} {e : DqEntry} {l : Launch} (hr : s.stealRuns c = true)
    (hp : (s.core c).pausing = false) (h0 : (s.core c).ladder = 0)
    (h : mayBeStolen s (c / 8 * 8 + (c % 8 + 1) % 8) e l c) :
    s.stealProbe c = (s.modCore c fun k => { k with probing := true }).postNow (.stealGrant (c / 8 * 8 + (c % 8 + 1) % 8) c) := by
  simp only [State.stealProbe, hp, hr, h0, ladderOf_zero, probeTarget_of_mayBeStolen h]; rfl
/-- R204: a core whose round has ended without a grant pauses. -/
def Core.pause (k : Core) : Core :=
  { k with probing := false, pausing := true, ladder := 0, round := (k.round + 1) % 2 ^ 32, failed := k.failed + 1 }
theorem stealProbe_pauses {s : State} {c : Nat} (hr : s.stealRuns c = true) (hp : (s.core c).pausing = false)
    (hend : (ladderOf c (s.core c).round (s.core c).cmask).length ≤ (s.core c).ladder) :
    s.stealProbe c = (s.modCore c Core.pause).post (s.cycle + 64 * 2 ^ min (s.core c).failed 6) (.probePauseExpiry c) := by
  have hnone := List.getElem?_eq_none hend
  simp only [State.stealProbe, hp, hr, hnone]; rfl

/-- A core that no longer pauses. -/
def State.unpause (s : State) (c : Nat) : State := s.modCore c fun k => { k with pausing := false }
theorem core_unpause {s : State} (hw : mapWf {} s.cores = true) (c : Nat) :
    (s.unpause c).core c = { s.core c with pausing := false } := State.core_modCore_same hw c _
theorem stealRuns_unpause {s : State} (hw : mapWf {} s.cores = true) (c : Nat) : (s.unpause c).stealRuns c = s.stealRuns c := by
  have hrun : (s.unpause c).mayRun c = s.mayRun c := by
    funext lid
    simp only [State.mayRun, core_unpause hw]; rfl
  simp only [State.stealRuns, State.candidate, State.partOf, hrun, core_unpause hw]; rfl
/-- The end of a pause takes no entry from another core. -/
theorem mayBeStolen_unpause {s : State} (hw : mapWf {} s.cores = true) {v c : Nat} {e : DqEntry} {l : Launch} (hv : v ≠ c)
    (h : mayBeStolen s v e l c) : mayBeStolen (s.unpause c) v e l c := by
  unfold mayBeStolen oneEntry State.partOf
  rw [core_unpause hw, State.unpause, State.core_modCore_other _ _ hv]
  exact h
/-- R204: at the end of a pause the core probes. -/
theorem pauseOver_asks {s : State} {c : Nat} {e : DqEntry} {l : Launch} (hw : mapWf {} s.cores = true) (hr : s.stealRuns c = true)
    (h0 : (s.core c).ladder = 0) (h : mayBeStolen s (c / 8 * 8 + (c % 8 + 1) % 8) e l c) :
    s.pauseOver c = ((s.unpause c).modCore c fun k => { k with probing := true }).postNow
      (.stealGrant (c / 8 * 8 + (c % 8 + 1) % 8) c) := by
  have hc := core_unpause hw c
  have hp : ((s.unpause c).core c).pausing = false := by rw [hc]
  have h1 : ((s.unpause c).core c).ladder = 0 := by rw [hc]; exact h0
  exact stealProbe_asks ((stealRuns_unpause hw c).trans hr) hp h1 (mayBeStolen_unpause hw (by omega) h)

/-! ### Grants (07 R203, 05 R148) -/

/-- A steal that is sent on its way is the next transaction, and its release or its delivery follows. -/
theorem sendSteal_sends (s : State) (e : DqEntry) (v c : Nat) (cross piece released : Bool) (w : List Nat) :
    ∃ f, (s.sendSteal e v c cross piece released w).flights = s.flights ++ [f] ∧ f.id = s.nextId ∧
      f.kind = .steal { e with waits := e.waits ++ w } v c cross piece [] released [] ∧
      (s.cycle + Config.latency s.nextId, if released then Ev.stealDelivery s.nextId else Ev.stealReleaseDone s.nextId) ∈
        (s.sendSteal e v c cross piece released w).agenda := by
  refine ⟨_, rfl, rfl, rfl, ?_⟩
  cases released <;> exact State.mem_post _ _ _
@[simp] theorem State.sendSteal_mem (s : State) (e : DqEntry) (v c : Nat) (cross piece released : Bool) (w : List Nat) :
    (s.sendSteal e v c cross piece released w).mem = s.mem := rfl
@[simp] theorem State.sendSteal_core (s : State) (e : DqEntry) (v c : Nat) (cross piece released : Bool) (w : List Nat) (d : Nat) :
    (s.sendSteal e v c cross piece released w).core d = s.core d := rfl
/-- With no buffered store the core has nothing to send before its push's release. -/
theorem pushWaits_fst {s : State} {t : Nat} (h : (s.core (coreOf t)).sb = []) : (s.pushWaits t).1 = s := by
  rw [State.pushWaits, State.drainCore, h]; rfl
/-- R204: a granted steal ends the thief's run of failed rounds. -/
def State.unfail (s : State) (c : Nat) : State := s.modCore c fun k => { k with failed := 0 }
/-- R203: a grant within the cluster removes the entry and moves it. -/
theorem stealGrant_near {s : State} {v c : Nat} {e : DqEntry} {l : Launch} (h : mayBeStolen s v e l c) (hn : v / 8 = c / 8) :
    s.stealGrant v c = ((s.unfail c).removeEntry v e true).sendSteal e v c false false true [] := by
  obtain ⟨hv, hcur⟩ := victimEntry_of_mayBeStolen h
  obtain ⟨⟨-, -, hp, -⟩, hkind, -⟩ := h
  have he : { e with place := none } = e := by rw [← hp]
  have hk : ¬e.kind = 1 := by rw [hkind]; decide
  have hcross : decide (v / 8 ≠ c / 8) = false := by simp [hn]
  simp only [State.stealGrant, hv, hcur, hk, hcross, he]; rfl
/-- R203 step 1: a grant across clusters marks the entry and waits for the release. -/
theorem stealGrant_far {s : State} {v c : Nat} {e : DqEntry} {l : Launch} (h : mayBeStolen s v e l c) (hn : v / 8 ≠ c / 8)
    (hslot : e.slot < 16) (hsb : (s.core v).sb = []) :
    ∃ w, s.stealGrant v c =
      ((s.unfail c).replaceEntry v e { e with inSteal := true }).sendSteal { e with inSteal := true } v c true false false w := by
  obtain ⟨hv, hcur⟩ := victimEntry_of_mayBeStolen h
  obtain ⟨-, hkind, -⟩ := h
  have hcore : coreOf (v * 16 + e.slot) = v := by unfold coreOf; omega
  have hw : ((s.unfail c).pushWaits (v * 16 + e.slot)).1 = s.unfail c := by
    apply pushWaits_fst
    rw [hcore, State.unfail, State.core_modCore_other _ _ (by rintro rfl; exact hn rfl)]
    exact hsb
  have hk : ¬e.kind = 1 := by rw [hkind]; decide
  have hcross : decide (v / 8 ≠ c / 8) = true := by simp [hn]
  refine ⟨((s.unfail c).pushWaits (v * 16 + e.slot)).2, ?_⟩
  rw [State.unfail] at hw
  simp only [State.stealGrant, hv, hcur, hk, hcross, if_true, if_false, hw]; rfl

/-- R203: the transaction of a grant within the cluster; the victim's deque is empty. -/
theorem stealGrant_near_sends {s : State} {v c : Nat} {e : DqEntry} {l : Launch} (hw : mapWf {} s.cores = true) (hvc : v ≠ c)
    (h : mayBeStolen s v e l c) (hn : v / 8 = c / 8) :
    ∃ f, (s.stealGrant v c).mem = s.mem ∧ (s.stealGrant v c).flights = s.flights ++ [f] ∧ f.id = s.nextId ∧
      f.kind = .steal e v c false false [] true [] ∧ ((s.stealGrant v c).core v).deque = [] ∧
      (s.cycle + Config.latency s.nextId, Ev.stealDelivery s.nextId) ∈ (s.stealGrant v c).agenda := by
  have hwt : mapWf {} (s.unfail c).cores = true := mapPut_wf _ _ _ _ hw
  have hcore : (s.unfail c).core v = s.core v := State.core_modCore_other _ _ hvc
  obtain ⟨f, hfl, hid, hkind, hag⟩ := sendSteal_sends ((s.unfail c).removeEntry v e true) e v c false false true []
  rw [List.append_nil] at hkind
  rw [State.removeEntry_flights] at hfl
  rw [State.removeEntry_nextId] at hid
  rw [State.removeEntry_cycle, State.removeEntry_nextId] at hag
  rw [stealGrant_near h hn]
  obtain ⟨⟨-, hd, hp, -⟩, -⟩ := h
  rw [← hcore] at hd
  rw [State.sendSteal_mem, State.removeEntry_mem, State.sendSteal_core, deque_removeEntry_sole hwt hd hp]
  exact ⟨f, rfl, hfl, hid, hkind, rfl, hag⟩
/-- R203: the transaction of a grant across clusters; the victim keeps the entry, marked. -/
theorem stealGrant_far_sends {s : State} {v c : Nat} {e : DqEntry} {l : Launch} (hw : mapWf {} s.cores = true)
    (h : mayBeStolen s v e l c) (hn : v / 8 ≠ c / 8) (hslot : e.slot < 16) (hsb : (s.core v).sb = []) :
    ∃ f, (s.stealGrant v c).mem = s.mem ∧ (s.stealGrant v c).flights = s.flights ++ [f] ∧ f.id = s.nextId ∧
      (∃ w, f.kind = .steal { e with inSteal := true, waits := e.waits ++ w } v c true false [] false []) ∧
      ((s.stealGrant v c).core v).deque = [{ e with inSteal := true }] ∧
      (s.cycle + Config.latency s.nextId, Ev.stealReleaseDone s.nextId) ∈ (s.stealGrant v c).agenda := by
  have hwt : mapWf {} (s.unfail c).cores = true := mapPut_wf _ _ _ _ hw
  have hcore : (s.unfail c).core v = s.core v := State.core_modCore_other _ _ (by rintro rfl; exact hn rfl)
  obtain ⟨w, hg⟩ := stealGrant_far h hn hslot hsb
  obtain ⟨⟨-, hd, hp, -⟩, -⟩ := h
  obtain ⟨f, hfl, hid, hkind, hag⟩ := sendSteal_sends ((s.unfail c).replaceEntry v e { e with inSteal := true })
    { e with inSteal := true } v c true false false w
  rw [← hcore] at hd
  have hdq := deque_replaceEntry_sole hwt hd hp { e with inSteal := true }
  rw [hg]
  rw [replaceEntry_onCore _ _ hp] at hfl hid hag hdq ⊢
  exact ⟨f, rfl, hfl, hid, ⟨w, hkind⟩, hdq, hag⟩

/-- R148: a range piece whose release waits for nothing is sent to the thief, which owes its acquire. -/
theorem stealRelease_piece {s : State} {id v c : Nat} {f : Flight} {e : DqEntry} (hf : s.flight id = some f)
    (hk : f.kind = .steal e v c true true [] false []) (hw : e.waits = []) :
    s.stealRelease id = (s.modFlight id fun f =>
      { f with kind := .steal { e with acq := true } v c true true [] true [] }).postLat id (.stealDelivery id) := by
  simp only [State.stealRelease, hf, hk, hw]; rfl
/-- A change of a transaction that keeps its ticket turns it into what the change gives. -/
theorem modFlight_turns {s : State} {id : Nat} {f : Flight} (hf : s.flight id = some f) {g : Flight → Flight}
    (hg : ∀ f, (g f).id = f.id) : turnedInto s id (g f) (s.modFlight id g) := by
  have hid : ∀ x : Flight, (if x.id = id then g x else x).id = x.id := fun x => by split <;> simp only [hg]
  have hfid : f.id = id := by simpa using List.find?_some hf
  constructor
  · rw [State.flight, State.modFlight, List.find?_map]
    simp only [Function.comp_def, hid]
    rw [State.flight] at hf
    rw [hf, Option.map_some, if_pos hfid]
  · rw [others, State.modFlight, List.filter_map]
    simp only [Function.comp_def, hid]
    refine (List.map_congr_left fun x hx => if_neg ?_).trans (List.map_id _)
    simpa using (List.mem_filter.mp hx).2

/-! ### Deliveries (07 R203 step 4) -/

/-- R201: a core whose round has ended with a grant. -/
def Core.roundOver (k : Core) : Core := { k with probing := false, ladder := 0, round := (k.round + 1) % 2 ^ 32 }
theorem core_stealOver {s : State} (hw : mapWf {} s.cores = true) (id lid c : Nat) :
    (s.stealOver id lid c).core c = (s.core c).roundOver := mapGet_mapPut_same ({} : Core) s.cores c _ hw
/-- A delivered steal's push at the tail, where there is room on the core. -/
theorem stealOver_pushTail {s : State} {c : Nat} (hw : mapWf {} s.cores = true) (hroom : (s.core c).deque.length < 64)
    (id lid : Nat) (e : DqEntry) : (s.stealOver id lid c).pushTail c e =
      ((s.stealOver id lid c).modCore c (Core.pushBack e)).postNow (.dispatch c) :=
  pushTail_of_room (by rw [core_stealOver hw]; exact hroom) e
theorem stealOver_pushTail_frame {s : State} {c : Nat} (hw : mapWf {} s.cores = true) (hroom : (s.core c).deque.length < 64)
    (id lid : Nat) (e : DqEntry) : still s ((s.stealOver id lid c).pushTail c e) ∧
      ended s id ((s.stealOver id lid c).pushTail c e) := by
  rw [stealOver_pushTail hw hroom]; exact ⟨⟨rfl, rfl⟩, rfl⟩
theorem deque_stealOver_pushTail {s : State} {c : Nat} (hw : mapWf {} s.cores = true) (hroom : (s.core c).deque.length < 64)
    (id lid : Nat) (e : DqEntry) : (((s.stealOver id lid c).pushTail c e).core c).deque =
      (s.core c).deque ++ [{ e with seq := (s.core c).push, place := none }] := by
  have hw' : mapWf {} (s.stealOver id lid c).cores = true := mapPut_wf _ _ _ _ hw
  rw [stealOver_pushTail hw hroom, State.postNow_core, State.core_modCore_same hw', core_stealOver hw]; rfl

/-- R191: the thief's slot 0, where it takes the task of a delivered entry. -/
theorem thiefSlot_zero {s : State} {c : Nat} {e : DqEntry} {l : Launch} (hd : mayDispatch s c e.launch l)
    (ht : takes s (c * 16) e.launch) : s.thiefSlot c e = some (c * 16) :=
  (if_pos (mayRun_of_mayDispatch hd)).trans (slotFor_of_takes_zero ht)

section
variable {s : State} {id v c : Nat} {f : Flight} {e : DqEntry} {l : Launch} {cross : Bool}
  (hf : s.flight id = some f) (hd : mayDispatch s c e.launch l)
include hf hd

/-- R203: a continuation from the same cluster begins in the thief's slot. -/
theorem stealDeliver_begins (hk : f.kind = .steal e v c false false [] true []) (ht : takes s (c * 16) e.launch) :
    s.stealDeliver id = ((s.stealOver id e.launch c).setSlot (c * 16)
      (dispatched (s.slot (c * 16)) { e with refused := [] })).postNow (.headerArrival (c * 16)) := by
  have hslot : s.thiefSlot c { e with refused := [] } = some (c * 16) := thiefSlot_zero hd ht
  obtain ⟨hl, -, -, hs, -⟩ := hd
  have hb := beginTask_of_takes (s := s.stealOver id e.launch c) (e := { e with refused := [] }) ht hl hs
  simp only [State.stealDeliver, hf, hk, List.foldl_nil, hslot, Bool.false_and]
  exact hb
/-- R203: of a range piece of more than one ordinal the first begins there, and the rest is pushed at the thief's tail. -/
theorem stealDeliver_splits (hw : mapWf {} s.cores = true) (hk : f.kind = .steal e v c cross true [] true [])
    (ht : takes s (c * 16) e.launch) (h2 : e.lo + 2 ≤ e.hi) (hroom : (s.core c).deque.length < 64) :
    s.stealDeliver id = (((s.stealOver id e.launch c).pushTail c { e with refused := [], lo := e.lo + 1 }).setSlot (c * 16)
      (dispatched (s.slot (c * 16)) { e with refused := [], hi := e.lo + 1 })).postNow (.headerArrival (c * 16)) := by
  have hslot : s.thiefSlot c { e with refused := [] } = some (c * 16) := thiefSlot_zero hd ht
  obtain ⟨hl, -, -, hs, -⟩ := hd
  have hb := beginTask_of_takes (e := { e with refused := [], hi := e.lo + 1 })
    (s := ((s.stealOver id e.launch c).modCore c (Core.pushBack { e with refused := [], lo := e.lo + 1 })).postNow (.dispatch c))
    ht hl hs
  simp only [State.stealDeliver, hf, hk, List.foldl_nil, hslot, canPush_of_room hroom, decide_eq_true h2, Bool.and_self, if_true]
  rw [stealOver_pushTail hw hroom]
  exact hb
/-- R203: what no slot takes, without an acquire of its own, is pushed at the thief's tail. -/
theorem stealDeliver_pushes (hk : f.kind = .steal e v c false false [] true [] ∨ f.kind = .steal e v c cross true [] true [])
    (hnone : ∀ i, i < 16 → (s.slot (c * 16 + i)).status ≠ .idle) (hroom : (s.core c).deque.length < 64) :
    s.stealDeliver id = (s.stealOver id e.launch c).pushTail c { e with refused := [] } := by
  have hslot : s.thiefSlot c { e with refused := [] } = none :=
    (if_pos (mayRun_of_mayDispatch hd)).trans (slotFor_eq_none hnone _)
  rcases hk with hk | hk <;>
    simp only [State.stealDeliver, hf, hk, List.foldl_nil, hslot, canPush_of_room hroom, Bool.not_true, Bool.and_false,
      Bool.false_and, Bool.false_eq_true, if_true, if_false]
end

end Sys2Proof.Machine

open Sys2Proof.Machine Sys2Proof.Claims in
/-- Settles O45: probes by `stealProbe_asks`, `pauseOver_asks` and `stealProbe_pauses`; grants by `stealGrant_near_sends` and
`stealGrant_far_sends`; the release of a range piece by `stealRelease_piece`; deliveries by `stealDeliver_begins`,
`stealDeliver_splits` and `stealDeliver_pushes`. -/
theorem stealingMovesEntries : Obligations.StealingMovesEntries := by
  refine fun s c hcan => ?_
  obtain ⟨-, -, -, -, hw, -⟩ := hcan
  refine ⟨fun i e l hr h0 h hi => ?_, fun hr hp hend => ?_, fun v e l hvc h hslot hsb => ?_,
    fun id v f e hf => ⟨fun hk hwaits => ?_,
      fun l cross hd => ⟨fun hk ht => ?_, fun hk ht h2 hroom => ?_, fun hk hnone hroom => ?_⟩⟩⟩
  · rcases hi with ⟨rfl, hp⟩ | rfl
    · exact ⟨_, congrArg Host.Outcome.next (stealProbe_asks hr hp h0 h), ⟨rfl, rfl⟩, State.mem_post _ _ _⟩
    · exact ⟨_, congrArg Host.Outcome.next (pauseOver_asks hw hr h0 h), ⟨rfl, rfl⟩, State.mem_post _ _ _⟩
  · have hc := State.core_modCore_same hw c Core.pause
    refine ⟨_, congrArg Host.Outcome.next (stealProbe_pauses hr hp hend), ⟨rfl, rfl⟩, ?_, ?_, ?_, ?_, State.mem_post _ _ _⟩ <;>
      rw [State.post_core, hc] <;> rfl
  · by_cases hn : v / 8 = c / 8
    · obtain ⟨f, hmem, hfl, hid, hgrant⟩ := stealGrant_near_sends hw hvc h hn
      exact ⟨s.stealGrant v c, f, rfl, hmem, hfl, hid, (if_pos hn).mpr hgrant⟩
    · obtain ⟨f, hmem, hfl, hid, hgrant⟩ := stealGrant_far_sends hw h hn hslot hsb
      exact ⟨s.stealGrant v c, f, rfl, hmem, hfl, hid, (if_neg hn).mpr hgrant⟩
  · have hturn := modFlight_turns hf (g := fun f =>
      { f with kind := .steal { e with acq := true } v c true true [] true [] }) fun _ => rfl
    exact ⟨_, congrArg Host.Outcome.next (stealRelease_piece hf hk hwaits), ⟨rfl, rfl⟩, hturn, State.mem_post _ _ _⟩
  · exact ⟨_, congrArg Host.Outcome.next (stealDeliver_begins hf hd hk ht), rfl, rfl, rfl⟩
  · obtain ⟨⟨hslots, hmem⟩, hended⟩ := stealOver_pushTail_frame hw hroom id e.launch { e with refused := [], lo := e.lo + 1 }
    refine ⟨_, congrArg Host.Outcome.next (stealDeliver_splits hf hd hw hk ht h2 hroom), hmem, hended,
      deque_stealOver_pushTail hw hroom id e.launch _, ?_⟩
    rw [State.postNow_slots, State.setSlot, hslots]; rfl
  · obtain ⟨hstill, hended⟩ := stealOver_pushTail_frame hw hroom id e.launch { e with refused := [] }
    exact ⟨_, congrArg Host.Outcome.next (stealDeliver_pushes hf hd hk hnone hroom), hstill, hended,
      deque_stealOver_pushTail hw hroom id e.launch _⟩

/-! ## Speculations (O47) -/

namespace Sys2Proof.Machine

/-- A speculation that runs launch 3 for queue 0; the claim is asked, and dies 0 to 2 have replied without a conflict. -/
def threeReplied : Spec :=
  { lid := 3, queue := 0, extents := [], dry := [], undo := [], usage := 0, dieUse := [], claimed := false, asked := true,
    replies := [0, 1, 2], conflict := false, ended := false, predicted := [] }
/-- The queue map lists queue 0 twice: first as it is at reset, but for the claim of packet 6 under way, then with packet 7
claimed. Queue 0 reads as the first entry. -/
def claimOfQueueListedTwice : State :=
  { specs := [(1, some threeReplied)], launches := [(3, some { droppingLaunch with specOf := some 1 })],
    queues := [(0, { claiming := some 6 }), (0, { claiming := some 7 })] }

/-- The fourth reply ends the claim of packet 6. The queue is then as at reset, so its entry leaves the map, and queue 0 reads
as the second entry. -/
theorem claiming_claimOfQueueListedTwice : ((claimOfQueueListedTwice.claimReplied 1 3).queue 0).claiming = some 7 := by
  decide +kernel

end Sys2Proof.Machine

open Sys2Proof.Machine in
/-- Refutes O47, at its clause of the fourth reply: no hypothesis asks that the queue map be in canonical form or that the
queue be defined. In `claimOfQueueListedTwice` the reply that ends the claim of the first entry of queue 0 uncovers the second,
which is claiming too (`claiming_claimOfQueueListedTwice`). -/
theorem not_speculationsRunAndEnd : ¬ Obligations.SpeculationsRunAndEnd := by
  intro h
  obtain ⟨-, -, -, hclaim, -⟩ := h claimOfQueueListedTwice
  obtain ⟨-, hfourth⟩ := hclaim 1 3 threeReplied rfl rfl rfl (by decide)
  obtain ⟨t, -, ht, -, -, hnone, -⟩ := hfourth 6 { droppingLaunch with specOf := some 1 } rfl rfl rfl rfl
  have he : t = claimOfQueueListedTwice.claimReplied 1 3 := (Host.Outcome.next.inj ht).symm
  have hqueue : (t.queue 0).claiming = none := hnone
  rw [he, claiming_claimOfQueueListedTwice] at hqueue
  exact absurd hqueue (by decide)

/-! ## Dispatch and the start of a task (O44) -/

namespace Sys2Proof.Machine
open Sys2Proof.Claims

/-! ### Slots woken together -/

/-- A map rewritten entry by entry, with what became the default removed, reads as the rewritten entries. -/
theorem mapGet_map_from {α : Type} [DecidableEq α] (d : α) {f : Nat × α → α} {m : SMap α} {lo k : Nat}
    (h : mapWfFrom d lo m = true) (hf : f (k, d) = d) :
    mapGet d ((m.map fun e => (e.1, f e)).filter fun e => e.2 ≠ d) k = f (k, mapGet d m k) := by
  induction m generalizing lo with
  | nil => exact hf.symm
  | cons e rest ih =>
    obtain ⟨j, v⟩ := e
    simp only [mapWfFrom, Bool.and_eq_true, decide_eq_true_eq] at h
    obtain ⟨-, hrest⟩ := h
    have ih := ih hrest
    rw [List.map_cons, List.filter_cons]
    by_cases hjk : j = k
    · subst hjk
      rw [mapGet_below d rest hrest (Nat.lt_succ_self j), hf] at ih
      by_cases hv : f (j, v) = d
      · simpa [hv, mapGet] using ih
      · simp [hv, mapGet]
    · by_cases hv : f (j, v) = d
      · simpa [hv, mapGet, hjk] using ih
      · simpa [hv, mapGet, hjk] using ih
/-- What becomes of a listed slot when the slots of core `c` that wait for `why` return to rotation. -/
def wokenIn (c : Nat) (why : Block) (e : Nat × Slot) : Slot := if coreOf e.1 = c then e.2.wake why else e.2
theorem State.wakeCore_slots (s : State) (c : Nat) (why : Block) :
    (s.wakeCore c why).slots = (s.slots.map fun e => (e.1, wokenIn c why e)).filter fun e => e.2 ≠ {} := by
  refine congrArg (List.filter _) (List.map_congr_left fun e _ => ?_)
  unfold wokenIn
  split <;> rfl
theorem State.wakeCore_wf {s : State} (hw : mapWf {} s.slots = true) (c : Nat) (why : Block) :
    mapWf {} (s.wakeCore c why).slots = true := by
  rw [State.wakeCore_slots]
  exact map_wfFrom _ _ _ _ hw
/-- An IDLE slot waits for nothing, so it stays as it is. -/
theorem State.slot_wakeCore_idle {s : State} (hw : mapWf {} s.slots = true) {t : Nat} (h : (s.slot t).status = .idle) (c : Nat)
    (why : Block) : (s.wakeCore c why).slot t = s.slot t := by
  have hread : (s.wakeCore c why).slot t = wokenIn c why (t, s.slot t) := by
    rw [State.slot, State.wakeCore_slots]
    exact mapGet_map_from ({} : Slot) (lo := 0) (m := s.slots) hw (ite_self _)
  have hstay : (s.slot t).wake why = s.slot t := if_neg (by simp [h])
  rw [hread, wokenIn, hstay, ite_self]
/-- Nor does it change when room comes free in its core's deque, as when an entry leaves. -/
theorem State.slot_dequeRoom_idle {s : State} (hw : mapWf {} s.slots = true) {t : Nat} (h : (s.slot t).status = .idle) (c : Nat) :
    (s.dequeRoom c).slot t = s.slot t := by
  have hspill := State.slot_wakeCore_idle hw h c .spill
  rw [State.dequeRoom, State.slot_wakeCore_idle (State.wakeCore_wf hw c .spill) (by rw [hspill]; exact h), hspill]
theorem State.slot_removeEntry_idle {s : State} (hw : mapWf {} s.slots = true) {t : Nat} (h : (s.slot t).status = .idle) (c : Nat)
    (e : DqEntry) (b : Bool) : (s.removeEntry c e b).slot t = s.slot t :=
  State.slot_dequeRoom_idle hw h c

@[simp] theorem State.removeEntry_specs (s : State) (c : Nat) (e : DqEntry) (b : Bool) :
    (s.removeEntry c e b).specs = s.specs := rfl
@[simp] theorem State.removeEntry_launch (s : State) (c : Nat) (e : DqEntry) (b : Bool) (lid : Nat) :
    (s.removeEntry c e b).launch lid = s.launch lid := rfl

/-! ### The dispatch (07 R191, R192) -/

theorem core_unfail {s : State} (hw : mapWf {} s.cores = true) (c : Nat) :
    (s.unfail c).core c = { s.core c with failed := 0 } := State.core_modCore_same hw c _
/-- R192: a slot that takes the launch's tasks may take the one entry of the deque. -/
theorem candidate_of_oneEntry {s : State} {c t : Nat} {e : DqEntry} {l : Launch} (h : oneEntry s c e)
    (hd : mayDispatch s c e.launch l) (ht : takes s t e.launch) : s.candidate c t = some e := by
  obtain ⟨hsp, hdq, -⟩ := h
  simp [State.candidate, Core.entries, hsp, hdq, mayRun_of_mayDispatch hd, slotTakes_of_takes ht]
/-- With an entry on the core nothing comes back from the spilled ones. -/
theorem unspill_of_deque {s : State} {c : Nat} {e : DqEntry} (h : (s.core c).deque = [e]) : s.unspill c = s := by
  simp only [State.unspill, h]
/-- R192: slot 0 takes the one entry, which is then the one at the tail, and the next slot looks. -/
theorem dispatchCore_takes {s : State} {c : Nat} {e : DqEntry} {l : Launch} (hw : mapWf {} s.cores = true) (h : oneEntry s c e)
    (hd : mayDispatch s c e.launch l) (ht : takes s (c * 16) e.launch) :
    s.dispatchCore c = ((s.unfail c).takeEntry c (c * 16) e).postNow (.dispatch c) := by
  have hslot : (s.idleSlots c).find? (fun t => (s.candidate c t).isSome) = some (c * 16) := by
    rw [State.idleSlots, show List.range 16 = 0 :: List.range' 1 15 from rfl, List.filter_cons_of_pos (by simpa using ht.1),
      List.map_cons]
    exact List.find?_cons_of_pos (by simp [candidate_of_oneEntry h hd ht])
  have hc := core_unfail hw c
  have hone : oneEntry (s.unfail c) c e := by unfold oneEntry; rw [hc]; exact h
  have hmay : mayDispatch (s.unfail c) c e.launch l := by unfold mayDispatch; rw [hc]; exact hd
  have hcand : (s.unfail c).candidate c (c * 16) = some e := candidate_of_oneEntry hone hmay ht
  obtain ⟨-, hdq, -, hin⟩ := h
  simp only [State.dispatchCore, hslot, unspill_of_deque hdq]
  rw [State.unfail] at hcand ⊢
  simp only [hcand, hin, Bool.false_eq_true, if_false]

/-- R192: a continuation is taken whole. -/
theorem takeEntry_cont {s : State} {c t : Nat} {e : DqEntry} (hp : e.place = none) (hk : e.kind = 0) :
    s.takeEntry c t e = (s.removeEntry c e false).beginTask t e := by
  simp [State.takeEntry, hp, hk]
/-- R192: of a range of more than one ordinal the first is taken. -/
theorem takeEntry_range {s : State} {c t : Nat} {e : DqEntry} (hp : e.place = none) (hk : e.kind = 1) (h2 : e.lo + 2 ≤ e.hi) :
    s.takeEntry c t e = (s.replaceEntry c e { e with lo := e.lo + 1 }).beginTask t { e with hi := e.lo + 1 } := by
  simp [State.takeEntry, hp, hk, h2]

/-- A task that begins changes its slot, and neither memory nor a core. -/
theorem beginTask_reads {s : State} {t : Nat} {e : DqEntry} {l : Launch} (h : takes s t e.launch)
    (hl : s.launch e.launch = some l) (hs : l.specOf = none) :
    (s.beginTask t e).mem = s.mem ∧ (∀ c, (s.beginTask t e).core c = s.core c) ∧
      (s.beginTask t e).slot t = dispatched (s.slot t) e := by
  rw [beginTask_of_takes h hl hs, State.postNow_slot]
  exact ⟨rfl, fun _ => rfl, State.slot_setSlot_task _ _ SlotStatus.noConfusion⟩

section
variable {s : State} {c : Nat} {e : DqEntry} {l : Launch} (hcores : mapWf {} s.cores = true) (h : oneEntry s c e)
  (hd : mayDispatch s c e.launch l) (ht : takes s (c * 16) e.launch)
include hcores h hd ht

/-- R192: what is taken of the one entry begins in slot 0; the deque is as the taking leaves it. -/
theorem dispatchCore_reads {u : State} {e' : DqEntry} (htake : (s.unfail c).takeEntry c (c * 16) e = u.beginTask (c * 16) e')
    (hu : takes u (c * 16) e'.launch) (hl : u.launch e'.launch = some l) :
    (s.dispatchCore c).mem = u.mem ∧ ((s.dispatchCore c).core c).deque = (u.core c).deque ∧
      (s.dispatchCore c).slot (c * 16) = dispatched (u.slot (c * 16)) e' := by
  have ⟨_, _, _, hspec, _⟩ := hd
  obtain ⟨hmem, hcore, hslot⟩ := beginTask_reads hu hl hspec
  rw [dispatchCore_takes hcores h hd ht, htake, State.postNow_mem, State.postNow_core, State.postNow_slot, hcore]
  exact ⟨hmem, rfl, hslot⟩
/-- R192: the one entry, a continuation, leaves the deque for slot 0. -/
theorem dispatchCore_cont (hslots : mapWf {} s.slots = true) (hk : e.kind = 0) :
    (s.dispatchCore c).mem = s.mem ∧ ((s.dispatchCore c).core c).deque = [] ∧
      (s.dispatchCore c).slot (c * 16) = dispatched (s.slot (c * 16)) e := by
  have hwt : mapWf {} (s.unfail c).cores = true := mapPut_wf _ _ _ _ hcores
  have hidle : ((s.unfail c).removeEntry c e false).slot (c * 16) = s.slot (c * 16) :=
    State.slot_removeEntry_idle (s := s.unfail c) hslots ht.1 c e false
  have hu : takes ((s.unfail c).removeEntry c e false) (c * 16) e.launch := by
    unfold takes
    rw [hidle, State.removeEntry_specs]
    exact ht
  have ⟨_, hdq, hp, _⟩ := h
  have ⟨hl, _⟩ := hd
  have hempty := deque_removeEntry_sole hwt (by rw [core_unfail hcores]; exact hdq) hp false
  have hreads := dispatchCore_reads hcores h hd ht (takeEntry_cont hp hk) hu (by rw [State.removeEntry_launch]; exact hl)
  rw [hempty, hidle, State.removeEntry_mem] at hreads
  exact hreads
/-- R192: the first ordinal of the one entry, a range, goes to slot 0, and the rest stays in the deque. -/
theorem dispatchCore_range (hk : e.kind = 1) (h2 : e.lo + 2 ≤ e.hi) :
    (s.dispatchCore c).mem = s.mem ∧ ((s.dispatchCore c).core c).deque = [{ e with lo := e.lo + 1 }] ∧
      (s.dispatchCore c).slot (c * 16) = dispatched (s.slot (c * 16)) { e with hi := e.lo + 1 } := by
  have hwt : mapWf {} (s.unfail c).cores = true := mapPut_wf _ _ _ _ hcores
  have ⟨_, hdq, hp, _⟩ := h
  have ⟨hl, _⟩ := hd
  have hrest := deque_replaceEntry_sole hwt (by rw [core_unfail hcores]; exact hdq) hp { e with lo := e.lo + 1 }
  have htake := takeEntry_range (s := s.unfail c) (c := c) (t := c * 16) hp hk h2
  obtain ⟨f, hf⟩ : ∃ f, (s.unfail c).replaceEntry c e { e with lo := e.lo + 1 } = (s.unfail c).modCore c f :=
    ⟨_, replaceEntry_onCore _ _ hp _⟩
  rw [hf] at hrest htake
  have hreads := dispatchCore_reads hcores h hd ht htake ht hl
  rwa [hrest] at hreads
end

/-! ### The header (07 R205, R467) -/

/-- Whether a transaction is the header read of the task that slot `t` is to begin. -/
def Flight.readsHeader (t : Nat) (f : Flight) : Bool :=
  f.owner = t && (match f.kind with | .load .header _ _ _ => !f.orphan | _ => false)
theorem Flight.readsHeader_iff (t : Nat) (f : Flight) :
    f.readsHeader t = true ↔ f.owner = t ∧ f.orphan = false ∧ ∃ g a v, f.kind = .load .header g a v := by
  unfold Flight.readsHeader
  split
  · next g a v hk => simp [hk]
  · next hk => simpa using fun _ _ g a v h => hk g a v h

section
variable {s : State} {t : Nat} {e : DqEntry} (hs : (s.slot t).status = .dispatching) (he : (s.slot t).entry = some e)
include hs he

/-- R467: with no header read on its way and the producer's writes performed, the read is sent. -/
theorem headerEvent_sends (hf : s.flights.find? (·.readsHeader t) = none) (hwaits : e.waits = [])
    (hw : (s.slot t).hdrWait = true) :
    s.headerEvent t = ((s.setSlot t { s.slot t with hdrWait := false }).send t (BitVec.ofNat 64 e.lo)
      [⟨.glob (s.asidOf e.launch) e.frame.toNat, 64, 0, .new⟩] (.load .header .none .read 0)).1 := by
  unfold State.headerEvent
  simp only [hs, he]
  split
  · simp only [hw, hwaits]; rfl
  · next hfound => exact nomatch hf.symm.trans hfound
/-- R205: when the header read is complete, the task starts with what it read. -/
theorem headerEvent_starts {f : Flight} {g : GranOp} {a : Acc} {v : VWord} (hf : s.flights.find? (·.readsHeader t) = some f)
    (hk : f.kind = .load .header g a v) (hdone : ∀ p ∈ f.pieces, p.phase = .done) :
    s.headerEvent t = (s.dropFlight f.id).startTask t e (natLe v.toNat 64) := by
  unfold State.headerEvent
  simp only [hs, he]
  split
  · next hfound => exact nomatch hf.symm.trans hfound
  · next f' hfound =>
    obtain rfl : f = f' := Option.some.inj (hf.symm.trans hfound)
    simp only [hk]
    exact if_pos (List.all_eq_true.mpr fun p hp => decide_eq_true (hdone p hp))
end

/-- Of the transactions that satisfy `p`, the first is the one that its ticket finds, if all of them have that ticket. -/
theorem find_flight {s : State} {f : Flight} {p : Flight → Bool} (hf : s.flight f.id = some f) (hp : p f = true)
    (hall : ∀ g ∈ s.flights, p g = true → g.id = f.id) : s.flights.find? p = some f := by
  obtain ⟨-, before, after, hsplit, hbefore⟩ := List.find?_eq_some_iff_append.mp hf
  refine List.find?_eq_some_iff_append.mpr ⟨hp, before, after, hsplit, fun g hg => ?_⟩
  have hid := hbefore g hg
  have hmem : g ∈ s.flights := by rw [hsplit]; exact List.mem_append_left _ hg
  cases hpg : p g with
  | false => rfl
  | true => simp [hall g hmem hpg] at hid

/-- So the complete header read of a slot is found, if it is the one transaction of the slot. -/
theorem find_readsHeader {s : State} {t : Nat} {f : Flight} {g : GranOp} {a : Acc} {v : VWord} (hf : s.flight f.id = some f)
    (hothers : ∀ g ∈ others s f.id, g.owner ≠ t) (hown : f.owner = t) (horph : f.orphan = false)
    (hk : f.kind = .load .header g a v) : s.flights.find? (·.readsHeader t) = some f := by
  refine find_flight hf ((f.readsHeader_iff t).mpr ⟨hown, horph, g, a, v, hk⟩) fun h hmem hreads => ?_
  obtain ⟨hhown, -⟩ := (h.readsHeader_iff t).mp hreads
  refine Decidable.byContradiction fun hne => ?_
  exact hothers h (List.mem_filter.mpr ⟨hmem, by simpa using hne⟩) hhown
/-- And none is found where no transaction of the slot reads its header. -/
theorem find_readsHeader_none {s : State} {t : Nat}
    (h : ∀ f ∈ s.flights, f.owner = t → ∀ g a v, f.kind ≠ .load .header g a v) :
    s.flights.find? (·.readsHeader t) = none := by
  refine List.find?_eq_none.mpr fun f hmem hreads => ?_
  obtain ⟨hown, -, g, a, v, hk⟩ := (f.readsHeader_iff t).mp hreads
  exact h f hmem hown g a v hk

/-! ### The registers of a task (07 R205) -/

/-- The bytes of two lists together. -/
theorem leNat_append (a b : List Byte) : leNat (a ++ b) = leNat a + 256 ^ a.length * leNat b := by
  induction a with
  | nil => simp [leNat]
  | cons x a ih =>
    rw [List.cons_append, leNat, ih, leNat, List.length_cons, Nat.pow_succ', Nat.mul_add, Nat.mul_assoc, Nat.add_assoc]
theorem leNat_lt (b : List Byte) : leNat b < 256 ^ b.length := by
  induction b with
  | nil => decide
  | cons x b ih =>
    have hx := x.isLt
    rw [leNat, List.length_cons, Nat.pow_succ]
    omega
/-- A list of bytes reads back from its number. -/
theorem natLe_leNat (b : List Byte) : natLe (leNat b) b.length = b := by
  induction b with
  | nil => rfl
  | cons x b ih =>
    have hx := x.isLt
    have hlow : BitVec.ofNat 8 (x.toNat + 256 * leNat b) = x := BitVec.eq_of_toNat_eq (by simp; omega)
    rw [leNat, List.length_cons, natLe, hlow, show (x.toNat + 256 * leNat b) / 256 = leNat b by omega, ih]
/-- A header word's low half and high half are its bytes 0 to 3 and 4 to 7. -/
theorem hdrWord_halves {b : List Byte} {k : Nat} (h : 8 * k + 4 ≤ b.length) :
    hdrWord b k % 2 ^ 32 = leNat ((b.drop (8 * k)).take 4) ∧ hdrWord b k / 2 ^ 32 = leNat ((b.drop (8 * k + 4)).take 4) := by
  have hlen : ((b.drop (8 * k)).take 4).length = 4 := by simp; omega
  have hlt := leNat_lt ((b.drop (8 * k)).take 4)
  have hword : hdrWord b k = leNat ((b.drop (8 * k)).take 4) + 256 ^ 4 * leNat ((b.drop (8 * k + 4)).take 4) := by
    rw [hdrWord, show 8 = 4 + 4 from rfl, List.take_add, leNat_append, hlen, List.drop_drop]
  rw [hlen] at hlt
  omega

/-- R205: the slot of a task of launch `l` that starts, with its format descriptors `fs`; its segment registers, g1 and FR are
still to be set. -/
def Slot.blank (x : Slot) (a : TaskStart) (e : Option DqEntry) (l : Launch) (fs : SMap Word) : Slot :=
  { x.toIdle with
    status := .ready, preempt := false, g := [], v := [], m := [], sg := [], sgPend := [], fs := fs, pc := a.pc, mode := .user,
    fflags := 0, fmode := BitVec.ofNat 64 a.fmode, rseed := BitVec.ofNat 64 a.rseed, wid := BitVec.ofNat 64 a.wid,
    lid := BitVec.ofNat 64 a.lid, prio := BitVec.ofNat 64 l.hdr.prio, jc := a.jc, tk := a.tk, ex := 0, task := some a.lid,
    entry := e }
/-- R205, R10: the frame's offset in sg2 goes to g1 and FR, or waits there for a pending sg2. -/
def Slot.takeFrame (frame : Word) (x : Slot) : Slot :=
  if mapGet false x.sgPend 2 then { x.eg 1 with frPend := true, fr := frame }
  else { x.wg 1 (frame - (x.rsg 2).base) with fr := frame - (x.rsg 2).base }
/-- R205: a task starts in a blank slot, which takes its format descriptors, its segment registers and its frame. -/
theorem setTask_eq {s : State} {t : Nat} {a : TaskStart} {l : Launch} (e : Option DqEntry) (hl : s.launch a.lid = some l)
    (hp : (s.slot t).preempt = false) :
    s.setTask t a e = (a.sels.zipIdx.foldl (fun s i => s.loadSelector t i.2 i.1 a.pc)
      (s.setSlot t (l.hdr.fs.zipIdx.foldl (fun y f => y.wfs f.2 f.1) ((s.slot t).blank a e l [])))).modSlot t
        (Slot.takeFrame a.frame) := by
  simp only [State.setTask, hl, hp]; rfl

section
variable (x : Slot) (a : TaskStart) (e : Option DqEntry) (l : Launch) (fs : SMap Word)

theorem blank_status : (x.blank a e l fs).status ≠ .idle := SlotStatus.noConfusion
/-- Format descriptors change nothing else of the slot. -/
theorem blank_foldl_wfs (d : List (Word × Nat)) :
    ∃ fs', d.foldl (fun y f => y.wfs f.2 f.1) (x.blank a e l fs) = x.blank a e l fs' := by
  induction d generalizing fs with
  | nil => exact ⟨fs, rfl⟩
  | cons f d ih => exact ih (mapPut 0x700 fs f.2 f.1)
/-- R8: selector 0 gives the null descriptor, which the blank slot has already. -/
theorem blank_loadSelector_zero (s : State) (t n : Nat) (pc : Word) :
    (s.setSlot t (x.blank a e l fs)).loadSelector t n 0 pc = s.setSlot t (x.blank a e l fs) := by
  have hload : (s.setSlot t (x.blank a e l fs)).loadSelector t n 0 pc =
    (s.setSlot t (x.blank a e l fs)).modSlot t (·.wsg n {}) := rfl
  have hrun := blank_status x a e l fs
  rw [hload, State.modSlot, State.slot_setSlot_task _ _ hrun, State.setSlot_setSlot _ _ _ hrun]; rfl
/-- With sg2 null, g1 and FR hold the frame's address. -/
theorem blank_takeFrame (frame : Word) :
    (x.blank a e l fs).takeFrame frame = { (x.blank a e l fs).wg 1 frame with fr := frame } :=
  congrArg (fun v => { (x.blank a e l fs).wg 1 v with fr := v }) (BitVec.sub_zero frame)
end

/-- R205: a task whose selectors are null starts with no segment register loaded or pending. -/
theorem setTask_null {s : State} {t : Nat} {a : TaskStart} {l : Launch} (e : Option DqEntry) (hl : s.launch a.lid = some l)
    (hp : (s.slot t).preempt = false) (hsel : a.sels = List.replicate 8 0) :
    ∃ fs, s.setTask t a e = s.setSlot t { ((s.slot t).blank a e l fs).wg 1 a.frame with fr := a.frame } := by
  obtain ⟨fs, hfs⟩ := blank_foldl_wfs (s.slot t) a e l [] l.hdr.fs.zipIdx
  have hrun := blank_status (s.slot t) a e l fs
  have hsels : (List.replicate 8 0).zipIdx = [(0, 0), (0, 1), (0, 2), (0, 3), (0, 4), (0, 5), (0, 6), (0, 7)] := rfl
  refine ⟨fs, ?_⟩
  rw [setTask_eq e hl hp, hfs, hsel, hsels]
  simp only [List.foldl_cons, List.foldl_nil, blank_loadSelector_zero]
  rw [State.modSlot, State.slot_setSlot_task _ _ hrun, State.setSlot_setSlot _ _ _ hrun, blank_takeFrame]

/-- What a continuation starts with: its entry and its frame's header (R187, R205). -/
def contStart (e : DqEntry) (b : List Byte) : TaskStart :=
  { lid := e.launch, pc := BitVec.ofNat 64 e.lo, frame := e.frame, sels := ((b.drop 48).take 8).map (·.toNat),
    fmode := hdrWord b 7 % 2 ^ 32, rseed := hdrWord b 7 / 2 ^ 32, wid := 0, jc := hdrWord b 1,
    tk := if bit (hdrWord b 5) 40 then .root else .cont }
/-- R187: it starts when its header is well formed and it owes no acquire. -/
theorem startTask_cont {s : State} {t : Nat} {e : DqEntry} {l : Launch} {b : List Byte} (hl : s.launch e.launch = some l)
    (hb : s.headerOk l.part b = true) (hk : e.kind = 0) (ha : e.acq = false) :
    s.startTask t e b = s.setTask t (contStart e b) (some e) := by
  simp [State.startTask, contStart, hl, hb, hk, ha]
/-- R205: the slot of a continuation with null selectors that begins. -/
def Slot.begun (x : Slot) (e : DqEntry) (b : List Byte) (l : Launch) (fs : SMap Word) : Slot :=
  { (x.blank (contStart e b) (some e) l fs).wg 1 e.frame with fr := e.frame }
/-- R205: g1 holds the frame's address; the other registers are zero and FULL. -/
theorem Slot.begun_gReg (x : Slot) (e : DqEntry) (b : List Byte) (l : Launch) (fs : SMap Word) (n : Nat) :
    (x.begun e b l fs).gReg n = if n = 1 then ⟨e.frame, false⟩ else {} := by
  have hg : (x.begun e b l fs).g = mapPut {} [] 1 ⟨e.frame, false⟩ := rfl
  rw [Slot.gReg, hg]
  by_cases h1 : n = 1
  · rw [if_pos h1, h1, if_neg Nat.one_ne_zero, mapGet_mapPut_same _ _ _ _ rfl]
  · rw [if_neg h1, mapGet_mapPut_other _ _ _ h1]; exact ite_self _
/-- R205: a continuation whose complete header names null selectors begins, and the transaction is over. -/
theorem headerEvent_begins {s : State} {t : Nat} {e : DqEntry} {l : Launch} {f : Flight} {b : List Byte}
    (hs : (s.slot t).status = .dispatching) (he : (s.slot t).entry = some e) (hl : s.launch e.launch = some l)
    (hf : s.flights.find? (·.readsHeader t) = some f)
    (hk : f.kind = .load .header .none .read (BitVec.ofNat 512 (leNat b))) (hdone : ∀ p ∈ f.pieces, p.phase = .done)
    (hlen : b.length = 64) (hp : (s.slot t).preempt = false) (hkind : e.kind = 0) (ha : e.acq = false)
    (hok : s.headerOk l.part b = true) (hsel : (b.drop 48).take 8 = List.replicate 8 0) :
    ∃ fs, s.headerEvent t = (s.dropFlight f.id).setSlot t ((s.slot t).begun e b l fs) := by
  have hbytes : natLe (BitVec.ofNat 512 (leNat b)).toNat 64 = b := by
    have hlt := leNat_lt b
    rw [hlen] at hlt
    rw [BitVec.toNat_ofNat, Nat.mod_eq_of_lt (by omega), ← hlen, natLe_leNat]
  have hnull : (contStart e b).sels = List.replicate 8 0 := by rw [contStart, hsel]; rfl
  rw [headerEvent_starts hs he hf hk hdone, hbytes, startTask_cont (s := s.dropFlight f.id) hl hok hkind ha]
  exact setTask_null (s := s.dropFlight f.id) (some e) hl hp hnull

end Sys2Proof.Machine

open Sys2Proof.Machine Sys2Proof.Claims in
/-- Settles O44: the one entry goes to slot 0 by `dispatchCore_cont` and `dispatchCore_range`; the header read is sent by
`headerEvent_sends`, and the task begins by `headerEvent_begins`, with the registers of `Slot.begun`. -/
theorem dispatchBeginsTasks : Obligations.DispatchBeginsTasks := by
  refine fun s e l hcan => ⟨fun c h hd ht => ⟨fun hk => ?_, fun hk h2 => ?_⟩, fun thr => ?_⟩
  · obtain ⟨-, -, -, hslots, hcores, -⟩ := hcan
    exact ⟨_, rfl, dispatchCore_cont hcores h hd ht hslots hk⟩
  · obtain ⟨-, -, -, -, hcores, -⟩ := hcan
    exact ⟨_, rfl, dispatchCore_range hcores h hd ht hk h2⟩
  · intro x hs he hl
    refine ⟨fun hf hwaits hw => ?_, fun f b hf hothers hown horph hdone hkind hlen hp hk ha hok hsel => ?_⟩
    · have hasid : s.asidOf e.launch = l.asid := by rw [State.asidOf, hl]
      have hsend := headerEvent_sends hs he (find_readsHeader_none hf) hwaits hw
      rw [hasid] at hsend
      exact ⟨_, _, congrArg Host.Outcome.next hsend, rfl, rfl, rfl, rfl, rfl, rfl⟩
    · obtain ⟨fs, hbegin⟩ := headerEvent_begins hs he hl (find_readsHeader hf hothers hown horph hkind) hkind hdone hlen hp hk
        ha hok hsel
      obtain ⟨hlow, hhigh⟩ := hdrWord_halves (b := b) (k := 7) (by omega)
      refine ⟨_, congrArg Host.Outcome.next hbegin, rfl, rfl, ?_⟩
      rw [State.slot_setSlot_task _ _ SlotStatus.noConfusion]
      refine ⟨rfl, rfl, rfl, rfl, rfl, congrArg (BitVec.ofNat 64) hlow, congrArg (BitVec.ofNat 64) hhigh, rfl, ?_, rfl,
        congrArg Reg.val (x.begun_gReg e b l fs 1), fun n h1 _ => ?_, fun _ _ => rfl, fun n h0 _ => if_neg (by omega)⟩
      · rw [Slot.lidN, show (x.begun e b l fs).lid = BitVec.ofNat 64 e.launch from rfl, BitVec.toNat_ofNat]; omega
      · exact (x.begun_gReg e b l fs n).trans (if_neg (by omega))

/-! ## Issue turns (O1) -/

namespace Sys2Proof.Machine

/-- Log 3: no event is due while the first of the agenda stands for this cycle or a later one. -/
theorem State.nextEvent_eq_none {s : State} (h : ∀ e ∈ s.agenda.head?, s.cycle ≤ e.1) : s.nextEvent = none := by
  unfold State.nextEvent
  split
  · rfl
  · next d e rest ha => exact if_neg (Nat.not_lt.mpr (h (d, e) (by simp [ha])))
/-- R184: the state in which the slot whose turn it is issues. -/
def State.atTurn (s : State) : State := { s with cur := s.turn * 16 + s.cycle % 16, turn := s.turn + 1 }
/-- With no event due, a step within the cycle is that slot's issue turn. -/
theorem step_eq_issue {s : State} (ht : s.turn < coreCount) (ha : ∀ e ∈ s.agenda.head?, s.cycle ≤ e.1) :
    step s = s.atTurn.issue := by
  rw [step, if_neg (Nat.not_le.mpr ht), State.nextEvent_eq_none ha]; rfl

/-- R183: a slot out of rotation, or returned to it in this cycle, does not issue. -/
theorem State.issue_loses {s : State} (h : (s.slot s.cur).status ≠ .ready ∨ s.cur ∈ s.woken) : s.issue = .next s := by
  unfold State.issue
  exact if_pos (by simpa using h)
/-- R184: what the issuing slot does with what its fetch gives. -/
def State.issueFetched (s : State) : Fetched → Res
  | .held t => .next t
  | .failed pc => execFetchTrap false pc s
  | .word w =>
    let v := (s.modSlot s.cur fun x => { x with fetched := none }).noteStart (s.slot s.cur).lidN
    match decode w with
    | .ok i => exec i v
    | .error _ => execIllegalInstruction (BitVec.ofNat 32 w) v
/-- A READY slot with no trap waiting fetches and goes by what the fetch gives. -/
theorem State.issue_ready {s : State} (hr : (s.slot s.cur).status = .ready) (hw : s.cur ∉ s.woken)
    (hd : (s.slot s.cur).deferred = none) (he : (s.slot s.cur).dataErr = none) :
    s.issue = s.issueFetched (s.fetch s.cur) := by
  simp only [State.issue, hr, hd, he]
  rw [if_neg (by simpa using hw)]
  cases s.fetch s.cur <;> rfl

end Sys2Proof.Machine

open Sys2Proof.Machine in
/-- Settles O1: with no event due a step is the issue turn (`step_eq_issue`), which is lost (`State.issue_loses`) or goes by
what the fetch gives (`State.issue_ready`). -/
theorem stepRunsDecodedInstruction : Obligations.StepRunsDecodedInstruction := by
  intro s w i ht ha
  rw [step_eq_issue ht ha]
  refine ⟨State.issue_loses, fun hr hw hd he => ?_⟩
  have hissue := State.issue_ready (s := s.atTurn) hr hw hd he
  refine ⟨fun hf => ?_, fun pc hf => hissue.trans (congrArg _ hf)⟩
  have hword := hissue.trans (congrArg _ hf)
  refine ⟨fun hok => hword.trans ?_, fun e herr => hword.trans ?_⟩
  · simp only [State.issueFetched, hok]; rfl
  · simp only [State.issueFetched, herr]; rfl

/-! ## Conversions between element types (O13) -/

namespace Sys2Proof.Machine
open Sys2Proof.Claims

/-! ### The lanes of a vector (12 R307, R309) -/

@[simp] theorem toNat_el (v : VWord) (w k : Nat) : (el v w k).toNat = lane v w k := by
  rw [el, BitVec.extractLsb'_toNat, Nat.shiftRight_eq_div_pow, lane]
/-- The code of a lane is the lane. -/
@[simp] theorem ofNat_lane (v : VWord) (w k : Nat) : BitVec.ofNat w (lane v w k) = el v w k := by
  rw [← toNat_el, BitVec.ofNat_toNat, BitVec.setWidth_eq]
theorem sInt_lane (v : VWord) (w k : Nat) : sInt w (lane v w k) = (el v w k).toInt := by rw [sInt, ofNat_lane]
/-- R307: the lanes of a type fill the register. -/
theorem elemW_mul_lanesOf (t : ElemTy) : elemW t * lanesOf t = 512 := by cases t <;> rfl

theorem ofLanes_lt (w n : Nat) (f : Nat → Nat) : ofLanes w f n < 2 ^ (w * n) := by
  induction n with
  | zero => exact Nat.one_pos
  | succ n ih =>
    have hlane : f n % 2 ^ w + 1 ≤ 2 ^ w := Nat.mod_lt _ (Nat.two_pow_pos w)
    calc ofLanes w f n + f n % 2 ^ w * 2 ^ (w * n)
      _ < (f n % 2 ^ w + 1) * 2 ^ (w * n) := by rw [Nat.succ_mul]; omega
      _ ≤ 2 ^ w * 2 ^ (w * n) := Nat.mul_le_mul_right _ hlane
      _ = 2 ^ (w * (n + 1)) := by rw [← Nat.pow_add, Nat.mul_succ, Nat.add_comm]
/-- Each lane is found at its place. -/
theorem ofLanes_lane {w n k : Nat} (f : Nat → Nat) (hk : k < n) : ofLanes w f n / 2 ^ (w * k) % 2 ^ w = f k % 2 ^ w := by
  induction n with
  | zero => exact absurd hk (Nat.not_lt_zero k)
  | succ n ih =>
    rw [ofLanes]
    rcases Nat.lt_succ_iff_lt_or_eq.mp hk with hlow | rfl
    · obtain ⟨r, rfl⟩ := Nat.exists_eq_add_of_lt hlow
      have hplace : 2 ^ (w * (k + r + 1)) = 2 ^ (w * r) * 2 ^ w * 2 ^ (w * k) := by
        rw [← Nat.pow_add, ← Nat.pow_add, Nat.mul_succ, Nat.mul_add, Nat.add_comm (w * k), Nat.add_right_comm]
      rw [hplace, ← Nat.mul_assoc, Nat.add_mul_div_right _ _ (Nat.two_pow_pos _), ← Nat.mul_assoc, Nat.add_mul_mod_self_right]
      exact ih hlow
    · rw [Nat.add_mul_div_right _ _ (Nat.two_pow_pos _), Nat.div_eq_of_lt (ofLanes_lt w k f), Nat.zero_add, Nat.mod_mod]

/-- Lanes that fit a word are not cut. -/
theorem toNat_ofNat_ofLanes {w n W : Nat} (hfit : w * n ≤ W) (f : Nat → Nat) :
    (BitVec.ofNat W (ofLanes w f n)).toNat = ofLanes w f n := by
  rw [BitVec.toNat_ofNat]
  exact Nat.mod_eq_of_lt (Nat.lt_of_lt_of_le (ofLanes_lt w n f) (Nat.pow_le_pow_right Nat.two_pos hfit))

section
variable {w n k : Nat} (hfit : w * n ≤ 512)
include hfit

theorem toNat_mkVec (f : Nat → Nat) : (mkVec w n f).toNat = ofLanes w f n := toNat_ofNat_ofLanes hfit f
theorem el_mkVec (f : Nat → Nat) (hk : k < n) : el (mkVec w n f) w k = BitVec.ofNat w (f k) := by
  refine BitVec.eq_of_toNat_eq ?_
  rw [toNat_el, lane, toNat_mkVec hfit, ofLanes_lane f hk, BitVec.toNat_ofNat]
/-- R321: above its lanes the vector is zero. -/
theorem el_mkVec_above (f : Nat → Nat) (hk : n ≤ k) : el (mkVec w n f) w k = 0 := by
  have hsmall : ofLanes w f n < 2 ^ (w * k) :=
    Nat.lt_of_lt_of_le (ofLanes_lt w n f) (Nat.pow_le_pow_right Nat.two_pos (Nat.mul_le_mul_left w hk))
  refine BitVec.eq_of_toNat_eq ?_
  rw [toNat_el, lane, toNat_mkVec hfit, Nat.div_eq_of_lt hsmall]
  simp
/-- R309: active lanes take their result and the others are kept. -/
theorem el_keepLanes (mask : Word) (old : VWord) (f : Nat → Nat) (hk : k < n) :
    el (keepLanes w n mask old f) w k = if mask.getLsbD k then BitVec.ofNat w (f k) else el old w k := by
  rw [keepLanes, el_mkVec hfit _ hk, apply_ite (BitVec.ofNat w), ofNat_lane]
end

/-- R226: lanes that earn no flag leave none. -/
theorem laneFlags_eq_zero {n : Nat} {mask : Word} {f : Nat → Nat} (h : ∀ i, f i = 0) : laneFlags n mask f = 0 := by
  unfold laneFlags
  induction List.range n with
  | nil => rfl
  | cons i l ih => rw [List.foldl_cons, h i, Nat.or_zero, ite_self]; exact ih

/-! ### Integers of a width (08 R213) -/

theorem ofNat_toBits (w : Nat) (i : Int) : BitVec.ofNat w (toBits w i) = BitVec.ofInt w i := by
  have hcast : (2 : Int) ^ w = (2 ^ w : Nat) := (Int.natCast_pow 2 w).symm
  have hpos : (0 : Int) < (2 ^ w : Nat) := Int.natCast_pos.mpr (Nat.two_pow_pos w)
  have hlt : (i % (2 ^ w : Nat)).toNat < 2 ^ w :=
    (Int.toNat_lt (Int.emod_nonneg i (Int.ne_of_gt hpos))).mpr (Int.emod_lt_of_pos i hpos)
  refine BitVec.eq_of_toNat_eq ?_
  rw [toBits, hcast, BitVec.toNat_ofNat, BitVec.toNat_ofInt, Nat.mod_eq_of_lt hlt]
/-- A clamped lane is the signed value nearest to the integer. -/
theorem ofNat_clampLane (w : Nat) (i : Int) : BitVec.ofNat w (clampLane w i) = clampTo w i := by
  have hpos : (0 : Int) < 2 ^ (w - 1) := Int.pow_pos (by decide)
  have hclamp : clampInt (intRange w false) i = max (-(2 ^ (w - 1))) (min (2 ^ (w - 1) - 1) i) := by
    simp only [clampInt, intRange, Bool.false_eq_true, if_false]
    generalize (2 : Int) ^ (w - 1) = p at hpos
    split
    · omega
    · split <;> omega
  rw [clampLane, ofNat_toBits, hclamp, clampTo]
/-- The low bits of a lane. -/
theorem ofNat_lane_mod (v : VWord) (w h k : Nat) : BitVec.ofNat h (lane v w k % 2 ^ h) = (el v w k).setWidth h :=
  BitVec.eq_of_toNat_eq (by simp)
/-- A lane sign-extended to another width. -/
theorem ofNat_toBits_sInt (v : VWord) (w h k : Nat) :
    BitVec.ofNat h (toBits h (sInt w (lane v w k))) = (el v w k).signExtend h := by
  rw [sInt_lane, ofNat_toBits, BitVec.signExtend]

/-! ### What a conversion reads and leaves (12 R308, R321-R324) -/

/-- The sources of an instruction that keeps masked lanes let it go on. -/
theorem State.withSrcs_of_fullKeep {s : State} {srcs : List Src} {d : Fin 32} {m : Fin 8}
    (h : fullKeep s (srcs.map fun r => (r.file, r.n)) d m) (k : State → State) :
    s.withSrcs (srcs ++ .m m :: keepSrc d m) k = k s := by
  obtain ⟨hsrcs, hkeep⟩ := h
  refine State.withSrcs_full k fun r hr => ?_
  rcases List.mem_append.mp hr with hr | hr
  · exact hsrcs _ (List.mem_cons_of_mem _ (List.mem_map_of_mem hr))
  rcases List.mem_cons.mp hr with rfl | hr
  · exact hsrcs _ List.mem_cons_self
  · unfold keepSrc at hr
    split at hr
    · exact nomatch hr
    · next hm =>
      obtain rfl := List.mem_singleton.mp hr
      exact hkeep (fun h0 => hm (congrArg Fin.val h0)) _ (List.mem_singleton.mpr rfl)

/-- R324: the seed advances under SR alone. -/
theorem Slot.advanceSeed_eq (x : Slot) (m : RMode) :
    x.advanceSeed m = { x with rseed := if m = .sr then BitVec.ofNat 64 (srNext x.rseed.toNat) else x.rseed } := by
  cases m <;> rfl
/-- A conversion of the issuing slot that writes `y` to v[d], earns the flags `n` and rounds under `m` (R224, R324). -/
def converts (s : State) (d : Fin 32) (y : VWord) (n : Nat) (m : RMode) : Res :=
  goesOn s { (me s).wv d y with
    pc := (me s).pc + 4, fflags := (me s).fflags ||| BitVec.ofNat 64 (n % 32),
    rseed := if m = .sr then BitVec.ofNat 64 (srNext (me s).rseed.toNat) else (me s).rseed }
theorem State.next_converts {s : State} {f : Slot → Slot} {d : Fin 32} {y : VWord} {n : Nat} {m : RMode}
    (h : f (me s) = (((me s).wv d y).addFlags n).advanceSeed m) : .next (s.finish f) = converts s d y n m := by
  rw [Slot.advanceSeed_eq] at h
  have hpc : (f (me s)).pc = (me s).pc := by rw [h]; rfl
  rw [State.next_finish s hpc, h]
  rfl

/-! ### VCVT, VCVTI and VCVTF (12 R321, R322) -/

/-- R321: the converted elements of either width fit the register. -/
theorem elemW_mul_cvtCount (d : Nat) : elemW (fsDty d) * cvtCount d ≤ 512 :=
  Nat.le_trans (Nat.mul_le_mul_right _ (Nat.le_max_right ..)) (Nat.mul_div_le ..)

/-- R321: with a valid descriptor and FULL sources, VCVT is the conversion of the elements. -/
theorem execVcvt_valid {s : State} {o : Vcvt} (hok : cvtOk ((me s).rfs o.fs).toNat = true)
    (h : fullKeep s ((.v, o.a.val) :: if fsScl ((me s).rfs o.fs).toNat = 0 then [] else [(.v, o.s.val)]) o.d o.m) :
    execVcvt o s =
      let d := ((me s).rfs o.fs).toNat
      let r := cvtElem o d (me s)
      converts s o.d (keepLanes (elemW (fsDty d)) (cvtCount d) ((me s).rm o.m) ((me s).rv o.d) fun i => (r i).1)
        (laneFlags (cvtCount d) ((me s).rm o.m) fun i => (r i).2) (fsMode d (me s).rmode) := by
  have hsrcs := State.withSrcs_of_fullKeep (s := s) (d := o.d) (m := o.m)
    (srcs := .v o.a :: if fsScl ((me s).rfs o.fs).toNat = 0 then [] else [.v o.s]) (by
      rw [List.map_cons, apply_ite (List.map _)]; exact h)
  rw [execVcvt, State.vcvt, hsrcs, if_neg (by simp [hok])]
  exact State.next_converts rfl

/-- R322: with FULL sources a conversion at one width is the conversion of the lanes. -/
theorem State.vCvtI_full {s : State} {o : Vci} (h : fullKeep s [(.v, o.a)] o.d o.m)
    (f : RMode → Bool → Nat → Nat → Nat × Nat) :
    .next (s.vCvtI o f) =
      let r := fun i => f (me s).rmode (me s).satinf (srWord (me s).rseed.toNat i) (lane ((me s).rv o.a) (elemW o.ty) i)
      converts s o.d (keepLanes (elemW o.ty) (lanesOf o.ty) ((me s).rm o.m) ((me s).rv o.d) fun i => (r i).1)
        (laneFlags (lanesOf o.ty) ((me s).rm o.m) fun i => (r i).2) (me s).rmode :=
  (congrArg Host.Outcome.next (State.withSrcs_of_fullKeep (srcs := [.v o.a]) h _)).trans (State.next_converts rfl)

/-- A lane read as an integer. -/
theorem readInt_lane (v : VWord) (w k : Nat) (u : Bool) :
    readInt w u (lane v w k) = if u then ((el v w k).toNat : Int) else (el v w k).toInt := by
  cases u with
  | true =>
    have hlt : lane v w k < 2 ^ w := Nat.mod_lt _ (Nat.two_pow_pos w)
    rw [readInt, if_pos rfl, if_pos rfl, Nat.mod_eq_of_lt hlt, toNat_el]
  | false => rw [readInt, if_neg Bool.false_ne_true, if_neg Bool.false_ne_true, ofNat_lane]

/-! ### VPACK and VUNPK (12 R323) -/

/-- Element i of VPACK and its flags, from va's elements and then vb's. -/
def packLane (x : Slot) (a b : Fin 32) (ty : ElemTy) (u : Bool) (i : Nat) : Nat × Nat :=
  packElem ty u x i (if i < lanesOf ty then lane (x.rv a) (elemW ty) i else lane (x.rv b) (elemW ty) (i - lanesOf ty))
/-- Element i of VUNPK and its flags, from the lower or the upper half of va. -/
def unpkLane (x : Slot) (a : Fin 32) (ty : ElemTy) (u : Bool) (i : Nat) : Nat × Nat :=
  unpkElem ty x (lane (x.rv a) (elemW ty) (if u then lanesOf ty / 2 + i else i))

section
variable {s : State} {a b d : Fin 32} {ty : ElemTy} {u : Bool}

/-- With FULL sources VPACK writes every lane, and of the types it takes only f32 rounds. -/
theorem execVpack_full (h : full s [(.v, a), (.v, b)]) :
    execVpack d a b ty u s =
      converts s d (mkVec (elemW ty / 2) (2 * lanesOf ty) fun i => (packLane (me s) a b ty u i).1)
        (laneFlags (2 * lanesOf ty) (BitVec.allOnes 64) fun i => (packLane (me s) a b ty u i).2)
        (if ty.isInt then .rne else (me s).rmode) := by
  rw [execVpack, State.vpack, State.withSrcs_of_full (srcs := [.v a, .v b]) h]
  refine State.next_converts ?_
  split <;> rfl
/-- With a FULL source VUNPK writes every lane and never rounds. -/
theorem execVunpk_full (h : full s [(.v, a)]) :
    execVunpk d a ty u s =
      converts s d (mkVec (2 * elemW ty) (lanesOf ty / 2) fun i => (unpkLane (me s) a ty u i).1)
        (laneFlags (lanesOf ty / 2) (BitVec.allOnes 64) fun i => (unpkLane (me s) a ty u i).2) .rne := by
  rw [execVunpk, State.vunpk, State.withSrcs_of_full (srcs := [.v a]) h]
  exact State.next_converts rfl

section
variable (hint : ty.isInt = true) (x : Slot)
include hint

/-- An integer element is packed clamped, or to its low bits, without a flag. -/
theorem packElem_int (v : VWord) (i k : Nat) :
    BitVec.ofNat (elemW ty / 2) (packElem ty u x i (lane v (elemW ty) k)).1 =
        (if u then clampTo (elemW ty / 2) (el v (elemW ty) k).toInt else (el v (elemW ty) k).setWidth (elemW ty / 2)) ∧
      (packElem ty u x i (lane v (elemW ty) k)).2 = 0 := by
  rw [packElem, if_pos hint]
  refine ⟨?_, rfl⟩
  cases u with
  | true => exact (ofNat_clampLane _ _).trans (congrArg _ (sInt_lane ..))
  | false => exact ofNat_lane_mod ..
/-- So is each integer element of VPACK. -/
theorem packLane_int (i : Nat) :
    let c := if i < lanesOf ty then el (x.rv a) (elemW ty) i else el (x.rv b) (elemW ty) (i - lanesOf ty)
    BitVec.ofNat (elemW ty / 2) (packLane x a b ty u i).1 =
        (if u then clampTo (elemW ty / 2) c.toInt else c.setWidth (elemW ty / 2)) ∧
      (packLane x a b ty u i).2 = 0 := by
  unfold packLane
  by_cases hi : i < lanesOf ty
  · simp only [if_pos hi]; exact packElem_int hint ..
  · simp only [if_neg hi]; exact packElem_int hint ..
/-- An integer element of VUNPK is its source sign-extended, without a flag. -/
theorem unpkLane_int (i : Nat) :
    BitVec.ofNat (2 * elemW ty) (unpkLane x a ty u i).1 =
        (el (x.rv a) (elemW ty) (if u then lanesOf ty / 2 + i else i)).signExtend (2 * elemW ty) ∧
      (unpkLane x a ty u i).2 = 0 := by
  rw [unpkLane, unpkElem, if_pos hint]
  exact ⟨ofNat_toBits_sInt .., rfl⟩
end
end

end Sys2Proof.Machine

open Sys2Proof Sys2Proof.Machine Sys2Proof.Claims in
/-- Settles O13: VCVT by `execVcvt_valid`, VCVTI and VCVTF by `State.vCvtI_full`, the lanes of all three by `el_keepLanes`;
VPACK by `execVpack_full` and `packLane_int`, VUNPK by `execVunpk_full` and `unpkLane_int`. -/
theorem vectorConversions : Obligations.VectorConversions := by
  refine ⟨fun s => ⟨fun o hok h => ?_, fun o _ h => ?_⟩, fun s d a b ty u => ⟨fun _ h => ?_, fun _ h => ?_⟩⟩
  · have hfit := elemW_mul_cvtCount ((me s).rfs o.fs).toNat
    exact ⟨_, _, execVcvt_valid hok h, fun k hk => el_keepLanes hfit _ _ _ hk, fun k hk => el_mkVec_above hfit _ hk⟩
  · have hfit := Nat.le_of_eq (elemW_mul_lanesOf o.ty)
    refine ⟨_, _, _, _, State.vCvtI_full h _, State.vCvtI_full h _, fun k hk => ⟨?_, ?_⟩⟩
    · simp only [el_keepLanes hfit _ _ _ hk, fl, toNat_el, active]
    · rw [el_keepLanes hfit _ _ _ hk]; simp only [readInt_lane]; rfl
  · refine ⟨_, _, _, execVpack_full h, fun hint => ⟨?_, ?_, fun k hk => ?_⟩⟩
    · rw [laneFlags_eq_zero fun i => (packLane_int hint _ i).2]; rfl
    · rw [if_pos hint]; rfl
    · have hfit : elemW ty / 2 * (2 * lanesOf ty) ≤ 512 := by cases ty <;> decide
      exact (el_mkVec hfit _ hk).trans (packLane_int hint _ k).1
  · refine ⟨_, _, execVunpk_full h, fun hint => ⟨?_, fun k hk => ?_⟩⟩
    · rw [laneFlags_eq_zero fun i => (unpkLane_int hint _ i).2]; rfl
    · have hfit : 2 * elemW ty * (lanesOf ty / 2) ≤ 512 := by cases ty <;> decide
      exact (el_mkVec hfit _ hk).trans (unpkLane_int hint _ k).1

/-! ## Scalar instructions: their sources and moulds (09 R238, 10 R258) -/

namespace Sys2Proof.Machine
open Sys2Proof.Claims

/-- One FULL g source lets an instruction go on, whatever its q bit. -/
theorem State.next_withSrcs_one {s : State} {a : Fin 32} (h : full s [(.g, a)]) (q : Bool) (k : State → State) :
    (.next (s.withSrcs [.g a q] k) : Res) = .next (k s) :=
  congrArg Host.Outcome.next (State.withSrcs_of_full (srcs := [.g a q]) h k)
/-- And so do two. -/
theorem State.next_withSrcs_two {s : State} {a b : Fin 32} (h : full s [(.g, a), (.g, b)]) (q r : Bool) (k : State → State) :
    (.next (s.withSrcs [.g a q, .g b r] k) : Res) = .next (k s) :=
  congrArg Host.Outcome.next (State.withSrcs_of_full (srcs := [.g a q, .g b r]) h k)
/-- R238 step 4 for one g source: the check of an EMPTY one, whatever the instruction does with a FULL one. -/
theorem waitsFor_of_withSrcs {s : State} {i : Instr} {n : Fin 32} {q : Bool} {k : State → State}
    (h : exec i s = .next (s.withSrcs [.g n q] k)) : waitsFor s i n q := by
  intro hp he
  have hw : s.withSrcs [.g n q] k =
      if q then s.trapExact 6 (BitVec.ofNat 64 n.val) else s.blockCur (.reg .g n.val) := by
    cases q <;> simp [State.withSrcs, Src.g, he, RegFile.code]
  rw [h, hw]
  cases q with
  | true => exact State.next_trapExact hp 6 _
  | false => rfl

/-- An instruction of a mould (R258, R266, R267) is the same under two spellings of its result or condition. -/
theorem next_congr₁ {α β : Type} (mould : (α → β) → State) {f g : α → β} (h : ∀ a, f a = g a) :
    (.next (mould f) : Res) = .next (mould g) := by rw [funext h]
theorem next_congr₂ {α β γ : Type} (mould : (α → β → γ) → State) {f g : α → β → γ} (h : ∀ a b, f a b = g a b) :
    (.next (mould f) : Res) = .next (mould g) := by
  rw [funext fun a => funext (h a)]

end Sys2Proof.Machine

/-! ## Branches and jumps (O8) -/

namespace Sys2Proof.Machine
open Sys2Proof.Claims

/-- R266, R267: a branch moves the PC by its displacement if its condition holds, and by one word if not. -/
theorem State.next_branch (s : State) (c : Slot → Bool) (t : Word) :
    .next (s.modSlot s.cur fun x => { x with pc := if c x then x.pc + t else x.pc + 4 }) =
      goesOn s { me s with pc := (me s).pc + if c (me s) then t else 4 } := by
  rw [State.modSlot]
  cases c (me s) <;> rfl
/-- R266: a two-register branch with its sources FULL. -/
theorem State.next_branch2 {s : State} {o : Br2} (h : full s [(.g, o.a), (.g, o.b)]) (c : Word → Word → Bool) :
    .next (s.branch2 o c) = goesOn s { me s with
      pc := (me s).pc + if c ((me s).rg o.a) ((me s).rg o.b) then o.disp.signExtend 64 * 4 else 4 } :=
  (State.next_withSrcs_two h _ _ _).trans (State.next_branch s (fun x => c (x.rg o.a) (x.rg o.b)) _)
/-- R267: a compare with zero with its source FULL. -/
theorem State.next_branchZ {s : State} {o : Brz} (h : full s [(.g, o.a)]) (c : Word → Bool) :
    .next (s.branchZ o c) = goesOn s { me s with
      pc := (me s).pc + if c ((me s).rg o.a) then o.disp.signExtend 64 * 4 else 4 } :=
  (State.next_withSrcs_one h _ _).trans (State.next_branch s (fun x => c (x.rg o.a)) _)

/-- The comparisons of R260, R266 and R267 on the signed and unsigned readings. -/
theorem not_slt_eq (a b : Word) : (!a.slt b) = decide (b.toInt ≤ a.toInt) := by simp [BitVec.slt, ← decide_not]
theorem not_ult_eq (a b : Word) : (!a.ult b) = decide (b.toNat ≤ a.toNat) := by simp [BitVec.ult, ← decide_not]

/-- The two low bits of a word, as a remainder and as a slice. -/
theorem mod_four_eq_zero_iff (t : Word) : t.toNat % 4 = 0 ↔ t.extractLsb' 0 2 = 0 := by
  rw [← BitVec.toNat_inj, BitVec.extractLsb'_toNat]
  simp

/-- R269: with its source FULL, JALR goes by the two low bits of its target. -/
theorem execJalr_full {s : State} {o : Ri} (h : full s [(.g, o.a)]) :
    execJalr o s = .next (if ((me s).rg o.a + o.imm.signExtend 64).extractLsb' 0 2 = 0
      then s.setSlot s.cur { (me s).wg o.d ((me s).pc + 4) with pc := (me s).rg o.a + o.imm.signExtend 64 }
      else s.trapExact 3 ((me s).rg o.a + o.imm.signExtend 64)) := by
  rw [execJalr, State.withSrcs_of_full (srcs := [.g o.a o.qa]) h]
  simp only [← mod_four_eq_zero_iff, ne_eq, ite_not]
  rfl

/-- R266: each row of the table branches under its condition. -/
theorem branchesTwo_exec : ∀ p ∈ branchesTwo, ∀ (s : State) (o : Br2), exec (p.1 o) s = .next (s.branch2 o p.2) := by
  simp only [branchesTwo, List.forall_mem_cons]
  refine ⟨?beq, ?bne, ?blt, ?bge, ?bltu, ?bgeu, List.forall_mem_nil _⟩
  case bge => exact fun s o => next_congr₂ (s.branch2 o) not_slt_eq
  case bgeu => exact fun s o => next_congr₂ (s.branch2 o) not_ult_eq
  case bne => exact fun s o => next_congr₂ (s.branch2 o) fun _ _ => decide_not.symm
  all_goals exact fun _ _ => rfl
/-- R267: and so does each compare with zero. -/
theorem branchesZero_exec : ∀ p ∈ branchesZero, ∀ (s : State) (o : Brz), exec (p.1 o) s = .next (s.branchZ o p.2) := by
  simp only [branchesZero, List.forall_mem_cons]
  refine ⟨?beqz, ?bnez, ?bltz, ?bgez, ?bgtz, ?blez, List.forall_mem_nil _⟩
  case bgez => exact fun s o => next_congr₁ (s.branchZ o) fun a => not_slt_eq a 0
  case blez => exact fun s o => next_congr₁ (s.branchZ o) fun a => not_slt_eq 0 a
  case bnez => exact fun s o => next_congr₁ (s.branchZ o) fun _ => decide_not.symm
  all_goals exact fun _ _ => rfl

end Sys2Proof.Machine

open Sys2Proof Sys2Proof.Machine Sys2Proof.Claims in
/-- Settles O8: the branches by their tables (`branchesTwo_exec`, `branchesZero_exec`) and `State.next_branch`, JALR by
`execJalr_full` and `waitsFor_of_withSrcs`; JAL and SKIP are one update of the slot. -/
theorem branchesAndJumps : Obligations.BranchesAndJumps := by
  refine ⟨fun s => ⟨fun p hp o h => ?_, fun p hp o h => ?_⟩, fun s => ⟨fun o => rfl, fun o h ht => ?_, fun n => rfl⟩,
    fun s o => ⟨waitsFor_of_withSrcs rfl, fun hp h ht => ?_⟩⟩
  · exact (branchesTwo_exec p hp s o).trans (State.next_branch2 h p.2)
  · exact (branchesZero_exec p hp s o).trans (State.next_branchZ h p.2)
  · exact (execJalr_full h).trans (congrArg Host.Outcome.next (if_pos ht))
  · exact ((execJalr_full h).trans (congrArg Host.Outcome.next (if_neg ht))).trans (State.next_trapExact hp 3 _)

/-! ## Traps, returns, HALT and BREAK (O17, O18) -/

namespace Sys2Proof.Machine
open Sys2Proof.Claims

/-! ### tstat (16 R406) -/

/-- The test of one bit of a register. -/
theorem and_twoPow_bne_zero {w : Nat} (x : BitVec w) {k : Nat} (hk : k < w) : (x &&& BitVec.twoPow w k != 0) = x.getLsbD k := by
  have hne : BitVec.twoPow w k ≠ 0 := fun h => by simpa [hk] using congrArg (·.getLsbD k) h
  rw [BitVec.and_twoPow]
  cases x.getLsbD k with
  | true => simpa using hne
  | false => simp
theorem Slot.inHandler_eq (x : Slot) : x.inHandler = x.tstat.getLsbD 6 := and_twoPow_bne_zero x.tstat (k := 6) (by decide)

/-- Bit j of a field of ones. -/
theorem getLsbD_ones (w n j : Nat) : (BitVec.ofNat w (2 ^ n - 1)).getLsbD j = (decide (j < w) && decide (j < n)) := by
  rw [BitVec.getLsbD_ofNat, Nat.testBit_two_pow_sub_one]
/-- The RPC field of tstat: 46 bits of the resume PC from bit 18 up. -/
theorem getLsbD_rpcField (rpc : Word) (k : Nat) :
    (((rpc >>> 2) &&& (0x3FFFFFFFFFFF : Word)) <<< 18).getLsbD k = (decide (18 ≤ k ∧ k < 64) && rpc.getLsbD (k - 16)) := by
  by_cases h : 18 ≤ k ∧ k < 64
  · have hk : 2 + (k - 18) = k - 16 := by omega
    rw [BitVec.getLsbD_shiftLeft, BitVec.getLsbD_and, BitVec.getLsbD_ushiftRight, hk,
      show (0x3FFFFFFFFFFF : Word) = BitVec.ofNat 64 (2 ^ 46 - 1) from rfl, getLsbD_ones]
    simp [h, show ¬k < 18 by omega, show k - 18 < 46 by omega, show k - 18 < 64 by omega]
  · rw [decide_eq_false h, Bool.false_and, BitVec.getLsbD_shiftLeft]
    rcases Nat.lt_or_ge k 18 with h18 | h18
    · simp [h18]
    · simp [show ¬k < 64 by omega]

/-- R405, R406: tstat after a trap as the union of its fields: RPC, the kept DOVF and NEST, NEST of a trap in a handler,
DEF, INH and PMODE. -/
theorem Slot.getLsbD_trapStat (x : Slot) (rpc : Word) (deferred : Bool) (k : Nat) :
    (x.trapStat rpc deferred).getLsbD k =
      ((decide (18 ≤ k ∧ k < 64) && rpc.getLsbD (k - 16)) || (x.tstat.getLsbD k && (decide (9 = k) || decide (7 = k))) ||
        (x.tstat.getLsbD 6 && decide (7 = k)) || (deferred && decide (8 = k)) || decide (6 = k) ||
        (decide (x.mode = .system) && decide (0 = k))) := by
  have hflag : ∀ (p : Prop) [Decidable p] (j : Nat), (if p then BitVec.twoPow 64 j else 0).getLsbD k =
      (decide p && (decide (j < 64) && decide (j = k))) := fun p _ j => by split <;> simp [*]
  simp only [Slot.trapStat, Slot.inHandler_eq, show tstatPmode = BitVec.twoPow 64 0 from rfl,
    show tstatInh = BitVec.twoPow 64 6 from rfl, show tstatNest = BitVec.twoPow 64 7 from rfl,
    show tstatDef = BitVec.twoPow 64 8 from rfl, show tstatDovf = BitVec.twoPow 64 9 from rfl, BitVec.getLsbD_or,
    BitVec.getLsbD_and, getLsbD_rpcField, BitVec.getLsbD_twoPow, hflag]
  simp

/-- R406: the bits of tstat that name no field are zero. -/
theorem Slot.getLsbD_trapStat_reserved (x : Slot) (rpc : Word) (deferred : Bool) {k : Nat}
    (hk : 1 ≤ k ∧ k ≤ 5 ∨ 10 ≤ k ∧ k ≤ 17) : (x.trapStat rpc deferred).getLsbD k = false := by
  rw [Slot.getLsbD_trapStat]
  simp [show ¬18 ≤ k by omega, show 9 ≠ k by omega, show 7 ≠ k by omega, show 8 ≠ k by omega, show 6 ≠ k by omega,
    show 0 ≠ k by omega]
/-- R405: and those from 18 up are the resume PC without its two low bits. -/
theorem Slot.getLsbD_trapStat_rpc (x : Slot) (rpc : Word) (deferred : Bool) {k : Nat} (hk : k < 46) :
    (x.trapStat rpc deferred).getLsbD (18 + k) = rpc.getLsbD (2 + k) := by
  rw [Slot.getLsbD_trapStat]
  simp [show 18 + k < 64 by omega, show 18 + k - 16 = 2 + k by omega, show 9 ≠ 18 + k by omega, show 7 ≠ 18 + k by omega,
    show 8 ≠ 18 + k by omega, show 6 ≠ 18 + k by omega, show 0 ≠ 18 + k by omega]

/-- R276, R406: TRET takes the mode from PMODE. -/
theorem Slot.trapReturn_eq (x : Slot) :
    x.trapReturn = { x with pc := x.tpc, mode := if x.tstat.getLsbD 0 then .system else .user,
                            tstat := x.tstat &&& ~~~(0x40 : Word) } := by
  have hb : (x.tstat &&& tstatPmode != 0) = x.tstat.getLsbD 0 := and_twoPow_bne_zero x.tstat (k := 0) (by decide)
  simp only [Slot.trapReturn, hb, tstatInh]

/-! ### Slots that stop (16 R409, 17 R430) -/

/-- A slot whose launch is not being killed stays where it stops, or parks for a pre-emption held until then. -/
theorem State.stopAt_kept {s : State} {t : Nat} (h : ∀ l ∈ (s.slot t).task, s.killedOf l = false) :
    s.stopAt t = if (s.slot t).preempt then s.setSlot t { s.slot t with status := .parked, preempt := false } else s := by
  cases ht : (s.slot t).task with
  | none => simp [State.stopAt, ht]
  | some l => simp [State.stopAt, ht, h l ht]

/-- R430: an event that finds a place is held, and the slots, the launches and memory stay. -/
theorem State.raise_held {s : State} (hl : s.lost = 0) (he : s.events.length < 256) (code : Nat) (body : List Byte) :
    (s.raise code body).events = s.events ++ [⟨s.eventNo, code, body⟩] ∧ (s.raise code body).slots = s.slots ∧
      (s.raise code body).launches = s.launches ∧ (s.raise code body).mem = s.mem := by
  rw [State.raise, if_pos hl, if_pos he, State.holdEvent]
  dsimp only
  split <;> exact ⟨rfl, rfl, rfl, rfl⟩

/-- R277, R278: a slot that is set HALTED reads back, its event is raised, and memory and the other slots stay. -/
theorem State.halts {s : State} {r : Res} {t : Nat} {x : Slot} {code : Nat} {body : List Byte}
    (hr : r = .next (((s.setSlot t x).raise code body).stopAt t)) (hl : s.lost = 0) (he : s.events.length < 256)
    (hs : x.status = .halted) (hp : x.preempt = false) (hk : ∀ l ∈ x.task, s.killedOf l = false) :
    ∃ u, r = .next u ∧ u.slot t = x ∧ u.events = s.events ++ [⟨s.eventNo, code, body⟩] ∧ u.mem = s.mem ∧
      ∀ v, v ≠ t → u.slot v = s.slot v := by
  obtain ⟨hevents, hslots, hlaunches, hmem⟩ := State.raise_held (s := s.setSlot t x) hl he code body
  generalize (s.setSlot t x).raise code body = u at *
  have hslot : ∀ v, u.slot v = (s.setSlot t x).slot v := fun v => congrArg (fun m => mapGet ({} : Slot) m v) hslots
  have hx : u.slot t = x := (hslot t).trans (State.slot_setSlot_task s t (by simp [hs]))
  have hkilled : u.killedOf = s.killedOf := by
    funext l
    simp only [State.killedOf, State.launch, hlaunches, State.setSlot_launches]
  have hstop : u.stopAt t = u := by
    rw [State.stopAt_kept (by rwa [hx, hkilled]), hx, if_neg (by simp [hp])]
  exact ⟨u, hr.trans (congrArg Host.Outcome.next hstop), hx, hevents, hmem,
    fun v hv => (hslot v).trans (State.slot_setSlot_other s x hv)⟩

/-- R276, R409: TRET in system mode. -/
theorem execTret_system {s : State} (hr : (me s).status = .ready) (hm : (me s).mode = .system)
    (hk : ∀ l ∈ (me s).task, s.killedOf l = false) :
    execTret s = .next (if (me s).preempt
      then s.setSlot s.cur { (me s).trapReturn with status := .parked, preempt := false }
      else s.setSlot s.cur (me s).trapReturn) := by
  have hx : (s.modSlot s.cur Slot.trapReturn).slot s.cur = (me s).trapReturn :=
    State.slot_setSlot_task s s.cur (by simp [Slot.trapReturn, hr])
  have hstop := State.stopAt_kept (s := s.modSlot s.cur Slot.trapReturn) (t := s.cur) (by rw [hx]; exact hk)
  rw [hx, State.modSlot, State.setSlot_setSlot s s.cur _ (by simp [Slot.trapReturn, hr])] at hstop
  rw [execTret, State.privileged_system hm]
  exact congrArg Host.Outcome.next hstop

/-- R277: HALT in system mode. -/
theorem execHalt_system {s : State} (hm : (me s).mode = .system) :
    execHalt s = .next (((s.setSlot s.cur { me s with status := .halted, preempt := false }).raise 0x101
      (haltBody s.cur (me s).pc)).stopAt s.cur) :=
  congrArg Host.Outcome.next (State.privileged_system hm _ _)
/-- R278: BREAK outside a speculation. -/
theorem execBreak_full {s : State} {o : Ra} (hp : plain s) (h : full s [(.g, o.a)]) :
    execBreak o s = .next (((s.setSlot s.cur { me s with
      tpc := (me s).pc &&& ~~~(3 : Word), tcause := 21, tval := (me s).rg o.a, tstat := (me s).breakStat, status := .halted,
      preempt := false }).raise 0x102 (haltBody s.cur (me s).pc ++ natLe ((me s).rg o.a).toNat 8)).stopAt s.cur) := by
  rw [execBreak, State.withSrcs_of_full (srcs := [.g o.a o.qa]) h]
  simp only [show s.specOf (s.slot s.cur).lidN = none from hp]
  rfl

end Sys2Proof.Machine

open Sys2Proof Sys2Proof.Machine Sys2Proof.Claims in
/-- Settles O17: TRAP by `waitsFor_of_withSrcs` and `State.next_trapExact`, tstat by `Slot.getLsbD_trapStat`. -/
theorem softwareTrapEntry : Obligations.SoftwareTrapEntry := by
  refine ⟨fun s o => ⟨waitsFor_of_withSrcs rfl, fun hp h => ?_⟩, fun x rpc deferred => ?_⟩
  · exact (State.next_withSrcs_one h _ _).trans (State.next_trapExact hp 20 _)
  · refine ⟨fun k hk => x.getLsbD_trapStat_rpc rpc deferred hk,
      fun k h10 h17 => x.getLsbD_trapStat_reserved rpc deferred (.inr ⟨h10, h17⟩), ?_, ?_, ?_, ?_,
      fun k h1 h5 => x.getLsbD_trapStat_reserved rpc deferred (.inl ⟨h1, h5⟩), ?_⟩ <;>
    · rw [Slot.getLsbD_trapStat]; simp

open Sys2Proof Sys2Proof.Machine Sys2Proof.Claims in
/-- Settles O18: TRET by `execTret_system`, HALT and BREAK by `State.halts`. -/
theorem trapReturnHaltAndBreak : Obligations.TrapReturnHaltAndBreak := by
  refine ⟨fun s hr hm hk => ⟨fun hp => ?_, fun hp => ?_⟩, fun s hl he => ⟨fun hm hk => ?_, fun o hp h hk => ?_⟩⟩
  · rw [← Slot.trapReturn_eq]
    exact (execTret_system hr hm hk).trans (congrArg Host.Outcome.next (if_neg (by simp [hp])))
  · rw [← Slot.trapReturn_eq]
    exact ⟨_, (execTret_system hr hm hk).trans (congrArg Host.Outcome.next (if_pos hp)),
      State.slot_setSlot_task s s.cur SlotStatus.noConfusion, rfl, fun u hu => State.slot_setSlot_other s _ hu⟩
  · exact State.halts (execHalt_system hm) hl he rfl rfl hk
  · exact State.halts (execBreak_full hp h) hl he rfl rfl hk

/-! ## Integer operations and their results (O6) -/

namespace Sys2Proof.Machine
open Sys2Proof.Claims

/-! ### Results (08 R211, R212, 10 R260) -/

theorem shAmt_eq (b : Word) : shAmt b = (b.extractLsb' 0 6).toNat := by simp [shAmt, BitVec.extractLsb'_toNat]
theorem sextW_eq (a : Word) : sextW a = low32 a := by
  rw [sextW, low32, BitVec.setWidth_eq_extractLsb' (by decide)]
theorem boolW_slt (a b : Word) : boolW (a.slt b) = if a.toInt < b.toInt then 1 else 0 := by simp [boolW, BitVec.slt]
theorem boolW_ult (a b : Word) : boolW (a.ult b) = if a.toNat < b.toNat then 1 else 0 := by simp [boolW, BitVec.ult]

/-- Where two choices agree on equal numbers, a strict comparison decides as a weak one does. -/
theorem ite_slt {a b x y : Word} (h : a = b → x = y) : (if a.slt b then x else y) = if a.toInt ≤ b.toInt then x else y := by
  by_cases he : a = b
  · rw [h he, ite_self, ite_self]
  · have hne : a.toInt ≠ b.toInt := fun hi => he (BitVec.eq_of_toInt_eq hi)
    have hiff : a.slt b = true ↔ a.toInt ≤ b.toInt := by rw [BitVec.slt, decide_eq_true_eq]; omega
    simp only [hiff]
theorem ite_ult {a b x y : Word} (h : a = b → x = y) : (if a.ult b then x else y) = if a.toNat ≤ b.toNat then x else y := by
  by_cases he : a = b
  · rw [h he, ite_self, ite_self]
  · have hne : a.toNat ≠ b.toNat := fun hn => he (BitVec.eq_of_toNat_eq hn)
    have hiff : a.ult b = true ↔ a.toNat ≤ b.toNat := by rw [BitVec.ult, decide_eq_true_eq]; omega
    simp only [hiff]

/-- The slice above an exact product of 128 bits. -/
theorem mulHigh_eq (i j : Int) : mulHigh i j = (BitVec.ofInt 128 i * BitVec.ofInt 128 j).extractLsb' 64 64 := by
  rw [← BitVec.ofInt_mul, mulHigh]
  apply BitVec.eq_of_toNat_eq
  rw [BitVec.extractLsb'_toNat]
  simp only [BitVec.toNat_ofInt, Nat.shiftRight_eq_div_pow]
  omega

theorem ofInt_toNat (w : Nat) (a : Word) : BitVec.ofInt w a.toNat = a.setWidth w := by
  rw [BitVec.ofInt_natCast, BitVec.ofNat_toNat]
theorem mulHigh_unsigned (i : Int) (b : Word) :
    mulHigh i b.toNat = (BitVec.ofInt 128 i * b.setWidth 128).extractLsb' 64 64 := by
  rw [mulHigh_eq, ofInt_toNat]

/-- R212: the quotient of the least value and −1 is the least value again, modulo 2^64. -/
theorem divS_eq (a b : Word) : divS a b =
    if b = 0 then BitVec.allOnes 64 else if a = leastWord ∧ b = BitVec.allOnes 64 then a
      else BitVec.ofInt 64 (a.toInt.tdiv b.toInt) := by
  have hcorner : a = leastWord ∧ b = BitVec.allOnes 64 → a = BitVec.ofInt 64 (a.toInt.tdiv b.toInt) := by
    rintro ⟨rfl, rfl⟩; decide
  rw [divS, ite_eq_right_iff.mpr hcorner]
/-- R212: and their remainder is 0. -/
theorem remS_eq (a b : Word) : remS a b =
    if b = 0 then a else if a = leastWord ∧ b = BitVec.allOnes 64 then 0
      else BitVec.ofInt 64 (a.toInt.tmod b.toInt) := by
  have hcorner : a = leastWord ∧ b = BitVec.allOnes 64 → 0 = BitVec.ofInt 64 (a.toInt.tmod b.toInt) := by
    rintro ⟨rfl, rfl⟩; decide
  rw [remS, ite_eq_right_iff.mpr hcorner]

theorem countLeading_eq (a : Word) (n : Nat) :
    countLeading a n = ((List.range n).takeWhile fun i => !a.getLsbD (n - 1 - i)).length := by
  induction n with
  | zero => rfl
  | succ n ih =>
    rw [countLeading, List.range_succ_eq_map, List.takeWhile_cons]
    cases h : a.getLsbD n with
    | true => simp [h]
    | false =>
      simp [h, List.takeWhile_map, ih, Function.comp_def, Nat.sub_sub, Nat.add_comm]
theorem countTrailing_eq (a : Word) (n : Nat) (i : Nat) :
    countTrailing a i n = ((List.range' i n).takeWhile fun i => !a.getLsbD i).length := by
  induction n generalizing i with
  | zero => rfl
  | succ n ih =>
    rw [countTrailing, List.range'_succ, List.takeWhile_cons, ih]
    cases a.getLsbD i <;> simp
theorem popCount_eq (a : Word) (n : Nat) : popCount a n = ((List.range n).filter fun i => a.getLsbD i).length := by
  induction n with
  | zero => rfl
  | succ n ih =>
    rw [popCount, ih, List.range_succ, List.filter_append, List.length_append]
    cases h : a.getLsbD n <;> simp [h]

/-- A byte below a number. -/
theorem ofNat_append_byte (w r x : Nat) : BitVec.ofNat (w + 8) (r * 256 + x % 256) = BitVec.ofNat w r ++ BitVec.ofNat 8 x := by
  apply BitVec.eq_of_toNat_eq
  have hx : x % 256 < 2 ^ 8 := Nat.mod_lt _ (by decide)
  have hlow : (r * 256 + x % 256) % 2 ^ 8 = x % 256 := by omega
  have hhigh : (r * 256 + x % 256) / 2 ^ 8 = r := by omega
  rw [BitVec.toNat_append, BitVec.toNat_ofNat, BitVec.toNat_ofNat, BitVec.toNat_ofNat, show x % 2 ^ 8 = x % 256 from rfl,
    ← Nat.shiftLeft_add_eq_or_of_lt hx, Nat.shiftLeft_eq, Nat.pow_add, Nat.mul_comm (2 ^ w), Nat.mod_mul, hlow, hhigh]
  omega
theorem ofNat_byte_eq (a : Word) (i : Nat) : BitVec.ofNat 8 (a.toNat / 256 ^ i) = a.extractLsb' (8 * i) 8 := by
  rw [BitVec.extractLsb', Nat.shiftRight_eq_div_pow, Nat.pow_mul]
/-- BSWAP's sum of bytes starts from the lowest byte of its source, which ends as the highest. -/
theorem byteSwap_eq (a : Word) : byteSwap a = bytesReversed a := by
  have hfirst : BitVec.ofNat 8 (0 * 256 + a.toNat / 256 ^ 0 % 256) = BitVec.ofNat 8 (a.toNat / 256 ^ 0) :=
    BitVec.eq_of_toNat_eq (by simp)
  have h : byteSwap a =
      BitVec.ofNat 8 (0 * 256 + a.toNat / 256 ^ 0 % 256) ++ BitVec.ofNat 8 (a.toNat / 256 ^ 1) ++
      BitVec.ofNat 8 (a.toNat / 256 ^ 2) ++ BitVec.ofNat 8 (a.toNat / 256 ^ 3) ++ BitVec.ofNat 8 (a.toNat / 256 ^ 4) ++
      BitVec.ofNat 8 (a.toNat / 256 ^ 5) ++ BitVec.ofNat 8 (a.toNat / 256 ^ 6) ++ BitVec.ofNat 8 (a.toNat / 256 ^ 7) := by
    simp only [← ofNat_append_byte]
    rfl
  simp only [h, hfirst, ofNat_byte_eq]
  rfl

/-! ### The moulds with their sources FULL (10 R258) -/

theorem State.next_rrr {s : State} {o : Rrr} (h : full s [(.g, o.a), (.g, o.b)]) (f : Word → Word → Word) :
    .next (s.rrr o f) = writesG s o.d (f ((me s).rg o.a) ((me s).rg o.b)) :=
  (State.next_withSrcs_two h _ _ _).trans (State.next_finish s (Slot.wg_pc ..))
theorem State.next_rr {s : State} {o : Rr} (h : full s [(.g, o.a)]) (f : Word → Word) :
    .next (s.rr o f) = writesG s o.d (f ((me s).rg o.a)) :=
  (State.next_withSrcs_one h _ _).trans (State.next_finish s (Slot.wg_pc ..))
theorem State.next_ri {s : State} {o : Ri} (h : full s [(.g, o.a)]) (f : Word → Word → Word) :
    .next (s.ri o f) = writesG s o.d (f ((me s).rg o.a) (o.imm.signExtend 64)) :=
  (State.next_withSrcs_one h _ _).trans (State.next_finish s (Slot.wg_pc ..))
theorem State.next_rsh {s : State} {o : Rsh} (h : full s [(.g, o.a)]) (f : Word → Nat → Word) :
    .next (s.rsh o f) = writesG s o.d (f ((me s).rg o.a) o.sh.val) :=
  (State.next_withSrcs_one h _ _).trans (State.next_finish s (Slot.wg_pc ..))

/-! ### The tables of R260-R262 -/

/-- R260: each two-source row of the table runs the two-source mould with the row's result. -/
theorem aluTwo_exec : ∀ p ∈ aluTwo, ∀ (s : State) (o : Rrr), exec (p.1 o) s = .next (s.rrr o p.2) := by
  simp only [aluTwo, List.forall_mem_append, List.forall_mem_cons]
  refine ⟨⟨⟨?add, ?sub, ?and, ?or, ?xor, ?andn, ?orn, ?sll, ?srl, ?sra, ?rol, ?ror, List.forall_mem_nil _⟩,
    ?slt, ?sltu, ?min, ?max, ?minu, ?maxu, List.forall_mem_nil _⟩,
    ?mul, ?mulh, ?mulhu, ?mulhmx, ?div, ?divu, ?rem, ?remu, ?addw, ?subw, List.forall_mem_nil _⟩
  case sll => exact fun s o => next_congr₂ (s.rrr o) fun a b => congrArg (a <<< ·) (shAmt_eq b)
  case srl => exact fun s o => next_congr₂ (s.rrr o) fun a b => congrArg (a >>> ·) (shAmt_eq b)
  case sra => exact fun s o => next_congr₂ (s.rrr o) fun a b => congrArg a.sshiftRight (shAmt_eq b)
  case rol => exact fun s o => next_congr₂ (s.rrr o) fun a b => congrArg a.rotateLeft (shAmt_eq b)
  case ror => exact fun s o => next_congr₂ (s.rrr o) fun a b => congrArg a.rotateRight (shAmt_eq b)
  case slt => exact fun s o => next_congr₂ (s.rrr o) boolW_slt
  case sltu => exact fun s o => next_congr₂ (s.rrr o) boolW_ult
  case min => exact fun s o => next_congr₂ (s.rrr o) fun _ _ => ite_slt id
  case max => exact fun s o => next_congr₂ (s.rrr o) fun _ _ => ite_slt Eq.symm
  case minu => exact fun s o => next_congr₂ (s.rrr o) fun _ _ => ite_ult id
  case maxu => exact fun s o => next_congr₂ (s.rrr o) fun _ _ => ite_ult Eq.symm
  case mulh => exact fun s o => next_congr₂ (s.rrr o) fun a b => mulHigh_eq a.toInt b.toInt
  case mulhu => exact fun s o => next_congr₂ (s.rrr o) fun a b =>
    (mulHigh_unsigned a.toNat b).trans (by rw [ofInt_toNat])
  case mulhmx => exact fun s o => next_congr₂ (s.rrr o) fun a b => mulHigh_unsigned a.toInt b
  case div => exact fun s o => next_congr₂ (s.rrr o) divS_eq
  case rem => exact fun s o => next_congr₂ (s.rrr o) remS_eq
  case addw => exact fun s o => next_congr₂ (s.rrr o) fun _ _ => sextW_eq _
  case subw => exact fun s o => next_congr₂ (s.rrr o) fun _ _ => sextW_eq _
  all_goals exact fun _ _ => rfl
/-- R260: each one-source row, the one-source mould. -/
theorem aluOne_exec : ∀ p ∈ aluOne, ∀ (s : State) (o : Rr), exec (p.1 o) s = .next (s.rr o p.2) := by
  simp only [aluOne, List.forall_mem_cons]
  refine ⟨?clz, ?ctz, ?popc, ?bswap, ?sextb, ?sexth, ?sextw, ?zextw, List.forall_mem_nil _⟩
  case clz => exact fun s o => next_congr₁ (s.rr o) fun a => congrArg (BitVec.ofNat 64) (countLeading_eq a 64)
  case ctz => exact fun s o => next_congr₁ (s.rr o) fun a => congrArg (BitVec.ofNat 64) (countTrailing_eq a 64 0)
  case popc => exact fun s o => next_congr₁ (s.rr o) fun a => congrArg (BitVec.ofNat 64) (popCount_eq a 64)
  case bswap => exact fun s o => next_congr₁ (s.rr o) byteSwap_eq
  case sextb => exact fun s o => next_congr₁ (s.rr o) fun a => rfl
  case sexth => exact fun s o => next_congr₁ (s.rr o) fun a => rfl
  case sextw => exact fun s o => next_congr₁ (s.rr o) sextW_eq
  case zextw => exact fun s o => next_congr₁ (s.rr o) fun a => rfl
/-- R261: each immediate row, the immediate mould. -/
theorem aluImm_exec : ∀ p ∈ aluImm, ∀ (s : State) (o : Ri), exec (p.1 o) s = .next (s.ri o p.2) := by
  simp only [aluImm, List.forall_mem_cons]
  refine ⟨?addi, ?andi, ?ori, ?xori, ?slti, ?sltiu, ?addiw, List.forall_mem_nil _⟩
  case slti => exact fun s o => next_congr₂ (s.ri o) boolW_slt
  case sltiu => exact fun s o => next_congr₂ (s.ri o) boolW_ult
  case addiw => exact fun s o => next_congr₂ (s.ri o) fun _ _ => sextW_eq _
  all_goals exact fun _ _ => rfl
/-- R262: each immediate shift, its mould. -/
theorem aluShift_exec : ∀ p ∈ aluShift, ∀ (s : State) (o : Rsh), exec (p.1 o) s = .next (s.rsh o p.2) := by
  simp only [aluShift, List.forall_mem_cons]
  exact ⟨fun _ _ => rfl, fun _ _ => rfl, fun _ _ => rfl, fun _ _ => rfl, List.forall_mem_nil _⟩

end Sys2Proof.Machine

open Sys2Proof Sys2Proof.Machine Sys2Proof.Claims in
/-- Settles O6: each row of the tables is its mould (`aluTwo_exec`, `aluOne_exec`), which writes its result. -/
theorem integerOperationResults : Obligations.IntegerOperationResults := fun s =>
  ⟨fun p hp o h => (aluTwo_exec p hp s o).trans (State.next_rrr h p.2),
    fun p hp o h => (aluOne_exec p hp s o).trans (State.next_rr h p.2)⟩

/-! ## Immediate operations, constants and literals (O7) -/

namespace Sys2Proof.Machine
open Sys2Proof.Claims

/-! ### LDPC (10 R265, 03 R90) -/

/-- Bytes put at a place of a result, bit by bit. -/
theorem getLsbD_putBytes (v : VWord) (pos len x k : Nat) (hk : k < 512) :
    (putBytes v pos len x).getLsbD k =
      if 8 * pos ≤ k ∧ k < 8 * (pos + len) then x.testBit (k - 8 * pos) else v.getLsbD k := by
  have hdata : ∀ j, j < 512 → (BitVec.ofNat 512 (x % 2 ^ (8 * len))).getLsbD j = (decide (j < 8 * len) && x.testBit j) :=
    fun j hj => by rw [BitVec.getLsbD_ofNat, Nat.testBit_mod_two_pow]; simp [hj]
  simp only [putBytes, BitVec.getLsbD_or, BitVec.getLsbD_and, BitVec.getLsbD_not, BitVec.getLsbD_shiftLeft,
    getLsbD_ones, hdata (k - 8 * pos) (by omega)]
  by_cases h : 8 * pos ≤ k ∧ k < 8 * (pos + len)
  · rw [if_pos h]
    simp [hk, show ¬k < 8 * pos by omega, show k - 8 * pos < 8 * len by omega, show k - 8 * pos < 512 by omega]
  · rw [if_neg h]
    rcases Nat.lt_or_ge k (8 * pos) with hlt | hge
    · simp [hk, hlt]
    · simp [hk, show ¬k - 8 * pos < 8 * len by omega]

/-- Bytes taken from a line, bit by bit. -/
theorem testBit_getBytes (v : VWord) (pos len j : Nat) :
    (getBytes v pos len).testBit j = (decide (j < 8 * len) && v.getLsbD (8 * pos + j)) := by
  rw [getBytes, Nat.testBit_mod_two_pow, Nat.testBit_div_two_pow, BitVec.testBit_toNat, Nat.add_comm]

/-- The two words of a literal of a line make its 8 bytes. -/
theorem literal_of_words (line : VWord) {p : Nat} :
    BitVec.ofNat 64 (putBytes (putBytes 0 0 4 (getBytes line p 4)) 4 4 (getBytes line (p + 4) 4)).toNat =
      line.extractLsb' (8 * p) 64 := by
  refine BitVec.eq_of_getLsbD_eq fun k hk => ?_
  rw [BitVec.ofNat_toNat, BitVec.getLsbD_setWidth, BitVec.getLsbD_extractLsb', getLsbD_putBytes _ _ _ _ _ (by omega),
    getLsbD_putBytes _ _ _ _ _ (by omega), testBit_getBytes, testBit_getBytes]
  rcases Nat.lt_or_ge k 32 with h | h
  · rw [if_neg (by omega), if_pos (by omega)]
    simp [hk, h]
  · rw [if_pos (by omega)]
    simp [hk, show k - 32 < 32 by omega, show 8 * (p + 4) + (k - 32) = 8 * p + k by omega]

/-- The words at an aligned address and after it lie in one line. -/
theorem lineKey_add_four {a : Nat} (h : a % 8 = 0) (chip : Bool) (asid : Nat) :
    lineKey chip asid (a + 4) = lineKey chip asid a := by
  rw [lineKey, lineKey, show (a + 4) / 64 = a / 64 by omega]

/-- R265: a literal whose line the instruction cache of the core holds is written before the next phase. -/
theorem readLiteral_cached {s : State} {o : Ud} {line : VWord}
    (hm : (me s).mode = .user) (hpend : mapGet false (me s).sgPend 0 = false) (hchip : ((me s).rsg 0).chip = false)
    (hhas : ((me s).rsg 0).has 4 ∨ ((me s).rsg 0).has 1) {l a : Nat}
    (hl : ((me s).pc + o.imm.signExtend 64 * 4).toNat = l) (ha : (((me s).rsg 0).base.toNat + l) % 2 ^ 64 = a)
    (hl8 : l % 8 = 0) (ha8 : a % 8 = 0) (hlim : l + 8 ≤ ((me s).rsg 0).limit)
    (hline : mapGet none (s.core (coreOf s.cur)).icache (lineKey false (s.asidOf (me s).lidN) a) = some line) :
    .next (s.readLiteral o.d o.imm) = writesG s o.d (line.extractLsb' (8 * (a % 64)) 64) := by
  have hseg : s.codeSeg s.cur = (me s).rsg 0 := if_neg (by simp [hm])
  have hnow : a % 2 ^ 64 = a := by omega
  have ha4 : a % 4 = 0 := by omega
  have hnext : (a + 4) % 2 ^ 64 = a + 4 := by omega
  have hright : (!(((me s).rsg 0).has 4 || ((me s).rsg 0).has 1) || decide (((me s).rsg 0).limit < l + 8)) = false := by
    rcases hhas with h | h <;> simp [h, hlim]
  have hline4 : mapGet none (s.core (coreOf s.cur)).icache (lineKey false (s.asidOf (me s).lidN) (a + 4)) = some line := by
    rw [lineKey_add_four ha8, hline]
  have hin : (a + 4) % 64 = a % 64 + 4 := by omega
  have hread : s.readLiteral o.d o.imm = s.finish fun x => x.wg o.d (line.extractLsb' (8 * (a % 64)) 64) := by
    simp only [State.readLiteral, sext64, hseg, hl, ha, hpend, hl8, hchip, hright, Bool.false_eq_true, and_false, reduceIte,
      ne_eq, not_true_eq_false, ha4, Nat.add_zero, hnow, hline, hnext, hline4, List.nil_append, List.cons_append, List.all_cons,
      List.all_nil, decide_true, Bool.and_self, lineBytes, hin]
    rw [← literal_of_words]
  exact (congrArg Host.Outcome.next hread).trans (State.next_finish s (Slot.wg_pc ..))

end Sys2Proof.Machine

open Sys2Proof Sys2Proof.Machine Sys2Proof.Claims in
/-- Settles O7: the immediate tables by `aluImm_exec` and `aluShift_exec`, LIH and PCBLK by their shifts read as products,
LDPC by `readLiteral_cached`. -/
theorem immediateAndLiteralResults : Obligations.ImmediateAndLiteralResults := by
  refine ⟨fun s => ⟨fun p hp o h => ?_, fun p hp o h => ?_, fun o => ?_, fun o => ?_⟩, fun s o line => ?_⟩
  · exact (aluImm_exec p hp s o).trans (State.next_ri h p.2)
  · exact (aluShift_exec p hp s o).trans (State.next_rsh h p.2)
  · rw [show (4096 : Word) = BitVec.twoPow 64 12 from rfl, ← BitVec.shiftLeft_eq_mul_twoPow]
    exact State.next_finish s (Slot.wg_pc ..)
  · rw [show (8192 : Word) = BitVec.twoPow 64 13 from rfl, ← BitVec.shiftLeft_eq_mul_twoPow]
    exact State.next_finish s (Slot.wg_pc ..)
  · exact fun hm hpend hchip hhas hl8 ha8 hlim hline => readLiteral_cached hm hpend hchip hhas rfl rfl hl8 ha8 hlim hline

/-! ## Accesses in the pipeline of the own core (03 R69, 06 R172) -/

namespace Sys2Proof.Machine
open Sys2Proof.Claims

/-! ### States with the same memory and slots -/

/-- A state whose memory, slots and issuing slot are those of `s`. -/
def Keeps (s t : State) : Prop := t.mem = s.mem ∧ t.slots = s.slots ∧ t.cur = s.cur
theorem Keeps.refl (s : State) : Keeps s s := ⟨rfl, rfl, rfl⟩
theorem Keeps.trans {s t u : State} (h : Keeps s t) (k : Keeps t u) : Keeps s u :=
  ⟨k.1.trans h.1, k.2.1.trans h.2.1, k.2.2.trans h.2.2⟩
theorem Keeps.slot {s t : State} (h : Keeps s t) (n : Nat) : t.slot n = s.slot n := by rw [State.slot, h.2.1]; rfl
/-- What every step of a fold keeps, the fold keeps. -/
theorem Keeps.foldl {α : Type} {f : State → α → State} (h : ∀ s a, Keeps s (f s a)) (l : List α) (s : State) :
    Keeps s (l.foldl f s) := by
  induction l generalizing s with
  | nil => exact .refl s
  | cons a l ih => exact (h s a).trans (ih _)
/-- An instruction that finishes in a state with the same slots changes its own as it would have done before. -/
theorem State.finish_slots_of {s t : State} (hslots : t.slots = s.slots) (hcur : t.cur = s.cur) {f : Slot → Slot}
    (hpc : (f (me s)).pc = (me s).pc) :
    (t.finish f).slots = (s.setSlot s.cur { f (me s) with pc := (me s).pc + 4 }).slots := by
  rw [← hpc, State.finish, State.modSlot, hcur, State.slot, hslots, State.setSlot, hslots]
  rfl

/-! ### The undo log and the windows that the pipeline serves -/

/-- R172: an access to state that no other speculation has logged discards none. -/
theorem State.guardLogged_unlogged {s : State} {lid a : Nat} (h : unloggedFor s lid a) : s.guardLogged (some lid) a = s := by
  refine foldl_eq_start (fun i => ?_) _
  split
  · next sp hsp => rcases h i sp hsp with hother | hother <;> simp [hother]
  · rfl
/-- R170: a launch that is no speculation logs nothing before its change. -/
theorem State.changing_plain {s : State} {lid a : Nat} (h : unloggedFor s lid a) (hs : s.specOf lid = none) (k : State → State) :
    s.changing lid a k = k s := by
  simp [State.changing, State.beforeChange, State.guardLogged_unlogged h, hs, State.gone]
theorem ownPipe_chip_iff (c a n pos : Nat) (ph : Phase) :
    ownPipe c ⟨.chip a, n, pos, ph⟩ = true ↔ chipShared a = false ∧ chipCore a = c ∧ chipWin a ≠ 4 := by
  simp [ownPipe, and_assoc]
/-- 01 R27: only the accumulator window waits for matrix commands. -/
theorem State.accWait_none (s : State) {a : Nat} (h : chipWin a ≠ 4) (ph : Phase) : s.accWait a ph = none := by
  simp [State.accWait, h]
/-- 05 R133, R134: with no store of the core to follow, an access goes on. -/
theorem State.inOrder_free {s : State} {ps : List Piece} {read write : Bool} (h : s.ownBehind s.cur ps read write = false)
    (k : State → State) : s.inOrder ps read write k = k s := by
  simp [State.inOrder, h]
theorem State.stillRuns_same (s : State) (lid : Nat) (k : State → State) : s.stillRuns s lid k = k s := by
  cases h : s.specOf lid <;> simp [State.stillRuns, State.gone, h]
/-- A launch that ran as no speculation still runs. -/
theorem State.stillRuns_plain {s b : State} {lid : Nat} (h : b.specOf lid = none) (k : State → State) :
    s.stillRuns b lid k = k s := by
  simp [State.stillRuns, State.gone, h]

/-! ### The checks without interleave (01 R13) -/

/-- A check that passes gives one piece of the whole access: on chip below 2^40, and there for the forms bound to scratchpads
(11 R282). -/
theorem State.check_ok_one {s : State} {t : Nat} {r : Req} {ps : List Piece} (h : s.check t r = .ok ps) (hi : r.il = 0) :
    ∃ pl, ps = [⟨pl, r.size, 0, .new⟩] ∧ (∀ a, pl = .chip a → a < 2 ^ 40) ∧ (r.scratch = true → ∃ a, pl = .chip a) := by
  unfold State.check at h
  dsimp only at h
  split at h
  · cases h
  split at h
  · cases h
  next hkind =>
  split at h
  · cases h
  split at h
  · cases h
  split at h
  · unfold State.checkChip at h
    dsimp only at h
    rw [if_neg (not_not_intro hi)] at h
    split at h
    · cases h
    split at h
    · cases h
    next hlow =>
    split at h
    · cases h
    split at h
    · cases h
    obtain rfl := Except.ok.inj h
    refine ⟨_, rfl, fun a ha => ?_, fun _ => ⟨_, rfl⟩⟩
    obtain rfl := Place.chip.inj ha
    omega
  · next hchip =>
    obtain rfl := Except.ok.inj h
    refine ⟨_, rfl, nofun, fun hs => ?_⟩
    simp [hs, hchip] at hkind

/-! ### Reads at the own windows (03 R71, R73, 11 R283) -/

/-- A full/empty read meets no EMPTY granule. -/
def GranOp.passes (gop : GranOp) (s : State) (a n : Nat) : Prop := gop = .wait ∨ gop = .consume → s.anyEmpty a n = false
theorem GranOp.none_passes (s : State) (a n : Nat) : GranOp.none.passes s a n := fun h => by simp at h
/-- R73, R96: with its granules FULL and its words unpoisoned, a read gives the bytes at its address; a consuming one empties
the granules it touches. -/
theorem State.readTarget_got {s : State} {lid a n : Nat} {gop : GranOp} (hu : unloggedFor s lid a) (hw : chipWin a ≠ 4)
    (hg : gop.passes s a n) (ht : gop ≠ .test) (hp : chipBytes a = true → s.poisoned (chipKey a) n = false) (asid : Nat) :
    s.readTarget lid asid a n true gop .new =
      (if gop = .consume then s.changing lid a fun s => s.setGrans a n true else s, .got (s.readChip a n)) := by
  have hpois : (chipBytes a && s.poisoned (chipKey a) n) = false := by
    cases hb : chipBytes a <;> simp [hp, hb]
  simp only [State.readTarget, State.guardLogged_unlogged hu, State.accWait_none s hw]
  cases gop with
  | test => exact absurd rfl ht
  | none => simp [hpois]
  | wait => simp [hpois, hg (.inl rfl)]
  | consume => simp [hpois, hg (.inr rfl)]
/-- R71: a test gives the full bit. -/
theorem State.readTarget_test {s : State} {lid a n : Nat} (hu : unloggedFor s lid a) (hw : chipWin a ≠ 4) (asid : Nat) :
    s.readTarget lid asid a n true .test .new = (s, .got (if s.anyEmpty a n then 0 else 1)) := by
  simp only [State.readTarget, State.guardLogged_unlogged hu, State.accWait_none s hw]
  cases s.anyEmpty a n <;> rfl

/-- The result of a load whose piece `p` reads the number `f p` (03 R36). -/
def gathered (f : Piece → Nat) (ps : List Piece) (v : VWord) : VWord := ps.foldl (fun v p => putBytes v p.pos p.len (f p)) v
/-- A load in the pipeline none of whose reads changes the state delivers what they give. -/
theorem State.loadOwn_reads {s : State} {ps : List Piece} {gop : GranOp} (f : Piece → Nat)
    (hg : ∀ p ∈ ps, gop.passes s p.place.addr p.len)
    (hr : ∀ p ∈ ps, s.readTarget (me s).lidN (s.asidOf (me s).lidN) p.place.addr p.len true gop .new = (s, .got (f p)))
    (d : Dest) : s.loadOwn ps d gop = s.finish (·.deliver d (gathered f ps 0)) := by
  have hnone : ((decide (gop = .wait) || decide (gop = .consume)) &&
      ps.any fun p => s.anyEmpty p.place.addr p.len) = false := by
    rw [Bool.and_eq_false_iff, Bool.or_eq_false_iff, List.any_eq_false, decide_eq_false_iff_not, decide_eq_false_iff_not]
    rw [← not_or]
    refine Classical.or_iff_not_imp_left.mpr fun hop p hp => ?_
    simp [hg p hp (Classical.not_not.mp hop)]
  unfold State.loadOwn
  dsimp only
  rw [if_neg (by simp only [hnone]; exact Bool.false_ne_true)]
  generalize hone : (fun (r : State × VWord × Option Nat) (p : Piece) => _) = one
  have hfold : ∀ (l : List Piece) (v : VWord), (∀ p ∈ l, p ∈ ps) → l.foldl one (s, v, none) = (s, gathered f l v, none) := by
    intro l
    induction l with
    | nil => exact fun _ _ => rfl
    | cons p l ih =>
      intro v hl
      have hstep : one (s, v, none) p = (s, putBytes v p.pos p.len (f p), none) := by
        rw [← hone]
        simp [hr p (hl p List.mem_cons_self)]
      rw [List.foldl_cons, hstep, ih _ fun q hq => hl q (List.mem_cons_of_mem _ hq)]; rfl
  rw [hfold ps 0 fun _ h => h]
  exact State.stillRuns_same s _ _
/-- R73: a full/empty read that meets an EMPTY granule blocks its slot on the granules it touches. -/
theorem State.loadOwn_blocks {s : State} {a n : Nat} {gop : GranOp} (hg : gop = .wait ∨ gop = .consume)
    (he : s.anyEmpty a n = true) (hn : 0 < n) (pos : Nat) (d : Dest) :
    ∃ keys, (∀ k, k ∈ keys ↔ chipKey a / 16 ≤ k ∧ k ≤ (chipKey a + n - 1) / 16) ∧
      s.loadOwn [⟨.chip a, n, pos, .new⟩] d gop = s.blockCur (.granule keys) := by
  refine ⟨_, fun k => ?_, if_pos (by rcases hg with rfl | rfl <;> simp [Place.addr, he])⟩
  simp only [List.flatMap_cons, List.flatMap_nil, List.append_nil, List.mem_map, List.mem_range, granRange, Place.addr]
  rw [if_neg (by omega)]
  constructor
  · rintro ⟨i, hi, rfl⟩; omega
  · exact fun ⟨hlo, hhi⟩ => ⟨k - chipKey a / 16, by omega, by omega⟩

/-- A value that is not the default is listed once it is written. -/
theorem mem_mapPut_self {α : Type} [DecidableEq α] {d : α} (m : SMap α) (k : Nat) {v : α} (h : v ≠ d) : (k, v) ∈ mapPut d m k v := by
  induction m with
  | nil => simp [mapPut, h]
  | cons e rest ih =>
    obtain ⟨j, w⟩ := e
    unfold mapPut
    split
    · exact List.mem_cons_of_mem _ ih
    · split <;> exact List.mem_cons_self
/-- R71: granules set EMPTY are EMPTY. -/
theorem State.anyEmpty_setGrans {n : Nat} (hn : 0 < n) (s : State) (a : Nat) : (s.setGrans a n true).anyEmpty a n = true := by
  obtain ⟨c, hc⟩ : ∃ c, (chipKey a % 16 + n + 15) / 16 = c + 1 := ⟨(chipKey a % 16 + n + 15) / 16 - 1, by omega⟩
  refine List.any_eq_true.mpr ⟨(chipKey a / 16 + c, true), ?_, by simp only [Bool.and_eq_true, decide_eq_true_eq]; omega⟩
  rw [State.setGrans, if_neg (by omega), hc, List.range_succ, List.map_append, State.modCore_grans]
  simp only [List.foldl_append, List.map_cons, List.map_nil, List.foldl_cons, List.foldl_nil]
  exact mem_mapPut_self _ _ (by decide)
/-- They are all that changes of memory and of the slots. -/
theorem State.setGrans_keeps (s : State) (a n : Nat) (empty : Bool) : Keeps s (s.setGrans a n empty) := by
  unfold State.setGrans
  split <;> exact ⟨rfl, rfl, rfl⟩
/-- R73: outside a speculation a consuming load in the pipeline empties its granules and delivers what it reads. -/
theorem State.loadOwn_consumes {s : State} {a n x pos : Nat} (hp : plain s) (hg : s.anyEmpty a n = false)
    (hr : s.readTarget (me s).lidN (s.asidOf (me s).lidN) a n true .consume .new = (s.setGrans a n true, .got x)) (d : Dest) :
    s.loadOwn [⟨.chip a, n, pos, .new⟩] d .consume = (s.setGrans a n true).finish (·.deliver d (putBytes 0 pos n x)) := by
  have hnone : ¬((true && [(⟨.chip a, n, pos, .new⟩ : Piece)].any fun p => s.anyEmpty p.place.addr p.len) = true) := by
    simp [Place.addr, hg]
  refine (if_neg hnone).trans ?_
  simp only [List.foldl_cons, List.foldl_nil, Place.addr, hr]
  exact State.stillRuns_plain hp _

/-! ### What arrives (11 R284, R286-R288) -/

theorem Slot.arriveV_ready {x : Slot} (h : x.status = .ready) (n : Nat) (v : VWord) : x.arriveV n v = x.wv n v :=
  Slot.wake_ready (x := x.wv n v) h _
/-- `len` bytes put at the start of an empty result, as a number. -/
theorem toNat_putBytes_zero {len : Nat} (h : len ≤ 64) (x : Nat) : (putBytes 0 0 len x).toNat = x % 2 ^ (8 * len) := by
  refine Nat.eq_of_testBit_eq fun k => ?_
  rw [BitVec.testBit_toNat, Nat.testBit_mod_two_pow]
  rcases Nat.lt_or_ge k 512 with hk | hk
  · rw [getLsbD_putBytes _ _ _ _ _ hk]
    by_cases hl : k < 8 * len <;> simp [hl]
  · rw [BitVec.getLsbD_of_ge _ _ hk]
    simp [show ¬k < 8 * len by omega]
theorem putBytes_whole (x : Nat) : putBytes 0 0 64 x = BitVec.ofNat 512 x :=
  BitVec.eq_of_toNat_eq (by rw [toNat_putBytes_zero (Nat.le_refl 64), show 8 * 64 = 512 from rfl, BitVec.toNat_ofNat])
/-- R4: a number of `n` bytes in a result extends as the number itself. -/
theorem extendTo_putBytes {n : Nat} (h : n ≤ 64) (signed : Bool) (x : Nat) :
    extendTo n signed (putBytes 0 0 n x).toNat = extended n signed x := by
  rw [toNat_putBytes_zero h]
  cases signed with
  | true =>
    have : BitVec.ofNat (8 * n) (x % 2 ^ (8 * n)) = BitVec.ofNat (8 * n) x := by
      apply BitVec.eq_of_toNat_eq; simp
    simp [extendTo, extended, this]
  | false => simp [extendTo, extended]
/-- A full double word of a result extends as itself. -/
theorem extendTo_eight {len : Nat} (h8 : 8 ≤ len) (h : len ≤ 64) (x : Nat) :
    extendTo 8 false (putBytes 0 0 len x).toNat = BitVec.ofNat 64 x := by
  have hdvd : (2 : Nat) ^ (8 * 8) ∣ 2 ^ (8 * len) := Nat.pow_dvd_pow 2 (by omega)
  rw [toNat_putBytes_zero h]
  refine BitVec.eq_of_toNat_eq ?_
  rw [extendTo, if_neg Bool.false_ne_true, BitVec.toNat_ofNat, BitVec.toNat_ofNat, Nat.mod_mod, Nat.mod_mod_of_dvd x hdvd]
/-- Bytes put above a small number add up with it. -/
theorem toNat_putBytes_above {v : VWord} {pos len x : Nat} (hv : v.toNat < 2 ^ (8 * pos)) (hx : x < 2 ^ (8 * len))
    (hfit : pos + len ≤ 64) : (putBytes v pos len x).toNat = v.toNat + x * 2 ^ (8 * pos) := by
  refine Nat.eq_of_testBit_eq fun k => ?_
  rw [BitVec.testBit_toNat, Nat.add_comm, Nat.mul_comm, Nat.testBit_two_pow_mul_add _ hv]
  rcases Nat.lt_or_ge k 512 with hk | hk
  · rw [getLsbD_putBytes _ _ _ _ _ hk]
    rcases Nat.lt_or_ge k (8 * pos) with hlow | hhigh
    · rw [if_neg (by omega), if_pos hlow, BitVec.testBit_toNat]
    · rw [if_neg (by omega : ¬k < 8 * pos)]
      split
      · rfl
      · rw [Nat.testBit_lt_two_pow (Nat.lt_of_lt_of_le hx (Nat.pow_le_pow_right Nat.two_pos (by omega))),
          ← BitVec.testBit_toNat, Nat.testBit_lt_two_pow (Nat.lt_of_lt_of_le hv (Nat.pow_le_pow_right Nat.two_pos (by omega)))]
  · rw [BitVec.getLsbD_of_ge _ _ hk, if_neg (by omega),
      Nat.testBit_lt_two_pow (Nat.lt_of_lt_of_le hx (Nat.pow_le_pow_right Nat.two_pos (by omega)))]
/-- Copies of a double word, put one above the other. -/
theorem toNat_copies {x : Nat} (h : x < 2 ^ 64) {m : Nat} (hm : m ≤ 8) :
    ((List.range m).foldl (fun (r : VWord) i => putBytes r (8 * i) 8 x) 0).toNat =
        (List.range m).foldl (fun n k => n + x * 2 ^ (64 * k)) 0 ∧
      (List.range m).foldl (fun n k => n + x * 2 ^ (64 * k)) 0 < 2 ^ (64 * m) := by
  induction m with
  | zero => exact ⟨BitVec.toNat_zero, Nat.one_pos⟩
  | succ m ih =>
    obtain ⟨heq, hlt⟩ := ih (by omega)
    have hmul : 8 * (8 * m) = 64 * m := by omega
    simp only [List.range_succ, List.foldl_append, List.foldl_cons, List.foldl_nil]
    rw [toNat_putBytes_above (by rw [heq, hmul]; exact hlt) h (by omega), heq, hmul]
    refine ⟨rfl, ?_⟩
    calc _ < 2 ^ (64 * m) + x * 2 ^ (64 * m) := Nat.add_lt_add_right hlt _
      _ = (x + 1) * 2 ^ (64 * m) := by rw [Nat.succ_mul x, Nat.add_comm]
      _ ≤ 2 ^ 64 * 2 ^ (64 * m) := Nat.mul_le_mul_right _ h
      _ = 2 ^ (64 * (m + 1)) := by rw [← Nat.pow_add, Nat.mul_succ, Nat.add_comm]
/-- R288: eight copies of a double word fill a vector register. -/
theorem eightTimes_eq {x : Nat} (h : x < 2 ^ 64) :
    (List.range 8).foldl (fun r i => putBytes r (8 * i) 8 (getBytes (putBytes 0 0 8 x) 0 8)) 0 = eightTimes x := by
  have hx : getBytes (putBytes 0 0 8 x) 0 8 = x := by
    rw [getBytes, toNat_putBytes_zero (by decide)]
    omega
  obtain ⟨heq, hlt⟩ := toNat_copies h (Nat.le_refl 8)
  rw [hx]
  exact BitVec.eq_of_toNat_eq (heq.trans ((BitVec.toNat_ofNat ..).trans (Nat.mod_eq_of_lt hlt)).symm)

theorem length_readList (m : Memory) (a n : Nat) : (readList m a n).length = n := by
  induction n generalizing a with
  | zero => rfl
  | succ n ih => rw [readList, List.length_cons, ih]
theorem readLe_lt (m : Memory) (a n : Nat) : readLe m a n < 2 ^ (8 * n) := by
  have h := leNat_lt (readList m a n)
  rwa [length_readList, show (256 : Nat) = 2 ^ 8 from rfl, ← Nat.pow_mul] at h
theorem State.readChip_lt (s : State) (a n : Nat) : s.readChip a n < 2 ^ (8 * n) := by
  unfold State.readChip
  split
  · exact readLe_lt ..
  · exact Nat.mod_lt _ (Nat.two_pow_pos _)
/-- R25: the windows of plain bytes read as memory. -/
theorem State.readChip_bytes (s : State) {a : Nat} (h : chipBytes a = true) (n : Nat) : s.readChip a n = bytesAt s a n := if_pos h

/-! ### The forms of load (11 R284, R286-R288) -/

/-- An M-format load whose operands are ready is the access of its request (R282). -/
theorem State.loadM_ready {s : State} {o : MLd} (h : memReady s o.mem []) (n need : Nat) (scratch : Bool) (d : Dest)
    (gop : GranOp) (e : Slot → Slot) :
    s.loadM o n n need scratch d gop e = s.memLoad (loadReq s o.mem n need scratch) d gop e := by
  obtain ⟨hf, hg⟩ := h
  exact (State.withSrcs_of_full (srcs := [.g o.mem.a o.mem.qa]) hf _).trans (State.withSeg_ready hg _)
/-- And so is an X-format one (R286). -/
theorem execLdx_ready {s : State} {o : Xop} (h : indexReady s o []) (u : Bool) :
    execLdx u o s = .next (s.memLoad (indexedReq s o 1 .load 0) (.g o.d (sizeBytes o.size) (!u)) .none (·.eg o.d)) := by
  obtain ⟨hf, hg⟩ := h
  exact congrArg Host.Outcome.next
    ((State.withSrcs_of_full (srcs := [.g o.a false, .g o.b false]) hf _).trans (State.withSeg_ready hg _))

/-- What a form of load does: when it is ready it is the access of its request, for destination `d` and with the granule
operation `gop`; and a number of its size that reaches a slot in rotation arrives as the form says. -/
structure PerformsLoad (s : State) (L : LoadForm) (d : Dest) (gop : GranOp) : Prop where
  runs : L.ready → ∃ e, exec L.i s = .next (s.memLoad L.req d gop e)
  size_pos : 0 < L.req.size
  arrives : (me s).status = .ready → ∀ x, x < 2 ^ (8 * L.req.size) →
    (me s).deliver d (putBytes 0 0 L.req.size x) = L.got (me s) x
  got_pc : ∀ x, (L.got (me s) x).pc = (me s).pc

theorem LdSizeBytes_bounds (z : LdSize) : 0 < LdSizeBytes z ∧ LdSizeBytes z ≤ 64 := by cases z <;> decide
theorem sizeBytes_bounds (z : Size) : 0 < sizeBytes z ∧ sizeBytes z ≤ 64 := by cases z <;> decide

section
variable {x : Slot} (h : x.status = .ready)
include h

theorem Slot.deliver_g {n : Nat} (hn : n ≤ 64) (t : Fin 32) (signed : Bool) (k : Nat) :
    x.deliver (.g t n signed) (putBytes 0 0 n k) = x.wg t (extended n signed k) :=
  (Slot.arriveG_ready h _ _).trans (by rw [extendTo_putBytes hn])
theorem Slot.deliver_g_word {len : Nat} (h8 : 8 ≤ len) (hn : len ≤ 64) (t : Fin 32) (k : Nat) :
    x.deliver (.g t 8 false) (putBytes 0 0 len k) = x.wg t (BitVec.ofNat 64 k) :=
  (Slot.arriveG_ready h _ _).trans (by rw [extendTo_eight h8 hn])
theorem Slot.deliver_v (t : Fin 32) (k : Nat) : x.deliver (.v t) (putBytes 0 0 64 k) = x.wv t (BitVec.ofNat 512 k) :=
  (Slot.arriveV_ready h _ _).trans (by rw [putBytes_whole])
theorem Slot.deliver_vb {k : Nat} (hk : k < 2 ^ 64) (t : Fin 32) :
    x.deliver (.vb t) (putBytes 0 0 8 k) = x.wv t (eightTimes k) :=
  (Slot.arriveV_ready h _ _).trans (by rw [eightTimes_eq hk])
end

section
variable (s : State) (o : MLd)

theorem plainLoads_perform (x : Xop) : ∀ L ∈ plainLoads s o x, ∃ d, PerformsLoad s L d .none := by
  have hld : ∀ z, PerformsLoad s ⟨.ld z o, memReady s o.mem [], loadReq s o.mem (LdSizeBytes z) 1 false,
      fun y v => y.wg o.t (extended (LdSizeBytes z) (ldSigned z) v), (·.eg o.t)⟩ (.g o.t (LdSizeBytes z) (ldSigned z)) .none :=
    fun z => ⟨fun h => ⟨_, execLd_ready h z⟩, (LdSizeBytes_bounds z).1,
      fun hr _ _ => Slot.deliver_g hr (LdSizeBytes_bounds z).2 .., fun _ => Slot.wg_pc ..⟩
  have hldx : ∀ u, PerformsLoad s ⟨.ldx u x, indexReady s x [], indexedReq s x 1 .load 0,
      fun y v => y.wg x.d (extended (sizeBytes x.size) (!u) v), (·.eg x.d)⟩ (.g x.d (sizeBytes x.size) (!u)) .none :=
    fun u => ⟨fun h => ⟨_, execLdx_ready h u⟩, (sizeBytes_bounds x.size).1,
      fun hr _ _ => Slot.deliver_g hr (sizeBytes_bounds x.size).2 .., fun _ => Slot.wg_pc ..⟩
  refine List.forall_mem_append.mpr ⟨List.forall_mem_append.mpr ⟨List.forall_mem_map.mpr fun z _ => ⟨_, hld z⟩, ?vec⟩,
    List.forall_mem_map.mpr fun u _ => ⟨_, hldx u⟩⟩
  simp only [List.forall_mem_cons]
  refine ⟨⟨.v o.t, ?vld⟩, ⟨.vb o.t, ?vldb⟩, List.forall_mem_nil _⟩
  case vld =>
    exact ⟨fun h => ⟨_, congrArg Host.Outcome.next (State.loadM_ready h ..)⟩, Nat.succ_pos _,
      fun hr _ _ => Slot.deliver_v hr .., fun _ => rfl⟩
  case vldb =>
    exact ⟨fun h => ⟨_, congrArg Host.Outcome.next (State.loadM_ready h ..)⟩, Nat.succ_pos _,
      fun hr _ hk => Slot.deliver_vb hr hk _, fun _ => rfl⟩

/-- R287, R288: LDF, VLDF, LDE and VLDE wait; the latter two consume. -/
theorem waitingLoads_perform : ∀ L ∈ waitingLoads s o, ∃ d, PerformsLoad s L.1 d (if L.2 then .consume else .wait) := by
  refine List.forall_mem_flatMap.mpr fun c _ => ?_
  simp only [List.forall_mem_cons]
  refine ⟨⟨.g o.t 8 false, ?word⟩, ⟨.v o.t, ?vector⟩, List.forall_mem_nil _⟩
  case word =>
    refine ⟨fun h => ⟨(·.eg o.t), ?_⟩, Nat.succ_pos _, fun hr _ _ => Slot.deliver_g_word hr (Nat.le_refl 8) (by decide : 8 ≤ 64) ..,
      fun _ => Slot.wg_pc ..⟩
    cases c <;> exact congrArg Host.Outcome.next (State.loadM_ready h ..)
  case vector =>
    refine ⟨fun h => ⟨(·.ev o.t), ?_⟩, Nat.succ_pos _, fun hr _ _ => Slot.deliver_v hr .., fun _ => rfl⟩
    cases c <;> exact congrArg Host.Outcome.next (State.loadM_ready h ..)

theorem testLoad_performs : PerformsLoad s (testLoad s o) (.g o.t 8 false) .test :=
  ⟨fun h => ⟨_, congrArg Host.Outcome.next (State.loadM_ready h ..)⟩, Nat.succ_pos _,
    fun hr _ _ => Slot.deliver_g_word hr (by decide : 8 ≤ 16) (by decide : 16 ≤ 64) .., fun _ => Slot.wg_pc ..⟩
end

section
variable {s : State} {L : LoadForm} {d : Dest} {gop : GranOp} {a : Nat} (P : PerformsLoad s L d gop) (hready : L.ready)
  (hown : ownBytes s L.req a L.req.size true (decide (gop = .consume)))
include P hready hown

/-- R283: a load from a window that its own pipeline serves takes place there. -/
theorem PerformsLoad.in_pipeline : exec L.i s = .next (s.loadOwn [⟨.chip a, L.req.size, 0, .new⟩] d gop) := by
  obtain ⟨hcheck, hpipe, hbehind, -, -⟩ := hown
  obtain ⟨e, he⟩ := P.runs hready
  rw [he, State.memLoad, hcheck]
  dsimp only
  rw [if_pos (by simp [hpipe]), State.inOrder_free hbehind]
/-- A load whose read changes nothing delivers the number it reads. -/
theorem PerformsLoad.delivers (hst : (me s).status = .ready) (hg : gop.passes s a L.req.size) {x : Nat}
    (hx : x < 2 ^ (8 * L.req.size))
    (hread : s.readTarget (me s).lidN (s.asidOf (me s).lidN) a L.req.size true gop .new = (s, .got x)) :
    exec L.i s = goesOn s { L.got (me s) x with pc := (me s).pc + 4 } := by
  have hgot : (me s).deliver d (gathered (fun _ => x) [⟨.chip a, L.req.size, 0, .new⟩] 0) = L.got (me s) x := P.arrives hst x hx
  rw [P.in_pipeline hready hown,
    State.loadOwn_reads (fun _ => x) (fun p hp => by rw [List.mem_singleton.mp hp]; exact hg)
      (fun p hp => by rw [List.mem_singleton.mp hp]; exact hread),
    State.next_finish s (by rw [hgot, P.got_pc]), hgot]
/-- R284, R286-R288: what it reads is the number at its address, its granules FULL. -/
theorem PerformsLoad.delivers_chip (hst : (me s).status = .ready) (hop : gop = .none ∨ gop = .wait)
    (hg : gop.passes s a L.req.size) :
    exec L.i s = goesOn s { L.got (me s) (s.readChip a L.req.size) with pc := (me s).pc + 4 } := by
  obtain ⟨-, hpipe, -, hlog, hpois⟩ := id hown
  obtain ⟨-, -, hwin⟩ := (ownPipe_chip_iff ..).mp hpipe
  refine P.delivers hready hown hst hg (s.readChip_lt ..) ?_
  rw [State.readTarget_got hlog hwin hg (by rcases hop with rfl | rfl <;> decide) hpois,
    if_neg (by rcases hop with rfl | rfl <;> decide)]
/-- R287, R73: a waiting load that meets an EMPTY granule blocks its slot on the granules it touches. -/
theorem PerformsLoad.blocks (hop : gop = .wait ∨ gop = .consume) (he : s.anyEmpty a L.req.size = true) :
    ∃ keys, (∀ k, k ∈ keys ↔ chipKey a / 16 ≤ k ∧ k ≤ (chipKey a + L.req.size - 1) / 16) ∧
      exec L.i s = goesOn s { me s with status := .blocked (.granule keys) } := by
  obtain ⟨keys, hkeys, hload⟩ := State.loadOwn_blocks hop he P.size_pos 0 d
  exact ⟨keys, hkeys, by rw [P.in_pipeline hready hown, hload]; rfl⟩
end

/-- R287, R288: LDE and VLDE leave their granules EMPTY. -/
theorem PerformsLoad.consumes {s : State} {L : LoadForm} {d : Dest} {a : Nat} (P : PerformsLoad s L d .consume)
    (hready : L.ready) (hown : ownBytes s L.req a L.req.size true true) (hst : (me s).status = .ready) (hp : plain s)
    (hg : s.anyEmpty a L.req.size = false) :
    ∃ t, exec L.i s = .next t ∧ t.mem = s.mem ∧ t.anyEmpty a L.req.size = true ∧
      t.slots = (s.setSlot s.cur { L.got (me s) (s.readChip a L.req.size) with pc := (me s).pc + 4 }).slots := by
  obtain ⟨-, hpipe, -, hlog, hpois⟩ := id hown
  obtain ⟨-, -, hwin⟩ := (ownPipe_chip_iff ..).mp hpipe
  have hread := State.readTarget_got hlog hwin (fun _ => hg) (by decide : GranOp.consume ≠ .test) hpois (s.asidOf (me s).lidN)
  rw [if_pos rfl, State.changing_plain hlog hp] at hread
  obtain ⟨hmem, hslots, hcur⟩ := s.setGrans_keeps a L.req.size true
  have hgot := P.arrives hst _ (s.readChip_lt a L.req.size)
  refine ⟨_, (P.in_pipeline hready hown).trans (congrArg _ (State.loadOwn_consumes hp hg hread d)), hmem,
    State.anyEmpty_setGrans P.size_pos s a, ?_⟩
  rw [State.finish_slots_of hslots hcur (by rw [hgot, P.got_pc]), hgot]

/-! ### VLDI (11 R289) -/

theorem elemBytes_pos (ty : ElemTy) : 0 < elemBytes ty := by cases ty <;> decide
theorem elemBytes_mul_lanesOf (ty : ElemTy) : elemBytes ty * lanesOf ty = 64 := by cases ty <;> rfl

/-- R289: each lane that passes its check is one piece of an element on chip, at the lane's place of the register. -/
theorem State.checkLanes_ok {s : State} {seg : Fin 8} {ty : ElemTy} {idx data : VWord} {store : Bool} {l : List Nat}
    {ps : List Piece} (h : s.checkLanes seg ty idx data store l = .ok ps) :
    ps.map (·.pos) = l.map (· * elemBytes ty) ∧ ∀ p ∈ ps, p.len = elemBytes ty ∧ ∃ a, p.place = .chip a := by
  induction l generalizing ps with
  | nil =>
    obtain rfl := Except.ok.inj h
    exact ⟨rfl, List.forall_mem_nil _⟩
  | cons i l ih =>
    rw [State.checkLanes] at h
    split at h
    · cases h
    next qs hq =>
    split at h
    · cases h
    next rest hrest =>
    obtain rfl := Except.ok.inj h
    obtain ⟨hpos, hall⟩ := ih hrest
    obtain ⟨pl, rfl, -, hscratch⟩ := State.check_ok_one hq rfl
    exact ⟨by simp [hpos], List.forall_mem_cons.mpr ⟨⟨rfl, hscratch rfl⟩, hall⟩⟩
theorem mem_activeLanes {ty : ElemTy} {m : Word} {k : Nat} : k ∈ activeLanes ty m ↔ k < lanesOf ty ∧ m.getLsbD k = true := by
  simp [activeLanes]

/-- A bit of the result of a load belongs to a piece. -/
def Piece.covers (p : Piece) (j : Nat) : Prop := 8 * p.pos ≤ j ∧ j < 8 * (p.pos + p.len)
/-- A bit that one piece alone covers is that piece's. -/
theorem getLsbD_gathered (f : Piece → Nat) {ps : List Piece} {p : Piece} {j : Nat} (hj : j < 512) (hp : p.covers j)
    (hone : ∀ q ∈ ps, q.covers j → q = p) (v : VWord) :
    (gathered f ps v).getLsbD j = if p ∈ ps then (f p).testBit (j - 8 * p.pos) else v.getLsbD j := by
  induction ps generalizing v with
  | nil => simp [gathered]
  | cons q ps ih =>
    have htail := ih (fun r hr => hone r (List.mem_cons_of_mem _ hr)) (putBytes v q.pos q.len (f q))
    rw [getLsbD_putBytes _ _ _ _ _ hj] at htail
    refine htail.trans ?_
    by_cases hq : q.covers j
    · obtain rfl := hone q List.mem_cons_self hq
      rw [if_pos (c := 8 * q.pos ≤ j ∧ _) hq, ite_self, if_pos List.mem_cons_self]
    · have hne : p ≠ q := fun h => hq (h ▸ hp)
      rw [if_neg (c := 8 * q.pos ≤ j ∧ _) hq]
      simp [hne]
/-- R289: an active lane takes its element, another keeps its own. -/
theorem getLsbD_mergeLanes {w : Nat} (hw : 0 < w) (old got : VWord) (mask : Word) {j : Nat} (hj : j < 512) (n : Nat) :
    (mergeLanes w old got mask n).getLsbD j =
      if j / (8 * w) < n ∧ mask.getLsbD (j / (8 * w)) = true then got.getLsbD j else old.getLsbD j := by
  induction n with
  | zero => simp [mergeLanes]
  | succ n ih =>
    have hlane : 8 * (n * w) ≤ j ∧ j < 8 * (n * w + w) ↔ j / (8 * w) = n := by
      rw [Nat.div_eq_iff (by omega)]
      have : n * (8 * w) = 8 * (n * w) := by rw [← Nat.mul_assoc, Nat.mul_comm n 8, Nat.mul_assoc]
      omega
    rw [mergeLanes]
    by_cases hk : j / (8 * w) = n
    · subst hk
      cases hm : mask.getLsbD (j / (8 * w)) with
      | true =>
        have hin := hlane.mpr rfl
        rw [if_pos rfl, getLsbD_putBytes _ _ _ _ _ hj, if_pos hin, testBit_getBytes, if_pos ⟨Nat.lt_succ_self _, rfl⟩]
        rw [show 8 * (j / (8 * w) * w) + (j - 8 * (j / (8 * w) * w)) = j by omega]
        simp; omega
      | false => simp [ih, hm]
    · have hlt : j / (8 * w) < n + 1 ↔ j / (8 * w) < n := by omega
      simp only [hlt]
      rw [← ih]
      split
      · rw [getLsbD_putBytes _ _ _ _ _ hj, if_neg (mt hlane.mp hk)]
      · rfl
theorem elemW_pos (ty : ElemTy) : 0 < elemW ty := Nat.mul_pos (by decide) (elemBytes_pos ty)
/-- A bit of a lane lies in the register. -/
theorem laneBit_lt {ty : ElemTy} {k j : Nat} (hk : k < lanesOf ty) (hj : j < elemW ty) : elemW ty * k + j < 512 := by
  have hmul := Nat.mul_le_mul_left (elemW ty) (Nat.succ_le_of_lt hk)
  rw [elemW_mul_lanesOf, Nat.mul_succ] at hmul
  omega
/-- R289: so the lanes of the merged register are the element or the old lane. -/
theorem el_mergeLanes {ty : ElemTy} (old got : VWord) (mask : Word) {k : Nat} (hk : k < lanesOf ty) :
    el (mergeLanes (elemBytes ty) old got mask (64 / elemBytes ty)) (elemW ty) k =
      if mask.getLsbD k = true then el got (elemW ty) k else el old (elemW ty) k := by
  have hn : 64 / elemBytes ty = lanesOf ty := by
    rw [← elemBytes_mul_lanesOf ty, Nat.mul_div_cancel_left _ (elemBytes_pos ty)]
  refine BitVec.eq_of_getLsbD_eq fun j hj => ?_
  have hdiv : (elemW ty * k + j) / (8 * elemBytes ty) = k := by
    rw [← elemW, Nat.mul_add_div (elemW_pos ty), Nat.div_eq_of_lt hj, Nat.add_zero]
  rw [hn, el, BitVec.getLsbD_extractLsb', getLsbD_mergeLanes (elemBytes_pos ty) _ _ _ (laneBit_lt hk hj), hdiv]
  cases mask.getLsbD k <;> simp [hk, hj, el]
/-- Elements of a list that a map keeps apart are equal once their images are. -/
theorem eq_of_nodup_map {α β : Type} {f : α → β} {l : List α} (h : (l.map f).Nodup) {a b : α} (ha : a ∈ l) (hb : b ∈ l)
    (hf : f a = f b) : a = b := by
  induction l with
  | nil => cases ha
  | cons c l ih =>
    obtain ⟨hc, hl⟩ := List.nodup_cons.mp h
    rcases List.mem_cons.mp ha with rfl | ha' <;> rcases List.mem_cons.mp hb with rfl | hb'
    · rfl
    · exact absurd (hf ▸ List.mem_map_of_mem hb') hc
    · exact absurd (hf ▸ List.mem_map_of_mem ha') hc
    · exact ih hl ha' hb'
/-- A lane of the result is what its piece reads, where the pieces are elements at places of their own. -/
theorem el_gathered {ty : ElemTy} (f : Piece → Nat) {ps : List Piece} {p : Piece} {k : Nat} (hk : k < lanesOf ty)
    (hp : p ∈ ps) (hpos : p.pos = k * elemBytes ty)
    (hall : ∀ q ∈ ps, q.len = elemBytes ty ∧ ∃ i, q.pos = i * elemBytes ty) (hinj : (ps.map (·.pos)).Nodup) :
    el (gathered f ps 0) (elemW ty) k = BitVec.ofNat (elemW ty) (f p) := by
  have hstart : 8 * p.pos = elemW ty * k := by rw [hpos, elemW, Nat.mul_comm k, Nat.mul_assoc]
  have hcovers : ∀ q ∈ ps, ∀ j, q.covers j → q.pos = j / elemW ty * elemBytes ty := by
    intro q hq j ⟨hlo, hhi⟩
    obtain ⟨hlen, i, hi⟩ := hall q hq
    have hmul : i * (8 * elemBytes ty) = 8 * (i * elemBytes ty) := by rw [← Nat.mul_assoc, Nat.mul_comm i 8, Nat.mul_assoc]
    have hdiv : j / elemW ty = i := (Nat.div_eq_iff (elemW_pos ty)).mpr (by unfold elemW; omega)
    rw [hdiv, hi]
  refine BitVec.eq_of_getLsbD_eq fun j hj => ?_
  have hin : p.covers (elemW ty * k + j) := by
    obtain ⟨hlen, -⟩ := hall p hp
    unfold elemW at hstart hj ⊢
    exact ⟨by omega, by omega⟩
  have hone : ∀ q ∈ ps, q.covers (elemW ty * k + j) → q = p := fun q hq hc =>
    eq_of_nodup_map hinj hq hp ((hcovers q hq _ hc).trans (hcovers p hp _ hin).symm)
  rw [el, BitVec.getLsbD_extractLsb', getLsbD_gathered f (laneBit_lt hk hj) hin hone, if_pos hp, hstart,
    BitVec.getLsbD_ofNat, Nat.add_sub_cancel_left]

/-- R289: v[d] of a VLDI whose lanes are the pieces `ps`: what they read, and the lanes that are not active kept. -/
def State.mergedLanes (s : State) (o : Vix) (ps : List Piece) : VWord :=
  mergeLanes (elemBytes o.ty) ((me s).rv o.d) (gathered (fun p => s.readChip p.place.addr p.len) ps 0) ((me s).rm o.m)
    (64 / elemBytes o.ty)
/-- R289: VLDI from the windows of its own core merges the elements that its active lanes name into v[d]. -/
theorem execVldi_own {s : State} {o : Vix} {ps : List Piece} (hst : (me s).status = .ready)
    (hf : full s [(.v, o.a), (.m, o.m)]) (hseg : mapGet false (me s).sgPend o.seg = false)
    (hc : s.checkLanes o.seg o.ty ((me s).rv o.a) 0 false (activeLanes o.ty ((me s).rm o.m)) = .ok ps)
    (hpipe : ps.all (ownPipe (coreOf s.cur)) = true) (hbehind : s.ownBehind s.cur ps true false = false)
    (hplace : ∀ p ∈ ps, ∀ b, p.place = .chip b → unlogged s b ∧ chipBytes b = true ∧ s.poisoned (chipKey b) p.len = false) :
    execVldi o s = goesOn s { (me s).wv o.d (s.mergedLanes o ps) with pc := (me s).pc + 4 } := by
  obtain ⟨-, hall⟩ := State.checkLanes_ok hc
  have hread : ∀ p ∈ ps, s.readTarget (me s).lidN (s.asidOf (me s).lidN) p.place.addr p.len true .none .new =
      (s, .got (s.readChip p.place.addr p.len)) := by
    intro p hp
    obtain ⟨-, b, hb⟩ := hall p hp
    obtain ⟨hlog, -, hpois⟩ := hplace p hp b hb
    have hwin : chipWin b ≠ 4 := by
      have hown := List.all_eq_true.mp hpipe p hp
      simp only [ownPipe, hb, Bool.and_eq_true, decide_eq_true_eq] at hown
      exact hown.2
    rw [hb]
    exact State.readTarget_got hlog hwin (GranOp.none_passes _ _ _) (by decide) (fun _ => hpois) _
  have hload : s.loadOwn ps (.lanes o.d o.ty ((me s).rm o.m)) .none = s.finish (·.deliver (.lanes o.d o.ty ((me s).rm o.m))
      (gathered (fun p => s.readChip p.place.addr p.len) ps 0)) := State.loadOwn_reads _ (fun _ _ => GranOp.none_passes _ _ _) hread _
  rw [execVldi, State.withSrcs_of_full (srcs := [.v o.a, .m o.m]) hf, State.withSeg_ready hseg]
  dsimp only
  rw [hc]
  dsimp only
  rw [if_pos hpipe, State.inOrder_free hbehind, hload]
  have hgot : (me s).deliver (.lanes o.d o.ty ((me s).rm o.m)) (gathered (fun p => s.readChip p.place.addr p.len) ps 0) =
      (me s).wv o.d (s.mergedLanes o ps) := Slot.arriveV_ready hst ..
  rw [State.next_finish s (by rw [hgot]; rfl), hgot]

end Sys2Proof.Machine

open Sys2Proof Sys2Proof.Machine Sys2Proof.Claims in
/-- Settles O21: each form of load is the access of its request (`plainLoads_perform`, `waitingLoads_perform`,
`testLoad_performs`), which in the pipeline delivers, consumes or blocks (`PerformsLoad.delivers_chip`,
`PerformsLoad.consumes`, `PerformsLoad.blocks`); VLDI by `execVldi_own` and its lanes by `el_mergeLanes`, `el_gathered`. -/
theorem ownScratchpadLoads : Obligations.OwnScratchpadLoads := by
  refine ⟨fun s a o x hst => ⟨fun n hb => s.readChip_bytes hb n, fun L hL hr ho => ?_, fun L hL hr hg => ⟨fun hc ho => ?_,
    fun hc hp ho => ?_⟩, fun hr ho => ?_⟩, fun s a o L hL hr he ho => ?_, fun s o ps hst hf hseg _ hc hpipe hb hp => ?_⟩
  · obtain ⟨d, P⟩ := plainLoads_perform s o x L hL
    exact P.delivers_chip hr ho hst (.inl rfl) (GranOp.none_passes _ _ _)
  · obtain ⟨d, P⟩ := waitingLoads_perform s o L hL
    rw [hc] at P
    exact P.delivers_chip hr ho hst (.inr rfl) fun _ => hg
  · obtain ⟨d, P⟩ := waitingLoads_perform s o L hL
    rw [hc] at P
    exact P.consumes hr ho hst hp hg
  · obtain ⟨-, hpipe, -, hlog, -⟩ := id ho
    obtain ⟨-, -, hwin⟩ := (ownPipe_chip_iff ..).mp hpipe
    refine (testLoad_performs s o).delivers hr ho hst nofun ?_ (State.readTarget_test hlog hwin _)
    show (if s.anyEmpty a 16 = true then 0 else 1) < 2 ^ (8 * 16)
    split <;> decide
  · obtain ⟨d, P⟩ := waitingLoads_perform s o L hL
    obtain ⟨L, c⟩ := L
    cases c with
    | false => exact P.blocks hr ho (.inl rfl) he
    | true => exact P.blocks hr ho (.inr rfl) he
  · refine ⟨_, execVldi_own hst hf hseg hc hpipe hb hp, fun k hk => ⟨fun hn => ?_, fun hact => ?_⟩⟩
    · rw [State.mergedLanes, el_mergeLanes _ _ _ hk, if_neg (by simpa [active] using hn)]
    · obtain ⟨hpos, hall⟩ := State.checkLanes_ok hc
      have hlane : k * elemBytes o.ty ∈ ps.map (·.pos) := by
        rw [hpos]; exact List.mem_map_of_mem (mem_activeLanes.mpr ⟨hk, hact⟩)
      obtain ⟨p, hmem, hppos⟩ := List.mem_map.mp hlane
      obtain ⟨hlen, b, hplace⟩ := hall p hmem
      obtain ⟨-, hbytes, -⟩ := hp p hmem b hplace
      refine ⟨p, hmem, b, hplace, hppos, ?_⟩
      rw [State.mergedLanes, el_mergeLanes _ _ _ hk, if_pos (c := ((me s).rm o.m).getLsbD k = true) hact, el_gathered _ hk hmem hppos]
      · rw [hplace, hlen]
        exact congrArg _ (s.readChip_bytes hbytes _)
      · refine fun q hq => ⟨(hall q hq).1, ?_⟩
        have hq' : q.pos ∈ ps.map (·.pos) := List.mem_map_of_mem hq
        rw [hpos] at hq'
        obtain ⟨i, -, hi⟩ := List.mem_map.mp hq'
        exact ⟨i, hi.symm⟩
      · rw [hpos]
        refine List.Pairwise.map _ (fun i j hne hij => ?_) (List.Pairwise.filter _ List.nodup_range)
        exact hne (Nat.eq_of_mul_eq_mul_right (elemBytes_pos o.ty) hij)

/-! ## Releases and drains of the issuing slot (05 R136, 03 R77) -/

namespace Sys2Proof.Machine
open Sys2Proof.Claims

/-- R77: entries that leave the store buffer change neither memory nor a slot. -/
theorem State.drainHits_keeps (s : State) (c : Nat) (hits : List SbEntry) : Keeps s (s.drainHits c hits) := by
  refine Keeps.foldl (fun s e => ?_) _ _
  unfold State.drainEntry
  split
  · exact .refl s
  · exact Keeps.foldl (f := fun s e => s.drainOne c e) (fun s e => ⟨rfl, rfl, rfl⟩) _ _
/-- R133: and so an access that looks into it. -/
theorem State.forward_keeps (s : State) (t : Nat) (gop : GranOp) (v : VWord) (p : Piece) : Keeps s (s.forward t gop v p).1 := by
  unfold State.forward
  dsimp only
  split
  · exact .refl s
  · split
    · exact .refl s
    · exact s.drainHits_keeps _ _

/-- And a transaction that is sent on its way. -/
theorem State.send_keeps (s : State) (t : Nat) (pc : Word) (ps : List Piece) (k : FlightKind) : Keeps s (s.send t pc ps k).1 :=
  ⟨rfl, rfl, rfl⟩

/-- A state that is `s`, but that it may list the issuing slot anew. -/
def Relists (s u : State) : Prop := u = s ∨ u = s.setSlot s.cur (me s)
/-- 05 R136: a release with nothing outstanding leaves the machine as it was. -/
theorem State.withRelease_quiet_eq {s : State} (h : Claims.quiet s) (sc : Scope) (k : State → State) :
    ∃ u, s.withRelease sc k = k u ∧ Relists s u := by
  obtain ⟨hst, hr, hw, hc, hb, hf⟩ := h
  have hrun : (me s).status ≠ .idle := by simp [hst]
  have hdrain : s.drainCore (coreOf s.cur) = s := by simp [State.drainCore, hb]
  cases sc
  case thread | core => exact ⟨s, rfl, .inl rfl⟩
  all_goals
    simp (disch := assumption) only [State.withRelease, State.modSlot, hdrain, hr, Option.isSome_none, Bool.false_eq_true,
      if_false, State.releaseReady_setSlot hb hf, if_true, State.slot_setSlot_task]
    refine ⟨_, rfl, .inr ((State.setSlot_setSlot _ _ _ (by exact hrun)).trans ?_)⟩
    exact congrArg _ (Slot.clearRelease hr hw)
theorem Relists.mem {s u : State} (h : Relists s u) : u.mem = s.mem := by rcases h with rfl | rfl <;> rfl
/-- An instruction that then finishes, in a state that keeps that one, changes its slot as if nothing had been listed. -/
theorem Relists.finish_slots {s u t : State} (h : Relists s u) (hst : (me s).status = .ready)
    (ht : Keeps u t) {f : Slot → Slot} (hpc : (f (me s)).pc = (me s).pc) :
    (t.finish f).slots = (s.setSlot s.cur { f (me s) with pc := (me s).pc + 4 }).slots := by
  obtain ⟨-, hslots, hcur⟩ := ht
  rcases h with rfl | rfl
  · exact State.finish_slots_of hslots hcur hpc
  · have hme : me (s.setSlot s.cur (me s)) = me s := State.slot_setSlot_task _ _ (by simp [hst])
    rw [State.finish_slots_of hslots hcur (by rw [hme]; exact hpc), hme]
    exact congrArg State.slots (State.setSlot_setSlot _ _ _ (by simp [hst]))

end Sys2Proof.Machine

/-! ## Atomics (O24) -/

namespace Sys2Proof.Machine
open Sys2Proof.Claims

/-! ### Results (11 R291) -/

/-- Where two choices agree on equal numbers, a strict comparison decides as a weak one does, at every width. -/
theorem ite_toInt_lt {w : Nat} {a b x y : BitVec w} (h : a = b → x = y) :
    (if a.slt b then x else y) = if a.toInt ≤ b.toInt then x else y := by
  by_cases he : a = b
  · rw [h he, ite_self, ite_self]
  · have hne : a.toInt ≠ b.toInt := fun hi => he (BitVec.eq_of_toInt_eq hi)
    simp only [BitVec.slt, decide_eq_true_eq, show a.toInt < b.toInt ↔ a.toInt ≤ b.toInt by omega]
theorem ite_toNat_lt {w : Nat} {a b x y : BitVec w} (h : a = b → x = y) :
    (if a.ult b then x else y) = if a.toNat ≤ b.toNat then x else y := by
  by_cases he : a = b
  · rw [h he, ite_self, ite_self]
  · have hne : a.toNat ≠ b.toNat := fun hn => he (BitVec.eq_of_toNat_eq hn)
    simp only [BitVec.ult, decide_eq_true_eq, show a.toNat < b.toNat ↔ a.toNat ≤ b.toNat by omega]
/-- R291: the number an atomic leaves is its row's result. -/
theorem amoOp_eq (k : AmoKind) (w old src cmp : Nat) :
    amoOp k w old src cmp = (amoNew k w (BitVec.ofNat w old) (BitVec.ofNat w src) (BitVec.ofNat w cmp)).toNat := by
  cases k
  case min => exact congrArg BitVec.toNat (ite_toInt_lt id)
  case max => exact congrArg BitVec.toNat (ite_toInt_lt Eq.symm)
  case minu => exact congrArg BitVec.toNat (ite_toNat_lt id)
  case maxu => exact congrArg BitVec.toNat (ite_toNat_lt Eq.symm)
  all_goals rfl
/-- R291: an atomic that does not write would leave the old value. -/
theorem amoNew_of_not_writes {k : AmoKind} {w old cmp : Nat} (h : amoWrites k w old cmp = false) (src : BitVec w) :
    amoNew k w (BitVec.ofNat w old) src (BitVec.ofNat w cmp) = BitVec.ofNat w old := by
  cases k
  case cas => exact if_neg (by simpa [amoWrites] using h)
  all_goals simp [amoWrites] at h

/-- The bytes of a number read back as the number, cut to them. -/
theorem leNat_natLe (x n : Nat) : leNat (natLe x n) = x % 2 ^ (8 * n) := by
  induction n generalizing x with
  | zero => rw [Nat.mul_zero, Nat.pow_zero, Nat.mod_one]; rfl
  | succ n ih =>
    rw [natLe, leNat, ih, BitVec.toNat_ofNat, Nat.mul_succ, Nat.add_comm (8 * n), Nat.pow_add, Nat.mod_mul]
theorem length_natLe (x n : Nat) : (natLe x n).length = n := by
  induction n generalizing x with
  | zero => rfl
  | succ n ih => rw [natLe, List.length_cons, ih]
/-- A number reads back from the place it was written to. -/
theorem readLe_writeLe {m : Memory} (h : m.wf = true) (a n x : Nat) : readLe (writeLe m a n x) a n = x % 2 ^ (8 * n) := by
  have hread := readList_writeList h a (natLe x n)
  rw [length_natLe] at hread
  rw [readLe, writeLe, hread, leNat_natLe]
theorem readByte_writeLe_other (m : Memory) (a n x : Nat) {c : Nat} (h : c < a ∨ a + n ≤ c) :
    readByte (writeLe m a n x) c = readByte m c := readByte_writeList_other _ _ _ (by rwa [length_natLe])

/-! ### The own scratchpad (11 R290) -/

/-- Bytes written through a core window change of the slots nothing. -/
theorem State.writeChipBytes_core (s : State) {a : Nat} (h : chipShared a = false) (n v : Nat) :
    (s.writeChipBytes a n v).mem = writeLe s.mem (chipKey a) n v ∧ (s.writeChipBytes a n v).slots = s.slots ∧
      (s.writeChipBytes a n v).cur = s.cur := by
  unfold State.writeChipBytes State.touchPage
  rw [h]
  exact ⟨rfl, rfl, rfl⟩
/-- R290: an atomic at unpoisoned bytes of a core window that no speculation has logged. -/
theorem State.atomicTarget_core {s : State} {lid a n : Nat} (hu : unloggedFor s lid a) (hs : s.specOf lid = none)
    (hc : chipShared a = false) (hp : s.poisoned (chipKey a) n = false) (thr asid : Nat) (k : AmoKind) (src cmp : Nat) :
    s.atomicTarget thr lid asid a n true k src cmp =
      (if amoWrites k (8 * n) (bytesAt s a n) cmp then s.writeChipBytes a n (amoOp k (8 * n) (bytesAt s a n) src cmp) else s,
        .got (bytesAt s a n)) := by
  by_cases hw : amoWrites k (8 * n) (bytesAt s a n) cmp = true
  · rw [if_pos hw]
    unfold bytesAt at hw ⊢
    simp [State.atomicTarget, State.guardLogged_unlogged hu, State.admitRefuses, hp, State.changing_plain hu hs, hc, hw]
  · rw [if_neg hw]
    unfold bytesAt at hw ⊢
    simp [State.atomicTarget, State.guardLogged_unlogged hu, State.admitRefuses, hp, hw]

/-- The request of an atomic (R290). -/
def State.atomicReq (s : State) (o : Amo) : Req :=
  { desc := s.segment s.cur o.seg, off := ((me s).rg o.a).toNat, size := if o.wd then 8 else 4, align := if o.wd then 8 else 4,
    need := 8, use := .atomic }
/-- R291: each row of the table is its kind of atomic. -/
theorem atomics_exec : ∀ p ∈ atomics, ∀ (s : State) (o : Amo), exec (p.1 o) s = .next (s.amo o p.2) := by
  simp only [atomics, List.forall_mem_cons]
  exact ⟨fun _ _ => rfl, fun _ _ => rfl, fun _ _ => rfl, fun _ _ => rfl, fun _ _ => rfl, fun _ _ => rfl, fun _ _ => rfl,
    fun _ _ => rfl, fun _ _ => rfl, fun _ _ => rfl, List.forall_mem_nil _⟩

/-- R290: an atomic that has passed its checks, in its own pipeline: it takes place and writes what it meets there to g[d]. -/
def State.amoHere (s : State) (o : Amo) (k : AmoKind) (p : Piece) : State :=
  let r := s.atomicTarget s.cur (me s).lidN (s.asidOf (me s).lidN) p.place.tval.toNat (if o.wd then 8 else 4) true k
    ((me s).rg o.b).toNat ((me s).rg o.d).toNat
  r.1.stillRuns s (me s).lidN fun t =>
    match r.2 with
    | .got old => t.finish (·.wg o.d (extendTo (if o.wd then 8 else 4) true old))
    | _ =>
      match t.specOf (me s).lidN with
      | some sid => t.discard sid 12
      | none => (t.finish (·.wg o.d 0)).deferTrap (me s).lidN s.cur 9 (me s).pc p.place.tval
/-- 05 R145: an atomic that leaves the core is sent from `u`, its release complete: g[d] becomes EMPTY, and with an acquire its
slot waits. -/
def State.sendAtomic (s : State) (o : Amo) (k : AmoKind) (p : Piece) (u : State) : State :=
  let r := (u.forward s.cur .wait 0 p).1.send s.cur (me s).pc [p] (.atomic k o.wd ((me s).rg o.b) ((me s).rg o.d) o.d o.acq)
  r.1.finish fun x =>
    let y := { x.eg o.d with sbcnt := x.sbcnt + 1 }
    if o.acq then { y with acqReg := some (o.d, r.2, b2n (x.gReg o.d).empty), status := .blocked .release } else y
/-- With its operands ready and its check passed an atomic is one of the two, or waits for its allowance. -/
theorem State.amo_checked {s : State} {o : Amo} {k : AmoKind} (hf : full s [(.g, o.a), (.g, o.b)])
    (hd : k = .cas → full s [(.g, o.d)]) (hseg : mapGet false (me s).sgPend o.seg = false) {p : Piece}
    (hc : s.check s.cur (s.atomicReq o) = .ok [p]) :
    s.amo o k = if ownPipe (coreOf s.cur) p then s.inOrder [p] true true fun s => s.amoHere o k p
      else if 32 ≤ (me s).sbcnt then s.blockCur .allowance
      else s.withRelease (if o.rel then p.place.scope s.cur else .core) (s.sendAtomic o k p) := by
  unfold State.amo
  rw [State.withSrcs_full, State.withSeg_ready hseg]
  case h =>
    intro r hr
    have hab : ∀ r ∈ [Src.g o.a false, Src.g o.b false], (me s).isEmpty r.file r.n = false :=
      fun r hr => hf (r.file, r.n) (List.mem_map_of_mem (f := fun r : Src => (r.file, r.n)) hr)
    split at hr
    · rcases List.mem_cons.mp hr with rfl | hr
      · exact hd rfl _ List.mem_cons_self
      · exact hab r hr
    · exact hab r hr
  unfold State.atomicReq at hc
  dsimp only
  rw [hc]
  rfl

/-- What an atomic on `n` bytes at an on-chip address makes of the machine (R291). -/
def State.afterAtomic (s : State) (k : AmoKind) (a n src cmp : Nat) : State :=
  if amoWrites k (8 * n) (bytesAt s a n) cmp then s.writeChipBytes a n (amoOp k (8 * n) (bytesAt s a n) src cmp) else s
/-- The location then holds the result, and every other byte, the slots and the phase are as before. -/
theorem State.afterAtomic_result (s : State) {a : Nat} (hc : chipShared a = false) (k : AmoKind) (n src cmp : Nat) :
    let new := amoNew k (8 * n) (BitVec.ofNat _ (bytesAt s a n)) (BitVec.ofNat _ src) (BitVec.ofNat _ cmp)
    (s.mem.wf = true → readLe (s.afterAtomic k a n src cmp).mem (chipKey a) n = new.toNat) ∧
      (∀ c, c < chipKey a ∨ chipKey a + n ≤ c → readByte (s.afterAtomic k a n src cmp).mem c = readByte s.mem c) ∧
      (s.afterAtomic k a n src cmp).slots = s.slots ∧ (s.afterAtomic k a n src cmp).cur = s.cur := by
  intro new
  unfold State.afterAtomic
  cases hw : amoWrites k (8 * n) (bytesAt s a n) cmp with
  | true =>
    obtain ⟨hmem, hslots, hcur⟩ := s.writeChipBytes_core hc n (amoOp k (8 * n) (bytesAt s a n) src cmp)
    rw [if_pos rfl, hmem]
    refine ⟨fun hwf => ?_, fun c hout => readByte_writeLe_other _ _ _ _ hout, hslots, hcur⟩
    rw [readLe_writeLe hwf, amoOp_eq]
    exact Nat.mod_eq_of_lt new.isLt
  | false =>
    refine ⟨fun _ => ?_, fun _ _ => rfl, rfl, rfl⟩
    have hnew : new = BitVec.ofNat _ (bytesAt s a n) := amoNew_of_not_writes hw _
    rw [hnew, BitVec.toNat_ofNat]
    exact (Nat.mod_eq_of_lt (readLe_lt ..)).symm

section
variable {s : State} {o : Amo} {k : AmoKind}

/-- R290: in the own scratchpad an atomic takes place at once. -/
theorem State.amoHere_own {a : Nat} (hp : plain s) (ha : a < 2 ^ 40) (hc : chipShared a = false) (hlog : unlogged s a)
    (hpois : s.poisoned (chipKey a) (if o.wd then 8 else 4) = false) (n pos : Nat) :
    s.amoHere o k ⟨.chip a, n, pos, .new⟩ =
      (s.afterAtomic k a (if o.wd then 8 else 4) ((me s).rg o.b).toNat ((me s).rg o.d).toNat).finish
        (·.wg o.d (extendTo (if o.wd then 8 else 4) true (bytesAt s a (if o.wd then 8 else 4)))) := by
  have haddr : (Place.chip a).tval.toNat = a := (BitVec.toNat_ofNat ..).trans (Nat.mod_eq_of_lt (by omega))
  unfold State.amoHere
  dsimp only
  rw [haddr, State.atomicTarget_core hlog hp hc hpois]
  exact State.stillRuns_plain hp _
/-- R290, 05 R145: an atomic that leaves the core is on its way and counted. -/
theorem State.sendAtomic_sends {u : State} (hu : Relists s u) (hst : (me s).status = .ready) (p : Piece) :
    let x := { (me s).eg o.d with sbcnt := (me s).sbcnt + 1, pc := (me s).pc + 4 }
    ∃ f, (s.sendAtomic o k p u).mem = s.mem ∧ f ∈ (s.sendAtomic o k p u).flights ∧ f.thr = s.cur ∧ f.pieces = [p] ∧
      f.kind = .atomic k o.wd ((me s).rg o.b) ((me s).rg o.d) o.d o.acq ∧
      (s.sendAtomic o k p u).slots = (s.setSlot s.cur (if o.acq then
        { x with acqReg := some (o.d, f.id, if ((me s).gReg o.d).empty then 1 else 0), status := .blocked .release }
        else x)).slots := by
  intro x
  have hkeeps := (u.forward_keeps s.cur .wait 0 p).trans (State.send_keeps _ s.cur (me s).pc [p]
    (.atomic k o.wd ((me s).rg o.b) ((me s).rg o.d) o.d o.acq))
  obtain ⟨hmem, -, -⟩ := id hkeeps
  refine ⟨_, hmem.trans hu.mem, List.mem_append_right _ (List.mem_singleton_self _), rfl, rfl, rfl, ?_⟩
  refine (hu.finish_slots hst hkeeps ?_).trans ?_
  · cases o.acq <;> exact Slot.eg_pc ..
  · cases o.acq <;> rfl
end

/-- 05 R136: a release of nothing, or one with nothing outstanding, is complete at once. -/
theorem State.withRelease_if_quiet {s : State} {b : Bool} (h : b = true → Claims.quiet s) (sc : Scope) (k : State → State) :
    ∃ u, s.withRelease (if b then sc else .core) k = k u ∧ Relists s u := by
  cases b with
  | false => exact ⟨s, rfl, .inl rfl⟩
  | true => exact State.withRelease_quiet_eq (h rfl) _ _

end Sys2Proof.Machine

open Sys2Proof Sys2Proof.Machine Sys2Proof.Claims in
/-- Settles O24: each row is its kind of atomic (`atomics_exec`), which with its operands ready takes place in its own pipeline
(`State.amoHere_own`, `State.afterAtomic_result`) or is sent on its way (`State.sendAtomic_sends`). -/
theorem ownScratchpadAtomics : Obligations.OwnScratchpadAtomics := by
  intro p hp s o a hst hf hd hseg n r
  refine ⟨fun hs hwin hown => ?_, fun q haway hcount hrel => ?_⟩
  · intro old new
    obtain ⟨hcheck, hpipe, hbehind, hlog, hpois⟩ := hown
    obtain ⟨hc, -, -⟩ := (ownPipe_chip_iff ..).mp hpipe
    have hbytes : chipBytes a = true := by simp [chipBytes, hc, hwin]
    have ha : a < 2 ^ 40 := by
      obtain ⟨pl, hpl, hlow, -⟩ := State.check_ok_one hcheck rfl
      simp only [List.cons.injEq, Piece.mk.injEq] at hpl
      exact hlow a hpl.1.1.symm
    have hexec := State.amo_checked hf hd hseg hcheck
    rw [if_pos hpipe, State.inOrder_free hbehind, State.amoHere_own hs ha hc hlog (hpois hbytes)] at hexec
    obtain ⟨hres, hother, hslots, hcur⟩ := s.afterAtomic_result hc p.2 n ((me s).rg o.b).toNat ((me s).rg o.d).toNat
    simp only [BitVec.ofNat_toNat] at hres
    exact ⟨_, (atomics_exec p hp s o).trans (congrArg _ hexec), hres, hother,
      State.finish_slots_of hslots hcur (f := (·.wg o.d (old.signExtend 64))) (Slot.wg_pc ..)⟩
  · obtain ⟨hcheck, hpipe⟩ := haway
    obtain ⟨u, hu, hlists⟩ := State.withRelease_if_quiet hrel (q.place.scope s.cur) (s.sendAtomic o p.2 q)
    obtain ⟨f, hsent⟩ := State.sendAtomic_sends (o := o) (k := p.2) hlists hst q
    have hexec := State.amo_checked hf hd hseg hcheck
    rw [if_neg (by simpa using hpipe), if_neg (by omega), hu] at hexec
    exact ⟨_, f, (atomics_exec p hp s o).trans (congrArg _ hexec), hsent⟩

/-! ## Messages a thread sends (O26) -/

namespace Sys2Proof.Machine
open Sys2Proof.Claims

/-- A slot that is listed anew reads as before. -/
theorem Relists.me {s u : State} (h : Relists s u) (hst : (me s).status = .ready) : u.slot s.cur = me s := by
  rcases h with rfl | rfl
  · rfl
  · exact State.slot_setSlot_task _ _ (by simp [hst])
/-- And so do the transactions on their way, the tickets, the cycle and the granules. -/
theorem Relists.transit {s u : State} (h : Relists s u) :
    u.flights = s.flights ∧ u.nextId = s.nextId ∧ u.cycle = s.cycle ∧ u.grans = s.grans := by
  rcases h with rfl | rfl <;> exact ⟨rfl, rfl, rfl, rfl⟩
/-- A transaction that is sent and counted changes neither memory nor a slot. -/
theorem State.sendCounted_keeps (s : State) (t : Nat) (pc : Word) (k : FlightKind) (lid cl : Nat) :
    Keeps s ((s.send t pc [] k).1.countSent lid cl) := ⟨rfl, rfl, rfl⟩

/-! ### Word 0 (11 R301, 05 R144) -/

/-- The scope of the release of a message between two threads (R302). -/
def messageScope (t u : Nat) : Scope :=
  if t = u then .thread else pairScope (clusterOf t) (clusterOf u) (coreOf t = coreOf u)
/-- 05 R144: its code is that of the pair. -/
theorem scopeCode_messageScope (t u : Nat) : scopeCode (messageScope t u) = pairCode t u := by
  have hdie : clusterOf t / 64 = clusterOf u / 64 ↔ t / 8192 = u / 8192 := by
    unfold clusterOf
    omega
  have hcode : pairCode t u = if t = u then 0 else if coreOf t = coreOf u then 1 else
      if clusterOf t = clusterOf u then 2 else if clusterOf t / 64 = clusterOf u / 64 then 3 else 4 := by
    simp only [hdie]
    rfl
  rw [hcode]
  simp only [messageScope, pairScope, decide_eq_true_eq]
  repeat' split
  all_goals rfl
theorem pairCode_lt (t u : Nat) : pairCode t u < 8 := by
  unfold pairCode
  repeat' split
  all_goals omega
/-- Fields that are zero add nothing to a word. -/
theorem zero_fields (a b c d e k l : Nat) : 0 % 16 * k + a + b + c + d + 0 % 16 * l + e = a + b + c + d + e := by
  simp only [Nat.zero_mod, Nat.zero_mul, Nat.zero_add, Nat.add_zero]
/-- R301: the word of a thread message. -/
theorem msgWord0_eq (s : State) {scope tag : Nat} (hscope : scope < 8) (htag : tag < 2 ^ 16) :
    msgWord0 0 (me s).satinf scope (me s).lidN tag 0 s.cur = messageWord s scope tag := by
  have hctx : (me s).lidN % 4096 = (me s).lid.toNat % 4096 := Nat.mod_mod ..
  have hsat : b2n (me s).satinf * 2 ^ 59 = if (me s).fmode.getLsbD 3 then 2 ^ 59 else 0 := by
    cases hs : (me s).satinf
    · exact (Nat.zero_mul _).trans (if_neg (ne_true_of_eq_false hs)).symm
    · exact (Nat.one_mul _).trans (if_pos hs).symm
  unfold msgWord0 messageWord
  rw [hctx, hsat, Nat.mod_eq_of_lt hscope, Nat.mod_eq_of_lt (b := 65536) htag]
  exact congrArg (BitVec.ofNat 64) (zero_fields ..)

/-! ### Sending (11 R302) -/

/-- The checks of an operand refuse exactly what names no slot of the partition. -/
theorem msend_refuses_iff (a : Nat) (tagged inPart : Bool) :
    (a / 2 ^ 32 ≠ 0 || bit a 15 || (!tagged && bits a 31 16 ≠ 0) || !inPart) = true ↔
      ¬(a < 2 ^ 32 ∧ a / 2 ^ 15 % 2 = 0 ∧ (tagged = false → a / 2 ^ 16 % 2 ^ 16 = 0) ∧ inPart = true) := by
  have hhigh : a / 2 ^ 32 = 0 ↔ a < 2 ^ 32 := by omega
  have htag : bits a 31 16 = a / 2 ^ 16 % 2 ^ 16 := rfl
  have hbit : a / 2 ^ 15 % 2 = 1 ↔ ¬a / 2 ^ 15 % 2 = 0 := by omega
  simp only [bit, htag, Bool.or_eq_true, Bool.and_eq_true, beq_iff_eq, Bool.not_eq_true', hbit, ne_eq, hhigh, decide_not, decide_eq_false_iff_not,
     Classical.not_and_iff_not_or_not, Classical.not_imp, Bool.not_eq_true, or_assoc]

/-- The message is put on its way from `u`, its release complete. -/
def State.sendMsgFrom (s : State) (o : Rab) (target a : Nat) (u : State) : State :=
  let x := u.slot s.cur
  let m : MailEntry :=
    ⟨msgWord0 0 x.satinf (scopeCode (messageScope s.cur target)) x.lidN (bits a 31 16) 0 s.cur, x.rg o.b, 0, 0⟩
  ((u.send s.cur x.pc [] (.message ⟨target, m, s.cur, true⟩)).1.countSent x.lidN (clusterOf s.cur)).finish
    fun x => { x with unaccepted := x.unaccepted + 1 }
/-- R302: it is then on its way, counted, and nothing else of the threads or of memory changes. -/
theorem State.sendMsgFrom_sends {s u : State} (hu : Relists s u) (hst : (me s).status = .ready) (o : Rab) (target a : Nat) :
    sends s { me s with unaccepted := (me s).unaccepted + 1, pc := (me s).pc + 4 }
      (.message ⟨target, ⟨messageWord s (pairCode s.cur target) (a / 2 ^ 16 % 2 ^ 16), (me s).rg o.b, 0, 0⟩, s.cur, true⟩)
      .messageArrival (.next (s.sendMsgFrom o target a u)) := by
  have hword := msgWord0_eq s (pairCode_lt s.cur target) (Nat.mod_lt (a / 2 ^ 16) (Nat.two_pow_pos 16))
  unfold State.sendMsgFrom
  dsimp only
  rw [hu.me hst, scopeCode_messageScope]
  rw [show bits a 31 16 = a / 2 ^ 16 % 2 ^ 16 from rfl, hword]
  obtain ⟨hflights, hid, hcycle, hgrans⟩ := hu.transit
  have hslots := hu.finish_slots hst (f := fun x => { x with unaccepted := x.unaccepted + 1 })
    (u.sendCounted_keeps s.cur (me s).pc (.message ⟨target, ⟨messageWord s (pairCode s.cur target) (a / 2 ^ 16 % 2 ^ 16),
      (me s).rg o.b, 0, 0⟩, s.cur, true⟩) (me s).lidN (clusterOf s.cur)) rfl
  refine ⟨_, _, rfl, ⟨hslots, hu.mem, hgrans⟩, congrArg (· ++ [_]) hflights, hid, rfl, rfl, rfl, ?_⟩
  rw [← hcycle, ← hid]
  exact (mem_insertDue _ _ _ _).mpr (.inl rfl)

/-- With its operands ready, a send is refused, waits at four unaccepted messages, or, outside a speculation, puts its message on its
way. -/
theorem State.msend_full {s : State} {o : Rab} {tagged : Bool} (hf : full s [(.g, o.a), (.g, o.b)]) :
    let a := ((me s).rg o.a).toNat
    let ok := a < 2 ^ 32 ∧ a / 2 ^ 15 % 2 = 0 ∧ (tagged = false → a / 2 ^ 16 % 2 ^ 16 = 0) ∧
      s.inPart (coreOf s.cur) (clusterOf (a % 2 ^ 15)) = true
    (¬ok → s.msend o tagged = s.trapExact 5 ((me s).rg o.a)) ∧
      (ok → 4 ≤ (me s).unaccepted → s.msend o tagged = s) ∧
      (ok → (me s).unaccepted < 4 → plain s →
        s.msend o tagged = s.withRelease (messageScope s.cur (a % 2 ^ 15)) (s.sendMsgFrom o (a % 2 ^ 15) a)) := by
  intro a ok
  have hrefuses := msend_refuses_iff a tagged (s.inPart (coreOf s.cur) (clusterOf (a % 2 ^ 15)))
  unfold State.msend
  rw [State.withSrcs_of_full hf]
  refine ⟨fun h => if_pos (hrefuses.mpr h), fun h hfour => ?_, fun h hroom hs => ?_⟩
  all_goals refine (if_neg fun hr => hrefuses.mp hr h).trans ?_
  · exact if_pos hfour
  · rw [if_neg (Nat.not_le.mpr hroom)]
    unfold plain at hs
    rw [hs]
    rfl

end Sys2Proof.Machine

open Sys2Proof Sys2Proof.Machine Sys2Proof.Claims in
/-- Settles O26: MSEND and MSENDT are `State.msend`, whose three outcomes are `State.msend_full`; a message that goes on its way
is that of `State.sendMsgFrom_sends`. -/
theorem messageSending : Obligations.MessageSending := by
  intro s o tagged hf a i ok
  obtain ⟨hrefused, hfour, hsent⟩ := State.msend_full (tagged := tagged) hf
  have hexec : exec i s = .next (s.msend o tagged) := by cases tagged <;> rfl
  rw [hexec]
  refine ⟨fun h hquiet hs hroom => ?_, fun h hfull => congrArg _ (hfour h hfull), fun hs h => ?_⟩
  · obtain ⟨u, hu, hlists⟩ := State.withRelease_quiet_eq hquiet (messageScope s.cur (a % 2 ^ 15))
      (s.sendMsgFrom o (a % 2 ^ 15) a)
    rw [hsent h hroom hs, hu]
    exact State.sendMsgFrom_sends hlists hquiet.1 o _ a
  · rw [hrefused h]
    exact State.next_trapExact hs 5 _

/-! ## Messages a thread receives (O27) -/

namespace Sys2Proof.Machine
open Sys2Proof.Claims

/-! ### Matching (11 R303) -/

/-- An entry matches as R303 says. -/
theorem MailEntry.fits_iff (m : MailEntry) (lid : Nat) (tag : Option Nat) : m.fits lid tag = true ↔ matchesMsg lid tag m := by
  have hctx : m.ctx = m.w0.toNat / 2 ^ 44 % 4096 := rfl
  have htag : m.tag = m.w0.toNat / 2 ^ 28 % 65536 := rfl
  cases tag <;> simp [MailEntry.fits, matchesMsg, hctx, htag]
theorem MailEntry.fits_eq_false {m : MailEntry} {lid : Nat} {tag : Option Nat} (h : ¬matchesMsg lid tag m) :
    m.fits lid tag = false := by simpa [← MailEntry.fits_iff] using h
/-- R304: the count of a mailbox is that of the messages of its launch. -/
theorem Slot.mailCount_eq (x : Slot) :
    x.mailCount = (x.mail.filter fun m => m.w0.toNat / 2 ^ 44 % 4096 = x.lidN).length := by
  unfold Slot.mailCount
  refine congrArg List.length (List.filter_congr fun m _ => ?_)
  exact Bool.and_true _
/-- Taking the first entry that matches is the library's erasure of it. -/
theorem dropFirst_eq_eraseP (p : MailEntry → Bool) (l : List MailEntry) : dropFirst p l = l.eraseP p := by
  induction l with
  | nil => rfl
  | cons m rest ih => rw [dropFirst, List.eraseP_cons, ih, cond_eq_ite]

section
variable {lid : Nat} {tag : Option Nat} {pre post : List MailEntry} {m : MailEntry}

/-- R303: the oldest entry that matches is found, -/
theorem find_fits (hpre : ∀ k ∈ pre, ¬matchesMsg lid tag k) (hm : matchesMsg lid tag m) :
    (pre ++ m :: post).find? (fun m => m.fits lid tag) = some m :=
  List.find?_eq_some_iff_append.mpr
    ⟨(m.fits_iff ..).mpr hm, pre, post, rfl, fun k hk => by rw [MailEntry.fits_eq_false (hpre k hk)]; rfl⟩
/-- and taking it leaves the others. -/
theorem dropFirst_fits (hpre : ∀ k ∈ pre, ¬matchesMsg lid tag k) (hm : matchesMsg lid tag m) :
    dropFirst (fun m => m.fits lid tag) (pre ++ m :: post) = pre ++ post := by
  rw [dropFirst_eq_eraseP, List.eraseP_append_right _ fun k hk => by simp [MailEntry.fits_eq_false (hpre k hk)],
    List.eraseP_cons_of_pos (a := m) (p := fun m => m.fits lid tag) ((m.fits_iff ..).mpr hm)]
end

/-! ### Receiving (11 R303) -/

/-- The acquire of a taken message changes nothing but clusters (05 R151). -/
theorem State.takeAcquire_clusters (s : State) (t : Nat) (m : MailEntry) : ∃ c, s.takeAcquire t m = { s with clusters := c } := by
  unfold State.takeAcquire State.acquireRange
  dsimp only
  split
  · split
    · exact ⟨_, rfl⟩
    split
    · exact ⟨_, rfl⟩
    · refine List.foldlRecOn (motive := fun u : State => ∃ c, u = { s with clusters := c }) _ _ ⟨s.clusters, rfl⟩ ?_
      rintro u ⟨c, rfl⟩ p -
      split <;> exact ⟨_, rfl⟩
  · cases scopeOfCode m.scope <;> exact ⟨_, rfl⟩
/-- A receive into g[d] and g[d + 1] that takes message `m` (R303). -/
def Slot.takeMsg (x : Slot) (d : Fin 32) (tag : Option Nat) (m : MailEntry) : Slot :=
  (({ x with mail := dropFirst (fun m => m.fits x.lidN tag) x.mail } : Slot).wg d m.payload).wg (d.val + 1) m.w0
/-- Its mailbox and its registers are apart. -/
theorem Slot.takeMsg_eq (x : Slot) (d : Fin 32) (tag : Option Nat) (m : MailEntry) :
    x.takeMsg d tag m =
      { (x.wg d m.payload).wg (d.val + 1) m.w0 with mail := dropFirst (fun m => m.fits x.lidN tag) x.mail } := by
  have hcomm : ∀ (y : Slot) (l : List MailEntry) (n : Nat) (v : Word),
      ({ y with mail := l } : Slot).wg n v = { y.wg n v with mail := l } := by
    intro y l n v
    unfold Slot.wg
    split <;> rfl
  exact (congrArg (·.wg (d.val + 1) m.w0) (hcomm x _ d m.payload)).trans (hcomm (x.wg d m.payload) _ (d.val + 1) m.w0)

section
variable {s : State} {d : Fin 32} {tag : Option Nat}

/-- With no receive pending, the oldest message that matches is taken, or refused for its SATINF. -/
theorem State.mrecv_of_find {m : MailEntry} (hr : (me s).recv = none)
    (hm : (me s).mail.find? (fun m => m.fits (me s).lidN tag) = some m) :
    s.mrecv d tag = if m.satinf = (me s).satinf then (s.takeAcquire s.cur m).finish fun x => x.takeMsg d tag m
      else s.trapExact 19 m.w0 := by
  unfold State.mrecv
  dsimp only
  rw [hr, Option.filter_none, hm]
  by_cases hsat : m.satinf = (me s).satinf
  · rw [if_pos hsat]
    exact if_neg (by simp [hsat])
  · rw [if_neg hsat]
    exact if_pos (by simpa using hsat)
/-- With none that matches the receive stays pending. -/
theorem State.mrecv_of_none (hr : (me s).recv = none) (hmail : ∀ k ∈ (me s).mail, ¬matchesMsg (me s).lidN tag k) :
    s.mrecv d tag =
      s.finish fun x => { (x.eg d).eg (d.val + 1) with recv := some ⟨d, tag, (me s).satinf, (me s).pc⟩ } := by
  have hnone : (me s).mail.find? (fun m => m.fits (me s).lidN tag) = none :=
    List.find?_eq_none.mpr fun k hk => by simp [MailEntry.fits_eq_false (hmail k hk)]
  unfold State.mrecv
  dsimp only
  rw [hr, Option.filter_none, hnone]
  rfl
/-- R303: a taken message leaves the mailbox and is in g[d] and g[d + 1]. -/
theorem State.takeMsg_received {pre post : List MailEntry} {m : MailEntry} (hmail : (me s).mail = pre ++ m :: post)
    (hpre : ∀ k ∈ pre, ¬matchesMsg (me s).lidN tag k) (hm : matchesMsg (me s).lidN tag m) :
    received s d m (pre ++ post) (.next ((s.takeAcquire s.cur m).finish fun x => x.takeMsg d tag m)) := by
  obtain ⟨c, hc⟩ := s.takeAcquire_clusters s.cur m
  have htake : (me s).takeMsg d tag m = { ((me s).wg d m.payload).wg (d.val + 1) m.w0 with mail := pre ++ post } := by
    rw [Slot.takeMsg_eq, hmail, dropFirst_fits hpre hm]
  have hslots := State.finish_slots_of (s := s) (t := { s with clusters := c }) (f := fun x => x.takeMsg d tag m) rfl rfl
    (by simp [htake])
  rw [htake] at hslots
  rw [hc]
  exact ⟨_, rfl, hslots, rfl, rfl⟩
end

/-- MRECV and MRECVT with an even g[d] are the receive of their tag. -/
theorem receives_exec {s : State} {i : Instr} {d : Fin 32} {tag : Option Nat} (hd : d.val % 2 = 0)
    (hi : (i = .mrecv d ∧ tag = none) ∨
      ∃ o : Rr, i = .mrecvt o ∧ o.d = d ∧ full s [(.g, o.a)] ∧ tag = some (((me s).rg o.a).toNat % 65536)) :
    exec i s = .next (s.mrecv d tag) := by
  have heven : evenReg d = true := beq_iff_eq.mpr hd
  obtain ⟨rfl, rfl⟩ | ⟨o, rfl, rfl, hf, rfl⟩ := hi
  · exact congrArg Host.Outcome.next (if_pos heven)
  · exact (congrArg Host.Outcome.next (if_pos heven)).trans (State.next_withSrcs_one hf _ _)

/-! ### Waiting for messages (11 R304) -/

/-- A slot that waits for no count is as it is without its waits. -/
theorem Slot.clearWaitm {x : Slot} (h : x.waitm = []) : { x with waitm := [] } = x := by
  cases x; cases h; rfl
theorem Slot.answerWaitm_nil {x : Slot} (h : x.waitm = []) : x.answerWaitm = x := by
  unfold Slot.answerWaitm
  rw [h]
  exact Slot.clearWaitm h
/-- A single wait is answered once its count is reached. -/
theorem Slot.answerWaitm_one {x : Slot} {w : PendingCount} (h : x.waitm = [w]) :
    x.answerWaitm =
      if w.n ≤ x.mailCount then ({ x with waitm := [] } : Slot).arriveG w.d (BitVec.ofNat 64 x.mailCount) else x := by
  unfold Slot.answerWaitm
  dsimp only
  by_cases hn : w.n ≤ x.mailCount
  · have hmet : x.waitm.filter (fun w => w.n ≤ x.mailCount) = [w] := by simp [h, hn]
    have hrest : x.waitm.filter (fun w => x.mailCount < w.n) = [] := by simp [h, hn]
    rw [hmet, hrest, if_pos hn]
    rfl
  · have hmet : x.waitm.filter (fun w => w.n ≤ x.mailCount) = [] := by simp [h, hn]
    have hrest : x.waitm.filter (fun w => x.mailCount < w.n) = x.waitm := by simpa [h] using hn
    rw [hmet, hrest, if_neg hn]
    rfl
/-- A register that is set EMPTY and then written is as if it had only been written. -/
theorem Slot.wg_eg (x : Slot) (n : Nat) (v : Word) : (x.eg n).wg n v = x.wg n v := by
  by_cases hn : n = 0
  · rw [hn, Slot.eg_zero]
  · simp only [Slot.wg, Slot.eg, if_neg hn]
    exact congrArg (fun g => { x with g := g }) (mapPut_mapPut {} x.g n ⟨v, false⟩ (v := ⟨x.rg n, true⟩) (by simp))
theorem Slot.eg_waitm (x : Slot) (n : Nat) : (x.eg n).waitm = x.waitm := by unfold Slot.eg; split <;> rfl
/-- R304: a thread in rotation that waits for `n` messages writes its count at once, or stays pending with g[d] EMPTY. -/
theorem Slot.waitm_eq {x : Slot} (hw : x.waitm = []) (hst : x.status = .ready) (d : Fin 32) (n : Nat) :
    ({ x.eg d with waitm := x.waitm ++ [⟨d, n⟩] } : Slot).answerWaitm =
      if n ≤ x.mailCount then x.wg d (BitVec.ofNat 64 x.mailCount) else { x.eg d with waitm := [⟨d, n⟩] } := by
  have hcount : ({ x.eg d with waitm := x.waitm ++ [⟨d, n⟩] } : Slot).mailCount = x.mailCount := by
    simp [Slot.mailCount, Slot.lidN]
  have heg : ({ x.eg d with waitm := [] } : Slot) = x.eg d :=
    Slot.clearWaitm ((Slot.eg_waitm ..).trans hw)
  rw [Slot.answerWaitm_one (w := ⟨d, n⟩) (by rw [hw]; rfl), hcount]
  split
  · rw [heg, Slot.arriveG_ready ((Slot.eg_status ..).trans hst), Slot.wg_eg]
  · rw [hw]; rfl

/-! ### Arriving (11 R302) -/

/-- Without forwarding entries on its core a thread is where it was. -/
theorem State.forwarded_none {s : State} {t : Nat} (h : (s.core (coreOf t)).forward = []) (id lid : Nat) :
    s.forwarded id lid t = t := by
  have honce : s.forwardOnce id lid t = t := by simp [State.forwardOnce, h]
  exact if_pos honce
/-- A transaction is marked as arrived. -/
def State.markArrived (s : State) (id : Nat) : State := s.modFlight id fun f => { f with arrived := true }
/-- 03 R98: the next of its packets reaches its destination. -/
theorem State.reaches_of_reaching {s : State} {id d : Nat} {f : Flight} (h : reaching s id f) (hd : d ∈ f.kind.heading)
    (k : State → State) : s.reaches f k = k (s.markArrived f.id) := by
  obtain ⟨-, -, -, -, -, hfirst⟩ := h
  have hhead : f.kind.heading = some d := hd
  simp only [State.reaches, hhead, hfirst d hd, Bool.and_false, Bool.false_eq_true, if_false]
  rfl

section
variable {s : State} {t : Nat} {m : MailEntry}

/-- R302: a mailbox with room takes an entry at its tail, where no receive and no count waits for it. -/
theorem State.deliverMail_room (hlive : s.whereIs m.ctx (clusterOf t) = .live) (hreplay : (s.cluster (clusterOf t)).replay = [])
    (hroom : (s.slot t).mail.length < 8) (hw : mapWf {} s.slots = true) (hr : (s.slot t).recv = none)
    (hc : (s.slot t).waitm = []) :
    s.deliverMail t m = (s.modSlot t fun x => { x with mail := x.mail ++ [m] }, true) := by
  have hanswer : (s.modSlot t fun x => ({ x with mail := x.mail ++ [m] } : Slot).answerWaitm) =
      s.modSlot t fun x => { x with mail := x.mail ++ [m] } := congrArg (s.setSlot t) (Slot.answerWaitm_nil hc)
  have haccept : s.acceptMail t m = s.modSlot t fun x => { x with mail := x.mail ++ [m] } := by
    simp only [State.acceptMail, hanswer, State.completeRecv, State.slot_modSlot_same hw, hr]
  simp only [State.deliverMail, hlive, hreplay, hroom, haccept, decide_true, Bool.and_true, if_true]
/-- A full one refuses it. -/
theorem State.deliverMail_full (hlive : s.whereIs m.ctx (clusterOf t) = .live) (hfull : (s.slot t).mail.length = 8) :
    s.deliverMail t m = (s, false) := by
  simp only [State.deliverMail, hlive, hfull, Nat.lt_irrefl, decide_false, Bool.and_false, Bool.false_eq_true, if_false]
end

/-- The count of received packets does not move a launch from a cluster (07 R208). -/
theorem State.whereIs_countRecvd {s : State} (h : mapWf {} s.clusters = true) (lid cl l c : Nat) :
    (s.countRecvd lid cl).whereIs l c = s.whereIs l c := by
  have hc : ((s.countRecvd lid cl).cluster c).part = (s.cluster c).part ∧
      ((s.countRecvd lid cl).cluster c).shadow = (s.cluster c).shadow := by
    by_cases hcl : c = cl
    · subst hcl
      simp only [State.countRecvd, State.cluster_modCluster_same h, and_self]
    · simp only [State.countRecvd, State.cluster_modCluster_other s _ hcl, and_self]
  have hlaunch : (s.countRecvd lid cl).launch l = s.launch l := rfl
  have himages : (s.countRecvd lid cl).images = s.images := rfl
  simp only [State.whereIs, hlaunch, himages, hc.1, hc.2]

/-- R302: no earlier message of the sender to the same slot is on its way. -/
def oldest (s : State) (id : Nat) (f : Flight) (m : Msg) : Prop :=
  ∀ g ∈ s.flights, g.id < id → ∀ k, g.kind = .message k → f.sameSender m g k = false ∨ k.target ≠ m.target
/-- A message is behind the transaction `g` (R302). -/
def Flight.precedes (g : Flight) (id : Nat) (f : Flight) (m : Msg) : Bool :=
  g.id < id && (match g.kind with
    | .message k => f.sameSender m g k && k.target = m.target
    | _ => false)
/-- The oldest message of its sender is behind none, itself marked as arrived or not. -/
theorem oldest_none_precedes {s : State} {id : Nat} {f : Flight} {m : Msg} (h : oldest s id f m) :
    ((s.markArrived id).flights.any fun g => g.precedes id f m) = false := by
  refine List.any_eq_false.mpr fun g hg => ?_
  obtain ⟨g, hmem, rfl⟩ := List.mem_map.mp hg
  by_cases hid : g.id = id
  · simp [Flight.precedes, hid]
  · rw [if_neg hid]
    rw [Bool.not_eq_true, Flight.precedes, Bool.and_eq_false_imp]
    intro hlt
    split
    · next k hk => rcases h g hmem (of_decide_eq_true hlt) k hk with hne | hne <;> simp [hne]
    · rfl

/-- What then becomes of a message that reaches the thread it was sent to. -/
theorem State.messageArrives_reaching {s : State} {id : Nat} {f : Flight} {m : Msg} (h : reaching s id f)
    (hk : f.kind = .message m) (hcount : m.counted = true) (hold : oldest s id f m)
    (hf : (s.core (coreOf m.target)).forward = []) :
    let r := (s.markArrived id).deliverMail m.target m.entry
    s.messageArrives id = if r.2 then
        ((r.1.dropFlight id).countRecvd f.lid (clusterOf m.target)).onThread f.lid f.owner fun x =>
          { x with unaccepted := x.unaccepted - 1 }
      else (s.markArrived id).post (s.cycle + 64) (.messageRetry id) := by
  intro r
  have hflight : s.flight id = some f := h.2.1
  have hid : f.id = id := by simpa using List.find?_some hflight
  have hhead : coreWin (coreOf m.target) 0 / 2 ^ 28 ∈ f.kind.heading := by rw [hk]; rfl
  have hearlier := oldest_none_precedes hold
  have htarget : (s.markArrived id).forwarded 0 m.entry.ctx m.target = m.target :=
    State.forwarded_none (by exact hf) _ _
  unfold State.messageArrives
  simp only [hflight, hk]
  rw [State.reaches_of_reaching h hhead, hid]
  refine (if_neg (ne_true_of_eq_false hearlier)).trans ?_
  rw [htarget, hcount]
  rfl
/-- A change of a slot depends on the slots alone. -/
theorem State.modSlot_slots_of {s t : State} (h : t.slots = s.slots) (n : Nat) (f : Slot → Slot) :
    (t.modSlot n f).slots = (s.modSlot n f).slots := by
  unfold State.modSlot State.setSlot State.slot
  rw [h]
/-- R302: accepted, its transaction is over and its sender has one less to be accepted. -/
theorem State.messageArrives_accepted {s t : State} {id : Nat} {f : Flight} {m : Msg} (h : reaching s id f)
    (hk : f.kind = .message m) (hcount : m.counted = true) (hold : oldest s id f m)
    (hf : (s.core (coreOf m.target)).forward = [])
    (hd : (s.markArrived id).deliverMail m.target m.entry = (t, true)) (hw : mapWf {} t.clusters = true)
    (howner : t.whereIs f.lid (clusterOf f.owner) = .live) :
    s.messageArrives id = ((t.dropFlight id).countRecvd f.lid (clusterOf m.target)).modSlot f.owner fun x =>
      { x with unaccepted := x.unaccepted - 1 } := by
  rw [State.messageArrives_reaching h hk hcount hold hf, hd]
  exact State.onThread_live ((State.whereIs_countRecvd (s := t.dropFlight id) hw ..).trans howner) _
/-- R302: refused, it comes again after 64 cycles. -/
theorem State.messageArrives_refused {s t : State} {id : Nat} {f : Flight} {m : Msg} (h : reaching s id f)
    (hk : f.kind = .message m) (hcount : m.counted = true) (hold : oldest s id f m)
    (hf : (s.core (coreOf m.target)).forward = []) (hd : (s.markArrived id).deliverMail m.target m.entry = (t, false)) :
    s.messageArrives id = (s.markArrived id).post (s.cycle + 64) (.messageRetry id) := by
  rw [State.messageArrives_reaching h hk hcount hold hf, hd]
  rfl

end Sys2Proof.Machine

open Sys2Proof Sys2Proof.Machine Sys2Proof.Claims in
/-- Settles O27: a receive takes, refuses or waits (`State.mrecv_of_find`, `State.takeMsg_received`, `State.mrecv_of_none`), WAITM
is `Slot.waitm_eq`, and a message that arrives is delivered or comes again (`State.messageArrives_reaching`). -/
theorem messageReceivingAndDelivery : Obligations.MessageReceivingAndDelivery := by
  refine ⟨fun s => ⟨fun i d tag hr hd hi => ?_, fun n hn => ⟨fun o hf hw hst => ?_, fun d => ?_⟩⟩,
    fun s id f m hreach hk hcount hold hforward hlive hr hw i hi => ?_⟩
  · rw [receives_exec hd hi]
    refine ⟨fun pre post m hmail hpre hm => ?_, fun hmail => ?_⟩
    · have htaken := State.mrecv_of_find (s := s) (d := d) (tag := tag) (m := m) hr (by rw [hmail]; exact find_fits hpre hm)
      refine ⟨fun (hsat : m.satinf = (me s).satinf) => ?_, fun hs (hsat : m.satinf ≠ (me s).satinf) => ?_⟩
      · rw [htaken, if_pos hsat]
        exact State.takeMsg_received hmail hpre hm
      · rw [htaken, if_neg hsat]
        exact State.next_trapExact hs 19 _
    · rw [State.mrecv_of_none hr hmail]
      exact State.next_finish s (by simp)
  · rw [← Slot.mailCount_eq] at hn
    have hexec : exec (.waitm o) s = .next (s.finish fun x =>
        ({ x.eg o.d with waitm := x.waitm ++ [⟨o.d, min (x.rg o.a).toNat 8⟩] } : Slot).answerWaitm) :=
      State.next_withSrcs_one hf _ _
    have hslot := Slot.waitm_eq hw hst o.d (min ((me s).rg o.a).toNat 8)
    have hpc := congrArg Slot.pc hslot
    rw [hn] at hslot
    rw [apply_ite Slot.pc, Slot.wg_pc, Slot.eg_pc, ite_self] at hpc
    rw [hexec, State.next_finish s hpc, hslot]
    by_cases hmet : min ((me s).rg o.a).toNat 8 ≤ n
    · rw [if_pos hmet, if_pos hmet]
      rfl
    · rw [if_neg hmet, if_neg hmet]
  · rw [← Slot.mailCount_eq] at hn
    have hexec := State.next_finish s (f := fun x => x.wg d (BitVec.ofNat 64 x.mailCount)) (Slot.wg_pc ..)
    rw [hn] at hexec
    exact hexec
  · have hexec : exec i s = .next (s.messageArrives id) := by rcases hi with rfl | rfl <;> rfl
    have ⟨⟨_, _, _, hslots, _, hclusters, _⟩, hflight, _, _, howner, _⟩ := hreach
    refine ⟨fun hreplay hroom => ?_, fun hfull => ?_⟩
    · have hdeliver := State.deliverMail_room (s := s.markArrived id) hlive hreplay hroom hslots hr hw
      have harrives := State.messageArrives_accepted hreach hk hcount hold hforward hdeliver hclusters howner
      have hothers := (modFlight_turns hflight (g := fun f => { f with arrived := true }) fun _ => rfl).2
      exact ⟨_, hexec.trans (congrArg _ harrives), rfl, hothers, State.modSlot_slots_of (by exact rfl) _ _⟩
    · have hdeliver := State.deliverMail_full (s := s.markArrived id) hlive hfull
      have harrives := State.messageArrives_refused hreach hk hcount hold hforward hdeliver
      exact ⟨_, hexec.trans (congrArg _ harrives), rfl, rfl, State.mem_post _ _ _⟩
